-- ==== Sys2Proof/Word.lean ====
section
/-!
DEFINITION. The words of the Mytha 1024 and the numbers that name its parts.
-/

namespace Sys2Proof

/-- A byte of an addressed memory. -/
abbrev Byte := BitVec 8

/-- A 32-bit register, instruction word or bus datum (R52, R60). -/
abbrev Word := BitVec 32

/-- A value of GTIME, in ticks of 78.125 ps (R29). -/
abbrev Ticks := BitVec 64

/-- Linear index of a cell: region x 128 + block x 16 + cell (R8). -/
abbrev CellId := Fin 1024

/-- Number of a general register (R52). -/
abbrev RegNo := Fin 16

/-- Number of a region (R8). -/
abbrev RegionId := Fin 8

/-- Number of a block within its region (R8). -/
abbrev BlockId := Fin 8

/-- Read of a bit vector's bits `hi` down to `lo` as a number. -/
def bitsOf {n : Nat} (x : BitVec n) (hi lo : Nat) : Nat := (x.toNat >>> lo) % 2 ^ (hi + 1 - lo)

end Sys2Proof
end

