-- ==== Sys2Proof/Syntax.lean ====
section
/-!
DEFINITION. The commands the block takes: one constructor per row of the table of operations and events.
An instruction row names the cell that executes it and the fields of its instruction word (R60); a field the
definition does not use is ignored by the cell (R61) and is no operand.
A row that is a register write names the register by its indices and carries the value written.
-/

namespace Sys2Proof

/-- What a debugger does through the JTAG port (R429). -/
inductive JtagOp where
  /-- Reads IDCODE. -/
  | idcode
  /-- Reads the challenge. -/
  | dbgchal
  /-- Presents a debug unlock certificate in DBGCERT. -/
  | dbgcert (data : List Byte)
  /-- Halts a cell. -/
  | halt (c : CellId)
  /-- Lets a halted cell run. -/
  | resume (c : CellId)
  /-- Lets a halted cell execute one instruction. -/
  | single (c : CellId)
  /-- Reads a general register of a cell. -/
  | readCell (c : CellId) (r : RegNo)
  /-- Writes a general register of a cell. -/
  | writeCell (c : CellId) (r : RegNo) (v : Word)
  /-- Reads a register of a region or of the chip. -/
  | readReg (region : Option RegionId) (offset : Nat)
  /-- Writes a register of a region or of the chip. -/
  | writeReg (region : Option RegionId) (offset : Nat) (v : Word)
deriving DecidableEq, Repr

/-- What a host request addresses (R20, R221, R354). -/
inductive HostSpace where
  /-- Registers. -/
  | bar0
  /-- Region and block memories. -/
  | bar2
  /-- The Message Control word of the MSI-X capability. -/
  | msixControl
  /-- The Device ID and the class code of the configuration header. -/
  | deviceId
  | classCode
  /-- The PowerState field of the power management capability. -/
  | powerState
  /-- The Uncorrectable Error Status of Advanced Error Reporting. -/
  | errorStatus
deriving DecidableEq, Repr

/-- A character on a Xesum lane as its 8b/10b code gives it (R375): a data or a control character by its eight bits, or a
code group that stands for none. -/
inductive LineChar where
  | data (b : Byte)
  | ctrl (b : Byte)
  | bad
deriving DecidableEq, Repr

/-- The commands of the block. -/
inductive Instr where
  /-- NOP (R66). Instruction that performs no operation. -/
  | nop (c : CellId)
  /-- ADD (R66). Adds two registers modulo 2^32. -/
  | add (c : CellId) (d a b : RegNo)
  /-- SUB (R66). Subtracts two registers modulo 2^32. -/
  | sub (c : CellId) (d a b : RegNo)
  /-- ADDS (R66). Saturating signed add of two registers. -/
  | adds (c : CellId) (d a b : RegNo)
  /-- SUBS (R66). Saturating signed subtract of two registers. -/
  | subs (c : CellId) (d a b : RegNo)
  /-- AND (R66). Bitwise and of two registers. -/
  | and (c : CellId) (d a b : RegNo)
  /-- OR (R66). Bitwise or of two registers. -/
  | or (c : CellId) (d a b : RegNo)
  /-- XOR (R66). Bitwise exclusive or of two registers. -/
  | xor (c : CellId) (d a b : RegNo)
  /-- ANDN (R66). And of a register with the complement of another. -/
  | andn (c : CellId) (d a b : RegNo)
  /-- SLL (R66). Logical shift left by a register amount. -/
  | sll (c : CellId) (d a b : RegNo)
  /-- SRL (R66). Logical shift right by a register amount. -/
  | srl (c : CellId) (d a b : RegNo)
  /-- SRA (R66). Arithmetic shift right by a register amount. -/
  | sra (c : CellId) (d a b : RegNo)
  /-- ROR (R66). Rotate right by a register amount. -/
  | ror (c : CellId) (d a b : RegNo)
  /-- SLT (R66). Signed set-less-than of two registers. -/
  | slt (c : CellId) (d a b : RegNo)
  /-- SLTU (R66). Unsigned set-less-than of two registers. -/
  | sltu (c : CellId) (d a b : RegNo)
  /-- CLZ (R66). Counts leading zero bits of a register. -/
  | clz (c : CellId) (d a : RegNo)
  /-- POPC (R66). Counts the one bits of a register. -/
  | popc (c : CellId) (d a : RegNo)
  /-- BREV (R66). Reverses bits within word, halfword or byte lanes. -/
  | brev (c : CellId) (d a : RegNo) (lanes : Fin 4)
  /-- PAR (R66). Computes word or byte-lane parity. -/
  | par (c : CellId) (d a : RegNo) (bytes : Bool)
  /-- SEL (R66). Selects one of two registers by a third. -/
  | sel (c : CellId) (d a b cc : RegNo)
  /-- CMOVZ (R66). Conditional move when a register is zero. -/
  | cmovz (c : CellId) (d a b : RegNo)
  /-- CMOVNZ (R66). Conditional move when a register is non-zero. -/
  | cmovnz (c : CellId) (d a b : RegNo)
  /-- ADDI (R67). Adds a sign-extended immediate. -/
  | addi (c : CellId) (d a : RegNo) (imm : BitVec 16)
  /-- ADDSI (R67). Saturating add of a sign-extended immediate. -/
  | addsi (c : CellId) (d a : RegNo) (imm : BitVec 16)
  /-- ANDI (R67). And with a zero-extended immediate. -/
  | andi (c : CellId) (d a : RegNo) (imm : BitVec 16)
  /-- ORI (R67). Or with a zero-extended immediate. -/
  | ori (c : CellId) (d a : RegNo) (imm : BitVec 16)
  /-- XORI (R67). Exclusive or with a zero-extended immediate. -/
  | xori (c : CellId) (d a : RegNo) (imm : BitVec 16)
  /-- LUI (R67). Loads an immediate into the upper half of a register. -/
  | lui (c : CellId) (d : RegNo) (imm : BitVec 16)
  /-- SLLI (R67). Logical shift left by an immediate. -/
  | slli (c : CellId) (d a : RegNo) (imm : BitVec 16)
  /-- SRLI (R67). Logical shift right by an immediate. -/
  | srli (c : CellId) (d a : RegNo) (imm : BitVec 16)
  /-- SRAI (R67). Arithmetic shift right by an immediate. -/
  | srai (c : CellId) (d a : RegNo) (imm : BitVec 16)
  /-- RORI (R67). Rotate right by an immediate. -/
  | rori (c : CellId) (d a : RegNo) (imm : BitVec 16)
  /-- SLTI (R67). Signed compare with an immediate. -/
  | slti (c : CellId) (d a : RegNo) (imm : BitVec 16)
  /-- SLTIU (R67). Unsigned compare with an immediate. -/
  | sltiu (c : CellId) (d a : RegNo) (imm : BitVec 16)
  /-- MUL (R69). Low 32 bits of a product. -/
  | mul (c : CellId) (d a b : RegNo)
  /-- MULH (R69). High 32 bits of a signed product. -/
  | mulh (c : CellId) (d a b : RegNo)
  /-- MULHU (R69). High 32 bits of an unsigned product. -/
  | mulhu (c : CellId) (d a b : RegNo)
  /-- QMUL (R69). Q1.31 multiply with optional rounding and saturation. -/
  | qmul (c : CellId) (d a b : RegNo) (rnd : Bool)
  /-- MAC (R69). Adds or subtracts a product into ACC modulo 2^64. -/
  | mac (c : CellId) (a b : RegNo) (sub : Bool)
  /-- MACS (R69). Saturating multiply-accumulate into ACC. -/
  | macs (c : CellId) (a b : RegNo) (sub : Bool)
  /-- MTAC (R69). Writes ACC from two registers. -/
  | mtac (c : CellId) (a b : RegNo)
  /-- RDAC (R69). Reads ACC shifted, rounded and saturated or truncated. -/
  | rdac (c : CellId) (d : RegNo) (sh : Fin 64) (trunc rnd : Bool)
  /-- DIV (R70). Issues a signed division to the long-operation unit. -/
  | div (c : CellId) (d a b : RegNo)
  /-- DIVU (R70). Issues an unsigned division to the long-operation unit. -/
  | divu (c : CellId) (d a b : RegNo)
  /-- REM (R70). Issues a signed remainder to the long-operation unit. -/
  | rem (c : CellId) (d a b : RegNo)
  /-- REMU (R70). Issues an unsigned remainder to the long-operation unit. -/
  | remu (c : CellId) (d a b : RegNo)
  /-- SQRT (R70). Issues an integer or Q1.31 square root. -/
  | sqrt (c : CellId) (d a : RegNo) (q : Bool)
  /-- MAC64 (R70). Issues a 64-by-32 multiply-accumulate into ACC. -/
  | mac64 (c : CellId) (a b : RegNo)
  /-- LONG_OP_RESULT (R114). A long operation writes its result, reporting any arithmetic fault as pending. -/
  | longOpResult (c : CellId) (i : Fin 2)
  /-- CRCS (R73). One CRC step over 8, 16 or 32 bits of a register. -/
  | crcs (c : CellId) (d a : RegNo) (n : Fin 4)
  /-- CRCB (R74). CRC over a DMEM byte range, interruptible at safe points. -/
  | crcb (c : CellId) (a b d : RegNo)
  /-- BLKMOV (R75). Copies a byte range in data space, interruptible at safe points. -/
  | blkmov (c : CellId) (a b d : RegNo)
  /-- LDW (R77). Loads a 32-bit word. -/
  | ldw (c : CellId) (d a : RegNo) (imm : BitVec 16)
  /-- LDH (R77). Loads a sign-extended halfword. -/
  | ldh (c : CellId) (d a : RegNo) (imm : BitVec 16)
  /-- LDHU (R77). Loads a zero-extended halfword. -/
  | ldhu (c : CellId) (d a : RegNo) (imm : BitVec 16)
  /-- LDB (R77). Loads a sign-extended byte. -/
  | ldb (c : CellId) (d a : RegNo) (imm : BitVec 16)
  /-- LDBU (R77). Loads a zero-extended byte. -/
  | ldbu (c : CellId) (d a : RegNo) (imm : BitVec 16)
  /-- STW (R77). Stores a 32-bit word through the store buffer. -/
  | stw (c : CellId) (d a : RegNo) (imm : BitVec 16)
  /-- STH (R77). Stores a halfword through the store buffer. -/
  | sth (c : CellId) (d a : RegNo) (imm : BitVec 16)
  /-- STB (R77). Stores a byte through the store buffer. -/
  | stb (c : CellId) (d a : RegNo) (imm : BitVec 16)
  /-- LDA (R77). Atomic add at the bank returning the old value. -/
  | lda (c : CellId) (d a b : RegNo)
  /-- SWP (R77). Atomic swap at the bank returning the old value. -/
  | swp (c : CellId) (d a b : RegNo)
  /-- LOAD_RETURN (R110). Data of a non-local load, IN or atomic returns and is written, or a bus error is held pending. -/
  | loadReturn (c : CellId) (i : Fin 8)
  /-- STORE_BUFFER_DRAIN (R112). The oldest store-buffer entry leaves to DMEM or to its non-local path. -/
  | storeBufferDrain (c : CellId)
  /-- STORE_ACK (R34). A non-local store is acknowledged by its target and its tag returns. -/
  | storeAck (c : CellId) (i : Nat)
  /-- IN (R81). Reads an I/O-space register. -/
  | in_ (c : CellId) (d a : RegNo) (port : BitVec 16)
  /-- OUT (R81). Writes an I/O-space register, holding later I/O until acknowledged. -/
  | out (c : CellId) (d a : RegNo) (port : BitVec 16)
  /-- OUTP (R81). Posts an I/O-space register write. -/
  | outp (c : CellId) (d a : RegNo) (port : BitVec 16)
  /-- OUT_ACK (R106). The acknowledgement of an OUT or acceptance of an OUTP returns to the cell. -/
  | outAck (c : CellId) (i : Nat)
  /-- IWR (R81). Writes an IMEM word and refills the pipeline. -/
  | iwr (c : CellId) (d a : RegNo) (imm : BitVec 16)
  /-- IFLUSH (R81). Discards the prefetch queue and refetches. -/
  | iflush (c : CellId)
  /-- BEQ (R84). Branches when two registers are equal. -/
  | beq (c : CellId) (a b : RegNo) (annul : Bool) (off : BitVec 15)
  /-- BNE (R84). Branches when two registers differ. -/
  | bne (c : CellId) (a b : RegNo) (annul : Bool) (off : BitVec 15)
  /-- BLT (R84). Branches on signed less-than. -/
  | blt (c : CellId) (a b : RegNo) (annul : Bool) (off : BitVec 15)
  /-- BGE (R84). Branches on signed greater-or-equal. -/
  | bge (c : CellId) (a b : RegNo) (annul : Bool) (off : BitVec 15)
  /-- BLTU (R84). Branches on unsigned less-than. -/
  | bltu (c : CellId) (a b : RegNo) (annul : Bool) (off : BitVec 15)
  /-- BGEU (R84). Branches on unsigned greater-or-equal. -/
  | bgeu (c : CellId) (a b : RegNo) (annul : Bool) (off : BitVec 15)
  /-- BEQZ (R84). Branches when a register is zero. -/
  | beqz (c : CellId) (a : RegNo) (annul : Bool) (off : BitVec 15)
  /-- BNEZ (R84). Branches when a register is non-zero. -/
  | bnez (c : CellId) (a : RegNo) (annul : Bool) (off : BitVec 15)
  /-- BLTZ (R84). Branches when a register is negative. -/
  | bltz (c : CellId) (a : RegNo) (annul : Bool) (off : BitVec 15)
  /-- BGEZ (R84). Branches when a register is not negative. -/
  | bgez (c : CellId) (a : RegNo) (annul : Bool) (off : BitVec 15)
  /-- JMP (R84). Jumps to a J-format target. -/
  | jmp (c : CellId) (target : BitVec 24)
  /-- CALL (R58). Pushes the return address, spilling if needed, and jumps. -/
  | call (c : CellId) (target : BitVec 24)
  /-- JR (R84). Jumps to a register address. -/
  | jr (c : CellId) (a : RegNo)
  /-- CALLR (R58). Pushes the return address and jumps to a register address. -/
  | callr (c : CellId) (a : RegNo)
  /-- RET (R58). Returns through the return stack, filling from DMEM if empty. -/
  | ret (c : CellId)
  /-- WAIT (R89). Holds until an event is pending on a port and consumes it. -/
  | wait (c : CellId) (p : Fin 4)
  /-- FIRE (R88). Emits a pulse on a cell event port's output. -/
  | fire (c : CellId) (p : Fin 4)
  /-- EVTST (R88). Reads the pending flags of the event ports. -/
  | evtst (c : CellId) (d : RegNo)
  /-- CKPT (R397). Writes a checkpoint record to the older mirror slot, committing it last. -/
  | ckpt (c : CellId)
  /-- GATE (R173). Supervisor call through a checked gate-table entry. -/
  | gate (c : CellId) (n : Byte)
  /-- RETS (R175). Returns from a gate call against the origin shadow. -/
  | rets (c : CellId)
  /-- RETE (R183). Returns from an exception after checking the frame's privilege claim. -/
  | rete (c : CellId)
  /-- MFS (R90). Reads a status register at supervisor level. -/
  | mfs (c : CellId) (d : RegNo) (sr : Fin 64)
  /-- MTS (R92). Writes a status register, serialising. -/
  | mts (c : CellId) (a : RegNo) (sr : Fin 64)
  /-- IDLE (R93). Holds until an admitted interrupt is delivered. -/
  | idle (c : CellId)
  /-- HALT (R94). Stops the cell after outstanding operations complete. -/
  | halt (c : CellId)
  /-- MBAR (R98). Waits for all non-local operations and reports pending bus errors precisely. -/
  | mbar (c : CellId)
  /-- LBAR (R118). Waits for the long-operation unit and reports pending arithmetic faults precisely. -/
  | lbar (c : CellId)
  /-- USER_OPCODE (R97). Executes a user micro-routine selected by the active user dispatch set. -/
  | userOpcode (c : CellId) (op : Fin 64) (fields : BitVec 24)
  /-- EXCEPTION_ENTRY (R176). An admitted interrupt is taken at a safe point: drain, frame, shadow push, vector fetch. -/
  | exceptionEntry (c : CellId)
  /-- LOAD_START (R137). BK_LDCTL.GO starts the load engine on a target cell or is refused. -/
  | loadStart (r : RegionId) (bk : BlockId) (v : Word)
  /-- LOAD_COMPLETE (R137). The load engine finishes reading a golden copy and sets or clears section-valid bits. -/
  | loadComplete (r : RegionId) (bk : BlockId)
  /-- EV_FIRE (R198). A write of EV_FIRE fires an event channel in software. -/
  | evFire (r : RegionId) (v : Word)
  /-- EVENT_PORT_ARRIVAL (R203). An event reaches a cell port and becomes pending or is lost as an overrun. -/
  | eventPortArrival (c : CellId) (p : Fin 4) (stamp : Ticks)
  /-- CHIP_WIDE_DELIVERY (R206). A chip-wide channel delivers an arrival to every region as a source. -/
  | chipWideDelivery (ch : Fin 16)
  /-- GENERATOR_POST (R212). The interrupt controller accepts one set post bit in round-robin order. -/
  | generatorPost (r : RegionId)
  /-- IC_DOORBELL (R213). A write of IC_DOORBELL posts an interrupt source. -/
  | icDoorbell (r : RegionId) (v : Word)
  /-- IC_EOI (R217). A write of IC_EOI completes an active source. -/
  | icEoi (r : RegionId) (v : Word)
  /-- DELIVERY (R214). Once per cycle the controller delivers a pending source to an eligible cell. -/
  | delivery (r : RegionId)
  /-- RECALL (R215). A delivered source whose target became ineligible returns to pending. -/
  | recallSlot (r : RegionId) (i : Fin 128) (level : Fin 16)
  /-- MSIX_DOORBELL (R222). A write of CH_MSIXDB raises, pends, merges or discards an MSI-X vector. -/
  | msixDoorbell (v : Word)
  /-- MSIX_SEND (R222). A pending MSI-X vector is sent once its masks clear. -/
  | msixSend (vec : Fin 64)
  /-- RG_SNAP (R46). A write of RG_SNAP.GO requests a region snapshot. -/
  | rgSnap (r : RegionId)
  /-- SNAPSHOT_EDGE (R47). At the snapshot edge counters are copied to holding registers. -/
  | snapshotEdge (regions : BitVec 8) (chip : Bool)
  /-- SNAPSHOT_COMPLETE (R48). All holding registers are valid and BUSY falls. -/
  | snapshotComplete (regions : BitVec 8) (chip : Bool)
  /-- GTIME_STEP_ARM (R30). A write of CH_GTSTEP_H arms or replaces a pending GTIME step. -/
  | gtimeStepArm (v : Word)
  /-- TIMED_START (R227). A timed sample group starts when GTIME reaches its instant. -/
  | timedStart (r : RegionId) (g : Fin 8)
  /-- SAMPLE_GROUP_ARM (R227). A write of AD_SGg_CFG or AT arms the group and judges missed instants. -/
  | sampleGroupArm (r : RegionId) (g : Fin 8) (reg : Fin 3) (v : Word)
  /-- SAMPLE_DELIVERED (R229). A conversion delivers its sample to band unit, accumulators and trackers. -/
  | sampleDelivered (r : RegionId) (n : Fin 17) (v : Int)
  /-- READ_ACCUMULATOR_RESULT (R236). A read of AD_CHn_RESk returns the result and copies its stamp to LGT. -/
  | readAccumulatorResult (r : RegionId) (ch : Fin 16) (k : Fin 4)
  /-- ACCUMULATOR_CONFIG_WRITE (R237). A write of AD_CHn_ACCk_CFG restarts the sum at the next ACLK edge. -/
  | accumulatorConfigWrite (r : RegionId) (ch : Fin 16) (k : Fin 4) (v : Word)
  /-- ACCUMULATOR_GO (R235). A write of CTL.GO starts or restarts an accumulator sum. -/
  | accumulatorGo (r : RegionId) (ch : Fin 16) (k : Fin 4)
  /-- TRACKER_GO (R239). A write of tracker CTL.GO arms a tick or sample window. -/
  | trackerGo (r : RegionId) (ch : Fin 16) (k : Fin 2)
  /-- TRACKER_WINDOW_END (R241). A tracker window ends and writes its extremes, count and event. -/
  | trackerWindowEnd (r : RegionId) (ch : Fin 16) (k : Fin 2)
  /-- TRACKER_CONFIG_WRITE (R242). A write to a running tracker moves or ends its window. -/
  | trackerConfigWrite (r : RegionId) (ch : Fin 16) (k : Fin 2) (reg : Fin 4) (v : Word)
  /-- PROBE_WRITE (R245). A write of AD_PROBE connects the probe DAC and starts settling. -/
  | probeWrite (r : RegionId) (v : Word)
  /-- PROBE_SETTLED (R245). SETTLING falls 1,600 PCLK after the probe write. -/
  | probeSettled (r : RegionId)
  /-- SPARE_PARK (R246). The named spare is parked once it holds no channel. -/
  | sparePark (r : RegionId)
  /-- CALIBRATION_COMPLETE (R247). A slice calibration of 655,360 ACLK ends, in or out of range. -/
  | calibrationComplete (r : RegionId) (j : Fin 18) (inRange : Bool)
  /-- SHADOW_COMPLETE (R247). 1,024 shadow samples are taken and the offset D is judged. -/
  | shadowComplete (r : RegionId) (j : Fin 18) (d : Int)
  /-- CALIBRATION_ENABLE_WRITE (R249). A write of AD_CALCFG.EN starts or stops the rotation. -/
  | calibrationEnableWrite (r : RegionId) (v : Word)
  /-- INITCAL_COMPLETE (R252). Post-reset calibration ends, INITCAL falls and the rotation may begin. -/
  | initcalComplete (r : RegionId)
  /-- TIMER_START (R255). A start command or task loads PHASE and INIT and runs the channel. -/
  | timerStart (r : RegionId) (n : Fin 64)
  /-- TIMER_STOP (R255). A stop command or task holds the counter. -/
  | timerStop (r : RegionId) (n : Fin 64)
  /-- TIMER_RELOAD (R255). A reload command or task loads PHASE. -/
  | timerReload (r : RegionId) (n : Fin 64)
  /-- TIMER_FORCE (R262). A force command or task applies the force action. -/
  | timerForce (r : RegionId) (n : Fin 64)
  /-- COUNTER_WRITE (R255). A write of TM_CHn_CNT loads the counter and restarts the prescaler. -/
  | counterWrite (r : RegionId) (n : Fin 64) (v : Word)
  /-- GROUP_START (R256). A write of TM_GSTARTw starts the selected channels at one edge. -/
  | groupStart (r : RegionId) (w : Fin 2) (v : Word)
  /-- GROUP_STOP (R256). A write of TM_GSTOPw stops the selected channels at one edge. -/
  | groupStop (r : RegionId) (w : Fin 2) (v : Word)
  /-- WRAP_EDGE (R254). The counter reaches RELOAD and takes 0, with wrap action, event and linked carry. -/
  | wrapEdge (r : RegionId) (n : Fin 64)
  /-- COMPARE_MATCH (R261). The counter takes a compare value, presenting the event and applying the action. -/
  | compareMatch (r : RegionId) (n : Fin 64) (b : Bool)
  /-- COMPARE_WRITE (R264). A live compare write changes the comparator with no shadow. -/
  | compareWrite (r : RegionId) (n : Fin 64) (b : Bool) (v : Word)
  /-- DEAD_TIME_EXPIRY (R268). A complementary output turns on after its dead time if the reference still selects it. -/
  | deadTimeExpiry (r : RegionId) (k : Fin 24)
  /-- TRIP_INPUT_ASSERTED (R269). A filtered trip input becomes asserted and trips the pairs that name it. -/
  | tripInputAsserted (r : RegionId) (i : Fin 4)
  /-- TRIP_INPUT_DEASSERTED (R271). A trip input ends, releasing unlatched pairs. -/
  | tripInputDeasserted (r : RegionId) (i : Fin 4)
  /-- PAIR_TRIP (R270). A write of TM_PAIRk_CTL.TRIP trips the pair. -/
  | pairTrip (r : RegionId) (k : Fin 24)
  /-- PAIR_REARM (R271). A write of REARM leaves the tripped state if no TRP cause is asserted. -/
  | pairRearm (r : RegionId) (k : Fin 24)
  /-- DEADLINE_MISS (R273). A deadline window closes without an on-time compare write. -/
  | deadlineMiss (r : RegionId) (k : Fin 24)
  /-- CAPTURE_EDGE (R275). A qualifying edge on a capture input is captured into the FIFO. -/
  | captureEdge (r : RegionId) (n : Fin 64) (rising : Bool) (stamp : Ticks)
  /-- CAPTURE_CONFIG_WRITE (R274). A write of CAPCFG resets the filter and prescaler. -/
  | captureConfigWrite (r : RegionId) (n : Fin 64) (v : Word)
  /-- CAPTURE_READ (R276). A read of TM_CHn_CAP removes the oldest entry and loads its stamp. -/
  | captureRead (r : RegionId) (n : Fin 64)
  /-- SAMPLE_BOUNDARY (R290). A sample-boundary task reaches the cell and swaps coefficient banks if pending. -/
  | sampleBoundary (c : CellId)
  /-- COEFFICIENT_WRITE (R289). A write through CFIN writes the inactive bank. -/
  | coefficientWrite (c : CellId) (i : Fin 64) (v : Word)
  /-- SWAP (R290). A write of CFCTL.SWAP sets PEND. -/
  | swap (c : CellId)
  /-- CANCEL (R290). A write of CFCTL.CANCEL clears PEND. -/
  | cancel (c : CellId)
  /-- PROFILE_START (R294). GO or task 0x010+p latches the target and sets MOVING. -/
  | profileStart (r : RegionId) (p : Fin 8)
  /-- PROFILE_TICK (R295). A profile tick updates POS, VEL and ACC within limits. -/
  | profileTick (r : RegionId) (p : Fin 8)
  /-- PROFILE_ABORT (R298). A write of ABORT stops the generator. -/
  | profileAbort (r : RegionId) (p : Fin 8)
  /-- PROFILE_POS_WRITE (R298). A write of POS sets the set-point while stopped. -/
  | profilePosWrite (r : RegionId) (p : Fin 8) (hi : Bool) (v : Word)
  /-- PROFILE_PERIOD_WRITE (R293). A write of PER during motion reschedules the next tick. -/
  | profilePeriodWrite (r : RegionId) (p : Fin 8) (v : Word)
  /-- INJECTION_GO (R299). A write of LP_INJ_CTL.GO initialises and starts an injection run. -/
  | injectionGo (r : RegionId)
  /-- INJECTION_STOP (R301). A write of STOP sets v to 0 and ends the run. -/
  | injectionStop (r : RegionId)
  /-- INJECTION_STEP (R299). At a step edge the unit computes a new v and presents its event. -/
  | injectionStep (r : RegionId)
  /-- CAPTURE_ENTRY_WRITE (R304). A buffered capture entry is written to region memory in an idle bank cycle. -/
  | captureEntryWrite (r : RegionId)
  /-- RING_RESET (R304). A write of LP_RC_CTL.RESET sets WPTR to 0. -/
  | ringReset (r : RegionId)
  /-- FEEDBACK_CHANGE (R309). A change of filtered feedback lines is decoded as valid, illegal or resynchronisation. -/
  | feedbackChange (r : RegionId) (u : Fin 8) (lines : BitVec 3)
  /-- FEEDBACK_TIMEOUT (R315). AGE reaches TIMEOUT and the timing history restarts. -/
  | feedbackTimeout (r : RegionId) (u : Fin 8)
  /-- FEEDBACK_POS_WRITE (R318). A write of POS loads the position. -/
  | feedbackPosWrite (r : RegionId) (u : Fin 8) (hi : Bool) (v : Word)
  /-- FEEDBACK_CMP_WRITE (R321). A write of CMP sets BEHIND. -/
  | feedbackCmpWrite (r : RegionId) (u : Fin 8) (v : Word)
  /-- FEEDBACK_CONFIG_WRITE (R315). A write of FB_UNu_CFG resets decoding state and history. -/
  | feedbackConfigWrite (r : RegionId) (u : Fin 8) (v : Word)
  /-- ECC_REWRITE (R328). A corrected word is rewritten in the bank's next idle cycle. -/
  | eccRewrite (r : RegionId) (loc : Word)
  /-- BANK_POWER_WRITE (R332). A write of MB_BANKb_PWR.STATE starts a bank power transition. -/
  | bankPowerWrite (r : RegionId) (b : Fin 80) (host : Bool) (v : Word)
  /-- BANK_POWER_DONE (R332). A bank power transition completes, possibly starting the next. -/
  | bankPowerDone (r : RegionId) (b : Fin 80)
  /-- HARROW_ACCESS (R334). The harrow reads and scrubs the next row at its scheduled instant. -/
  | harrowAccess (r : RegionId) (n : Nat)
  /-- HARROW_PERIOD_WRITE (R340). A write of MB_HRW_CFG.PER starts a new pass. -/
  | harrowPeriodWrite (r : RegionId) (v : Word)
  /-- MARCH_GO (R339). A write of MB_MT_CTL.GO starts a march test of the masked banks. -/
  | marchGo (r : RegionId)
  /-- MARCH_ABORT (R339). A write of ABORT ends the march test after the current row or segment. -/
  | marchAbort (r : RegionId)
  /-- MARCH_BANK_COMPLETE (R339). The march test of one bank ends and failures are recorded. -/
  | marchBankComplete (r : RegionId) (failed : Bool) (element : Fin 8) (row : BitVec 11)
  /-- DMA_GO (R349). A write of DM_CHc_CTL.GO fetches a descriptor and runs the chain. -/
  | dmaGo (r : RegionId) (ch : Fin 16)
  /-- DMA_ABORT (R351). A write of ABORT stops a channel after issued bursts complete. -/
  | dmaAbort (r : RegionId) (ch : Fin 16)
  /-- DESCRIPTOR_FETCH (R343). A descriptor is read and checked, or its fetch fails. -/
  | descriptorFetch (r : RegionId) (ch : Fin 16)
  /-- BURST_START (R342). The read engine issues a burst once tag, buffer and request allow. -/
  | burstStart (r : RegionId) (ch : Fin 16)
  /-- BURST_COMPLETE (R342). The last write of a burst is acknowledged and its tag returns. -/
  | burstComplete (r : RegionId) (ch : Fin 16)
  /-- DESCRIPTOR_COMPLETE (R349). A descriptor's status is written, its event presented and the chain continued. -/
  | descriptorComplete (r : RegionId) (ch : Fin 16)
  /-- HOST_READ (R356). A host read request is served or answered with an error. -/
  | hostRead (space : HostSpace) (addr len : Nat)
  /-- HOST_WRITE (R356). A host write request is performed or discarded. -/
  | hostWrite (space : HostSpace) (addr : Nat) (data : List Byte)
  /-- NEGOTIATE (R364). A write of HW_OFFER negotiates the host-window version. -/
  | negotiate (v : Word)
  /-- FRAME_RECEIVED (R367). An Ethernet frame is filtered, checked and written to receive descriptors. -/
  | frameReceived (p : Fin 2) (data : List Byte) (line : Bool) (stamp : Ticks)
  /-- RX_DESCRIPTOR_RETRY (R367). Every 1 µs a waiting port reads the next receive descriptor again. -/
  | rxDescriptorRetry (p : Fin 2)
  /-- KICK_RX (R367). A write of EN_Pp_KICK.RX rereads the receive descriptor. -/
  | kickRx (p : Fin 2)
  /-- KICK_TX (R369). A write of EN_Pp_KICK.TX walks the transmit ring. -/
  | kickTx (p : Fin 2)
  /-- FRAME_LAUNCH (R371). A fetched frame leaves at its launch time or as soon as it can. -/
  | frameLaunch (p : Fin 2)
  /-- TRANSMIT_COMPLETE (R369). The last bit of a frame leaves and its descriptors are handed back. -/
  | transmitComplete (p : Fin 2) (stamp : Ticks)
  /-- PORT_RECONFIGURE (R373). Clearing EN or changing MODE, REGION or rings aborts descriptors and empties FIFOs. -/
  | portReconfigure (p : Fin 2) (reg : Fin 3) (v : Word)
  /-- DATA_FRAME (R378). A received Xesum data frame is accepted in sequence or discarded. -/
  | dataFrame (p : Fin 4) (lanes : List (List LineChar)) (stamp : Ticks)
  /-- ACK_FRAME (R379). A received ack releases retry-buffer frames and returns credits. -/
  | ackFrame (p : Fin 4) (lanes : List (List LineChar))
  /-- NAK_FRAME (R379). A received nak releases frames and starts a resend. -/
  | nakFrame (p : Fin 4) (lanes : List (List LineChar))
  /-- ACK_SEND (R379). An ack is sent within 1 µs or after 8 accepted frames. -/
  | ackSend (p : Fin 4)
  /-- RETRY_TIMEOUT (R379). No ack within 10 µs resends every unacknowledged frame. -/
  | retryTimeout (p : Fin 4)
  /-- CODE_ERROR (R380). A code error on a lane is counted and may cost symbol lock. -/
  | codeError (p lane : Fin 4) (lockLost : Bool)
  /-- TRAINING_FRAME_SEND (R380). Every 10 µs each locked lane sends a training frame. -/
  | trainingFrameSend (p : Fin 4)
  /-- TRAINING_FRAME_RECEIVED (R380). Matching training frames agree major, capabilities and width. -/
  | trainingFrameReceived (p lane : Fin 4) (usable : BitVec 4) (version : BitVec 64) (majors : BitVec 3)
  /-- TSEND (R381). A write of XL_Pp_CTL.TSEND sends a time frame. -/
  | tsend (p : Fin 4)
  /-- XESUM_KICK (R383). A write of XL_Pp_KICK makes a VC ring be walked. -/
  | xesumKick (p : Fin 4) (v : Word)
  /-- TIMED_QUEUE_PUSH (R386). A write of FP_Pp_TQACT pushes a timed action. -/
  | timedQueuePush (r : RegionId) (p : Fin 32) (v : Word)
  /-- TIMED_ACTION (R386). The head entry acts when GTIME reaches its time. -/
  | timedAction (r : RegionId) (p : Fin 32)
  /-- FIELD_PIN_CAPTURE (R387). A qualifying field-pin edge enters the capture FIFO. -/
  | fieldPinCapture (r : RegionId) (p : Fin 32) (rising : Bool) (stamp : Ticks)
  /-- FIELD_PIN_CAP_READ (R387). A read of FP_Pp_CAP_L removes the oldest capture. -/
  | fieldPinCapRead (r : RegionId) (p : Fin 32)
  /-- TAKEOVER (R399). A cell-reach error retires the cell and starts takeover. -/
  | takeover (r : RegionId) (bk : BlockId)
  /-- TAKEOVER_RESTORE (R399). After the fallow load, the checkpoint is restored and bindings rewritten. -/
  | takeoverRestore (r : RegionId) (bk : BlockId)
  /-- FALLOW_RELEASE (R399). The fallow cell runs at its next sample boundary. -/
  | fallowRelease (r : RegionId) (bk : BlockId)
  /-- BK_RETIRE (R403). A write of BK_RETIRE retires a cell. -/
  | bkRetire (r : RegionId) (bk : BlockId) (v : Word)
  /-- TL_SWFAULT (R393). A write of TL_SWFAULT queues a software fault record. -/
  | tlSwfault (r : RegionId) (v : Word)
  /-- FAULT_RECORD_WRITE (R393). A queued fault record is written to the telemetry ring. -/
  | faultRecordWrite (r : RegionId)
  /-- TELEMETRY_RECORD (R408). Every 1 ms block tally and region records are written or dropped. -/
  | telemetryRecord (r : RegionId)
  /-- SWEEP_START (R405). Every 64 µs a configuration-check sweep begins. -/
  | sweepStart (r : RegionId)
  /-- SWEEP_COMPLETE (R405). A sweep ends and compares its result with the reference. -/
  | sweepComplete (r : RegionId)
  /-- CALC (R406). A write of CF_CTL.CALC computes the check value. -/
  | checkCalc (r : RegionId)
  /-- CALC_COMPLETE (R406). A CALC finishes and CALCBUSY falls. -/
  | calcComplete (r : RegionId)
  /-- COMMIT_REFERENCE (R406). A write of CF_CTL.COMMIT copies CF_REF to CF_COMMITTED. -/
  | commitReference (r : RegionId)
  /-- HOST_BOOT_BLOCK (R413). A write of BT_HWCNT delivers a host boot block. -/
  | hostBootBlock (v : Word)
  /-- UART_BOOT_BLOCK (R413). A UART boot block with its CRC is answered with ACK or NAK. -/
  | uartBootBlock (data : List Byte)
  /-- SOFTWARE_CHIP_RESET (R442). A keyed write of RS_SWRST resets the chip. -/
  | softwareChipReset (v : Word)
  /-- REGION_WATCHDOG_EXPIRY (R451). A region watchdog reaches its timeout and resets the region. -/
  | regionWatchdogExpiry (r : RegionId)
  /-- WATCHDOG_WARNING (R451). A watchdog reaches 7/8 of its timeout and warns. -/
  | watchdogWarning (region : Option RegionId)
  /-- WATCHDOG_KICK (R451). A write of 0xA55A to a kick register restarts the count. -/
  | watchdogKick (region : Option RegionId) (v : Word)
  /-- RCLK_LOCK_LOSS (R442). A region PLL out of lock holds the region in reset. -/
  | rclkLockLoss (r : RegionId)
  /-- REGION_RESET (R442). A write of RS_RGr_CTL.RESET pulses a region reset. -/
  | regionReset (r : RegionId)
  /-- REGION_HOLD (R442). A write of RS_RGr_CTL.HOLD holds or frees a region reset. -/
  | regionHold (r : RegionId) (hold : Bool)
  /-- BLOCK_RESET (R442). A write of BK_SWRST.BLOCK resets the block. -/
  | blockReset (r : RegionId) (bk : BlockId) (v : Word)
  /-- CELL_RESET (R442). A write of BK_SWRST.CELLS resets cells, released halted. -/
  | cellReset (r : RegionId) (bk : BlockId) (v : Word)
  /-- BK_START (R448). A write of BK_START resets and starts eligible cells at vector 0. -/
  | bkStart (r : RegionId) (bk : BlockId) (v : Word)
  /-- CLOCK_GOOD (R445). A PLL delivers 256 cycles after lock and its clock becomes good. -/
  | clockGood (k : Fin 10)
  /-- REGION_RELEASE (R447). A region, then its blocks and cells, leave reset. -/
  | regionRelease (r : RegionId)
  /-- PLL_WRITE (R457). A write of CK_RGr_PLL relocks the PLL or is refused. -/
  | pllWrite (r : RegionId) (v : Word)
  /-- OE_COMMIT (R454). PM_OECTL.COMMIT copies PM_OESTAGE to PM_OE unless mismatched. -/
  | oeCommit (r : RegionId)
  /-- POWER_STATE_ENTRY (R459). A quiet region enters the deepest admitted power state after 1 µs. -/
  | powerStateEntry (r : RegionId)
  /-- WAKE (R460). An event, post or access returns the region to L0. -/
  | wake (r : RegionId)
  /-- L4_RETURN (R461). A region returning from L4 is released and its cells reloaded. -/
  | l4Return (r : RegionId)
  /-- REGISTER_WRITE (R42). A write to a register without a row of its own takes effect at the next unit edge. -/
  | registerWrite (region : Option RegionId) (offset : Nat) (v : Word)
  /-- RESERVED_OPCODE (R64). A cell executes a reserved or undefined base opcode, such as 0x00, and raises a precise illegal-opcode fault. -/
  | reservedOpcode (c : CellId) (w : Word)
  /-- TIME_FRAME_RECEIVED (R381). A received Xesum time frame is delivered into the VC 0 receive ring outside the credits, with CODE 6 and its arrival stamp. -/
  | timeFrameReceived (p : Fin 4) (lanes : List (List LineChar)) (stamp : Ticks)
  /-- FIELD_PIN_INPUT_CHANGE (R385). A field pin's filtered input level changes without a qualifying edge and FP_IN follows it. -/
  | fieldPinInputChange (r : RegionId) (p : Fin 32) (level : Bool)
  /-- JTAG_DEBUG_ACCESS (R429). An unlocked JTAG port halts, single-steps or reaches cells, blocks and register spaces under the granted PERMS. -/
  | jtagDebugAccess (op : JtagOp)
  /-- CH_SNAP (R49). A write of CH_SNAP.GO requests a chip-wide snapshot. -/
  | chSnap
  /-- GTIME_STEP_APPLY (R30). The pending step is added at the first edge with no sample group armed. -/
  | gtimeStepApply
  /-- LIFETIME_ACCUMULATE (R412). Every minute the lifetime counters accumulate. -/
  | lifetimeAccumulate
  /-- LIFETIME_COMMIT (R412). Every 10 minutes the lifetime counters are committed to MRAM. -/
  | lifetimeCommit
  /-- BOOT_ATTEMPT (R420). The boot unit reads, verifies and places an image. -/
  | bootAttempt
  /-- BOOT_SOURCE_TIMEOUT (R414). A gap over 1 s in boot data is a source error. -/
  | bootSourceTimeout
  /-- TRIAL (R421). BT_CTL TRIAL names the other slot for the next boot. -/
  | trial
  /-- CONFIRM (R421). BT_CTL CONFIRM makes the running slot active. -/
  | confirm
  /-- ARBADV (R423). BT_CTL ARBADV commits an anti-rollback record and blows fuses. -/
  | arbadv
  /-- FUSE_BLOWN (R423). One anti-rollback fuse finishes blowing after 20 µs. -/
  | fuseBlown
  /-- ATTEST (R428). BT_CTL ATTEST signs a report with ECDSA and an LMS leaf. -/
  | attest
  /-- DBGCHAL (R429). BT_CTL DBGCHAL draws a new debug challenge. -/
  | dbgchal
  /-- UNLOCK (R429). A debug certificate is checked and may grant permissions. -/
  | unlock
  /-- PROVISION (R425). BT_CTL PROVISION programs the lowest unprovisioned key slot. -/
  | provision
  /-- REVOKE (R425). BT_CTL REVOKE revokes lower-numbered provisioned slots. -/
  | revoke
  /-- JOURNAL_COMMIT (R434). JN_CTL.COMMIT queues a record or is refused. -/
  | journalCommit
  /-- RECORD_COMMITTED (R434). A journal record's commit word is written and the directory updated. -/
  | recordCommitted
  /-- FLOG (R437). JN_CTL.FLOG appends a fault-log entry. -/
  | flog
  /-- GLEAN (R436). Gleaning copies live records out of the oldest segment and frees it. -/
  | glean
  /-- JOURNAL_REPLAY (R435). At start-up the journal is replayed and retirements reapplied. -/
  | journalReplay
  /-- PFW_RECOGNISED (R438). PFW held for 1 µs refuses commands and commits boot-unit records. -/
  | pfwRecognised
  /-- PFW_DEASSERT (R438). PFW ends with supplies held and commands resume 1 µs later. -/
  | pfwDeassert
  /-- POWER_ON_RESET (R442). A supply below its power-on threshold asserts chip reset. -/
  | powerOnReset
  /-- BROWN_OUT (R442). A supply below its brown-out threshold for 1 µs asserts chip reset. -/
  | brownOut
  /-- NRESET (R442). NRESET low asserts chip reset. -/
  | nreset
  /-- CHIP_WATCHDOG_EXPIRY (R451). RS_WDCNT reaches its timeout and resets the chip. -/
  | chipWatchdogExpiry
  /-- CRITICAL_STATE_ERROR (R442). A parity error in critical state resets the chip. -/
  | criticalStateError
  /-- CHIP_CLOCK_LOSS (R442). Loss of fabric, timebase or XCLK asserts chip reset. -/
  | chipClockLoss
  /-- RSTCHIP (R442). The JTAG RSTCHIP instruction resets the chip when permitted. -/
  | rstchip
  /-- CHIP_RELEASE (R446). The chip release sequence advances to its next step. -/
  | chipRelease
  /-- BACKUP_CLEAR (R452). RS_BKCLR.CLEAR clears the backup domain when permitted. -/
  | backupClear
  /-- VBAT_LOSS (R452). VBAT below 2.0 V clears the backup domain. -/
  | vbatLoss
  /-- SAFE_POINT_WATCHDOG (R163). 256 microwords without a safe point raise a machine check. -/
  | safePointWatchdog (c : CellId)
  /-- PARITY_RECOVERY (R165). After segment loads return, a failed control-store word or entry is refetched and the segment repeated. -/
  | parityRecovery (c : CellId) (dt : Bool) (set : Fin 4) (index : Fin 1024)
  /-- SHADOW_TIMEOUT (R247). Fewer than 1,024 shadow samples within 1 s abandon the step. -/
  | shadowTimeout (r : RegionId) (j : Fin 18)
  /-- HAND_OVER (R248). At a start of the channel the spare takes over delivery. -/
  | handOver (r : RegionId) (j : Fin 18)
  /-- HAND_BACK (R248). At a start of the channel the working slice resumes delivery. -/
  | handBack (r : RegionId) (j : Fin 18)
  /-- TRAINING_START (R380). Enable, RETRAIN, lock loss or partner training starts training. -/
  | trainingStart (p : Fin 4)
  /-- TRAINING_TIMEOUT (R380). No link up within 10 ms schedules a retry. -/
  | trainingTimeout (p : Fin 4)
  /-- TRAINING_RETRY (R380). Training restarts after 100 ms. -/
  | trainingRetry (p : Fin 4)
  /-- UNRETIRE (R382). A write of UNRETIRE returns a lane to use at the next training. -/
  | unretire (p : Fin 4) (lanes : BitVec 4)
  /-- AGING_MEASURE (R411). Every millisecond each aging oscillator is counted. -/
  | agingMeasure (r : RegionId) (k : Fin 4) (v : Word)
  /-- ARBITER_PARITY (R6). A block-arbiter parity error resets the block. -/
  | arbiterParity (r : RegionId) (bk : BlockId)
  /-- ETHERNET_LINK_CHANGE (R374). An Ethernet port's link comes up or goes down, or its auto-negotiation completes, changing EN_Pp_STAT.LINK and ANDONE. -/
  | ethernetLinkChange (p : Fin 2) (link done : Bool)
  /-- PCIE_LINK_CHANGE (R365). The PCIe link trains or goes down, changing HW_LINK width and speed. -/
  | pcieLinkChange (width : BitVec 5) (speed : BitVec 4)
  /-- VIO_RAIL_CHANGE (R468). A VIO rail leaves or re-enters its range, or changes level, making its PW and FP pins high-impedance and changing the level that FP_BANK reports. -/
  | vioRailChange (r : RegionId) (rail : Fin 3) (good v18 : Bool)
deriving DecidableEq, Repr

end Sys2Proof
end

