-- ==== Sys2Proof/Decode.lean ====
section
/-!
DEFINITION. Instruction words of the cell: the five formats and the word of every base instruction (R60, R61), with
their decoder. The table of commands gives no bits, so no table word spells a command.
-/

namespace Sys2Proof

/-- Format A: opcode, a, b, d, fn (R60). -/
def wordA (op : Nat) (a b d : RegNo) (fn : Nat) : Word :=
  BitVec.ofNat 32 (op * 2 ^ 24 + a.val * 2 ^ 20 + b.val * 2 ^ 16 + d.val * 2 ^ 12 + fn)

/-- Formats I and P: opcode, d, a, imm16 or port. -/
def wordI (op : Nat) (d a : RegNo) (imm : BitVec 16) : Word :=
  BitVec.ofNat 32 (op * 2 ^ 24 + d.val * 2 ^ 20 + a.val * 2 ^ 16 + imm.toNat)

/-- Format B: opcode, a, b, annul, offset. -/
def wordB (op : Nat) (a b : RegNo) (annul : Bool) (off : BitVec 15) : Word :=
  BitVec.ofNat 32 (op * 2 ^ 24 + a.val * 2 ^ 20 + b.val * 2 ^ 16 + annul.toNat * 2 ^ 15 + off.toNat)

/-- Format J: opcode, target. -/
def wordJ (op : Nat) (target : BitVec 24) : Word := BitVec.ofNat 32 (op * 2 ^ 24 + target.toNat)

/-- The register number in the four bits from bit `lo` upward. -/
def regField (w : Word) (lo : Nat) : RegNo := Fin.ofNat 16 (w.toNat >>> lo)

/-- The word of an instruction, with the fields it does not use zero (R61); none for a command that is no
instruction. (DESIGN CHOICE, log 10) -/
def instrWord : Instr → Option Word
  | .nop _ => some (wordA 0x01 0 0 0 0)
  | .add _ d a b => some (wordA 0x02 a b d 0)
  | .sub _ d a b => some (wordA 0x03 a b d 0)
  | .adds _ d a b => some (wordA 0x04 a b d 0)
  | .subs _ d a b => some (wordA 0x05 a b d 0)
  | .and _ d a b => some (wordA 0x06 a b d 0)
  | .or _ d a b => some (wordA 0x07 a b d 0)
  | .xor _ d a b => some (wordA 0x08 a b d 0)
  | .andn _ d a b => some (wordA 0x09 a b d 0)
  | .sll _ d a b => some (wordA 0x0A a b d 0)
  | .srl _ d a b => some (wordA 0x0B a b d 0)
  | .sra _ d a b => some (wordA 0x0C a b d 0)
  | .ror _ d a b => some (wordA 0x0D a b d 0)
  | .slt _ d a b => some (wordA 0x0E a b d 0)
  | .sltu _ d a b => some (wordA 0x0F a b d 0)
  | .clz _ d a => some (wordA 0x18 a 0 d 0)
  | .popc _ d a => some (wordA 0x19 a 0 d 0)
  | .brev _ d a lanes => some (wordA 0x1A a 0 d lanes.val)
  | .par _ d a bytes => some (wordA 0x1B a 0 d bytes.toNat)
  | .sel _ d a b cc => some (wordA 0x1D a b d cc.val)
  | .cmovz _ d a b => some (wordA 0x1E a b d 0)
  | .cmovnz _ d a b => some (wordA 0x1F a b d 0)
  | .addi _ d a imm => some (wordI 0x20 d a imm)
  | .addsi _ d a imm => some (wordI 0x21 d a imm)
  | .andi _ d a imm => some (wordI 0x22 d a imm)
  | .ori _ d a imm => some (wordI 0x23 d a imm)
  | .xori _ d a imm => some (wordI 0x24 d a imm)
  | .lui _ d imm => some (wordI 0x25 d 0 imm)
  | .slli _ d a imm => some (wordI 0x26 d a imm)
  | .srli _ d a imm => some (wordI 0x27 d a imm)
  | .srai _ d a imm => some (wordI 0x28 d a imm)
  | .rori _ d a imm => some (wordI 0x29 d a imm)
  | .slti _ d a imm => some (wordI 0x2A d a imm)
  | .sltiu _ d a imm => some (wordI 0x2B d a imm)
  | .mul _ d a b => some (wordA 0x10 a b d 0)
  | .mulh _ d a b => some (wordA 0x11 a b d 0)
  | .mulhu _ d a b => some (wordA 0x12 a b d 0)
  | .qmul _ d a b rnd => some (wordA 0x13 a b d rnd.toNat)
  | .mac _ a b sub => some (wordA 0x14 a b 0 sub.toNat)
  | .macs _ a b sub => some (wordA 0x15 a b 0 sub.toNat)
  | .mtac _ a b => some (wordA 0x16 a b 0 0)
  | .rdac _ d sh trunc rnd => some (wordA 0x17 0 0 d (sh.val + 64 * trunc.toNat + 128 * rnd.toNat))
  | .div _ d a b => some (wordA 0x30 a b d 0)
  | .divu _ d a b => some (wordA 0x31 a b d 0)
  | .rem _ d a b => some (wordA 0x32 a b d 0)
  | .remu _ d a b => some (wordA 0x33 a b d 0)
  | .sqrt _ d a q => some (wordA 0x34 a 0 d q.toNat)
  | .mac64 _ a b => some (wordA 0x35 a b 0 0)
  | .crcs _ d a n => some (wordA 0x1C a 0 d n.val)
  | .crcb _ a b d => some (wordA 0x36 a b d 0)
  | .blkmov _ a b d => some (wordA 0x37 a b d 0)
  | .ldw _ d a imm => some (wordI 0x40 d a imm)
  | .ldh _ d a imm => some (wordI 0x41 d a imm)
  | .ldhu _ d a imm => some (wordI 0x42 d a imm)
  | .ldb _ d a imm => some (wordI 0x43 d a imm)
  | .ldbu _ d a imm => some (wordI 0x44 d a imm)
  | .stw _ d a imm => some (wordI 0x48 d a imm)
  | .sth _ d a imm => some (wordI 0x49 d a imm)
  | .stb _ d a imm => some (wordI 0x4A d a imm)
  | .lda _ d a b => some (wordA 0x4C a b d 0)
  | .swp _ d a b => some (wordA 0x4D a b d 0)
  | .in_ _ d a port => some (wordI 0x50 d a port)
  | .out _ d a port => some (wordI 0x51 d a port)
  | .outp _ d a port => some (wordI 0x52 d a port)
  | .iwr _ d a imm => some (wordI 0x54 d a imm)
  | .iflush _ => some (wordA 0x55 0 0 0 0)
  | .beq _ a b annul off => some (wordB 0x60 a b annul off)
  | .bne _ a b annul off => some (wordB 0x61 a b annul off)
  | .blt _ a b annul off => some (wordB 0x62 a b annul off)
  | .bge _ a b annul off => some (wordB 0x63 a b annul off)
  | .bltu _ a b annul off => some (wordB 0x64 a b annul off)
  | .bgeu _ a b annul off => some (wordB 0x65 a b annul off)
  | .beqz _ a annul off => some (wordB 0x66 a 0 annul off)
  | .bnez _ a annul off => some (wordB 0x67 a 0 annul off)
  | .bltz _ a annul off => some (wordB 0x68 a 0 annul off)
  | .bgez _ a annul off => some (wordB 0x69 a 0 annul off)
  | .jmp _ target => some (wordJ 0x70 target)
  | .call _ target => some (wordJ 0x71 target)
  | .jr _ a => some (wordA 0x72 a 0 0 0)
  | .callr _ a => some (wordA 0x73 a 0 0 0)
  | .ret _ => some (wordA 0x74 0 0 0 0)
  | .wait _ p => some (wordA 0x80 0 0 0 p.val)
  | .fire _ p => some (wordA 0x81 0 0 0 p.val)
  | .evtst _ d => some (wordA 0x82 0 0 d 0)
  | .ckpt _ => some (wordA 0x90 0 0 0 0)
  | .gate _ n => some (wordA 0x91 0 0 0 n.toNat)
  | .rets _ => some (wordA 0x92 0 0 0 0)
  | .rete _ => some (wordA 0x93 0 0 0 0)
  | .mfs _ d sr => some (wordA 0x94 0 0 d sr.val)
  | .mts _ a sr => some (wordA 0x95 a 0 0 sr.val)
  | .idle _ => some (wordA 0x96 0 0 0 0)
  | .halt _ => some (wordA 0x97 0 0 0 0)
  | .mbar _ => some (wordA 0x98 0 0 0 0)
  | .lbar _ => some (wordA 0x99 0 0 0 0)
  | .userOpcode _ op fields => some (BitVec.ofNat 32 ((0xC0 + op.val) * 2 ^ 24 + fields.toNat))
  | .reservedOpcode _ w => some w
  | .longOpResult _ _ => none
  | .loadReturn _ _ => none
  | .storeBufferDrain _ => none
  | .storeAck _ _ => none
  | .outAck _ _ => none
  | .exceptionEntry _ => none
  | .safePointWatchdog _ => none
  | .parityRecovery _ _ _ _ => none
  | .loadStart _ _ _ => none
  | .loadComplete _ _ => none
  | .evFire _ _ => none
  | .eventPortArrival _ _ _ => none
  | .chipWideDelivery _ => none
  | .generatorPost _ => none
  | .icDoorbell _ _ => none
  | .icEoi _ _ => none
  | .delivery _ => none
  | .recallSlot _ _ _ => none
  | .msixDoorbell _ => none
  | .msixSend _ => none
  | .rgSnap _ => none
  | .chSnap => none
  | .snapshotEdge _ _ => none
  | .snapshotComplete _ _ => none
  | .gtimeStepArm _ => none
  | .gtimeStepApply => none
  | .timedStart _ _ => none
  | .sampleGroupArm _ _ _ _ => none
  | .sampleDelivered _ _ _ => none
  | .readAccumulatorResult _ _ _ => none
  | .accumulatorConfigWrite _ _ _ _ => none
  | .accumulatorGo _ _ _ => none
  | .trackerGo _ _ _ => none
  | .trackerWindowEnd _ _ _ => none
  | .trackerConfigWrite _ _ _ _ _ => none
  | .probeWrite _ _ => none
  | .probeSettled _ => none
  | .sparePark _ => none
  | .calibrationComplete _ _ _ => none
  | .shadowComplete _ _ _ => none
  | .shadowTimeout _ _ => none
  | .handOver _ _ => none
  | .handBack _ _ => none
  | .calibrationEnableWrite _ _ => none
  | .initcalComplete _ => none
  | .timerStart _ _ => none
  | .timerStop _ _ => none
  | .timerReload _ _ => none
  | .timerForce _ _ => none
  | .counterWrite _ _ _ => none
  | .groupStart _ _ _ => none
  | .groupStop _ _ _ => none
  | .wrapEdge _ _ => none
  | .compareMatch _ _ _ => none
  | .compareWrite _ _ _ _ => none
  | .deadTimeExpiry _ _ => none
  | .tripInputAsserted _ _ => none
  | .tripInputDeasserted _ _ => none
  | .pairTrip _ _ => none
  | .pairRearm _ _ => none
  | .deadlineMiss _ _ => none
  | .captureEdge _ _ _ _ => none
  | .captureConfigWrite _ _ _ => none
  | .captureRead _ _ => none
  | .sampleBoundary _ => none
  | .coefficientWrite _ _ _ => none
  | .swap _ => none
  | .cancel _ => none
  | .profileStart _ _ => none
  | .profileTick _ _ => none
  | .profileAbort _ _ => none
  | .profilePosWrite _ _ _ _ => none
  | .profilePeriodWrite _ _ _ => none
  | .injectionGo _ => none
  | .injectionStop _ => none
  | .injectionStep _ => none
  | .captureEntryWrite _ => none
  | .ringReset _ => none
  | .feedbackChange _ _ _ => none
  | .feedbackTimeout _ _ => none
  | .feedbackPosWrite _ _ _ _ => none
  | .feedbackCmpWrite _ _ _ => none
  | .feedbackConfigWrite _ _ _ => none
  | .eccRewrite _ _ => none
  | .bankPowerWrite _ _ _ _ => none
  | .bankPowerDone _ _ => none
  | .harrowAccess _ _ => none
  | .harrowPeriodWrite _ _ => none
  | .marchGo _ => none
  | .marchAbort _ => none
  | .marchBankComplete _ _ _ _ => none
  | .dmaGo _ _ => none
  | .dmaAbort _ _ => none
  | .descriptorFetch _ _ => none
  | .burstStart _ _ => none
  | .burstComplete _ _ => none
  | .descriptorComplete _ _ => none
  | .hostRead _ _ _ => none
  | .hostWrite _ _ _ => none
  | .negotiate _ => none
  | .frameReceived _ _ _ _ => none
  | .rxDescriptorRetry _ => none
  | .kickRx _ => none
  | .kickTx _ => none
  | .frameLaunch _ => none
  | .transmitComplete _ _ => none
  | .portReconfigure _ _ _ => none
  | .dataFrame _ _ _ => none
  | .ackFrame _ _ => none
  | .nakFrame _ _ => none
  | .ackSend _ => none
  | .retryTimeout _ => none
  | .codeError _ _ _ => none
  | .trainingStart _ => none
  | .trainingFrameSend _ => none
  | .trainingFrameReceived _ _ _ _ _ => none
  | .trainingTimeout _ => none
  | .trainingRetry _ => none
  | .tsend _ => none
  | .unretire _ _ => none
  | .xesumKick _ _ => none
  | .timedQueuePush _ _ _ => none
  | .timedAction _ _ => none
  | .fieldPinCapture _ _ _ _ => none
  | .fieldPinCapRead _ _ => none
  | .takeover _ _ => none
  | .takeoverRestore _ _ => none
  | .fallowRelease _ _ => none
  | .bkRetire _ _ _ => none
  | .tlSwfault _ _ => none
  | .faultRecordWrite _ => none
  | .telemetryRecord _ => none
  | .sweepStart _ => none
  | .sweepComplete _ => none
  | .checkCalc _ => none
  | .calcComplete _ => none
  | .commitReference _ => none
  | .agingMeasure _ _ _ => none
  | .lifetimeAccumulate => none
  | .lifetimeCommit => none
  | .bootAttempt => none
  | .hostBootBlock _ => none
  | .uartBootBlock _ => none
  | .bootSourceTimeout => none
  | .trial => none
  | .confirm => none
  | .arbadv => none
  | .fuseBlown => none
  | .attest => none
  | .dbgchal => none
  | .unlock => none
  | .provision => none
  | .revoke => none
  | .journalCommit => none
  | .recordCommitted => none
  | .flog => none
  | .glean => none
  | .journalReplay => none
  | .pfwRecognised => none
  | .pfwDeassert => none
  | .powerOnReset => none
  | .brownOut => none
  | .nreset => none
  | .chipWatchdogExpiry => none
  | .criticalStateError => none
  | .chipClockLoss => none
  | .rstchip => none
  | .softwareChipReset _ => none
  | .regionWatchdogExpiry _ => none
  | .watchdogWarning _ => none
  | .watchdogKick _ _ => none
  | .rclkLockLoss _ => none
  | .regionReset _ => none
  | .regionHold _ _ => none
  | .arbiterParity _ _ => none
  | .blockReset _ _ _ => none
  | .cellReset _ _ _ => none
  | .bkStart _ _ _ => none
  | .clockGood _ => none
  | .chipRelease => none
  | .regionRelease _ => none
  | .pllWrite _ _ => none
  | .oeCommit _ => none
  | .powerStateEntry _ => none
  | .wake _ => none
  | .l4Return _ => none
  | .backupClear => none
  | .vbatLoss => none
  | .registerWrite _ _ _ => none
  | .ethernetLinkChange _ _ _ => none
  | .pcieLinkChange _ _ => none
  | .timeFrameReceived _ _ _ => none
  | .vioRailChange _ _ _ _ => none
  | .fieldPinInputChange _ _ _ => none
  | .jtagDebugAccess _ => none

/-- The word of an instruction, zero for other commands. -/
def wordOf (i : Instr) : Word := (instrWord i).getD 0

/-- Opcodes of the base instructions (R66 to R90); the others below 0xC0 are reserved (R64). -/
def baseOpcodes : List Nat :=
  [0x01, 0x02, 0x03, 0x04, 0x05, 0x06, 0x07, 0x08, 0x09, 0x0A, 0x0B, 0x0C, 0x0D, 0x0E, 0x0F, 0x10, 0x11, 0x12, 0x13, 0x14]
    ++ [0x15, 0x16, 0x17, 0x18, 0x19, 0x1A, 0x1B, 0x1C, 0x1D, 0x1E, 0x1F, 0x20, 0x21, 0x22, 0x23, 0x24, 0x25, 0x26, 0x27, 0x28]
    ++ [0x29, 0x2A, 0x2B, 0x30, 0x31, 0x32, 0x33, 0x34, 0x35, 0x36, 0x37, 0x40, 0x41, 0x42, 0x43, 0x44, 0x48, 0x49, 0x4A, 0x4C]
    ++ [0x4D, 0x50, 0x51, 0x52, 0x54, 0x55, 0x60, 0x61, 0x62, 0x63, 0x64, 0x65, 0x66, 0x67, 0x68, 0x69, 0x70, 0x71, 0x72, 0x73]
    ++ [0x74, 0x80, 0x81, 0x82, 0x90, 0x91, 0x92, 0x93, 0x94, 0x95, 0x96, 0x97, 0x98, 0x99]

/-- The opcode is a reserved base opcode (R64). -/
def opReserved (op : Nat) : Bool := decide (op < 0xC0) && !baseOpcodes.contains op

/-- The instruction that cell `c` decodes from a word. -/
def decodeWord (c : CellId) (w : Word) : Instr :=
  match w.toNat / 2 ^ 24 with
  | 0x01 => .nop c
  | 0x02 => .add c (regField w 12) (regField w 20) (regField w 16)
  | 0x03 => .sub c (regField w 12) (regField w 20) (regField w 16)
  | 0x04 => .adds c (regField w 12) (regField w 20) (regField w 16)
  | 0x05 => .subs c (regField w 12) (regField w 20) (regField w 16)
  | 0x06 => .and c (regField w 12) (regField w 20) (regField w 16)
  | 0x07 => .or c (regField w 12) (regField w 20) (regField w 16)
  | 0x08 => .xor c (regField w 12) (regField w 20) (regField w 16)
  | 0x09 => .andn c (regField w 12) (regField w 20) (regField w 16)
  | 0x0A => .sll c (regField w 12) (regField w 20) (regField w 16)
  | 0x0B => .srl c (regField w 12) (regField w 20) (regField w 16)
  | 0x0C => .sra c (regField w 12) (regField w 20) (regField w 16)
  | 0x0D => .ror c (regField w 12) (regField w 20) (regField w 16)
  | 0x0E => .slt c (regField w 12) (regField w 20) (regField w 16)
  | 0x0F => .sltu c (regField w 12) (regField w 20) (regField w 16)
  | 0x10 => .mul c (regField w 12) (regField w 20) (regField w 16)
  | 0x11 => .mulh c (regField w 12) (regField w 20) (regField w 16)
  | 0x12 => .mulhu c (regField w 12) (regField w 20) (regField w 16)
  | 0x13 => .qmul c (regField w 12) (regField w 20) (regField w 16) (w.getLsbD 0)
  | 0x14 => .mac c (regField w 20) (regField w 16) (w.getLsbD 0)
  | 0x15 => .macs c (regField w 20) (regField w 16) (w.getLsbD 0)
  | 0x16 => .mtac c (regField w 20) (regField w 16)
  | 0x17 => .rdac c (regField w 12) (Fin.ofNat 64 w.toNat) (w.getLsbD 6) (w.getLsbD 7)
  | 0x18 => .clz c (regField w 12) (regField w 20)
  | 0x19 => .popc c (regField w 12) (regField w 20)
  | 0x1A => .brev c (regField w 12) (regField w 20) (Fin.ofNat 4 w.toNat)
  | 0x1B => .par c (regField w 12) (regField w 20) (w.getLsbD 0)
  | 0x1C => .crcs c (regField w 12) (regField w 20) (Fin.ofNat 4 w.toNat)
  | 0x1D => .sel c (regField w 12) (regField w 20) (regField w 16) (regField w 0)
  | 0x1E => .cmovz c (regField w 12) (regField w 20) (regField w 16)
  | 0x1F => .cmovnz c (regField w 12) (regField w 20) (regField w 16)
  | 0x20 => .addi c (regField w 20) (regField w 16) (w.extractLsb' 0 16)
  | 0x21 => .addsi c (regField w 20) (regField w 16) (w.extractLsb' 0 16)
  | 0x22 => .andi c (regField w 20) (regField w 16) (w.extractLsb' 0 16)
  | 0x23 => .ori c (regField w 20) (regField w 16) (w.extractLsb' 0 16)
  | 0x24 => .xori c (regField w 20) (regField w 16) (w.extractLsb' 0 16)
  | 0x25 => .lui c (regField w 20) (w.extractLsb' 0 16)
  | 0x26 => .slli c (regField w 20) (regField w 16) (w.extractLsb' 0 16)
  | 0x27 => .srli c (regField w 20) (regField w 16) (w.extractLsb' 0 16)
  | 0x28 => .srai c (regField w 20) (regField w 16) (w.extractLsb' 0 16)
  | 0x29 => .rori c (regField w 20) (regField w 16) (w.extractLsb' 0 16)
  | 0x2A => .slti c (regField w 20) (regField w 16) (w.extractLsb' 0 16)
  | 0x2B => .sltiu c (regField w 20) (regField w 16) (w.extractLsb' 0 16)
  | 0x30 => .div c (regField w 12) (regField w 20) (regField w 16)
  | 0x31 => .divu c (regField w 12) (regField w 20) (regField w 16)
  | 0x32 => .rem c (regField w 12) (regField w 20) (regField w 16)
  | 0x33 => .remu c (regField w 12) (regField w 20) (regField w 16)
  | 0x34 => .sqrt c (regField w 12) (regField w 20) (w.getLsbD 0)
  | 0x35 => .mac64 c (regField w 20) (regField w 16)
  | 0x36 => .crcb c (regField w 20) (regField w 16) (regField w 12)
  | 0x37 => .blkmov c (regField w 20) (regField w 16) (regField w 12)
  | 0x40 => .ldw c (regField w 20) (regField w 16) (w.extractLsb' 0 16)
  | 0x41 => .ldh c (regField w 20) (regField w 16) (w.extractLsb' 0 16)
  | 0x42 => .ldhu c (regField w 20) (regField w 16) (w.extractLsb' 0 16)
  | 0x43 => .ldb c (regField w 20) (regField w 16) (w.extractLsb' 0 16)
  | 0x44 => .ldbu c (regField w 20) (regField w 16) (w.extractLsb' 0 16)
  | 0x48 => .stw c (regField w 20) (regField w 16) (w.extractLsb' 0 16)
  | 0x49 => .sth c (regField w 20) (regField w 16) (w.extractLsb' 0 16)
  | 0x4A => .stb c (regField w 20) (regField w 16) (w.extractLsb' 0 16)
  | 0x4C => .lda c (regField w 12) (regField w 20) (regField w 16)
  | 0x4D => .swp c (regField w 12) (regField w 20) (regField w 16)
  | 0x50 => .in_ c (regField w 20) (regField w 16) (w.extractLsb' 0 16)
  | 0x51 => .out c (regField w 20) (regField w 16) (w.extractLsb' 0 16)
  | 0x52 => .outp c (regField w 20) (regField w 16) (w.extractLsb' 0 16)
  | 0x54 => .iwr c (regField w 20) (regField w 16) (w.extractLsb' 0 16)
  | 0x55 => .iflush c
  | 0x60 => .beq c (regField w 20) (regField w 16) (w.getLsbD 15) (w.extractLsb' 0 15)
  | 0x61 => .bne c (regField w 20) (regField w 16) (w.getLsbD 15) (w.extractLsb' 0 15)
  | 0x62 => .blt c (regField w 20) (regField w 16) (w.getLsbD 15) (w.extractLsb' 0 15)
  | 0x63 => .bge c (regField w 20) (regField w 16) (w.getLsbD 15) (w.extractLsb' 0 15)
  | 0x64 => .bltu c (regField w 20) (regField w 16) (w.getLsbD 15) (w.extractLsb' 0 15)
  | 0x65 => .bgeu c (regField w 20) (regField w 16) (w.getLsbD 15) (w.extractLsb' 0 15)
  | 0x66 => .beqz c (regField w 20) (w.getLsbD 15) (w.extractLsb' 0 15)
  | 0x67 => .bnez c (regField w 20) (w.getLsbD 15) (w.extractLsb' 0 15)
  | 0x68 => .bltz c (regField w 20) (w.getLsbD 15) (w.extractLsb' 0 15)
  | 0x69 => .bgez c (regField w 20) (w.getLsbD 15) (w.extractLsb' 0 15)
  | 0x70 => .jmp c (w.extractLsb' 0 24)
  | 0x71 => .call c (w.extractLsb' 0 24)
  | 0x72 => .jr c (regField w 20)
  | 0x73 => .callr c (regField w 20)
  | 0x74 => .ret c
  | 0x80 => .wait c (Fin.ofNat 4 w.toNat)
  | 0x81 => .fire c (Fin.ofNat 4 w.toNat)
  | 0x82 => .evtst c (regField w 12)
  | 0x90 => .ckpt c
  | 0x91 => .gate c (w.extractLsb' 0 8)
  | 0x92 => .rets c
  | 0x93 => .rete c
  | 0x94 => .mfs c (regField w 12) (Fin.ofNat 64 w.toNat)
  | 0x95 => .mts c (regField w 20) (Fin.ofNat 64 w.toNat)
  | 0x96 => .idle c
  | 0x97 => .halt c
  | 0x98 => .mbar c
  | 0x99 => .lbar c
  | op => if op < 0xC0 then .reservedOpcode c w else .userOpcode c (Fin.ofNat 64 (op - 0xC0)) (w.extractLsb' 0 24)

/-- The command that a table word spells: the table gives no row any bits. (DESIGN CHOICE, log 2) -/
def decodeTableWord (_nbits _w : Nat) : Option Instr := none

end Sys2Proof
end

