-- ==== Sys2Proof/Config.lean ====
section
/-!
DEFINITION. What an implementation fixes and the specification leaves open.
Every constant here has no body: no proof can see a value of it.
-/

namespace Sys2Proof.Config

/-- The `n`-th word taken where the specification leaves a value unspecified (R159, R461). (DESIGN CHOICE, log 7, 19,
34, 41, 45) -/
opaque freeWord : Nat → Word

/-- What D(u, b) of R295 adds under AMAX and JMAX where the loop that defines it does not end, taken modulo the bound that
the model keeps. (DESIGN CHOICE, log 30) -/
opaque brakeDistance : Int → Int → Int → Int → Int

/-- The `n`-th sample whose value the specification leaves unspecified (R245, AD_CFG in R253): an unclipped code.
(DESIGN CHOICE, log 33) -/
opaque freeSample : Nat → Int

/-- What the ECC makes of a row of all ones, check bits included (R327, R336): 0 a valid word, 1 a single-bit error,
others uncorrectable. (DESIGN CHOICE, log 28) -/
opaque allOnesRow : Nat

/-- Equivalent hours, in 2^-32 hour, that one minute adds at a temperature in 1/64 degree: the rounding of
2^((T - 95) / 10) / 60 is not stated (R412). (DESIGN CHOICE, log 45) -/
opaque equivalentMinute : Int → Nat

/-- SHA-384 of a message, first byte highest (FIPS 180-4, which the specification names and does not give).
(DESIGN CHOICE, log 45) -/
opaque sha384 : List Byte → BitVec 384

/-- ECDSA on P-384 with SHA-384: a 96-byte public key, a 96-byte signature, a message (R418). (DESIGN CHOICE, log 45) -/
opaque ecdsaVerify : List Byte → List Byte → List Byte → Bool

/-- LMS under the parameter sets of R418: a 56-byte public key, a signature, a message. (DESIGN CHOICE, log 45) -/
opaque lmsVerify : List Byte → List Byte → List Byte → Bool

/-- ECDSA signature of a message under the key derived from the device secret, at the `n`-th use (R426, R427).
(DESIGN CHOICE, log 45) -/
opaque ecdsaSign : List Byte → List Byte → Nat → BitVec 768

/-- LMS signature of a message with a leaf of the tree derived from the device secret (R426, R428).
(DESIGN CHOICE, log 45) -/
opaque lmsSign : List Byte → List Byte → Nat → BitVec 14176

/-- The value of the JTAG register IDCODE (R429). (DEDUCED, log 49) -/
opaque idcode : Word

end Sys2Proof.Config
end

