-- ==== Sys2Proof/Machine/Operands.lean ====
section
/-!
DEFINITION. Arithmetic of the operand forms and results the instruction set names (R66 to R75, R151 to R155).
Results are computed on integers and narrowed at the end.
-/

namespace Sys2Proof.Machine

/-- sat32: clamps to the signed 32-bit range (R66). -/
def sat32 (x : Int) : Word :=
  if x > 0x7FFFFFFF then 0x7FFFFFFF else if x < -0x80000000 then 0x80000000 else BitVec.ofInt 32 x

/-- sat64: clamps to the signed 64-bit range (R69). -/
def sat64 (x : Int) : BitVec 64 :=
  if x > 0x7FFFFFFFFFFFFFFF then 0x7FFFFFFFFFFFFFFF
  else if x < -0x8000000000000000 then 0x8000000000000000 else BitVec.ofInt 64 x

/-- sext(imm16, 16). -/
def sextImm (i : BitVec 16) : Word := i.signExtend 32

/-- zext(imm16, 16). -/
def zextImm (i : BitVec 16) : Word := i.zeroExtend 32

/-- Low five bits of a shift amount (R66). -/
def shAmt (x : Word) : Nat := x.toNat % 32

/-- One word from a condition. -/
def ofBool (b : Bool) : Word := if b then 1 else 0

/-- Signed less-than. -/
def slt (a b : Word) : Bool := decide (a.toInt < b.toInt)

/-- Unsigned less-than. -/
def ult (a b : Word) : Bool := decide (a.toNat < b.toNat)

/-- Number of 1 bits. -/
def popCount (x : Word) : Nat := ((List.range 32).filter (fun i => x.getLsbD i)).length

/-- Leading zero bits, 0 to 32. -/
def leadingZeros (x : Word) : Nat := ((List.range 32).takeWhile (fun i => !x.getLsbD (31 - i))).length

/-- Exclusive or of the `n` bits from bit `lo` upward. -/
def parityOf (x : Word) (lo n : Nat) : Bool := (((List.range n).filter (fun i => x.getLsbD (lo + i))).length % 2) == 1

/-- PAR: parity of the word, or of each byte in bits 3 to 0 (R66). -/
def parWord (bytes : Bool) (x : Word) : Word :=
  if bytes then
    BitVec.ofNat 32 ((parityOf x 0 8).toNat + 2 * (parityOf x 8 8).toNat + 4 * (parityOf x 16 8).toNat + 8 * (parityOf x 24 8).toNat)
  else ofBool (parityOf x 0 32)

/-- Bit reverse within lanes of `l` bits (R66). -/
def reverseLanes (l : Nat) (x : Word) : Word :=
  BitVec.ofNat 32 ((List.range 32).foldl (fun s i => s + (x.getLsbD (i / l * l + (l - 1 - i % l))).toNat * 2 ^ i) 0)

/-- Lane width of BREV by fn[1:0]; 3 is an illegal opcode (R66). -/
def brevLane : Nat → Option Nat
  | 0 => some 32
  | 1 => some 16
  | 2 => some 8
  | _ => none

/-- Data bits of CRCS by fn[1:0]; 3 is an illegal opcode (R73). -/
def crcBits : Nat → Option Nat
  | 0 => some 8
  | 1 => some 16
  | 2 => some 32
  | _ => none

/-- Signed product of two words, exact. -/
def mulS (a b : Word) : Int := a.toInt * b.toInt

/-- QMUL with optional rounding (R69). -/
def qmulOf (rnd : Bool) (a b : Word) : Word := sat32 (((mulS a b) + (if rnd then 0x40000000 else 0)) >>> 31)

/-- ACC plus or minus a product, modulo 2^64 or saturating (R69). -/
def macOf (sat sub : Bool) (acc : BitVec 64) (a b : Word) : BitVec 64 :=
  let x := acc.toInt + (if sub then - mulS a b else mulS a b)
  if sat then sat64 x else BitVec.ofInt 64 x

/-- RDAC: ACC shifted, rounded and saturated or truncated (R69). -/
def rdacOf (sh : Nat) (trunc rnd : Bool) (acc : BitVec 64) : Word :=
  let v := acc.toInt + (if rnd && decide (0 < sh) then 2 ^ (sh - 1) else 0)
  if trunc then BitVec.ofInt 32 (v >>> sh) else sat32 (v >>> sh)

/-- Floor of the square root of a number below 2^64, bit by bit. -/
def isqrt (n : Nat) : Nat :=
  (List.range 32).foldl (fun r i => let t := r + 2 ^ (31 - i); if t * t ≤ n then t else r) 0

/-- Operations of the long-operation unit (R70, R155). -/
inductive LongKind where
  | div
  | divu
  | rem
  | remu
  | sqrt
  | qsqrt
deriving DecidableEq, Repr

/-- Result and arithmetic-fault DETAIL of a long operation (R70, R71, R181). -/
def longResult (k : LongKind) (a b : Word) : Word × Option Nat :=
  match k with
  | .div =>
    if b = 0 then (if a.toInt ≥ 0 then 0x7FFFFFFF else 0x80000000, some 0)
    else if a = 0x80000000 ∧ b = 0xFFFFFFFF then (0x7FFFFFFF, none)
    else (BitVec.ofInt 32 (a.toInt.tdiv b.toInt), none)
  | .divu => if b = 0 then (0xFFFFFFFF, some 0) else (BitVec.ofNat 32 (a.toNat / b.toNat), none)
  | .rem =>
    if b = 0 then (a, some 0)
    else if a = 0x80000000 ∧ b = 0xFFFFFFFF then (0, none)
    else (BitVec.ofInt 32 (a.toInt.tmod b.toInt), none)
  | .remu => if b = 0 then (a, some 0) else (BitVec.ofNat 32 (a.toNat % b.toNat), none)
  | .sqrt => (BitVec.ofNat 32 (isqrt a.toNat), none)
  | .qsqrt => if a.toInt < 0 then (0, some 1) else (BitVec.ofNat 32 (isqrt (a.toNat * 2 ^ 31)), none)

/-- Result of MAC64 on the pair `hi`:`lo` (R70). -/
def mac64Of (acc : BitVec 64) (hi lo b : Word) : BitVec 64 :=
  sat64 (acc.toInt + (((hi ++ lo : BitVec 64).toInt * b.toInt) >>> 31))

/-- A pair a, a + 1 that MAC64 accepts: even, not 0, at most 12 (R70). -/
def mac64Pair (a : Nat) : Bool := decide (a % 2 = 0 ∧ a ≠ 0 ∧ a ≤ 12)

/-- The low `w` bits of a number in reverse order. -/
def reflectBits (w p : Nat) : Nat := (List.range w).foldl (fun s i => s + (p >>> i % 2) * 2 ^ (w - 1 - i)) 0

/-- One bit of a CRC step: `refl` chooses least significant bit first (R73). -/
def crcBit (refl : Bool) (w p c : Nat) (d : Bool) : Nat :=
  if refl then
    let c' := c / 2
    if (c % 2 == 1) != d then c' ^^^ reflectBits w p else c'
  else
    let c' := (c * 2) % 2 ^ w
    if (c >>> (w - 1) % 2 == 1) != d then c' ^^^ p else c'

/-- One CRC step over the low `n` bits of `x` on state `c` (R73): width `w`, polynomial `p`. -/
def crcStep (refl : Bool) (w p n : Nat) (c : Nat) (x : Word) : Nat :=
  (List.range n).foldl (fun s i => crcBit refl w p s (x.getLsbD (if refl then i else n - 1 - i))) (c % 2 ^ w)

/-- CRC-32C of a list of bytes, reflected, initial value and final inversion all ones (R135, R404). -/
def crc32c (bytes : List Byte) : Word :=
  ~~~ BitVec.ofNat 32 (bytes.foldl (fun s x => crcStep true 32 0x1EDC6F41 8 s (x.zeroExtend 32)) 0xFFFFFFFF)

/-- The bytes of a number, least significant first (R11). -/
def leBytes : Nat → Nat → List Byte
  | 0, _ => []
  | n + 1, v => BitVec.ofNat 8 v :: leBytes n (v / 256)

/-- The number that little-endian bytes spell. -/
def leNat : List Byte → Nat
  | [] => 0
  | b :: bs => b.toNat + 256 * leNat bs

/-- Adds `n` to a counter that saturates at `top` (R44). -/
def satAdd (top : Nat) (x : Word) (n : Nat) : Word := BitVec.ofNat 32 (min top (x.toNat + n))

/-- Bits `hi` to `lo` of `x` replaced by the low bits of `v`. -/
def setBits (x : Word) (hi lo : Nat) (v : Nat) : Word :=
  let m := (2 ^ (hi + 1 - lo) - 1) * 2 ^ lo
  BitVec.ofNat 32 (x.toNat - (x.toNat &&& m) + (v * 2 ^ lo &&& m))

/-- Bit `i` of `x` replaced. -/
def setBit (x : Word) (i : Nat) (b : Bool) : Word := setBits x i i b.toNat

end Sys2Proof.Machine
end

