-- ==== Sys2Proof/Machine/RegMap.lean ====
section
/-!
DEFINITION. The register maps of the specification: one definition per register or register array, with its
address, reset value, writable bits (access RW or CT, R40) and whether the configuration check covers it.
Region registers are keyed by their offset in the region register space (R17), chip registers by their offset in
the chip register space (R19), cell registers by their offset in the cell's own I/O space (R55).
-/

namespace Sys2Proof.Machine

/-- A register, or an array of registers with one or two indices. -/
structure RegDef where
  /-- Address of the first member. -/
  base : Nat
  /-- Stride and count of the first index; count 1 where there is none. -/
  s1 : Nat
  n1 : Nat
  /-- Stride and count of the second index. -/
  s2 : Nat
  n2 : Nat
  /-- Reset value. -/
  reset : Nat
  /-- Bits a register write changes. -/
  mask : Nat
  /-- Covered by the configuration check (R404). -/
  crc : Bool
deriving DecidableEq, Repr

/-- Address of member `i`, `j`. -/
def regAt (d : RegDef) (i j : Nat) : Nat := d.base + d.s1 * i + d.s2 * j

/-- The indices of the member at address `a`, if `a` names one. -/
def regIdx (d : RegDef) (a : Nat) : Option (Nat × Nat) :=
  if a < d.base then none
  else
    let o := a - d.base
    let i := if d.n1 = 1 then 0 else min (o / d.s1) (d.n1 - 1)
    let o2 := o - d.s1 * i
    let j := if d.n2 = 1 then 0 else min (o2 / d.s2) (d.n2 - 1)
    if o2 - d.s2 * j = 0 ∧ i < d.n1 ∧ j < d.n2 then some (i, j) else none

namespace Reg

/-- RG_ID (R50). Identifies the region. -/
def RG_ID : RegDef := ⟨0, 0, 1, 0, 1, 0, 0, false⟩
/-- RG_SNAP (R50). Starts a region snapshot. -/
def RG_SNAP : RegDef := ⟨0x10, 0, 1, 0, 1, 0, 0, false⟩
/-- RG_SNAPSTAT (R50). Snapshot progress and origin. -/
def RG_SNAPSTAT : RegDef := ⟨0x14, 0, 1, 0, 1, 0, 0, false⟩
/-- RG_SNAP_DROP (R50). Snapshot commands ignored while busy. -/
def RG_SNAP_DROP : RegDef := ⟨0x18, 0, 1, 0, 1, 0, 0xffff, false⟩
/-- RG_SNAPGT_L (R50). GTIME at the snapshot edge, bits [31:0]. -/
def RG_SNAPGT_L : RegDef := ⟨0x20, 0, 1, 0, 1, 0, 0, false⟩
/-- RG_SNAPGT_H (R50). GTIME at the snapshot edge, bits [63:32]. -/
def RG_SNAPGT_H : RegDef := ⟨0x24, 0, 1, 0, 1, 0, 0, false⟩
/-- RG_GTIME_L (R50). GTIME, bits [31:0]. -/
def RG_GTIME_L : RegDef := ⟨0x28, 0, 1, 0, 1, 0, 0, false⟩
/-- RG_GTIME_H (R50). GTIME, bits [63:32]. -/
def RG_GTIME_H : RegDef := ⟨0x2c, 0, 1, 0, 1, 0, 0, false⟩
/-- RG_TAGCFG (R50). Tag limits. -/
def RG_TAGCFG : RegDef := ⟨0x40, 0, 1, 0, 1, 0x80200200, 0xfffff3ff, true⟩
/-- RG_TAGSTAT (R50). Free shared tags. -/
def RG_TAGSTAT : RegDef := ⟨0x44, 0, 1, 0, 1, 0x2fa0, 0, false⟩
/-- CH_ID (R51). Device identification. -/
def CH_ID : RegDef := ⟨0, 0, 1, 0, 1, 0x11024, 0, false⟩
/-- CH_SNAP (R51). Starts a chip-wide snapshot. -/
def CH_SNAP : RegDef := ⟨0x10, 0, 1, 0, 1, 0, 0, false⟩
/-- CH_SNAPSTAT (R51). Chip snapshot progress. -/
def CH_SNAPSTAT : RegDef := ⟨0x14, 0, 1, 0, 1, 0, 0, false⟩
/-- CH_SNAP_DROP (R51). Chip snapshot commands ignored while the chip snapshot is busy (R49). -/
def CH_SNAP_DROP : RegDef := ⟨0x18, 0, 1, 0, 1, 0, 0xffff, false⟩
/-- CH_SNAPGT_L (R51). GTIME at the chip snapshot edge, bits [31:0]. -/
def CH_SNAPGT_L : RegDef := ⟨0x20, 0, 1, 0, 1, 0, 0, false⟩
/-- CH_SNAPGT_H (R51). GTIME at the chip snapshot edge, bits [63:32]. -/
def CH_SNAPGT_H : RegDef := ⟨0x24, 0, 1, 0, 1, 0, 0, false⟩
/-- CH_GTIME_L (R51). GTIME, bits [31:0]. -/
def CH_GTIME_L : RegDef := ⟨0x100, 0, 1, 0, 1, 0, 0, false⟩
/-- CH_GTIME_H (R51). GTIME, bits [63:32]. -/
def CH_GTIME_H : RegDef := ⟨0x104, 0, 1, 0, 1, 0, 0, false⟩
/-- CH_GTRATE (R51). Signed rate correction in 2⁻⁴⁰ ticks per PCLK (R29). -/
def CH_GTRATE : RegDef := ⟨0x108, 0, 1, 0, 1, 0, 0xffffffff, false⟩
/-- CH_GTSTEP_L (R51). Step, bits [31:0]. -/
def CH_GTSTEP_L : RegDef := ⟨0x110, 0, 1, 0, 1, 0, 0xffffffff, false⟩
/-- CH_GTSTEP_H (R51). Step, bits [63:32]; a write arms the step (R30). -/
def CH_GTSTEP_H : RegDef := ⟨0x114, 0, 1, 0, 1, 0, 0xffffffff, false⟩
/-- CH_GTSTAT (R51). Global time status. -/
def CH_GTSTAT : RegDef := ⟨0x118, 0, 1, 0, 1, 0, 0, false⟩
/-- CSTAT (R56). Cell status: privilege, mask level, dispatch set, prediction. -/
def CSTAT : RegDef := ⟨0, 0, 1, 0, 1, 0x1f, 0x3bf, false⟩
/-- CMASK (R56). Region units reachable at program level (*Privilege, exceptions and interrupt entry*). -/
def CMASK : RegDef := ⟨4, 0, 1, 0, 1, 0, 0x10fff, false⟩
/-- CKEY (R56). Context key for the branch predictor (*Pipeline timing and hazards*). -/
def CKEY : RegDef := ⟨8, 0, 1, 0, 1, 0, 0xffffffff, false⟩
/-- RSBASE (R56). Lower bound of the return-stack spill area. -/
def RSBASE : RegDef := ⟨0x10, 0, 1, 0, 1, 0, 0x1ffc, false⟩
/-- RSLIMIT (R56). Upper bound (exclusive) of the spill area. -/
def RSLIMIT : RegDef := ⟨0x14, 0, 1, 0, 1, 0, 0x1ffc, false⟩
/-- RSPTR (R56). Next free spill address. -/
def RSPTR : RegDef := ⟨0x18, 0, 1, 0, 1, 0, 0x1ffc, false⟩
/-- RSDEPTH (R56). Entries held in hardware. -/
def RSDEPTH : RegDef := ⟨0x1c, 0, 1, 0, 1, 0, 0, false⟩
/-- GATEBASE (R56). Gate table base (*Privilege, exceptions and interrupt entry*). -/
def GATEBASE : RegDef := ⟨0x20, 0, 1, 0, 1, 0, 0x1ff0, false⟩
/-- PWINBASE (R56). Program data window, lower bound. -/
def PWINBASE : RegDef := ⟨0x24, 0, 1, 0, 1, 0, 0xffffffff, false⟩
/-- PWINLIMIT (R56). Program data window, upper bound (exclusive). -/
def PWINLIMIT : RegDef := ⟨0x28, 0, 1, 0, 1, 0, 0xffffffff, false⟩
/-- ESP (R56). Escalation stack pointer. -/
def ESP : RegDef := ⟨0x2c, 0, 1, 0, 1, 0x2000, 0x3ffc, false⟩
/-- CKAREA (R56). Checkpoint carry-over area. -/
def CKAREA : RegDef := ⟨0x30, 0, 1, 0, 1, 0, 0xff1ff8, false⟩
/-- CID (R56). Cell identity. -/
def CID : RegDef := ⟨0x40, 0, 1, 0, 1, 0, 0, false⟩
/-- CRCPOLY (R56). CRC polynomial. -/
def CRCPOLY : RegDef := ⟨0x100, 0, 1, 0, 1, 0x1edc6f41, 0xffffffff, false⟩
/-- CRCCFG (R56). CRC width and bit order. -/
def CRCCFG : RegDef := ⟨0x104, 0, 1, 0, 1, 0x120, 0x13f, false⟩
/-- PFCTL (R128). Counting enable and level filter. -/
def PFCTL : RegDef := ⟨0x300, 0, 1, 0, 1, 1, 7, false⟩
/-- PFCYC_L (R128). RCLK cycles counted, bits [31:0]. -/
def PFCYC_L : RegDef := ⟨0x308, 0, 1, 0, 1, 0, 0xffffffff, false⟩
/-- PFCYC_H (R128). RCLK cycles counted, bits [63:32]. -/
def PFCYC_H : RegDef := ⟨0x30c, 0, 1, 0, 1, 0, 0xffffffff, false⟩
/-- PFRET_L (R128). Retired instructions, bits [31:0]. -/
def PFRET_L : RegDef := ⟨0x310, 0, 1, 0, 1, 0, 0xffffffff, false⟩
/-- PFRET_H (R128). Retired instructions, bits [63:32]. -/
def PFRET_H : RegDef := ⟨0x314, 0, 1, 0, 1, 0, 0xffffffff, false⟩
/-- PFFETCH (R128). IMEM words fetched, wrong path included. -/
def PFFETCH : RegDef := ⟨0x318, 0, 1, 0, 1, 0, 0xffffffff, false⟩
/-- PFSCORE (R128). Stalls on a register pending under a non-local access or long operation. -/
def PFSCORE : RegDef := ⟨0x31c, 0, 1, 0, 1, 0, 0xffffffff, false⟩
/-- PFLDUSE (R128). Stalls on a DMEM, own-register or forwarded load (L = 2). -/
def PFLDUSE : RegDef := ⟨0x320, 0, 1, 0, 1, 0, 0xffffffff, false⟩
/-- PFLQFULL (R128). Stalls in A with the load queue full. -/
def PFLQFULL : RegDef := ⟨0x324, 0, 1, 0, 1, 0, 0xffffffff, false⟩
/-- PFSBUF (R128). Stalls in A for a full store buffer, a partial overlap or a drain cycle (R112, R113). -/
def PFSBUF : RegDef := ⟨0x328, 0, 1, 0, 1, 0, 0xffffffff, false⟩
/-- PFTAG (R128). Stalls in A waiting for a tag. -/
def PFTAG : RegDef := ⟨0x32c, 0, 1, 0, 1, 0, 0xffffffff, false⟩
/-- PFLONG (R128). Stalls in X waiting for the long-operation unit. -/
def PFLONG : RegDef := ⟨0x330, 0, 1, 0, 1, 0, 0xffffffff, false⟩
/-- PFIOACK (R128). Stalls in A waiting for an OUT acknowledgement. -/
def PFIOACK : RegDef := ⟨0x334, 0, 1, 0, 1, 0, 0xffffffff, false⟩
/-- PFBRPEN (R128). Branch and transfer cost cycles under R119 and R120, and refills under R124. -/
def PFBRPEN : RegDef := ⟨0x338, 0, 1, 0, 1, 0, 0xffffffff, false⟩
/-- PFBRTKN (R128). Retired taken branches and transfers. -/
def PFBRTKN : RegDef := ⟨0x33c, 0, 1, 0, 1, 0, 0xffffffff, false⟩
/-- PFBRMIS (R128). Retired B-format branches that were mispredicted. -/
def PFBRMIS : RegDef := ⟨0x340, 0, 1, 0, 1, 0, 0xffffffff, false⟩
/-- PFIMP (R128). Imprecise faults reported, at a use point or at exception entry. -/
def PFIMP : RegDef := ⟨0x344, 0, 1, 0, 1, 0, 0xffffffff, false⟩
/-- BK_LDCTL (R139). Starts a load: target cell and sections. -/
def BK_LDCTL : RegDef := ⟨0xa0100, 0x1000, 8, 0, 1, 0, 0xff0, false⟩
/-- BK_LDSTAT (R139). Load progress and last result. -/
def BK_LDSTAT : RegDef := ⟨0xa0104, 0x1000, 8, 0, 1, 0, 0, false⟩
/-- BK_LDFAIL (R139). Failed and ignored load starts. -/
def BK_LDFAIL : RegDef := ⟨0xa0108, 0x1000, 8, 0, 1, 0, 0xffff, false⟩
/-- BK_CSPAR_CNT (R139). Recovered parity errors in the block. -/
def BK_CSPAR_CNT : RegDef := ⟨0xa0110, 0x1000, 8, 0, 1, 0, 0xffff, false⟩
/-- BK_CSPAR_LAST (R139). Location of the last parity error. -/
def BK_CSPAR_LAST : RegDef := ⟨0xa0114, 0x1000, 8, 0, 1, 0, 0, false⟩
/-- BK_LDSECT0 (R139). Section-valid bits of cells 0–7 (R134). -/
def BK_LDSECT0 : RegDef := ⟨0xa0118, 0x1000, 8, 0, 1, 0, 0, false⟩
/-- BK_LDSECT1 (R139). Section-valid bits of cells 8–15 (R134). -/
def BK_LDSECT1 : RegDef := ⟨0xa011c, 0x1000, 8, 0, 1, 0, 0, false⟩
/-- BK_CGOLD (R139). Golden copy of cell c, c = 0–15. -/
def BK_CGOLD : RegDef := ⟨0xa0140, 0x1000, 8, 4, 16, 0, 0xff000, true⟩
/-- EPSTAT (R205). Pending and overrun flags of ports 0–3. -/
def EPSTAT : RegDef := ⟨0x200, 0, 1, 0, 1, 0, 0, false⟩
/-- EPOVR (R205). Events lost at port p, p = 0–3. -/
def EPOVR : RegDef := ⟨0x210, 4, 4, 0, 1, 0, 0xffff, false⟩
/-- EPGT_L (R205). Stamp of the last event consumed at port p, bits [31:0]. -/
def EPGT_L : RegDef := ⟨0x220, 8, 4, 0, 1, 0, 0, false⟩
/-- EPGT_H (R205). The same stamp, bits [63:32]. -/
def EPGT_H : RegDef := ⟨0x224, 8, 4, 0, 1, 0, 0, false⟩
/-- CH_XEV_CFG (R208). Origin of chip-wide channel c. -/
def CH_XEV_CFG : RegDef := ⟨0x80000, 0x10, 16, 0, 1, 0, 0x800007ff, false⟩
/-- CH_XEV_GT_L (R208). Stamp of the last event carried, bits [31:0]. -/
def CH_XEV_GT_L : RegDef := ⟨0x80008, 0x10, 16, 0, 1, 0, 0, false⟩
/-- CH_XEV_GT_H (R208). Stamp of the last event carried, bits [63:32]. -/
def CH_XEV_GT_H : RegDef := ⟨0x8000c, 0x10, 16, 0, 1, 0, 0, false⟩
/-- EV_CH_CFG (R210). Enable, doorbell and source. -/
def EV_CH_CFG : RegDef := ⟨0x50000, 0x20, 256, 0, 1, 0, 0xc00003ff, true⟩
/-- EV_CH_MININT (R210). Minimum repeat interval. -/
def EV_CH_MININT : RegDef := ⟨0x50004, 0x20, 256, 0, 1, 0, 0xffff, true⟩
/-- EV_CH_FORK (R210). Fork entries 2k and 2k + 1. -/
def EV_CH_FORK : RegDef := ⟨0x50008, 0x20, 256, 4, 4, 0, 0x83ff83ff, true⟩
/-- EV_CH_DROP (R210). Arrivals dropped under R195. -/
def EV_CH_DROP : RegDef := ⟨0x50018, 0x20, 256, 0, 1, 0, 0xffff, false⟩
/-- EV_CH_LASTGT (R210). Stamp of the last accepted arrival, bits [31:0]. -/
def EV_CH_LASTGT : RegDef := ⟨0x5001c, 0x20, 256, 0, 1, 0, 0, false⟩
/-- EV_FIRE (R210). Software fire (R198). -/
def EV_FIRE : RegDef := ⟨0x52000, 0, 1, 0, 1, 0, 0, false⟩
/-- EV_DBMERGE (R210). Doorbell requests merged under R212. -/
def EV_DBMERGE : RegDef := ⟨0x52004, 0, 1, 0, 1, 0, 0xffff, false⟩
/-- EV_TK (R210). Merge counter of task input t. -/
def EV_TK : RegDef := ⟨0x54000, 4, 1024, 0, 1, 0, 0xffff, false⟩
/-- IC_DOORBELL (R220). Posts a source. -/
def IC_DOORBELL : RegDef := ⟨0x60000, 0, 1, 0, 1, 0, 0, false⟩
/-- IC_EOI (R220). Completes a source. -/
def IC_EOI : RegDef := ⟨0x60004, 0, 1, 0, 1, 0, 0, false⟩
/-- IC_DISCARD (R220). Posts of sources with priority 0. -/
def IC_DISCARD : RegDef := ⟨0x60010, 0, 1, 0, 1, 0, 0xffff, false⟩
/-- IC_COAL (R220). Posts merged into a pending or delivered source. -/
def IC_COAL : RegDef := ⟨0x60014, 0, 1, 0, 1, 0, 0xffff, false⟩
/-- IC_EOIBAD (R220). Completions of sources not active. -/
def IC_EOIBAD : RegDef := ⟨0x60018, 0, 1, 0, 1, 0, 0xffff, false⟩
/-- IC_TSET (R220). Target set k, regional indices 32w to 32w + 31. -/
def IC_TSET : RegDef := ⟨0x60400, 0x10, 64, 4, 4, 0, 0xffffffff, true⟩
/-- IC_LINE (R220). Level lines of sources 32w to 32w + 31. -/
def IC_LINE : RegDef := ⟨0x60800, 4, 128, 0, 1, 0, 0xffffffff, false⟩
/-- IC_PEND (R220). Pending sources. -/
def IC_PEND : RegDef := ⟨0x60a00, 4, 128, 0, 1, 0, 0, false⟩
/-- IC_ACT (R220). Active sources. -/
def IC_ACT : RegDef := ⟨0x60c00, 4, 128, 0, 1, 0, 0, false⟩
/-- IC_THR (R220). Threshold of cell i. -/
def IC_THR : RegDef := ⟨0x61000, 4, 128, 0, 1, 0xf, 0xf, true⟩
/-- IC_HELD (R220). Occupied slots of cell i. -/
def IC_HELD : RegDef := ⟨0x61200, 4, 128, 0, 1, 0, 0, false⟩
/-- IC_SRC_CFG (R220). Priority, kind and target set of source s. -/
def IC_SRC_CFG : RegDef := ⟨0x64000, 4, 4096, 0, 1, 0, 0x3f1f, true⟩
/-- CH_MSIXDB (R222). Raises an MSI-X vector. -/
def CH_MSIXDB : RegDef := ⟨0x80200, 0, 1, 0, 1, 0, 0, false⟩
/-- CH_MSIXCOAL (R222). Writes merged into a pending vector. -/
def CH_MSIXCOAL : RegDef := ⟨0x80204, 0, 1, 0, 1, 0, 0xffff, false⟩
/-- CH_MSIXDROP (R222). Writes discarded with MSI-X disabled. -/
def CH_MSIXDROP : RegDef := ⟨0x80208, 0, 1, 0, 1, 0, 0xffff, false⟩
/-- AD_STAT (R253). Converter group status. -/
def AD_STAT : RegDef := ⟨0x10000, 0, 1, 0, 1, 0, 0, false⟩
/-- AD_CFG (R253). Reference selection. -/
def AD_CFG : RegDef := ⟨0x10004, 0, 1, 0, 1, 0, 1, true⟩
/-- AD_PROBE (R253). Probe code and connection. -/
def AD_PROBE : RegDef := ⟨0x10010, 0, 1, 0, 1, 0, 0xc01f0fff, false⟩
/-- AD_PROBESTAT (R253). Probe settling and connection. -/
def AD_PROBESTAT : RegDef := ⟨0x10014, 0, 1, 0, 1, 0, 0, false⟩
/-- AD_CALCFG (R253). Calibration enable. -/
def AD_CALCFG : RegDef := ⟨0x10020, 0, 1, 0, 1, 1, 1, true⟩
/-- AD_CALSTAT (R253). Channels served by the spares. -/
def AD_CALSTAT : RegDef := ⟨0x10024, 0, 1, 0, 1, 0x1f1f00, 0, false⟩
/-- AD_CALROT (R253). Rotations completed. -/
def AD_CALROT : RegDef := ⟨0x10028, 0, 1, 0, 1, 0, 0xffffffff, false⟩
/-- AD_CALFAIL (R253). Calibration steps abandoned. -/
def AD_CALFAIL : RegDef := ⟨0x1002c, 0, 1, 0, 1, 0, 0xffff, false⟩
/-- AD_CH_RES (R253). Accumulator result (R236). -/
def AD_CH_RES : RegDef := ⟨0x10100, 0x10, 16, 4, 4, 0, 0, false⟩
/-- AD_SG_CFG (R253). Arm, mode and channels. -/
def AD_SG_CFG : RegDef := ⟨0x10200, 0x20, 8, 0, 1, 0, 0xc000ffff, true⟩
/-- AD_SG_PER (R253). Timed period in ACLK. -/
def AD_SG_PER : RegDef := ⟨0x10204, 0x20, 8, 0, 1, 0, 0xffffff, true⟩
/-- AD_SG_AT_L (R253). Timed start instant, bits [31:0]. -/
def AD_SG_AT_L : RegDef := ⟨0x10208, 0x20, 8, 0, 1, 0, 0xffffffff, false⟩
/-- AD_SG_AT_H (R253). Timed start instant, bits [63:32]. -/
def AD_SG_AT_H : RegDef := ⟨0x1020c, 0x20, 8, 0, 1, 0, 0xffffffff, false⟩
/-- AD_SG_GT_L (R253). Last aperture stamp, bits [31:0]. -/
def AD_SG_GT_L : RegDef := ⟨0x10210, 0x20, 8, 0, 1, 0, 0, false⟩
/-- AD_SG_GT_H (R253). Last aperture stamp, bits [63:32]. -/
def AD_SG_GT_H : RegDef := ⟨0x10214, 0x20, 8, 0, 1, 0, 0, false⟩
/-- AD_SG_OVR (R253). Refused starts (R228). -/
def AD_SG_OVR : RegDef := ⟨0x10218, 0x20, 8, 0, 1, 0, 0xffff, false⟩
/-- AD_SG_MISS (R253). Timed instants already past (R227). -/
def AD_SG_MISS : RegDef := ⟨0x1021c, 0x20, 8, 0, 1, 0, 0xffff, false⟩
/-- AD_CH_CLIP (R253). Samples clipped (R224). -/
def AD_CH_CLIP : RegDef := ⟨0x10300, 4, 16, 0, 1, 0, 0xffff, false⟩
/-- AD_SLICE_STAT (R253). Slice state and assignment. -/
def AD_SLICE_STAT : RegDef := ⟨0x10380, 4, 18, 0, 1, 0, 0xff, false⟩
/-- AD_CH_ACC_CFG (R253). Accumulator configuration. -/
def AD_CH_ACC_CFG : RegDef := ⟨0x11000, 0x80, 16, 0x20, 4, 0, 0xf00fff07, true⟩
/-- AD_CH_ACC_CTL (R253). Start. -/
def AD_CH_ACC_CTL : RegDef := ⟨0x11004, 0x80, 16, 0x20, 4, 0, 0, false⟩
/-- AD_CH_ACC_STAT (R253). Run state and partial count. -/
def AD_CH_ACC_STAT : RegDef := ⟨0x11008, 0x80, 16, 0x20, 4, 0, 0, false⟩
/-- AD_CH_ACC_LGT_L (R253). Stamp of the result last read, bits [31:0]. -/
def AD_CH_ACC_LGT_L : RegDef := ⟨0x1100c, 0x80, 16, 0x20, 4, 0, 0, false⟩
/-- AD_CH_ACC_LGT_H (R253). The same stamp, bits [63:32]. -/
def AD_CH_ACC_LGT_H : RegDef := ⟨0x11010, 0x80, 16, 0x20, 4, 0, 0, false⟩
/-- AD_CH_ACC_SCOUNT (R253). Samples taken (R238). -/
def AD_CH_ACC_SCOUNT : RegDef := ⟨0x11014, 0x80, 16, 0x20, 4, 0, 0xffffffff, false⟩
/-- AD_CH_ACC_SNAPCNT (R253). SCOUNT at the snapshot edge. -/
def AD_CH_ACC_SNAPCNT : RegDef := ⟨0x11018, 0x80, 16, 0x20, 4, 0, 0, false⟩
/-- AD_DIAG_CFG (R253). Diagnostic accumulator. -/
def AD_DIAG_CFG : RegDef := ⟨0x11800, 0, 1, 0, 1, 0, 0xf00fff07, true⟩
/-- AD_DIAG_CTL (R253). Diagnostic accumulator. -/
def AD_DIAG_CTL : RegDef := ⟨0x11804, 0, 1, 0, 1, 0, 0, false⟩
/-- AD_DIAG_STAT (R253). Diagnostic accumulator. -/
def AD_DIAG_STAT : RegDef := ⟨0x11808, 0, 1, 0, 1, 0, 0, false⟩
/-- AD_DIAG_LGT_L (R253). Diagnostic accumulator. -/
def AD_DIAG_LGT_L : RegDef := ⟨0x1180c, 0, 1, 0, 1, 0, 0, false⟩
/-- AD_DIAG_LGT_H (R253). Diagnostic accumulator. -/
def AD_DIAG_LGT_H : RegDef := ⟨0x11810, 0, 1, 0, 1, 0, 0, false⟩
/-- AD_DIAG_SCOUNT (R253). Diagnostic accumulator. -/
def AD_DIAG_SCOUNT : RegDef := ⟨0x11814, 0, 1, 0, 1, 0, 0xffffffff, false⟩
/-- AD_DIAG_SNAPCNT (R253). Diagnostic accumulator. -/
def AD_DIAG_SNAPCNT : RegDef := ⟨0x11818, 0, 1, 0, 1, 0, 0, false⟩
/-- AD_DIAG_RES (R253). Diagnostic result. -/
def AD_DIAG_RES : RegDef := ⟨0x1181c, 0, 1, 0, 1, 0, 0, false⟩
/-- AD_CH_TRK_CFG (R253). Tracker configuration. -/
def AD_CH_TRK_CFG : RegDef := ⟨0x12000, 0x80, 16, 0x40, 2, 0, 0xe00ff000, true⟩
/-- AD_CH_TRK_CTL (R253). Start. -/
def AD_CH_TRK_CTL : RegDef := ⟨0x12004, 0x80, 16, 0x40, 2, 0, 0, false⟩
/-- AD_CH_TRK_STAT (R253). Window state. -/
def AD_CH_TRK_STAT : RegDef := ⟨0x12008, 0x80, 16, 0x40, 2, 0, 0, false⟩
/-- AD_CH_TRK_LEN (R253). Window length in ticks or samples. -/
def AD_CH_TRK_LEN : RegDef := ⟨0x1200c, 0x80, 16, 0x40, 2, 0, 0xffffffff, true⟩
/-- AD_CH_TRK_OPEN_L (R253). Window open, bits [31:0]. -/
def AD_CH_TRK_OPEN_L : RegDef := ⟨0x12010, 0x80, 16, 0x40, 2, 0, 0xffffffff, false⟩
/-- AD_CH_TRK_OPEN_H (R253). Window open, bits [63:32]. -/
def AD_CH_TRK_OPEN_H : RegDef := ⟨0x12014, 0x80, 16, 0x40, 2, 0, 0xffffffff, false⟩
/-- AD_CH_TRK_RESULT (R253). Extremes of the last window. -/
def AD_CH_TRK_RESULT : RegDef := ⟨0x12018, 0x80, 16, 0x40, 2, 0x80007fff, 0, false⟩
/-- AD_CH_TRK_CNT (R253). Samples in the last window. -/
def AD_CH_TRK_CNT : RegDef := ⟨0x1201c, 0x80, 16, 0x40, 2, 0, 0, false⟩
/-- AD_CH_TRK_END_L (R253). END of the last window, bits [31:0]. -/
def AD_CH_TRK_END_L : RegDef := ⟨0x12020, 0x80, 16, 0x40, 2, 0, 0, false⟩
/-- AD_CH_TRK_END_H (R253). END of the last window, bits [63:32]. -/
def AD_CH_TRK_END_H : RegDef := ⟨0x12024, 0x80, 16, 0x40, 2, 0, 0, false⟩
/-- TM_TRP_CFG (R278). Trip input filter and polarity. -/
def TM_TRP_CFG : RegDef := ⟨0x20010, 4, 4, 0, 1, 0, 0xff01, true⟩
/-- TM_TRPSTAT (R278). Trip inputs asserted. -/
def TM_TRPSTAT : RegDef := ⟨0x20020, 0, 1, 0, 1, 0, 0, false⟩
/-- TM_GSTART (R278). Starts channels 32w–32w + 31. -/
def TM_GSTART : RegDef := ⟨0x20040, 4, 2, 0, 1, 0, 0, false⟩
/-- TM_GSTOP (R278). Stops channels 32w–32w + 31. -/
def TM_GSTOP : RegDef := ⟨0x20048, 4, 2, 0, 1, 0, 0, false⟩
/-- TM_CH_CMPA (R278). Compare A, live. -/
def TM_CH_CMPA : RegDef := ⟨0x20200, 8, 64, 0, 1, 0, 0xffffffff, false⟩
/-- TM_CH_CMPB (R278). Compare B, live. -/
def TM_CH_CMPB : RegDef := ⟨0x20204, 8, 64, 0, 1, 0, 0xffffffff, false⟩
/-- TM_STAT (R278). Channel status. -/
def TM_STAT : RegDef := ⟨0x20400, 4, 64, 0, 1, 0, 0, false⟩
/-- TM_CH_CFG (R278). Prescaler, fraction, link. -/
def TM_CH_CFG : RegDef := ⟨0x21000, 0x40, 64, 0, 1, 0, 0xc00000ff, true⟩
/-- TM_CH_CTL (R278). Start, stop, reload, force. -/
def TM_CH_CTL : RegDef := ⟨0x21004, 0x40, 64, 0, 1, 0, 0, false⟩
/-- TM_CH_RELOAD (R278). Top count. -/
def TM_CH_RELOAD : RegDef := ⟨0x21008, 0x40, 64, 0, 1, 0xffffffff, 0xffffffff, true⟩
/-- TM_CH_PHASE (R278). Value loaded at start and reload. -/
def TM_CH_PHASE : RegDef := ⟨0x2100c, 0x40, 64, 0, 1, 0, 0xffffffff, true⟩
/-- TM_CH_CNT (R278). Counter. -/
def TM_CH_CNT : RegDef := ⟨0x21010, 0x40, 64, 0, 1, 0, 0xffffffff, false⟩
/-- TM_CH_SNAP (R278). Counter at the snapshot edge. -/
def TM_CH_SNAP : RegDef := ⟨0x21014, 0x40, 64, 0, 1, 0, 0, false⟩
/-- TM_CH_ACT (R278). Actions, polarity, safe state. -/
def TM_CH_ACT : RegDef := ⟨0x21018, 0x40, 64, 0, 1, 0, 0x17ff, true⟩
/-- TM_CH_CAPCFG (R278). Capture input, edge, filter, prescaler. -/
def TM_CH_CAPCFG : RegDef := ⟨0x2101c, 0x40, 64, 0, 1, 0, 0xffff037f, true⟩
/-- TM_CH_CAP (R278). Oldest capture; a read removes it. -/
def TM_CH_CAP : RegDef := ⟨0x21020, 0x40, 64, 0, 1, 0, 0, false⟩
/-- TM_CH_CAPGT_L (R278). Stamp of the capture last read, bits [31:0]. -/
def TM_CH_CAPGT_L : RegDef := ⟨0x21024, 0x40, 64, 0, 1, 0, 0, false⟩
/-- TM_CH_CAPGT_H (R278). The same stamp, bits [63:32]. -/
def TM_CH_CAPGT_H : RegDef := ⟨0x21028, 0x40, 64, 0, 1, 0, 0, false⟩
/-- TM_CH_CAPOVR (R278). Captures lost. -/
def TM_CH_CAPOVR : RegDef := ⟨0x2102c, 0x40, 64, 0, 1, 0, 0xffff, false⟩
/-- TM_PAIR_CFG (R278). Complementary mode and trip causes. -/
def TM_PAIR_CFG : RegDef := ⟨0x23000, 0x20, 24, 0, 1, 0, 0x3f07, true⟩
/-- TM_PAIR_DT (R278). Dead times. -/
def TM_PAIR_DT : RegDef := ⟨0x23004, 0x20, 24, 0, 1, 0, 0xffffffff, true⟩
/-- TM_PAIR_DL (R278). Deadline monitor. -/
def TM_PAIR_DL : RegDef := ⟨0x23008, 0x20, 24, 0, 1, 0, 0xc7ffffff, true⟩
/-- TM_PAIR_CTL (R278). Software trip and rearm. -/
def TM_PAIR_CTL : RegDef := ⟨0x2300c, 0x20, 24, 0, 1, 0, 0, false⟩
/-- TM_PAIR_STAT (R278). Trip state and cause. -/
def TM_PAIR_STAT : RegDef := ⟨0x23010, 0x20, 24, 0, 1, 0, 0, false⟩
/-- TM_PAIR_DLMISS (R278). Deadline misses. -/
def TM_PAIR_DLMISS : RegDef := ⟨0x23014, 0x20, 24, 0, 1, 0, 0xffff, false⟩
/-- TM_PAIR_TRIPS (R278). Entries to the tripped state. -/
def TM_PAIR_TRIPS : RegDef := ⟨0x23018, 0x20, 24, 0, 1, 0, 0xffff, false⟩
/-- LP_BAND_CFG (R305). Enable and exit mode. -/
def LP_BAND_CFG : RegDef := ⟨0x30000, 0x10, 16, 0, 1, 0, 0xc0000000, true⟩
/-- LP_BAND_LIM (R305). CENTER and HALF, live. -/
def LP_BAND_LIM : RegDef := ⟨0x30004, 0x10, 16, 0, 1, 0, 0xffff7fff, false⟩
/-- LP_BAND_STAT (R305). Zone of the latest sample. -/
def LP_BAND_STAT : RegDef := ⟨0x30008, 0x10, 16, 0, 1, 0, 0, false⟩
/-- LP_BAND_XCNT (R305). Exits presented. -/
def LP_BAND_XCNT : RegDef := ⟨0x3000c, 0x10, 16, 0, 1, 0, 0xffffffff, false⟩
/-- LP_TRM_MAP (R305). Tramline map entry. -/
def LP_TRM_MAP : RegDef := ⟨0x30100, 8, 32, 4, 2, 0, 0xc0ffffff, true⟩
/-- LP_PG_TICK (R305). Tick period. -/
def LP_PG_TICK : RegDef := ⟨0x30400, 0x80, 8, 0, 1, 0x50, 0xfffff, true⟩
/-- LP_PG_CTL (R305). Start and abort. -/
def LP_PG_CTL : RegDef := ⟨0x30404, 0x80, 8, 0, 1, 0, 0, false⟩
/-- LP_PG_STAT (R305). Generator state. -/
def LP_PG_STAT : RegDef := ⟨0x30408, 0x80, 8, 0, 1, 4, 0, false⟩
/-- LP_PG_TARGET_L (R305). Target, bits [31:0]. -/
def LP_PG_TARGET_L : RegDef := ⟨0x30410, 0x80, 8, 0, 1, 0, 0xffffffff, false⟩
/-- LP_PG_TARGET_H (R305). Target, bits [63:32]. -/
def LP_PG_TARGET_H : RegDef := ⟨0x30414, 0x80, 8, 0, 1, 0, 0xffffffff, false⟩
/-- LP_PG_VMAX_L (R305). Velocity limit, bits [31:0]. -/
def LP_PG_VMAX_L : RegDef := ⟨0x30418, 0x80, 8, 0, 1, 0, 0xffffffff, true⟩
/-- LP_PG_VMAX_H (R305). Velocity limit, bits [63:32]. -/
def LP_PG_VMAX_H : RegDef := ⟨0x3041c, 0x80, 8, 0, 1, 0, 0xffffffff, true⟩
/-- LP_PG_AMAX_L (R305). Acceleration limit, bits [31:0]. -/
def LP_PG_AMAX_L : RegDef := ⟨0x30420, 0x80, 8, 0, 1, 0, 0xffffffff, true⟩
/-- LP_PG_AMAX_H (R305). Acceleration limit, bits [63:32]. -/
def LP_PG_AMAX_H : RegDef := ⟨0x30424, 0x80, 8, 0, 1, 0, 0xffffffff, true⟩
/-- LP_PG_JMAX_L (R305). Jerk limit, bits [31:0]. -/
def LP_PG_JMAX_L : RegDef := ⟨0x30428, 0x80, 8, 0, 1, 0, 0xffffffff, true⟩
/-- LP_PG_JMAX_H (R305). Jerk limit, bits [63:32]. -/
def LP_PG_JMAX_H : RegDef := ⟨0x3042c, 0x80, 8, 0, 1, 0, 0xffffffff, true⟩
/-- LP_PG_POS_L (R305). Set-point, bits [31:0]. -/
def LP_PG_POS_L : RegDef := ⟨0x30430, 0x80, 8, 0, 1, 0, 0xffffffff, false⟩
/-- LP_PG_POS_H (R305). Set-point, bits [63:32]. -/
def LP_PG_POS_H : RegDef := ⟨0x30434, 0x80, 8, 0, 1, 0, 0xffffffff, false⟩
/-- LP_PG_VEL_L (R305). Velocity, bits [31:0]. -/
def LP_PG_VEL_L : RegDef := ⟨0x30438, 0x80, 8, 0, 1, 0, 0, false⟩
/-- LP_PG_VEL_H (R305). Velocity, bits [63:32]. -/
def LP_PG_VEL_H : RegDef := ⟨0x3043c, 0x80, 8, 0, 1, 0, 0, false⟩
/-- LP_PG_ACC_L (R305). Acceleration, bits [31:0]. -/
def LP_PG_ACC_L : RegDef := ⟨0x30440, 0x80, 8, 0, 1, 0, 0, false⟩
/-- LP_PG_ACC_H (R305). Acceleration, bits [63:32]. -/
def LP_PG_ACC_H : RegDef := ⟨0x30444, 0x80, 8, 0, 1, 0, 0, false⟩
/-- LP_INJ_CFG (R305). Mode, length, destination. -/
def LP_INJ_CFG : RegDef := ⟨0x30800, 0, 1, 0, 1, 0, 0xff07003f, true⟩
/-- LP_INJ_CTL (R305). Start and stop. -/
def LP_INJ_CTL : RegDef := ⟨0x30804, 0, 1, 0, 1, 0, 0, false⟩
/-- LP_INJ_STAT (R305). Run state. -/
def LP_INJ_STAT : RegDef := ⟨0x30808, 0, 1, 0, 1, 0, 0, false⟩
/-- LP_INJ_AMPL (R305). Amplitude. -/
def LP_INJ_AMPL : RegDef := ⟨0x3080c, 0, 1, 0, 1, 0, 0xffff, true⟩
/-- LP_INJ_INT (R305). Step interval. -/
def LP_INJ_INT : RegDef := ⟨0x30810, 0, 1, 0, 1, 0, 0xffffffff, true⟩
/-- LP_INJ_FREQ (R305). Initial phase step. -/
def LP_INJ_FREQ : RegDef := ⟨0x30814, 0, 1, 0, 1, 0, 0xffffffff, true⟩
/-- LP_INJ_DFREQ (R305). Frequency change. -/
def LP_INJ_DFREQ : RegDef := ⟨0x30818, 0, 1, 0, 1, 0, 0xffffffff, true⟩
/-- LP_INJ_DUR (R305). Steps per run or per dwell. -/
def LP_INJ_DUR : RegDef := ⟨0x3081c, 0, 1, 0, 1, 0, 0xffffffff, true⟩
/-- LP_INJ_COUNT (R305). Dwells of a sine-step run. -/
def LP_INJ_COUNT : RegDef := ⟨0x30820, 0, 1, 0, 1, 0, 0xffff, true⟩
/-- LP_INJ_SEED (R305). Shift-register start. -/
def LP_INJ_SEED : RegDef := ⟨0x30824, 0, 1, 0, 1, 1, 0x7fffffff, true⟩
/-- LP_INJ_VALUE (R305). v in force. -/
def LP_INJ_VALUE : RegDef := ⟨0x30828, 0, 1, 0, 1, 0, 0, false⟩
/-- LP_RC_CFG (R305). Capture source and ring size. -/
def LP_RC_CFG : RegDef := ⟨0x30900, 0, 1, 0, 1, 0, 0xc01f003f, true⟩
/-- LP_RC_BASE (R305). Ring base. -/
def LP_RC_BASE : RegDef := ⟨0x30904, 0, 1, 0, 1, 0, 0xffff, true⟩
/-- LP_RC_WPTR (R305). Next entry. -/
def LP_RC_WPTR : RegDef := ⟨0x30908, 0, 1, 0, 1, 0, 0, false⟩
/-- LP_RC_STAT (R305). Capture state. -/
def LP_RC_STAT : RegDef := ⟨0x3090c, 0, 1, 0, 1, 0, 0, false⟩
/-- LP_RC_LOST (R305). Entries lost. -/
def LP_RC_LOST : RegDef := ⟨0x30910, 0, 1, 0, 1, 0, 0xffff, false⟩
/-- LP_RC_CTL (R305). Ring reset. -/
def LP_RC_CTL : RegDef := ⟨0x30914, 0, 1, 0, 1, 0, 0, false⟩
/-- CFACT (R306). Active bank, word i; read only. -/
def CFACT : RegDef := ⟨0x1000, 4, 64, 0, 1, 0, 0, false⟩
/-- CFIN (R306). Inactive bank, word i. -/
def CFIN : RegDef := ⟨0x1100, 4, 64, 0, 1, 0, 0xffffffff, false⟩
/-- CFA (R306). Bank A, word i; read only. -/
def CFA : RegDef := ⟨0x1200, 4, 64, 0, 1, 0, 0, false⟩
/-- CFB (R306). Bank B, word i; read only. -/
def CFB : RegDef := ⟨0x1300, 4, 64, 0, 1, 0, 0, false⟩
/-- CFCTL (R306). Swap control. -/
def CFCTL : RegDef := ⟨0x1800, 0, 1, 0, 1, 0, 0, false⟩
/-- CFSWAPS (R306). Swaps made. -/
def CFSWAPS : RegDef := ⟨0x1804, 0, 1, 0, 1, 0, 0xffff, false⟩
/-- FB_UN_CFG (R325). Mode, direction, averaging, filter, index. -/
def FB_UN_CFG : RegDef := ⟨0x40000, 0x80, 8, 0, 1, 0x10, 0x7ff77, true⟩
/-- FB_UN_STAT (R325). Decoder state and flags. -/
def FB_UN_STAT : RegDef := ⟨0x40004, 0x80, 8, 0, 1, 0x47, 0, false⟩
/-- FB_UN_POS_L (R325). Position, bits [31:0]. -/
def FB_UN_POS_L : RegDef := ⟨0x40008, 0x80, 8, 0, 1, 0, 0xffffffff, false⟩
/-- FB_UN_POS_H (R325). Position, bits [63:32]; wide. -/
def FB_UN_POS_H : RegDef := ⟨0x4000c, 0x80, 8, 0, 1, 0, 0xffffffff, false⟩
/-- FB_UN_PERIOD (R325). Time of the last NAVG edges, PCLK. -/
def FB_UN_PERIOD : RegDef := ⟨0x40010, 0x80, 8, 0, 1, 0, 0, false⟩
/-- FB_UN_AGE (R325). PCLK since the last valid edge. -/
def FB_UN_AGE : RegDef := ⟨0x40014, 0x80, 8, 0, 1, 0, 0, false⟩
/-- FB_UN_TIMEOUT (R325). Stop timeout, PCLK. -/
def FB_UN_TIMEOUT : RegDef := ⟨0x40018, 0x80, 8, 0, 1, 0, 0xffffffff, true⟩
/-- FB_UN_LEDGE_L (R325). Stamp of the last valid edge, bits [31:0]. -/
def FB_UN_LEDGE_L : RegDef := ⟨0x4001c, 0x80, 8, 0, 1, 0, 0, false⟩
/-- FB_UN_LEDGE_H (R325). The same stamp, bits [63:32]. -/
def FB_UN_LEDGE_H : RegDef := ⟨0x40020, 0x80, 8, 0, 1, 0, 0, false⟩
/-- FB_UN_CMP (R325). Compare value, live. -/
def FB_UN_CMP : RegDef := ⟨0x40024, 0x80, 8, 0, 1, 0, 0xffffffff, false⟩
/-- FB_UN_CMPSP (R325). Compare spacing. -/
def FB_UN_CMPSP : RegDef := ⟨0x40028, 0x80, 8, 0, 1, 0, 0xffffffff, true⟩
/-- FB_UN_ZLOAD (R325). Position loaded at Z. -/
def FB_UN_ZLOAD : RegDef := ⟨0x4002c, 0x80, 8, 0, 1, 0, 0xffffffff, true⟩
/-- FB_UN_ZPOS_L (R325). Position at the last Z edge, bits [31:0]. -/
def FB_UN_ZPOS_L : RegDef := ⟨0x40030, 0x80, 8, 0, 1, 0, 0, false⟩
/-- FB_UN_ZPOS_H (R325). The same, bits [63:32]; wide. -/
def FB_UN_ZPOS_H : RegDef := ⟨0x40034, 0x80, 8, 0, 1, 0, 0, false⟩
/-- FB_UN_ILL (R325). Illegal changes. -/
def FB_UN_ILL : RegDef := ⟨0x40038, 0x80, 8, 0, 1, 0, 0xffff, false⟩
/-- FB_UN_HITS (R325). Compare hits. -/
def FB_UN_HITS : RegDef := ⟨0x4003c, 0x80, 8, 0, 1, 0, 0xffff, false⟩
/-- FB_UN_SNAP_L (R325). Position at the snapshot edge, bits [31:0]. -/
def FB_UN_SNAP_L : RegDef := ⟨0x40040, 0x80, 8, 0, 1, 0, 0, false⟩
/-- FB_UN_SNAP_H (R325). The same, bits [63:32]; wide. -/
def FB_UN_SNAP_H : RegDef := ⟨0x40044, 0x80, 8, 0, 1, 0, 0, false⟩
/-- FB_UN_LPOS_L (R325). Latched position, bits [31:0]. -/
def FB_UN_LPOS_L : RegDef := ⟨0x40048, 0x80, 8, 0, 1, 0, 0, false⟩
/-- FB_UN_LPOS_H (R325). Latched position, bits [63:32]; wide. -/
def FB_UN_LPOS_H : RegDef := ⟨0x4004c, 0x80, 8, 0, 1, 0, 0, false⟩
/-- FB_UN_LGT_L (R325). GTIME at the latch, bits [31:0]; wide. -/
def FB_UN_LGT_L : RegDef := ⟨0x40050, 0x80, 8, 0, 1, 0, 0, false⟩
/-- FB_UN_LGT_H (R325). GTIME at the latch, bits [63:32]; wide. -/
def FB_UN_LGT_H : RegDef := ⟨0x40054, 0x80, 8, 0, 1, 0, 0, false⟩
/-- FB_UN_LEDGEL_L (R325). LEDGE at the latch, bits [31:0]; wide. -/
def FB_UN_LEDGEL_L : RegDef := ⟨0x40058, 0x80, 8, 0, 1, 0, 0, false⟩
/-- FB_UN_LEDGEL_H (R325). LEDGE at the latch, bits [63:32]; wide. -/
def FB_UN_LEDGEL_H : RegDef := ⟨0x4005c, 0x80, 8, 0, 1, 0, 0, false⟩
/-- FB_UN_LPER (R325). PERIOD at the latch; wide. -/
def FB_UN_LPER : RegDef := ⟨0x40060, 0x80, 8, 0, 1, 0, 0, false⟩
/-- FB_UN_LSTAT (R325). Speed state at the latch; wide. -/
def FB_UN_LSTAT : RegDef := ⟨0x40064, 0x80, 8, 0, 1, 0, 0, false⟩
/-- FB_UN_LCNT (R325). Latches taken. -/
def FB_UN_LCNT : RegDef := ⟨0x40068, 0x80, 8, 0, 1, 0, 0xffff, false⟩
/-- MB_ECC_SBE (R340). Corrected errors. -/
def MB_ECC_SBE : RegDef := ⟨0x90010, 0, 1, 0, 1, 0, 0xffff, false⟩
/-- MB_ECC_DBE (R340). Uncorrectable errors. -/
def MB_ECC_DBE : RegDef := ⟨0x90014, 0, 1, 0, 1, 0, 0xffff, false⟩
/-- MB_ECC_LASTSBE (R340). Location of the last corrected error. -/
def MB_ECC_LASTSBE : RegDef := ⟨0x90018, 0, 1, 0, 1, 0, 0, false⟩
/-- MB_ECC_LASTDBE (R340). Location of the last uncorrectable error. -/
def MB_ECC_LASTDBE : RegDef := ⟨0x9001c, 0, 1, 0, 1, 0, 0, false⟩
/-- MB_ECC_REPEAT (R340). Repeats at the last corrected location. -/
def MB_ECC_REPEAT : RegDef := ⟨0x90020, 0, 1, 0, 1, 0, 0, false⟩
/-- MB_PWRREF (R340). Accesses refused by bank state. -/
def MB_PWRREF : RegDef := ⟨0x90024, 0, 1, 0, 1, 0, 0xffff, false⟩
/-- MB_PINREF (R340). Cell writes refused by PIN. -/
def MB_PINREF : RegDef := ⟨0x90028, 0, 1, 0, 1, 0, 0xffff, false⟩
/-- MB_HRW_CFG (R340). Harrow enable and period. -/
def MB_HRW_CFG : RegDef := ⟨0x90040, 0, 1, 0, 1, 0x8000000a, 0x800003ff, true⟩
/-- MB_HRW_STAT (R340). Harrow state. -/
def MB_HRW_STAT : RegDef := ⟨0x90044, 0, 1, 0, 1, 0, 0, false⟩
/-- MB_HRW_PASSES (R340). Passes completed. -/
def MB_HRW_PASSES : RegDef := ⟨0x90048, 0, 1, 0, 1, 0, 0xffff, false⟩
/-- MB_HRW_SKIP (R340). Accesses skipped. -/
def MB_HRW_SKIP : RegDef := ⟨0x9004c, 0, 1, 0, 1, 0, 0xffff, false⟩
/-- MB_MT_CTL (R340). Start and abort. -/
def MB_MT_CTL : RegDef := ⟨0x90080, 0, 1, 0, 1, 0, 0, false⟩
/-- MB_MT_CFG (R340). Mode. -/
def MB_MT_CFG : RegDef := ⟨0x90084, 0, 1, 0, 1, 0, 1, false⟩
/-- MB_MT_STAT (R340). Progress. -/
def MB_MT_STAT : RegDef := ⟨0x90088, 0, 1, 0, 1, 0, 0, false⟩
/-- MB_MT_FIRST (R340). First failure. -/
def MB_MT_FIRST : RegDef := ⟨0x9008c, 0, 1, 0, 1, 0, 0, false⟩
/-- MB_MT_MASK (R340). Banks 32w to 32w + 31 to test. -/
def MB_MT_MASK : RegDef := ⟨0x90090, 4, 2, 0, 1, 0, 0xffffffff, false⟩
/-- MB_MT_MASK2 (R340). Banks 64 to 79 to test; bits 31 to 16 are reserved. -/
def MB_MT_MASK2 : RegDef := ⟨0x90098, 0, 1, 0, 1, 0, 0xffff, false⟩
/-- MB_MT_FAIL (R340). Banks that failed the last test. -/
def MB_MT_FAIL : RegDef := ⟨0x900a0, 4, 3, 0, 1, 0, 0, false⟩
/-- MB_MT_SKIP (R340). Banks skipped in the last test. -/
def MB_MT_SKIP : RegDef := ⟨0x900b0, 4, 3, 0, 1, 0, 0, false⟩
/-- MB_BANK_PWR (R340). Power state and pin. -/
def MB_BANK_PWR : RegDef := ⟨0x90100, 4, 80, 0, 1, 0, 0x80000003, true⟩
/-- MB_BANK_STAT (R340). Failure count. -/
def MB_BANK_STAT : RegDef := ⟨0x90200, 4, 80, 0, 1, 0, 0xffff, false⟩
/-- DM_STAT (R353). Buffer in use. -/
def DM_STAT : RegDef := ⟨0x70000, 0, 1, 0, 1, 0, 0, false⟩
/-- DM_CH_CFG (R353). Request mode and line. -/
def DM_CH_CFG : RegDef := ⟨0x71000, 0x40, 16, 0, 1, 0, 0x37f, true⟩
/-- DM_CH_CTL (R353). Start and abort. -/
def DM_CH_CTL : RegDef := ⟨0x71004, 0x40, 16, 0, 1, 0, 0, false⟩
/-- DM_CH_DESC (R353). First descriptor. -/
def DM_CH_DESC : RegDef := ⟨0x71008, 0x40, 16, 0, 1, 0, 0xfffe0, false⟩
/-- DM_CH_STAT (R353). Channel state. -/
def DM_CH_STAT : RegDef := ⟨0x7100c, 0x40, 16, 0, 1, 0, 0, false⟩
/-- DM_CH_CUR (R353). Descriptor being run. -/
def DM_CH_CUR : RegDef := ⟨0x71010, 0x40, 16, 0, 1, 0, 0, false⟩
/-- DM_CH_RESID (R353). Bytes of the current descriptor not yet written. -/
def DM_CH_RESID : RegDef := ⟨0x71014, 0x40, 16, 0, 1, 0, 0, false⟩
/-- DM_CH_OVR (R353). Requests lost (R347). -/
def DM_CH_OVR : RegDef := ⟨0x71018, 0x40, 16, 0, 1, 0, 0xffff, false⟩
/-- DM_CH_WDR (R353). Bursts during which the request was withdrawn. -/
def DM_CH_WDR : RegDef := ⟨0x7101c, 0x40, 16, 0, 1, 0, 0xffff, false⟩
/-- DM_CH_ERRADDR (R353). Address of the last failed access. -/
def DM_CH_ERRADDR : RegDef := ⟨0x71020, 0x40, 16, 0, 1, 0, 0, false⟩
/-- HW_VERSION_L (R365). Device version descriptor, word 0. -/
def HW_VERSION_L : RegDef := ⟨0x50000, 0, 1, 0, 1, 0x10300, 0, false⟩
/-- HW_VERSION_H (R365). Device capabilities. -/
def HW_VERSION_H : RegDef := ⟨0x50004, 0, 1, 0, 1, 7, 0, false⟩
/-- HW_OFFER (R365). Majors offered by the host; a write negotiates. -/
def HW_OFFER : RegDef := ⟨0x50010, 0, 1, 0, 1, 0, 0xfe, false⟩
/-- HW_OFFCAP (R365). Capabilities offered by the host. -/
def HW_OFFCAP : RegDef := ⟨0x50014, 0, 1, 0, 1, 0, 0xffffffff, false⟩
/-- HW_AGREED (R365). Agreed version descriptor, word 0. -/
def HW_AGREED : RegDef := ⟨0x50018, 0, 1, 0, 1, 0, 0, false⟩
/-- HW_AGRCAP (R365). Agreed capabilities. -/
def HW_AGRCAP : RegDef := ⟨0x5001c, 0, 1, 0, 1, 0, 0, false⟩
/-- HW_STAT (R365). Negotiation state. -/
def HW_STAT : RegDef := ⟨0x50020, 0, 1, 0, 1, 0, 0, false⟩
/-- HW_DB (R365). Doorbell posted at negotiation. -/
def HW_DB : RegDef := ⟨0x50024, 0, 1, 0, 1, 0, 0x87000fff, false⟩
/-- HW_URDROP (R365). Posted writes discarded (R357). -/
def HW_URDROP : RegDef := ⟨0x50030, 0, 1, 0, 1, 0, 0xffff, false⟩
/-- HW_CABORT (R365). Requests refused (R357). -/
def HW_CABORT : RegDef := ⟨0x50034, 0, 1, 0, 1, 0, 0xffff, false⟩
/-- HW_LINK (R365). Trained link. -/
def HW_LINK : RegDef := ⟨0x50038, 0, 1, 0, 1, 0, 0, false⟩
/-- EN_P_CFG (R374). Enable, mode, region, filter, length. -/
def EN_P_CFG : RegDef := ⟨0x60000, 0x100, 2, 0, 1, 0x5f2, 0xffc03fff, false⟩
/-- EN_P_STAT (R374). Link state. -/
def EN_P_STAT : RegDef := ⟨0x60004, 0x100, 2, 0, 1, 0, 0, false⟩
/-- EN_P_MAC_L (R374). Station address, bytes 0–3. -/
def EN_P_MAC_L : RegDef := ⟨0x60008, 0x100, 2, 0, 1, 0, 0xffffffff, false⟩
/-- EN_P_MAC_H (R374). Station address, bytes 4–5 in [15:0]. -/
def EN_P_MAC_H : RegDef := ⟨0x6000c, 0x100, 2, 0, 1, 0, 0xffff, false⟩
/-- EN_P_RXRING (R374). Receive ring. -/
def EN_P_RXRING : RegDef := ⟨0x60010, 0x100, 2, 0, 1, 0x40000000, 0xf00fffe0, false⟩
/-- EN_P_TXRING (R374). Transmit ring. -/
def EN_P_TXRING : RegDef := ⟨0x60014, 0x100, 2, 0, 1, 0x40000000, 0xf00fffe0, false⟩
/-- EN_P_RXIDX (R374). Next receive descriptor, [11:0], RO. -/
def EN_P_RXIDX : RegDef := ⟨0x60018, 0x100, 2, 0, 1, 0, 0, false⟩
/-- EN_P_TXIDX (R374). Next transmit descriptor, [11:0], RO. -/
def EN_P_TXIDX : RegDef := ⟨0x6001c, 0x100, 2, 0, 1, 0, 0, false⟩
/-- EN_P_KICK (R374). [1] RX, [0] TX; W1. -/
def EN_P_KICK : RegDef := ⟨0x60020, 0x100, 2, 0, 1, 0, 0, false⟩
/-- EN_P_DB (R374). Doorbell (layout of HW_DB). -/
def EN_P_DB : RegDef := ⟨0x60024, 0x100, 2, 0, 1, 0, 0x80000fff, false⟩
/-- EN_P_RXLAT (R374). Signed ticks added to receive stamps. -/
def EN_P_RXLAT : RegDef := ⟨0x60028, 0x100, 2, 0, 1, 0, 0xffffffff, false⟩
/-- EN_P_TXLAT (R374). Signed ticks added to transmit stamps. -/
def EN_P_TXLAT : RegDef := ⟨0x6002c, 0x100, 2, 0, 1, 0, 0xffffffff, false⟩
/-- EN_P_RXBAD (R374). COUNT: frames discarded (R368). -/
def EN_P_RXBAD : RegDef := ⟨0x60030, 0x100, 2, 0, 1, 0, 0xffff, false⟩
/-- EN_P_RXWAIT (R374). COUNT: waits for a descriptor. -/
def EN_P_RXWAIT : RegDef := ⟨0x60034, 0x100, 2, 0, 1, 0, 0xffff, false⟩
/-- EN_P_RXFIFO (R374). COUNT: frames lost at a full FIFO. -/
def EN_P_RXFIFO : RegDef := ⟨0x60038, 0x100, 2, 0, 1, 0, 0xffff, false⟩
/-- EN_P_TXLATE (R374). COUNT: late launches. -/
def EN_P_TXLATE : RegDef := ⟨0x6003c, 0x100, 2, 0, 1, 0, 0xffff, false⟩
/-- XL_P_CFG (R383). Enable, region, offer. -/
def XL_P_CFG : RegDef := ⟨0x70000, 0x100, 4, 0, 1, 0xe03, 0x87000e03, false⟩
/-- XL_P_STAT (R383). Link state and agreement. -/
def XL_P_STAT : RegDef := ⟨0x70004, 0x100, 4, 0, 1, 0, 0, false⟩
/-- XL_P_PEER_L (R383). Partner version descriptor, word 0. -/
def XL_P_PEER_L : RegDef := ⟨0x70008, 0x100, 4, 0, 1, 0, 0, false⟩
/-- XL_P_PEER_H (R383). Partner capabilities. -/
def XL_P_PEER_H : RegDef := ⟨0x7000c, 0x100, 4, 0, 1, 0, 0, false⟩
/-- XL_P_LANESTAT (R383). Lane lock and retirement. -/
def XL_P_LANESTAT : RegDef := ⟨0x70010, 0x100, 4, 0, 1, 0, 0, false⟩
/-- XL_P_CTL (R383). Retrain, time frame, unretire. -/
def XL_P_CTL : RegDef := ⟨0x70014, 0x100, 4, 0, 1, 0, 0, false⟩
/-- XL_P_KICK (R383). [7:4] RX of VC 0–3, [3:0] TX of VC 0–3; W1. -/
def XL_P_KICK : RegDef := ⟨0x70018, 0x100, 4, 0, 1, 0, 0, false⟩
/-- XL_P_DB (R383). Doorbell (layout of HW_DB). -/
def XL_P_DB : RegDef := ⟨0x7001c, 0x100, 4, 0, 1, 0, 0x80000fff, false⟩
/-- XL_P_RXRING (R383). Receive ring of VC v. -/
def XL_P_RXRING : RegDef := ⟨0x70020, 0x100, 4, 8, 4, 0x40000000, 0xf00fffe0, false⟩
/-- XL_P_TXRING (R383). Transmit ring of VC v. -/
def XL_P_TXRING : RegDef := ⟨0x70024, 0x100, 4, 8, 4, 0x40000000, 0xf00fffe0, false⟩
/-- XL_P_RETRY (R383). COUNT: resend episodes. -/
def XL_P_RETRY : RegDef := ⟨0x70040, 0x100, 4, 0, 1, 0, 0xffff, false⟩
/-- XL_P_RETRAIN (R383). COUNT: trainings after the first. -/
def XL_P_RETRAIN : RegDef := ⟨0x70044, 0x100, 4, 0, 1, 0, 0xffff, false⟩
/-- XL_P_CRCERR (R383). COUNT: frames discarded (R377). -/
def XL_P_CRCERR : RegDef := ⟨0x70048, 0x100, 4, 0, 1, 0, 0xffff, false⟩
/-- XL_P_LANEERR (R383). COUNT: code errors on lane l. -/
def XL_P_LANEERR : RegDef := ⟨0x70050, 0x100, 4, 4, 4, 0, 0xffff, false⟩
/-- FP_IN (R390). Filtered levels. -/
def FP_IN : RegDef := ⟨0x80000, 0, 1, 0, 1, 0, 0, false⟩
/-- FP_OUT (R390). Output levels. -/
def FP_OUT : RegDef := ⟨0x80004, 0, 1, 0, 1, 0, 0xffffffff, false⟩
/-- FP_OE (R390). Drive enables. -/
def FP_OE : RegDef := ⟨0x80008, 0, 1, 0, 1, 0, 0xffffffff, true⟩
/-- FP_BANK (R390). Bank levels. -/
def FP_BANK : RegDef := ⟨0x8000c, 0, 1, 0, 1, 0, 0, false⟩
/-- FP_P_CFG (R390). Drive, filter, edge, service request. -/
def FP_P_CFG : RegDef := ⟨0x81000, 0x40, 32, 0, 1, 0, 0x83ff0300, true⟩
/-- FP_P_TQ_L (R390). Entry time, bits [31:0]. -/
def FP_P_TQ_L : RegDef := ⟨0x81004, 0x40, 32, 0, 1, 0, 0xffffffff, false⟩
/-- FP_P_TQ_H (R390). Entry time, bits [63:32]. -/
def FP_P_TQ_H : RegDef := ⟨0x81008, 0x40, 32, 0, 1, 0, 0xffffffff, false⟩
/-- FP_P_TQACT (R390). Pushes an entry. -/
def FP_P_TQACT : RegDef := ⟨0x8100c, 0x40, 32, 0, 1, 0, 0, false⟩
/-- FP_P_TQSTAT (R390). Queue and FIFO occupancy. -/
def FP_P_TQSTAT : RegDef := ⟨0x81010, 0x40, 32, 0, 1, 0, 0, false⟩
/-- FP_P_CAP_L (R390). Oldest capture; a read removes it. -/
def FP_P_CAP_L : RegDef := ⟨0x81014, 0x40, 32, 0, 1, 0, 0, false⟩
/-- FP_P_CAP_H (R390). Stamp bits [63:32] of the capture last read. -/
def FP_P_CAP_H : RegDef := ⟨0x81018, 0x40, 32, 0, 1, 0, 0, false⟩
/-- FP_P_LATE (R390). COUNT: late actions. -/
def FP_P_LATE : RegDef := ⟨0x8101c, 0x40, 32, 0, 1, 0, 0xffff, false⟩
/-- FP_P_TQOVR (R390). COUNT: pushes discarded. -/
def FP_P_TQOVR : RegDef := ⟨0x81020, 0x40, 32, 0, 1, 0, 0xffff, false⟩
/-- FP_P_CAPOVR (R390). COUNT: captures lost. -/
def FP_P_CAPOVR : RegDef := ⟨0x81024, 0x40, 32, 0, 1, 0, 0xffff, false⟩
/-- BK_FALLOW (R403). Fallow cells. -/
def BK_FALLOW : RegDef := ⟨0xa0180, 0x1000, 8, 0, 1, 0x8000, 0xffff, true⟩
/-- BK_PROT (R403). Protected cells. -/
def BK_PROT : RegDef := ⟨0xa0184, 0x1000, 8, 0, 1, 0, 0xffff, true⟩
/-- BK_RETIRED (R403). Retired cells (R396). -/
def BK_RETIRED : RegDef := ⟨0xa0188, 0x1000, 8, 0, 1, 0, 0, false⟩
/-- BK_RETIRE (R403). Software retirement. -/
def BK_RETIRE : RegDef := ⟨0xa018c, 0x1000, 8, 0, 1, 0, 0, false⟩
/-- BK_TKSTAT (R403). Takeover progress and result. -/
def BK_TKSTAT : RegDef := ⟨0xa0190, 0x1000, 8, 0, 1, 0, 0, false⟩
/-- BK_TKCNT (R403). Takeovers completed. -/
def BK_TKCNT : RegDef := ⟨0xa0194, 0x1000, 8, 0, 1, 0, 0xffff, false⟩
/-- BK_CKPT (R403). Mirror of cell c. -/
def BK_CKPT : RegDef := ⟨0xa01c0, 0x1000, 8, 4, 16, 0, 0xff00, true⟩
/-- BK_OWN (R403). Pairs written by cell c. -/
def BK_OWN : RegDef := ⟨0xa0200, 0x1000, 8, 4, 16, 0, 0xffffff, true⟩
/-- CF_CFG (R407). Enable and reset action. -/
def CF_CFG : RegDef := ⟨0x4000, 0, 1, 0, 1, 0, 0xc0000000, false⟩
/-- CF_CTL (R407). Calculate and commit. -/
def CF_CTL : RegDef := ⟨0x4004, 0, 1, 0, 1, 0, 0, false⟩
/-- CF_STAT (R407). Check state. -/
def CF_STAT : RegDef := ⟨0x4008, 0, 1, 0, 1, 0, 0, false⟩
/-- CF_CALC (R407). Result of the last CALC. -/
def CF_CALC : RegDef := ⟨0x400c, 0, 1, 0, 1, 0, 0, false⟩
/-- CF_REF (R407). Reference to commit. -/
def CF_REF : RegDef := ⟨0x4010, 0, 1, 0, 1, 0, 0xffffffff, false⟩
/-- CF_COMMITTED (R407). Reference in force. -/
def CF_COMMITTED : RegDef := ⟨0x4014, 0, 1, 0, 1, 0, 0, false⟩
/-- CF_LAST (R407). Result of the last sweep. -/
def CF_LAST : RegDef := ⟨0x4018, 0, 1, 0, 1, 0, 0, false⟩
/-- CF_MISCNT (R407). Sweeps that mismatched. -/
def CF_MISCNT : RegDef := ⟨0x401c, 0, 1, 0, 1, 0, 0xffff, false⟩
/-- CF_SWEEPS (R407). Sweeps completed. -/
def CF_SWEEPS : RegDef := ⟨0x4020, 0, 1, 0, 1, 0, 0xffffffff, false⟩
/-- TL_RING (R410). Ring enable, size and base. -/
def TL_RING : RegDef := ⟨0xb0000, 0, 1, 0, 1, 0, 0x8f003fff, true⟩
/-- TL_WPTR (R410). Next entry to be written. -/
def TL_WPTR : RegDef := ⟨0xb0004, 0, 1, 0, 1, 0, 0, false⟩
/-- TL_RPTR (R410). Next entry software reads. -/
def TL_RPTR : RegDef := ⟨0xb0008, 0, 1, 0, 1, 0, 0xfff, false⟩
/-- TL_DROP (R410). Records dropped. -/
def TL_DROP : RegDef := ⟨0xb000c, 0, 1, 0, 1, 0, 0xffff, false⟩
/-- TL_FLTLOST (R410). Fault records lost. -/
def TL_FLTLOST : RegDef := ⟨0xb0010, 0, 1, 0, 1, 0, 0xffff, false⟩
/-- TL_PFCNT (R410). Permanent faults reported. -/
def TL_PFCNT : RegDef := ⟨0xb0014, 0, 1, 0, 1, 0, 0xffff, false⟩
/-- TL_SWFAULT (R410). Queues a software fault record. -/
def TL_SWFAULT : RegDef := ⟨0xb0018, 0, 1, 0, 1, 0, 0, false⟩
/-- TL_STAT (R410). Queue and ring state. -/
def TL_STAT : RegDef := ⟨0xb001c, 0, 1, 0, 1, 0, 0, false⟩
/-- TL_TEMP (R410). Latest temperature. -/
def TL_TEMP : RegDef := ⟨0xb0040, 4, 16, 0, 1, 0, 0, false⟩
/-- TL_AGE (R410). Latest oscillator count. -/
def TL_AGE : RegDef := ⟨0xb0080, 4, 4, 0, 1, 0, 0, false⟩
/-- TL_B_RUN (R410). Running tallies, words +0x10 to +0x3B of the block tally. -/
def TL_B_RUN : RegDef := ⟨0xb0100, 0x40, 8, 4, 11, 0, 0, false⟩
/-- TL_B_SNAP (R410). Their copies at the snapshot edge. -/
def TL_B_SNAP : RegDef := ⟨0xb0300, 0x40, 8, 4, 11, 0, 0, false⟩
/-- CH_NFMASK (R412). Regions whose TL_PFCNT drives NFAULT (R394). -/
def CH_NFMASK : RegDef := ⟨0x300, 0, 1, 0, 1, 0xff, 0xff, false⟩
/-- CH_LIFE_PWR (R412). Powered hours. -/
def CH_LIFE_PWR : RegDef := ⟨0x310, 0, 1, 0, 1, 0, 0, false⟩
/-- CH_LIFE_EQ (R412). Equivalent hours. -/
def CH_LIFE_EQ : RegDef := ⟨0x314, 0, 1, 0, 1, 0, 0, false⟩
/-- CH_LIFE_HOT (R412). Hours with T ≥ 105 °C. -/
def CH_LIFE_HOT : RegDef := ⟨0x318, 0, 1, 0, 1, 0, 0, false⟩
/-- BT_STAT (R440). Boot outcome. -/
def BT_STAT : RegDef := ⟨0x30000, 0, 1, 0, 1, 0, 0, false⟩
/-- BT_CTL (R440). Commands. -/
def BT_CTL : RegDef := ⟨0x30004, 0, 1, 0, 1, 0, 0, false⟩
/-- BT_XADDR (R440). Command buffer. -/
def BT_XADDR : RegDef := ⟨0x30008, 0, 1, 0, 1, 0, 0x7fffe0, false⟩
/-- BT_CMDSTAT (R440). Command progress. -/
def BT_CMDSTAT : RegDef := ⟨0x3000c, 0, 1, 0, 1, 0, 0, false⟩
/-- BT_LMSNEXT (R440). Next LMS leaf. -/
def BT_LMSNEXT : RegDef := ⟨0x30010, 0, 1, 0, 1, 0, 0, false⟩
/-- BT_DBGPERM (R440). Debug permissions granted. -/
def BT_DBGPERM : RegDef := ⟨0x30014, 0, 1, 0, 1, 0, 0, false⟩
/-- BT_DBGCHAL (R440). Challenge. -/
def BT_DBGCHAL : RegDef := ⟨0x30020, 4, 12, 0, 1, 0, 0, false⟩
/-- BT_HWSTAT (R440). Host boot window. -/
def BT_HWSTAT : RegDef := ⟨0x30080, 0, 1, 0, 1, 0, 0, false⟩
/-- BT_HWCNT (R440). Bytes in BT_HWIN. -/
def BT_HWCNT : RegDef := ⟨0x30084, 0, 1, 0, 1, 0, 0, false⟩
/-- BT_OTP (R440). OTP bytes 4w to 4w + 3. -/
def BT_OTP : RegDef := ⟨0x30800, 4, 128, 0, 1, 0, 0, false⟩
/-- BT_HWIN (R440). Host boot data, write only. -/
def BT_HWIN : RegDef := ⟨0x31000, 4, 1024, 0, 1, 0, 0, false⟩
/-- JN_CTL (R441). Commit, fault-log append, gleaning. -/
def JN_CTL : RegDef := ⟨0x40000, 0, 1, 0, 1, 0, 0, false⟩
/-- JN_SRC (R441). Staged payload. -/
def JN_SRC : RegDef := ⟨0x40004, 0, 1, 0, 1, 0, 0x7ffff8, false⟩
/-- JN_HDR (R441). Type and length. -/
def JN_HDR : RegDef := ⟨0x40008, 0, 1, 0, 1, 0, 0xffffff, false⟩
/-- JN_STAT (R441). Engine state. -/
def JN_STAT : RegDef := ⟨0x4000c, 0, 1, 0, 1, 0, 0, false⟩
/-- JN_LASTSEQ (R441). SEQ of the last record committed. -/
def JN_LASTSEQ : RegDef := ⟨0x40010, 0, 1, 0, 1, 0, 0, false⟩
/-- JN_SEGUSED (R441). Segments in use. -/
def JN_SEGUSED : RegDef := ⟨0x40014, 0, 1, 0, 1, 0, 0, false⟩
/-- JN_REFUSED (R441). Commands refused. -/
def JN_REFUSED : RegDef := ⟨0x40018, 0, 1, 0, 1, 0, 0xffff, false⟩
/-- JN_FLOGHEAD (R441). Next fault-log entry. -/
def JN_FLOGHEAD : RegDef := ⟨0x4001c, 0, 1, 0, 1, 0, 0, false⟩
/-- JN_GLEANS (R441). Segments gleaned. -/
def JN_GLEANS : RegDef := ⟨0x40020, 0, 1, 0, 1, 0, 0xffffffff, false⟩
/-- RS_CAUSE (R462). Sources of the last chip-reach reset. -/
def RS_CAUSE : RegDef := ⟨0x10000, 0, 1, 0, 1, 0, 0, false⟩
/-- RS_SWRST (R462). Software chip reset. -/
def RS_SWRST : RegDef := ⟨0x10004, 0, 1, 0, 1, 0, 0, false⟩
/-- RS_WDCFG (R462). Chip watchdog enable and warning. -/
def RS_WDCFG : RegDef := ⟨0x10010, 0, 1, 0, 1, 0, 0xc7000fff, false⟩
/-- RS_WDTO (R462). Timeout in KCLK, 2 s at reset. -/
def RS_WDTO : RegDef := ⟨0x10014, 0, 1, 0, 1, 0x10000, 0xffffff, false⟩
/-- RS_WDKICK (R462). Kick. -/
def RS_WDKICK : RegDef := ⟨0x10018, 0, 1, 0, 1, 0, 0, false⟩
/-- RS_WDCNT (R462). Count. -/
def RS_WDCNT : RegDef := ⟨0x1001c, 0, 1, 0, 1, 0, 0, false⟩
/-- RS_WDWARN (R462). Warnings. -/
def RS_WDWARN : RegDef := ⟨0x10020, 0, 1, 0, 1, 0, 0xffff, false⟩
/-- RS_BKCNT (R462). Chip-reach resets. -/
def RS_BKCNT : RegDef := ⟨0x10040, 0, 1, 0, 1, 0, 0, false⟩
/-- RS_BKLAST (R462). Causes of the last one. -/
def RS_BKLAST : RegDef := ⟨0x10044, 0, 1, 0, 1, 0, 0, false⟩
/-- RS_BKSEC (R462). Seconds since VBAT was applied. -/
def RS_BKSEC : RegDef := ⟨0x10048, 0, 1, 0, 1, 0, 0, false⟩
/-- RS_BKCLR (R462). Authenticated clear. -/
def RS_BKCLR : RegDef := ⟨0x1004c, 0, 1, 0, 1, 0, 0, false⟩
/-- RS_BKHIST_C (R462). History entry causes. -/
def RS_BKHIST_C : RegDef := ⟨0x10080, 8, 8, 0, 1, 0, 0, false⟩
/-- RS_BKHIST_S (R462). RS_BKSEC at that reset. -/
def RS_BKHIST_S : RegDef := ⟨0x10084, 8, 8, 0, 1, 0, 0, false⟩
/-- RS_RG_CTL (R462). Region reset control. -/
def RS_RG_CTL : RegDef := ⟨0x11000, 0x100, 8, 0, 1, 0, 6, false⟩
/-- RS_RG_CAUSE (R462). Sources of the last region reset. -/
def RS_RG_CAUSE : RegDef := ⟨0x11004, 0x100, 8, 0, 1, 0x100, 0, false⟩
/-- RS_RG_WDCFG (R462). Region watchdog enable and warning. -/
def RS_RG_WDCFG : RegDef := ⟨0x11008, 0x100, 8, 0, 1, 0, 0xc0000fff, false⟩
/-- RS_RG_WDTO (R462). Timeout in PCLK, 10 ms at reset. -/
def RS_RG_WDTO : RegDef := ⟨0x1100c, 0x100, 8, 0, 1, 0x7a1200, 0xffffffff, false⟩
/-- RS_RG_WDKICK (R462). Kick. -/
def RS_RG_WDKICK : RegDef := ⟨0x11010, 0x100, 8, 0, 1, 0, 0, false⟩
/-- RS_RG_WDCNT (R462). Count. -/
def RS_RG_WDCNT : RegDef := ⟨0x11014, 0x100, 8, 0, 1, 0, 0, false⟩
/-- RS_RG_WDWARN (R462). Warnings. -/
def RS_RG_WDWARN : RegDef := ⟨0x11018, 0x100, 8, 0, 1, 0, 0xffff, false⟩
/-- CK_STAT (R463). Clock state: XCLK and KCLK run at reset. -/
def CK_STAT : RegDef := ⟨0x20000, 0, 1, 0, 1, 9, 0, false⟩
/-- CK_BADCFG (R463). PLL writes refused (R456). -/
def CK_BADCFG : RegDef := ⟨0x20004, 0, 1, 0, 1, 0, 0xffff, false⟩
/-- CK_RG_PLL (R463). Region PLL. -/
def CK_RG_PLL : RegDef := ⟨0x20100, 0x10, 8, 0, 1, 0x78, 0x800100ff, false⟩
/-- PM_LATENCY (R464). Tolerable wake latency. -/
def PM_LATENCY : RegDef := ⟨0x8000, 0, 1, 0, 1, 0, 0xff, true⟩
/-- PM_STAT (R464). Current state. -/
def PM_STAT : RegDef := ⟨0x8004, 0, 1, 0, 1, 0, 0, false⟩
/-- PM_OESTAGE (R464). Output enables to commit. -/
def PM_OESTAGE : RegDef := ⟨0x8008, 0, 1, 0, 1, 0, 7, false⟩
/-- PM_OECTL (R464). Commit. -/
def PM_OECTL : RegDef := ⟨0x800c, 0, 1, 0, 1, 0, 0, false⟩
/-- PM_OE (R464). Output enables in force. -/
def PM_OE : RegDef := ⟨0x8010, 0, 1, 0, 1, 0, 0, false⟩
/-- PM_OEREF (R464). Commits refused. -/
def PM_OEREF : RegDef := ⟨0x8014, 0, 1, 0, 1, 0, 0xffff, false⟩
/-- PM_ENTRY (R464). Entries to state s. -/
def PM_ENTRY : RegDef := ⟨0x8020, 4, 4, 0, 1, 0, 0xffff, false⟩
/-- BK_START (R465). Starts cells (R448). -/
def BK_START : RegDef := ⟨0xa0198, 0x1000, 8, 0, 1, 0, 0, false⟩
/-- BK_HALTED (R465). Cells not running. -/
def BK_HALTED : RegDef := ⟨0xa019c, 0x1000, 8, 0, 1, 0xffff, 0, false⟩
/-- BK_SWRST (R465). Software block and cell resets. -/
def BK_SWRST : RegDef := ⟨0xa01a0, 0x1000, 8, 0, 1, 0, 0, false⟩
/-- BK_RSTCAUSE (R465). Sources of the last block-reach reset. -/
def BK_RSTCAUSE : RegDef := ⟨0xa01a4, 0x1000, 8, 0, 1, 0, 0, false⟩
/-- CH_MSIX_TAB (R221). MSI-X table (R221): address low, address high, data, vector control. -/
def CH_MSIX_TAB : RegDef := ⟨0x81000, 0x10, 64, 4, 4, 0, 0xffffffff, false⟩
/-- CH_MSIX_PBA (R221). MSI-X pending-bit array (R221). -/
def CH_MSIX_PBA : RegDef := ⟨0x81800, 4, 2, 0, 1, 0, 0, false⟩

end Reg

/-- The registers of one unit. -/
def regionUnit0 : List RegDef :=
  [Reg.RG_ID, Reg.RG_SNAP, Reg.RG_SNAPSTAT, Reg.RG_SNAP_DROP, Reg.RG_SNAPGT_L, Reg.RG_SNAPGT_H, Reg.RG_GTIME_L,
      Reg.RG_GTIME_H, Reg.RG_TAGCFG, Reg.RG_TAGSTAT, Reg.CF_CFG, Reg.CF_CTL]
  ++ [Reg.CF_STAT, Reg.CF_CALC, Reg.CF_REF, Reg.CF_COMMITTED, Reg.CF_LAST, Reg.CF_MISCNT, Reg.CF_SWEEPS, Reg.PM_LATENCY,
      Reg.PM_STAT, Reg.PM_OESTAGE, Reg.PM_OECTL, Reg.PM_OE]
  ++ [Reg.PM_OEREF, Reg.PM_ENTRY]

/-- The registers of one unit. -/
def chipUnit0 : List RegDef :=
  [Reg.CH_ID, Reg.CH_SNAP, Reg.CH_SNAPSTAT, Reg.CH_SNAP_DROP, Reg.CH_SNAPGT_L, Reg.CH_SNAPGT_H, Reg.CH_GTIME_L,
      Reg.CH_GTIME_H, Reg.CH_GTRATE, Reg.CH_GTSTEP_L, Reg.CH_GTSTEP_H, Reg.CH_GTSTAT]
  ++ [Reg.CH_NFMASK, Reg.CH_LIFE_PWR, Reg.CH_LIFE_EQ, Reg.CH_LIFE_HOT]

/-- The registers of one unit. -/
def cellRegs : List RegDef :=
  [Reg.CSTAT, Reg.CMASK, Reg.CKEY, Reg.RSBASE, Reg.RSLIMIT, Reg.RSPTR, Reg.RSDEPTH, Reg.GATEBASE, Reg.PWINBASE,
      Reg.PWINLIMIT, Reg.ESP, Reg.CKAREA]
  ++ [Reg.CID, Reg.CRCPOLY, Reg.CRCCFG, Reg.PFCTL, Reg.PFCYC_L, Reg.PFCYC_H, Reg.PFRET_L, Reg.PFRET_H, Reg.PFFETCH,
      Reg.PFSCORE, Reg.PFLDUSE, Reg.PFLQFULL]
  ++ [Reg.PFSBUF, Reg.PFTAG, Reg.PFLONG, Reg.PFIOACK, Reg.PFBRPEN, Reg.PFBRTKN, Reg.PFBRMIS, Reg.PFIMP, Reg.EPSTAT,
      Reg.EPOVR, Reg.EPGT_L, Reg.EPGT_H]
  ++ [Reg.CFACT, Reg.CFIN, Reg.CFA, Reg.CFB, Reg.CFCTL, Reg.CFSWAPS]

/-- The registers of one unit. -/
def regionUnitA : List RegDef :=
  [Reg.BK_LDCTL, Reg.BK_LDSTAT, Reg.BK_LDFAIL, Reg.BK_CSPAR_CNT, Reg.BK_CSPAR_LAST, Reg.BK_LDSECT0, Reg.BK_LDSECT1,
      Reg.BK_CGOLD, Reg.BK_FALLOW, Reg.BK_PROT, Reg.BK_RETIRED, Reg.BK_RETIRE]
  ++ [Reg.BK_TKSTAT, Reg.BK_TKCNT, Reg.BK_CKPT, Reg.BK_OWN, Reg.BK_START, Reg.BK_HALTED, Reg.BK_SWRST, Reg.BK_RSTCAUSE]

/-- The registers of one unit. -/
def chipUnit8 : List RegDef :=
  [Reg.CH_XEV_CFG, Reg.CH_XEV_GT_L, Reg.CH_XEV_GT_H, Reg.CH_MSIXDB, Reg.CH_MSIXCOAL, Reg.CH_MSIXDROP, Reg.CH_MSIX_TAB,
      Reg.CH_MSIX_PBA]

/-- The registers of one unit. -/
def regionUnit5 : List RegDef :=
  [Reg.EV_CH_CFG, Reg.EV_CH_MININT, Reg.EV_CH_FORK, Reg.EV_CH_DROP, Reg.EV_CH_LASTGT, Reg.EV_FIRE, Reg.EV_DBMERGE,
      Reg.EV_TK]

/-- The registers of one unit. -/
def regionUnit6 : List RegDef :=
  [Reg.IC_DOORBELL, Reg.IC_EOI, Reg.IC_DISCARD, Reg.IC_COAL, Reg.IC_EOIBAD, Reg.IC_TSET, Reg.IC_LINE, Reg.IC_PEND,
      Reg.IC_ACT, Reg.IC_THR, Reg.IC_HELD, Reg.IC_SRC_CFG]

/-- The registers of one unit. -/
def regionUnit1 : List RegDef :=
  [Reg.AD_STAT, Reg.AD_CFG, Reg.AD_PROBE, Reg.AD_PROBESTAT, Reg.AD_CALCFG, Reg.AD_CALSTAT, Reg.AD_CALROT,
      Reg.AD_CALFAIL, Reg.AD_CH_RES, Reg.AD_SG_CFG, Reg.AD_SG_PER, Reg.AD_SG_AT_L]
  ++ [Reg.AD_SG_AT_H, Reg.AD_SG_GT_L, Reg.AD_SG_GT_H, Reg.AD_SG_OVR, Reg.AD_SG_MISS, Reg.AD_CH_CLIP, Reg.AD_SLICE_STAT,
      Reg.AD_CH_ACC_CFG, Reg.AD_CH_ACC_CTL, Reg.AD_CH_ACC_STAT, Reg.AD_CH_ACC_LGT_L, Reg.AD_CH_ACC_LGT_H]
  ++ [Reg.AD_CH_ACC_SCOUNT, Reg.AD_CH_ACC_SNAPCNT, Reg.AD_DIAG_CFG, Reg.AD_DIAG_CTL, Reg.AD_DIAG_STAT,
      Reg.AD_DIAG_LGT_L, Reg.AD_DIAG_LGT_H, Reg.AD_DIAG_SCOUNT, Reg.AD_DIAG_SNAPCNT, Reg.AD_DIAG_RES, Reg.AD_CH_TRK_CFG,
      Reg.AD_CH_TRK_CTL]
  ++ [Reg.AD_CH_TRK_STAT, Reg.AD_CH_TRK_LEN, Reg.AD_CH_TRK_OPEN_L, Reg.AD_CH_TRK_OPEN_H, Reg.AD_CH_TRK_RESULT,
      Reg.AD_CH_TRK_CNT, Reg.AD_CH_TRK_END_L, Reg.AD_CH_TRK_END_H]

/-- The registers of one unit. -/
def regionUnit2 : List RegDef :=
  [Reg.TM_TRP_CFG, Reg.TM_TRPSTAT, Reg.TM_GSTART, Reg.TM_GSTOP, Reg.TM_CH_CMPA, Reg.TM_CH_CMPB, Reg.TM_STAT,
      Reg.TM_CH_CFG, Reg.TM_CH_CTL, Reg.TM_CH_RELOAD, Reg.TM_CH_PHASE, Reg.TM_CH_CNT]
  ++ [Reg.TM_CH_SNAP, Reg.TM_CH_ACT, Reg.TM_CH_CAPCFG, Reg.TM_CH_CAP, Reg.TM_CH_CAPGT_L, Reg.TM_CH_CAPGT_H,
      Reg.TM_CH_CAPOVR, Reg.TM_PAIR_CFG, Reg.TM_PAIR_DT, Reg.TM_PAIR_DL, Reg.TM_PAIR_CTL, Reg.TM_PAIR_STAT]
  ++ [Reg.TM_PAIR_DLMISS, Reg.TM_PAIR_TRIPS]

/-- The registers of one unit. -/
def regionUnit3 : List RegDef :=
  [Reg.LP_BAND_CFG, Reg.LP_BAND_LIM, Reg.LP_BAND_STAT, Reg.LP_BAND_XCNT, Reg.LP_TRM_MAP, Reg.LP_PG_TICK, Reg.LP_PG_CTL,
      Reg.LP_PG_STAT, Reg.LP_PG_TARGET_L, Reg.LP_PG_TARGET_H, Reg.LP_PG_VMAX_L, Reg.LP_PG_VMAX_H]
  ++ [Reg.LP_PG_AMAX_L, Reg.LP_PG_AMAX_H, Reg.LP_PG_JMAX_L, Reg.LP_PG_JMAX_H, Reg.LP_PG_POS_L, Reg.LP_PG_POS_H,
      Reg.LP_PG_VEL_L, Reg.LP_PG_VEL_H, Reg.LP_PG_ACC_L, Reg.LP_PG_ACC_H, Reg.LP_INJ_CFG, Reg.LP_INJ_CTL]
  ++ [Reg.LP_INJ_STAT, Reg.LP_INJ_AMPL, Reg.LP_INJ_INT, Reg.LP_INJ_FREQ, Reg.LP_INJ_DFREQ, Reg.LP_INJ_DUR,
      Reg.LP_INJ_COUNT, Reg.LP_INJ_SEED, Reg.LP_INJ_VALUE, Reg.LP_RC_CFG, Reg.LP_RC_BASE, Reg.LP_RC_WPTR]
  ++ [Reg.LP_RC_STAT, Reg.LP_RC_LOST, Reg.LP_RC_CTL]

/-- The registers of one unit. -/
def regionUnit4 : List RegDef :=
  [Reg.FB_UN_CFG, Reg.FB_UN_STAT, Reg.FB_UN_POS_L, Reg.FB_UN_POS_H, Reg.FB_UN_PERIOD, Reg.FB_UN_AGE, Reg.FB_UN_TIMEOUT,
      Reg.FB_UN_LEDGE_L, Reg.FB_UN_LEDGE_H, Reg.FB_UN_CMP, Reg.FB_UN_CMPSP, Reg.FB_UN_ZLOAD]
  ++ [Reg.FB_UN_ZPOS_L, Reg.FB_UN_ZPOS_H, Reg.FB_UN_ILL, Reg.FB_UN_HITS, Reg.FB_UN_SNAP_L, Reg.FB_UN_SNAP_H,
      Reg.FB_UN_LPOS_L, Reg.FB_UN_LPOS_H, Reg.FB_UN_LGT_L, Reg.FB_UN_LGT_H, Reg.FB_UN_LEDGEL_L, Reg.FB_UN_LEDGEL_H]
  ++ [Reg.FB_UN_LPER, Reg.FB_UN_LSTAT, Reg.FB_UN_LCNT]

/-- The registers of one unit. -/
def regionUnit9 : List RegDef :=
  [Reg.MB_ECC_SBE, Reg.MB_ECC_DBE, Reg.MB_ECC_LASTSBE, Reg.MB_ECC_LASTDBE, Reg.MB_ECC_REPEAT, Reg.MB_PWRREF,
      Reg.MB_PINREF, Reg.MB_HRW_CFG, Reg.MB_HRW_STAT, Reg.MB_HRW_PASSES, Reg.MB_HRW_SKIP, Reg.MB_MT_CTL]
  ++ [Reg.MB_MT_CFG, Reg.MB_MT_STAT, Reg.MB_MT_FIRST, Reg.MB_MT_MASK, Reg.MB_MT_MASK2, Reg.MB_MT_FAIL, Reg.MB_MT_SKIP,
      Reg.MB_BANK_STAT, Reg.MB_BANK_PWR]

/-- The registers of one unit. -/
def regionUnit7 : List RegDef :=
  [Reg.DM_STAT, Reg.DM_CH_CFG, Reg.DM_CH_CTL, Reg.DM_CH_DESC, Reg.DM_CH_STAT, Reg.DM_CH_CUR, Reg.DM_CH_RESID,
      Reg.DM_CH_OVR, Reg.DM_CH_WDR, Reg.DM_CH_ERRADDR]

/-- The registers of one unit. -/
def chipUnit5 : List RegDef :=
  [Reg.HW_VERSION_L, Reg.HW_VERSION_H, Reg.HW_OFFER, Reg.HW_OFFCAP, Reg.HW_AGREED, Reg.HW_AGRCAP, Reg.HW_STAT,
      Reg.HW_DB, Reg.HW_URDROP, Reg.HW_CABORT, Reg.HW_LINK]

/-- The registers of one unit. -/
def chipUnit6 : List RegDef :=
  [Reg.EN_P_CFG, Reg.EN_P_STAT, Reg.EN_P_MAC_L, Reg.EN_P_MAC_H, Reg.EN_P_RXRING, Reg.EN_P_TXRING, Reg.EN_P_RXIDX,
      Reg.EN_P_TXIDX, Reg.EN_P_KICK, Reg.EN_P_DB, Reg.EN_P_RXLAT, Reg.EN_P_TXLAT]
  ++ [Reg.EN_P_RXBAD, Reg.EN_P_RXWAIT, Reg.EN_P_RXFIFO, Reg.EN_P_TXLATE]

/-- The registers of one unit. -/
def chipUnit7 : List RegDef :=
  [Reg.XL_P_CFG, Reg.XL_P_STAT, Reg.XL_P_PEER_L, Reg.XL_P_PEER_H, Reg.XL_P_LANESTAT, Reg.XL_P_CTL, Reg.XL_P_KICK,
      Reg.XL_P_DB, Reg.XL_P_RXRING, Reg.XL_P_TXRING, Reg.XL_P_RETRY, Reg.XL_P_RETRAIN]
  ++ [Reg.XL_P_CRCERR, Reg.XL_P_LANEERR]

/-- The registers of one unit. -/
def regionUnit8 : List RegDef :=
  [Reg.FP_IN, Reg.FP_OUT, Reg.FP_OE, Reg.FP_BANK, Reg.FP_P_CFG, Reg.FP_P_TQ_L, Reg.FP_P_TQ_H, Reg.FP_P_TQACT,
      Reg.FP_P_TQSTAT, Reg.FP_P_CAP_L, Reg.FP_P_CAP_H, Reg.FP_P_LATE]
  ++ [Reg.FP_P_TQOVR, Reg.FP_P_CAPOVR]

/-- The registers of one unit. -/
def regionUnitB : List RegDef :=
  [Reg.TL_RING, Reg.TL_WPTR, Reg.TL_RPTR, Reg.TL_DROP, Reg.TL_FLTLOST, Reg.TL_PFCNT, Reg.TL_SWFAULT, Reg.TL_STAT,
      Reg.TL_TEMP, Reg.TL_AGE, Reg.TL_B_RUN, Reg.TL_B_SNAP]

/-- The registers of one unit. -/
def chipUnit3 : List RegDef :=
  [Reg.BT_STAT, Reg.BT_CTL, Reg.BT_XADDR, Reg.BT_CMDSTAT, Reg.BT_LMSNEXT, Reg.BT_DBGPERM, Reg.BT_DBGCHAL, Reg.BT_HWSTAT,
      Reg.BT_HWCNT, Reg.BT_OTP, Reg.BT_HWIN]

/-- The registers of one unit. -/
def chipUnit4 : List RegDef :=
  [Reg.JN_CTL, Reg.JN_SRC, Reg.JN_HDR, Reg.JN_STAT, Reg.JN_LASTSEQ, Reg.JN_SEGUSED, Reg.JN_REFUSED, Reg.JN_FLOGHEAD,
      Reg.JN_GLEANS]

/-- The registers of one unit. -/
def chipUnit1 : List RegDef :=
  [Reg.RS_CAUSE, Reg.RS_SWRST, Reg.RS_WDCFG, Reg.RS_WDTO, Reg.RS_WDKICK, Reg.RS_WDCNT, Reg.RS_WDWARN, Reg.RS_BKCNT,
      Reg.RS_BKLAST, Reg.RS_BKSEC, Reg.RS_BKCLR, Reg.RS_BKHIST_C]
  ++ [Reg.RS_BKHIST_S, Reg.RS_RG_CTL, Reg.RS_RG_CAUSE, Reg.RS_RG_WDCFG, Reg.RS_RG_WDTO, Reg.RS_RG_WDKICK,
      Reg.RS_RG_WDCNT, Reg.RS_RG_WDWARN]

/-- The registers of one unit. -/
def chipUnit2 : List RegDef :=
  [Reg.CK_STAT, Reg.CK_BADCFG, Reg.CK_RG_PLL]

/-- The registers of unit `u` of the region register space. -/
def regionUnit (u : Nat) : List RegDef :=
  match u with
  | 0 => regionUnit0
  | 1 => regionUnit1
  | 2 => regionUnit2
  | 3 => regionUnit3
  | 4 => regionUnit4
  | 5 => regionUnit5
  | 6 => regionUnit6
  | 7 => regionUnit7
  | 8 => regionUnit8
  | 9 => regionUnit9
  | 10 => regionUnitA
  | 11 => regionUnitB
  | _ => []

/-- The registers of unit `u` of the chip register space. -/
def chipUnit (u : Nat) : List RegDef :=
  match u with
  | 0 => chipUnit0
  | 1 => chipUnit1
  | 2 => chipUnit2
  | 3 => chipUnit3
  | 4 => chipUnit4
  | 5 => chipUnit5
  | 6 => chipUnit6
  | 7 => chipUnit7
  | 8 => chipUnit8
  | _ => []

/-- The definition that address `a` names, in a list. -/
def findReg (l : List RegDef) (a : Nat) : Option RegDef := l.find? (fun d => (regIdx d a).isSome)

/-- The region register at offset `a`. -/
def regionReg (a : Nat) : Option RegDef := findReg (regionUnit (a / 0x10000)) a

/-- The chip register at offset `a`. -/
def chipReg (a : Nat) : Option RegDef := findReg (chipUnit (a / 0x10000)) a

/-- The cell register at offset `a`. -/
def cellReg (a : Nat) : Option RegDef := findReg cellRegs a

/-- Reset values of region registers (R444); a slice's state names its channel, a spare's state 5 and no channel.
(DESIGN CHOICE, log 3, 4) -/
def regionDefault (a : Nat) : Word :=
  match regIdx Reg.AD_SLICE_STAT a with
  | some (j, _) => if j < 16 then BitVec.ofNat 32 (j * 0x10000) else 0x501F0000
  | none => match regionReg a with
    | some d => BitVec.ofNat 32 d.reset
    | none => 0

/-- Reset values of chip registers; a vector of the MSI-X table is masked at reset. (DESIGN CHOICE, log 3, 4) -/
def chipDefault (a : Nat) : Word :=
  match regIdx Reg.CH_MSIX_TAB a with
  | some (_, j) => if j = 3 then 1 else 0
  | none => match chipReg a with
    | some d => BitVec.ofNat 32 d.reset
    | none => 0

/-- Reset values of cell registers (R56). (DESIGN CHOICE, log 3) -/
def cellDefault (a : Nat) : Word :=
  match cellReg a with
  | some d => BitVec.ofNat 32 d.reset
  | none => 0

end Sys2Proof.Machine
end

