-- ==== Sys2Proof/Machine/Sparse.lean ====
section
/-!
DEFINITION. Sparse maps from numbers: the canonical form of every memory and register file of the model.
A map lists (key, value) pairs with keys strictly rising and no value equal to what an unlisted key reads as.
-/

namespace Sys2Proof.Machine

/-- A sparse map: pairs of key and value (an addressed memory is one of bytes, Host.Cell). -/
abbrev FMap (α : Type) := List (Nat × α)

/-- The value at key `k`; `d` says what an unlisted key reads as. -/
def mapGet {α : Type} (d : Nat → α) : FMap α → Nat → α
  | [], k => d k
  | e :: m, k => if k = e.1 then e.2 else mapGet d m k

/-- Inserts or replaces the pair of key `k`, keeping the keys rising. -/
def mapInsert {α : Type} (k : Nat) (v : α) : FMap α → FMap α
  | [] => [(k, v)]
  | e :: m => if k < e.1 then (k, v) :: e :: m else if k = e.1 then (k, v) :: m else e :: mapInsert k v m

/-- Writes `v` at key `k`; a value equal to the default removes the entry. -/
def mapSet {α : Type} [DecidableEq α] (d : Nat → α) (m : FMap α) (k : Nat) (v : α) : FMap α :=
  if v = d k then m.filter (fun e => e.1 != k) else mapInsert k v m

/-- Keys strictly rise above `lo` and no entry equals the default. -/
def mapWfFrom {α : Type} [DecidableEq α] (d : Nat → α) : Nat → FMap α → Bool
  | _, [] => true
  | lo, e :: m => decide (lo ≤ e.1) && decide (e.2 ≠ d e.1) && mapWfFrom d (e.1 + 1) m

/-- The canonical form. -/
def mapWf {α : Type} [DecidableEq α] (d : Nat → α) (m : FMap α) : Bool := mapWfFrom d 0 m

/-- Forgets every entry whose key does not satisfy `keep`. -/
def mapKeep {α : Type} (keep : Nat → Bool) (m : FMap α) : FMap α := m.filter (fun e => keep e.1)

/-- Reads `n` consecutive keys from `k` upward. -/
def mapRead {α : Type} (d : Nat → α) (m : FMap α) (k : Nat) : Nat → List α
  | 0 => []
  | n + 1 => mapGet d m k :: mapRead d m (k + 1) n

/-- Writes the values at consecutive keys from `k` upward. -/
def mapWrite {α : Type} [DecidableEq α] (d : Nat → α) : FMap α → Nat → List α → FMap α
  | m, _, [] => m
  | m, k, v :: vs => mapWrite d (mapSet d m k v) (k + 1) vs

/-- What an unlisted byte reads as: memories read zero where nothing was written (R444). -/
def zeroByte (_ : Nat) : Byte := 0

end Sys2Proof.Machine
end

