-- ==== Sys2Proof/Machine/State.lean ====
section
/-!
DEFINITION. The state of the block, as plain data: every register, memory, queue and live condition the
specification names, for the chip, its eight regions and their 1,024 cells, and the queue of waiting commands.
-/

namespace Sys2Proof.Machine

/-- Why a command stops the machine as a fault: no command of the specification does, so there is one constructor
that none raises (safe: a claim about faults would be vacuous, never false). -/
inductive Fault where
  /-- Raised by no command. Safe. -/
  | none
deriving DecidableEq, Repr

/-- Why a command is refused. -/
inductive Refusal where
  /-- Raised by an arm of `exec` whose command has no meaning yet. Safe. -/
  | notModelled (mnemonic : String)
  /-- Raised by RESERVED_OPCODE on a word whose opcode is not reserved, which is no such row (R64). Safe. -/
  | illFormed
deriving DecidableEq, Repr

/-! ## The cell -/

/-- Where the data of a load or of a long operation goes (R150). -/
inductive Dest where
  /-- A general register; g0 discards. -/
  | gpr (r : RegNo)
  /-- The latch T of the micro-routine in progress. -/
  | t
  /-- A micro-register of the routine in progress. -/
  | m (k : Fin 8)
  /-- ACC [63:32]. -/
  | ah
  /-- ACC [31:0]. -/
  | al
  /-- Nothing is written. -/
  | nowhere
deriving DecidableEq, Repr

/-- A non-local load, IN or atomic whose access is performed and whose data has not returned (R108). -/
structure LoadEntry where
  /-- Issue order of its instruction (R117). -/
  seq : Nat
  dest : Dest
  /-- The extended data, or none for a bus error (R116). -/
  data : Option Word
  /-- Address of the access, for FADDR (R177). -/
  addr : Word
deriving DecidableEq, Repr

/-- A store waiting in the store buffer (R112). -/
structure StoreEntry where
  seq : Nat
  addr : Word
  bytes : List Byte
deriving DecidableEq, Repr

/-- What an acknowledgement is awaited for. -/
inductive AckKind where
  /-- A store. -/
  | store
  /-- An OUT, which holds later I/O until acknowledged (R81). -/
  | out
  /-- A posted OUTP. -/
  | outp
deriving DecidableEq, Repr

/-- A non-local write that left the cell and is not acknowledged (R34, R82). -/
structure AckEntry where
  seq : Nat
  kind : AckKind
  /-- The target answers with a bus error. -/
  err : Bool
  addr : Word
deriving DecidableEq, Repr

/-- An operation in the long-operation unit (R72, R114): its result is fixed by its operands. -/
structure LongOp where
  seq : Nat
  /-- The destination; `none` is ACC (MAC64). -/
  dest : Option Dest
  /-- The result; 64 bits for ACC. -/
  result : BitVec 64
  /-- DETAIL of the arithmetic fault, if any (R71, R181). -/
  fault : Option Nat
deriving DecidableEq, Repr

/-- An imprecise fault held pending (R115). -/
structure ImpFault where
  seq : Nat
  /-- 5 bus error, 9 arithmetic fault. -/
  vector : Nat
  detail : Nat
  addr : Word
  /-- The register whose use reports it, `none` for a write. -/
  dest : Option Dest
  /-- A MAC64 fault: a use of ACC reports it. -/
  acc : Bool
deriving DecidableEq, Repr

/-- A branch whose delay slot has not executed (R85, R86): its target and what is undone if the slot faults.
(DESIGN CHOICE, log 7) -/
structure Slot where
  /-- Address and word of the branch. -/
  branch : BitVec 13
  word : Word
  target : BitVec 13
  /-- Return stack and RSPTR before the branch. -/
  rs : List (BitVec 13)
  rsptr : Word
  /-- Words of DMEM that spills overwrote, with their addresses, newest first. -/
  spill : List (Nat × List Byte)
  /-- Counted and learned when the pair retires (R122, R128): taken, B-format, mispredicted. -/
  taken : Bool
  cond : Bool
  mis : Bool
deriving DecidableEq, Repr

/-- A redirect set by BR (R156, R157): the branch it makes, FETCH, and whether the delay slot is annulled. -/
structure Redirect where
  slot : Slot
  fetch : Bool
  skip : Bool
deriving DecidableEq, Repr

/-- A micro-routine in progress (R145, R159, R163, R164). (DESIGN CHOICE, log 7) -/
structure Micro where
  /-- The instruction word. -/
  word : Word
  upc : BitVec 10
  m : List Word
  t : Word
  ustack : List (BitVec 10)
  /-- Microwords read since the last safe point. -/
  count : Nat
  /-- The redirect that takes effect at DISPATCH (R157). -/
  redirect : Option Redirect
  /-- A non-repeatable operation was performed in this segment (R166). -/
  dirty : Bool
  /-- Return stack, RSPTR and spilled words as they stood before the instruction (R86). -/
  rs : List (BitVec 13)
  rsptr : Word
  spill : List (Nat × List Byte)
  /-- Undo record: microaddress at the segment's start, place in issue order from which its loads count, what each of
  g1 to g15, AH and AL held before the segment's first write to it, and m, T and micro stack at the start (R164). -/
  segUpc : BitVec 10
  segSeq : Nat
  undo : List (Dest × Word)
  segM : List Word
  segT : Word
  segStack : List (BitVec 10)
deriving DecidableEq, Repr

/-- What a cell that runs no instruction waits for (R89, R93). -/
inductive Hold where
  /-- It executes. -/
  | none
  /-- It holds in WAIT on a port. -/
  | wait (p : Fin 4)
  /-- It holds in IDLE. -/
  | idle
deriving DecidableEq, Repr

/-- A cell. (DESIGN CHOICE, log 7) -/
structure Cell where
  /-- g1 to g15 (R52); key 0 is never listed. -/
  gpr : FMap Word
  acc : BitVec 64
  pc : BitVec 13
  /-- Return stack, newest first (R58). -/
  rs : List (BitVec 13)
  /-- Cell registers by offset (R55). -/
  io : FMap Word
  imem : FMap Byte
  dmem : FMap Byte
  /-- Control store: parity P in bits 135 to 128, data below (R131). -/
  cstore : FMap (BitVec 136)
  /-- Dispatch entries, key 256 x set + index: parity bit 11, V bit 10, ADDR below (R132). -/
  disp : FMap (BitVec 12)
  /-- Coefficient banks: A at 0 to 63, B at 64 to 127 (R289). -/
  coef : FMap Word
  loadQ : List LoadEntry
  storeBuf : List StoreEntry
  acks : List AckEntry
  longOps : List LongOp
  imp : List ImpFault
  /-- Issue counter of the instructions, for the order of R117. -/
  seq : Nat
  /-- Predictor entries: counter in bits 14 to 13, target below (R121). -/
  pred : FMap (BitVec 15)
  /-- Pending event of each port, by its stamp (R202). -/
  ports : FMap (Option Ticks)
  /-- Origin shadow, newest first: (supervisor, gate) (R182). -/
  shadow : List (Bool × Bool)
  /-- Escalation origin: supervisor (R182). -/
  escOrigin : Bool
  halted : Bool
  /-- Restored by a takeover, it runs from its next sample boundary (R399). -/
  awaiting : Bool
  /-- The debug port lets it execute one instruction (R429). -/
  stepping : Bool
  /-- The debug port halted it (the model's own; R429). -/
  byDebug : Bool
  inReset : Bool
  hold : Hold
  /-- A cell-reach error waits for its block: 0 none, 1 escalation failure, 2 parity, 3 DMEM or IMEM, 4 software
  (R186, R166, R330, R403). -/
  reachErr : Nat
  slot : Option Slot
  micro : Option Micro
  /-- Latest failing parity location and its GTIME (R166). -/
  lastPar : Option (Bool × Nat × Ticks)
  /-- A sample boundary arrived inside an instruction: the pending swap is made at its end (R290). -/
  swapDue : Bool
  /-- A load from the address holds in A behind the stores up to this place in issue order (R113). -/
  behind : Option (Nat × Word)
deriving DecidableEq, Repr

/-! ## Units of a region -/

/-- A pulse on the region's fabric: its source number and stamp (R191). -/
structure Pulse where
  src : Nat
  stamp : Ticks
deriving DecidableEq, Repr

/-- A trigger that left a task input for a cell: the task number and the stamp (R200, R202). -/
structure Crossing where
  task : Nat
  stamp : Ticks
deriving DecidableEq, Repr

/-- An arrival accepted at the last edge, whose tasks act at the next one (R193, R194): its channel, its stamp and the
source whose doorbell it requests. -/
structure Accepted where
  chan : Nat
  stamp : Ticks
  db : Option Nat
deriving DecidableEq, Repr

/-- An accepted arrival on its way over a chip-wide channel (R206, R207): the channel, the stamp, and the PCLK edge at
which it was accepted. -/
structure Carried where
  xev : Nat
  stamp : Ticks
  edge : Nat
deriving DecidableEq, Repr

/-- Event fabric, doorbell generator and interrupt controller. -/
structure Events where
  /-- Source edge, in PCLK, of the last arrival each channel accepted since EN became 1 (R195). -/
  lastAcc : FMap (Option Nat)
  /-- Pulses and software fires presented at the last PCLK edge; source 0x400 + n is a fire of channel n (R198). -/
  fabric : List Pulse
  /-- Sources that present a pulse at the coming PCLK edge, and at a later one: (edge, source). -/
  coming : List Nat
  sched : List (Nat × Nat)
  accepted : List Accepted
  crossing : List Crossing
  /-- Oldest first. -/
  xout : List Carried
  /-- Doorbell request bits and post bits that are set, ascending (R212). -/
  req : List Nat
  post : List Nat
  /-- The bit the round robin of posts starts from (R212). -/
  postPtr : Nat
  /-- Occupied slots, key 16 x cell + level (R214). -/
  slots : FMap (Option Nat)
deriving DecidableEq, Repr

/-- A conversion in flight (R229): its groups as a mask, its start edge in ACLK, the slice that converts, and what its
aperture found: the stamp, the probe's CODE if the probe drove the channel, and whether the value is unspecified (R245).
-/
structure Conv where
  groups : Nat
  edge : Nat
  slice : Nat
  stamp : Option Ticks
  probe : Option Int
  free : Bool
deriving DecidableEq, Repr

/-- What a timed sample group waits for (R227). -/
inductive SgWait where
  /-- Nothing. -/
  | idle
  /-- GTIME to reach an instant. -/
  | at (t : Ticks)
  /-- An ACLK edge. -/
  | edge (m : Nat)
deriving DecidableEq, Repr

/-- A partial min-max window (R239, R240). -/
structure Window where
  cnt : Nat
  min : Int
  max : Int
  last : Ticks
  /-- ACLK edge at which the last sample was taken. -/
  edge : Nat
deriving DecidableEq, Repr

/-- A sample taken by a tracker: its code, its aperture stamp and the ACLK edge at which it was taken. -/
structure Taken where
  code : Int
  stamp : Ticks
  edge : Nat
deriving DecidableEq, Repr

/-- A min-max tracker: armed, the window being filled, and the samples that belong to the windows after it. -/
structure Tracker where
  armed : Bool
  cur : Window
  later : List Taken
deriving DecidableEq, Repr

/-- Steps of the background calibration of one spare (R247). -/
inductive CalPhase where
  /-- The rotation does not run on this spare. -/
  | idle
  /-- The spare calibrates itself. -/
  | self
  /-- A slice of a channel in no armed group is calibrated in place. -/
  | inPlace
  /-- The spare shadows the working slice. -/
  | shadow
  /-- The spare takes over at the next start. -/
  | handOver
  /-- The working slice is calibrated while the spare delivers. -/
  | cal
  /-- The working slice shadows back. -/
  | shadowBack
  /-- The working slice resumes at the next start. -/
  | handBack
  /-- The spare has served its list and waits for the rotation to end. -/
  | done
deriving DecidableEq, Repr

/-- Calibration step of a spare: phase, channel and the working slice. -/
structure CalStep where
  phase : CalPhase
  ch : Nat
  slice : Nat
deriving DecidableEq, Repr

/-- Converter group (07). -/
structure Adc where
  /-- Conversions of each channel in flight, oldest first. -/
  conv : FMap (List Conv)
  /-- Starts to come, and starts whose aperture is open: group and start edge in ACLK (R226, R229). -/
  starts : List (Nat × Nat)
  opens : List (Nat × Nat)
  wait : FMap SgWait
  /-- Exact partial sums and stamps of the last results; key 4 x channel + k, 64 the diagnostic one. -/
  sum : FMap Int
  resStamp : FMap Ticks
  /-- Trackers, key 2 x channel + k. -/
  trk : FMap Tracker
  /-- Probe changes of the last 2 us: the PCLK edge and the channel driven until then (R245). -/
  probeAt : List (Nat × Option Nat)
  /-- ACLK edge of the parked spare's last sample (R246). -/
  diagEdge : Option Nat
  /-- GTIME of the last change of VREFSEL. -/
  vrefGt : Option Ticks
  /-- Rotation runs; step of spare 16 and of spare 17, keys 0 and 1. -/
  rotating : Bool
  cal : FMap CalStep
  /-- Channel that spare 16 + key delivers for good (R250). -/
  perm : FMap (Option Nat)
  /-- Slices calibrated since the release (R252). -/
  initDone : List Nat
  /-- Digital correction of each slice in 1/64 LSB (R248). -/
  corr : FMap Int
deriving DecidableEq, Repr

/-- A PWM pair: its complementary outputs, how its trip is held and its deadline window (TRIPPED itself is in
TM_PAIRk_STAT). -/
structure Pair where
  h : Bool
  l : Bool
  /-- Dead time that runs: the output it ends with, H or not, and the ticks left from the last PCLK edge (R268). -/
  dead : Option (Bool × Nat)
  /-- The trip holds until REARM (R271). -/
  latched : Bool
  /-- Open deadline window: its aperture stamp, and whether an on-time write came (R273). -/
  window : Option Ticks
  onTime : Bool
  /-- The takeover action holds (R401). -/
  hold : Bool
  /-- It enters the tripped state at the coming edge; the lowest cause that arises there while it is tripped (R271). -/
  entered : Bool
  fresh : Option Nat
deriving DecidableEq, Repr

/-- What is asked of a timer channel at one PCLK edge, by commands, tasks and the tramline (R255, R262, R277, R283). -/
structure TmReq where
  start : Bool
  stop : Bool
  reload : Bool
  force : Bool
  set : Bool
  clear : Bool
  write : Option Word
deriving DecidableEq, Repr

/-- What is made of the coming PCLK edge at a channel already: the requests, and the channel as it stood before them
with the outputs of its pair. `counted` says that the edge's count is made, `wrapped` that it was a wrap. -/
structure TmEdge where
  req : TmReq
  cnt : Word
  pre : Nat
  run : Bool
  signal : Bool
  h : Bool
  l : Bool
  dead : Option (Bool × Nat)
  counted : Bool
  wrapped : Bool
  /-- Pulses of the channel presented at the coming edge before. -/
  kept : List Nat
deriving DecidableEq, Repr

/-- A qualifying edge that falls on the coming PCLK edge: its data, and whether it was captured (R275). -/
structure CapEdge where
  cnt : Word
  stamp : Ticks
  taken : Bool
deriving DecidableEq, Repr

/-- The synchronised level of an input, and the PCLK edge at which it first showed it (R269, R308). -/
structure Line where
  sync : Bool
  since : Nat
deriving DecidableEq, Repr

/-- The present run of a capture input (R274, R275): its level since an edge, the counter and the stamp of its first
sample, and whether the filtered level has taken it. -/
structure CapRun where
  line : Line
  cnt : Word
  stamp : Ticks
  taken : Bool
deriving DecidableEq, Repr

/-- Timers and PWM (08). -/
structure Timers where
  run : FMap Bool
  signal : FMap Bool
  /-- PCLK edges since the prescaler restarted. -/
  pre : FMap Nat
  /-- The coming edge, for the channels that a command reached. -/
  edge : FMap (Option TmEdge)
  /-- Linked channels whose carry lands at the coming edge, and at the one after it (R257). -/
  carry : List Nat
  carryNext : List Nat
  /-- Capture FIFOs, oldest first: counter value and stamp. -/
  cap : FMap (List (Word × Ticks))
  /-- A capture of the coming edge that found the FIFO full: a read at that edge still lets it in (R276). -/
  capLost : FMap (Option (Word × Ticks))
  capPre : FMap Nat
  /-- Runs of the capture inputs; none while an input has shown no change since CAPCFG selected it. -/
  capRun : FMap (Option CapRun)
  /-- Counter values after the PCLK edges before the last one, newest first, of channels that capture (R275). -/
  capHist : FMap (List Word)
  capEdge : FMap (Option CapEdge)
  /-- Channels whose capture task acts at the edge under way. -/
  capAsked : List Nat
  pair : FMap Pair
  /-- Filtered levels of the trip inputs, and their runs (R269). -/
  trp : FMap Bool
  trpLine : FMap Line
deriving DecidableEq, Repr

/-! ## Memories -/

/-- State of a 64-bit ECC word other than clean (R327): the model's form of its check bits. -/
inductive EccErr where
  /-- A single-bit error: reads are corrected (R328). -/
  | single
  /-- An uncorrectable error (R329). -/
  | uncorrectable
deriving DecidableEq, Repr

/-- March test in progress (R336): banks still to test, the bank under test first, and the mode read at GO. -/
structure March where
  preserving : Bool
  banks : List Nat
  abort : Bool
deriving DecidableEq, Repr

/-- Memory banks of a region (11). (DESIGN CHOICE, log 7) -/
structure Banks where
  /-- Region memory by offset; block memories at 0x10000 x block + offset. -/
  rmem : FMap Byte
  bmem : FMap Byte
  /-- Words that are not clean, keyed as MB_ECC_LASTSBE codes locations (R340). -/
  ecc : FMap (Option EccErr)
  /-- GTIME of the last corrected error, and whether the word of LASTDBE was rewritten since, or none was found (R330).
-/
  sbeGt : Option Ticks
  dbeFresh : Bool
  /-- Target of a bank power transition in progress (R332). -/
  trans : FMap (Option Nat)
  march : Option March
  /-- The access of its pass that the harrow makes next, and the instant at which the first was due, once one of the
  pass has been made (R334, R335). -/
  harrow : Nat
  harrowGt : Option Ticks
deriving DecidableEq, Repr

/-! ## Loop units -/

/-- A response-capture entry (R303): stamp, v and result. -/
structure RcEntry where
  stamp : Ticks
  v : Word
  result : Word
  /-- Its place in the ring. -/
  index : Nat
deriving DecidableEq, Repr

/-- A result that the capture unit meets at the PCLK source edge of its ready event (R303). -/
structure RcReady where
  edge : Nat
  acc : Nat
  stamp : Ticks
  result : Word
deriving DecidableEq, Repr

/-- Loop units (09). -/
structure Loop where
  /-- Band exits on their way to the tramline: PCLK edge of delivery, exit (R282). -/
  exits : List (Nat × Nat)
  /-- Latched targets of the profile generators (R294). -/
  target : FMap (Option (BitVec 64))
  /-- PCLK edge of each generator's last tick, or of the start that set MOVING (R293). -/
  pgLast : FMap Nat
  /-- Injection: shift register, phase, 48-bit frequency, step count (R299). -/
  sr : Nat
  phase : Word
  freq : BitVec 48
  steps : Nat
  /-- PCLK edge of the last step edge; task 0x009 acts at the edge under way; v as compares use it at the coming edge
  (R299, R302). -/
  injLast : Nat
  injAsked : Bool
  injCmp : Word
  rcReady : List RcReady
  /-- Response-capture buffer, oldest first, and entries since the last RESET (R304). -/
  rcBuf : List RcEntry
  rcCount : Nat
deriving DecidableEq, Repr

/-! ## Feedback -/

/-- What a feedback unit keeps beside its registers (10). -/
structure Feedback where
  /-- Edge instants of the history in PCLK, newest first, at most 7 (R314). -/
  hist : List Nat
  /-- Direction of the last valid edge: forward (R315). -/
  lastFwd : Option Bool
  /-- Edge instant of the last valid edge in PCLK, for AGE (R316). -/
  lastEdge : Option Nat
  /-- A write of POS_L held for POS_H in a wide unit (R318). -/
  posHeld : Option Word
  /-- The runs of the three lines (R308). -/
  line : FMap Line
  /-- At the coming PCLK edge: a valid edge comes; POS, CFG is written; the CMP before a write; the history, PERIOD and
  NAVG before a timeout (R316, R324). -/
  edge : Bool
  posW : Bool
  cfgW : Bool
  cmpOld : Option Word
  stopped : Option (List Nat × Word × Nat)
deriving DecidableEq, Repr

/-- A fault record (R393). -/
structure FaultRec where
  kind : Nat
  detail : Nat
  loc : Nat
  info : Word
  gtime : Ticks
deriving DecidableEq, Repr

/-! ## DMA, field pins, takeover -/

/-- A burst whose read has issued (R342): its data, or the address at which its read failed. -/
structure Burst where
  len : Nat
  data : List Byte
  fail : Option Word
  /-- Index words of the elements it touches, by element (R344). -/
  idx : List (Nat × Nat)
  /-- Its level line has been seen low since it started (R348). -/
  wdr : Bool
deriving DecidableEq, Repr

/-- What a DMA channel is doing. -/
inductive DmaPhase where
  /-- RUN = 0. -/
  | idle
  /-- The descriptor at CUR is to be fetched. -/
  | fetch
  /-- Its transfer runs. -/
  | run
deriving DecidableEq, Repr

/-- A DMA channel (R341 to R353). -/
structure Dma where
  phase : DmaPhase
  /-- The eight words of the descriptor. -/
  desc : List Word
  /-- Bytes whose read has issued, and bytes written. -/
  read : Nat
  written : Nat
  /-- Input bytes of an incomplete transpose group (R345). -/
  carry : List Byte
  /-- Index words read and still needed, by element (R344). -/
  idx : List (Nat × Nat)
  /-- Bursts in flight, oldest first. -/
  bursts : List Burst
  /-- CODE the descriptor completes with so far (R343). -/
  code : Nat
  /-- A write failed: later bursts write nothing (R350). -/
  wfail : Bool
  wdr : Bool
  /-- An ABORT falls on the edge under way (R352). -/
  abortNow : Bool
deriving DecidableEq, Repr

/-- A field pin's timed queue (TIME, ACT) and capture FIFO (stamp, level), oldest first (R386, R387), and the run of its
input (R385). Of the coming PCLK edge: the timed action made, and a capture that found the FIFO full (R389). -/
structure FieldPin where
  tq : List (Ticks × Nat)
  cap : List (Ticks × Bool)
  line : Line
  acted : Option Nat
  lost : Option (Ticks × Bool)
deriving DecidableEq, Repr

/-- Steps of a takeover (R399). -/
inductive TkPhase where
  /-- None runs. -/
  | idle
  /-- The fallow cell is being loaded. -/
  | load
deriving DecidableEq, Repr

/-- Block arbiter: the takeover in progress and the retired cells queued behind it, by cell number (R402). -/
structure Takeover where
  phase : TkPhase
  src : Nat
  dst : Nat
  queue : List Nat
deriving DecidableEq, Repr

/-! ## Regions, chip and state -/

/-- A load of the load engine in progress (R137): target cell, sections, who started it. -/
structure Load where
  cell : Nat
  /-- Bits 0 IMEM, 1 CSU, 2 DSU, 3 CSB, as BK_LDCTL [11:8]. -/
  sections : Nat
  software : Bool
  /-- First byte of the golden copy named at the start, and the CRC of its header. -/
  base : Nat
  crc : Word
  /-- The header held an uncorrectable error. -/
  bad : Bool
deriving DecidableEq, Repr

/-- A region (R6). -/
structure Region where
  /-- Registers by offset in the region register space (R17). -/
  regs : FMap Word
  banks : Banks
  /-- Cells by regional index. -/
  cells : FMap Cell
  ev : Events
  adc : Adc
  tm : Timers
  /-- Load of each block's engine. -/
  load : FMap (Option Load)
  lp : Loop
  fb : FMap Feedback
  /-- Fault records waiting for the telemetry ring, oldest first (R393). -/
  faultQ : List FaultRec
  dma : FMap Dma
  fp : FMap FieldPin
  /-- Takeover of each block. -/
  tk : FMap Takeover
  /-- A configuration-check sweep runs (R405). -/
  sweep : Bool
  /-- Records written to the telemetry ring, the sources whose next record carries counts over (blocks 0 to 7, 8 the
  region), and corrected errors in region memory since the last region record (R408, R409). -/
  tlSeq : Nat
  tlCarry : List Nat
  rcorr : Nat
  /-- VIO rails out of range: 0 PW and FB pins, 1 FP 00 to 15, 2 FP 16 to 31 (R468). -/
  railBad : List Nat
  /-- Cells that a reset of region or block reach found running, for AUTORUN (R448). -/
  autorun : List Nat
  /-- Snapshot commands of the region that wait for their edge (R46, R49). -/
  snapReq : Nat
  /-- For each power state, the PCLK edges in a row at which its conditions held, up to 1 µs (R458). -/
  pmHeld : FMap Nat
  /-- The region is held in reset (R447). -/
  inReset : Bool
  /-- Blocks held in reset. -/
  blockReset : List Nat
deriving DecidableEq, Repr

/-- The global time unit (R29, R30) with the count of PCLK edges since the last chip-reach reset. -/
structure Time where
  gtime : Ticks
  /-- The 40-bit fraction F. -/
  frac : BitVec 40
  /-- A step armed and not applied. -/
  step : Option Ticks
  pclk : Nat
  /-- GTIME after each earlier PCLK edge and its advance at the next one without a step, newest first (R25). -/
  past : List (Ticks × Ticks)
deriving DecidableEq, Repr

/-- What the last request of the host, or of the debug port, was answered (R356, R357, R429). -/
inductive HostAnswer where
  /-- Data returned, 4 or 8 bytes or more. -/
  | data (bytes : List Byte)
  /-- A posted write was performed. -/
  | posted
  /-- Unsupported Request. -/
  | unsupported
  /-- Completer Abort. -/
  | abort
  /-- A posted write was discarded. -/
  | discarded
deriving DecidableEq, Repr

/-- What the device sends out. -/
inductive Out where
  /-- An MSI-X message: address and data (R222). -/
  | msix (addr : BitVec 64) (data : Word)
  /-- A frame leaves Ethernet port `p`: destination address to FCS (R369). -/
  | ethernet (p : Nat) (bytes : List Byte)
  /-- A frame leaves Xesum port `p`: the characters of each used lane (R376). -/
  | xesum (p : Nat) (lanes : List (Nat × List LineChar))
  /-- A training frame leaves a lane of Xesum port `p` (R380). -/
  | training (p lane usable : Nat) (version : BitVec 64) (majors : Nat)
  /-- A character leaves the UART (R413). -/
  | uart (b : Byte)
deriving DecidableEq, Repr

/-! ## Links -/

/-- A received frame in an Ethernet receive FIFO: the bytes still to be delivered (R367). -/
structure EthFrame where
  bytes : List Byte
  stamp : Ticks
  /-- Delivered under KEEPBAD with a wrong FCS (R368). -/
  bad : Bool
  status : Word
deriving DecidableEq, Repr

/-- The frame at the head of an Ethernet transmit ring, fetched (R369). -/
structure EthTx where
  /-- CODE of each descriptor of the frame that is not to be handed back with the frame's own. -/
  codes : List (Option Nat)
  bytes : List Byte
  launch : Ticks
  /-- It has left and is being sent. -/
  out : Bool
  /-- It leaves, or has left, late (R371). -/
  late : Bool
deriving DecidableEq, Repr

/-- An Ethernet port (R366 to R374). -/
structure EthPort where
  rx : List EthFrame
  /-- The head frame waits for a descriptor. -/
  waiting : Bool
  /-- A transmit walk is under way (R369). -/
  kicked : Bool
  tx : Option EthTx
deriving DecidableEq, Repr

/-- A data frame in a Xesum retry buffer (R379). -/
structure XlTx where
  seq : Nat
  vc : Nat
  /-- Index of its transmit descriptor. -/
  idx : Nat
  bytes : List Byte
  /-- PCLK edge at which it was last sent. -/
  sent : Nat
deriving DecidableEq, Repr

/-- A frame in a Xesum receive buffer (R378, R381). -/
structure XlRx where
  payload : List Byte
  user : Word
  stamp : Ticks
  time : Bool
deriving DecidableEq, Repr

/-- A training frame (R380). -/
structure TrainFrame where
  usable : Nat
  version : BitVec 64
  majors : Nat
deriving DecidableEq, Repr

/-- A lane of a Xesum port: the training frames received alike in a row and the last of them, and the instants of its
recent lock losses and code errors (R380, R382). -/
structure XlLane where
  alike : Nat
  last : Option TrainFrame
  losses : List Ticks
  errors : List Ticks
deriving DecidableEq, Repr

/-- A Xesum port (R375 to R383). -/
structure XlPort where
  sendSeq : Nat
  expSeq : Nat
  retry : List XlTx
  /-- Credits held for each VC. -/
  credit : FMap Nat
  /-- Received frames waiting for a descriptor of each VC. -/
  rx : FMap (List XlRx)
  /-- Credits of each VC to return in the next ack or nak. -/
  give : FMap Nat
  /-- Data frames accepted and not acknowledged. -/
  unacked : Nat
  /-- A nak was sent for the present gap. -/
  naked : Bool
  /-- Consecutive resend episodes with no frame released. -/
  episodes : Nat
  /-- VCs whose transmit walk is under way. -/
  kicked : List Nat
  rxIdx : FMap Nat
  txIdx : FMap Nat
  lanes : FMap XlLane
  /-- The port has trained before. -/
  trained : Bool
  /-- The lanes that carry the link, ascending. -/
  used : List Nat
  /-- PCLK edge of the last ack or nak received. -/
  heard : Nat
  /-- PCLK edge at which the training under way began, or the wait for its retry. -/
  began : Nat
deriving DecidableEq, Repr

/-! ## Boot unit, journal -/

/-- A journal command accepted: JN_SRC and JN_HDR as captured (R434). -/
structure JnCmd where
  src : Word
  hdr : Word
deriving DecidableEq, Repr

/-- The journal engine (R432 to R439). (DESIGN CHOICE, log 42) -/
structure Journal where
  /-- Head segment and the offset of the next record in it. -/
  head : Option Nat
  pos : Nat
  /-- In-use segments in SEGSEQ order. -/
  segs : List Nat
  segSeq : Nat
  /-- SEQ of the last record written. -/
  seq : Nat
  /-- Valid anchor records by slot, 0 to 15 of anchor A and 16 to 31 of anchor B: GEN and segments. -/
  anchors : FMap (Option (Nat × List Nat))
  gen : Nat
  /-- Uses of each segment as folded in the wear table. -/
  wear : FMap Nat
  queue : List JnCmd
  /-- Highest committed fault-log sequence. -/
  flogSeq : Nat
  /-- Slice retirements and assignments of the live calibration record of each region: AD_SLICEj_STAT by slice. -/
  cal : FMap (FMap Word)
deriving DecidableEq, Repr

/-- The image that runs (R421). -/
structure Running where
  slotB : Bool
  digest : List Byte
deriving DecidableEq, Repr

/-- The boot unit (R413 to R429). -/
structure Boot where
  /-- Levels of BOOT1 and BOOT0. -/
  pins : Nat
  /-- The QSPI flash on the board. -/
  flash : FMap Byte
  /-- Image bytes received from another source. -/
  image : List Byte
  /-- Where those bytes come from after NOIMAGE: 0 not begun, 1 the host, 2 the UART. -/
  begun : Nat
  hwin : FMap Byte
  /-- Next step of the slot order of R421: 0 trial or ACTIVE, 1 ACTIVE, 2 the other slot, 3 none left. -/
  stage : Nat
  running : Option Running
  /-- ACTIVE is slot B; TRIAL (R421). -/
  activeB : Bool
  trialB : Option Bool
  /-- Greatest values of committed anti-rollback and LMS records, and the LMS reservation limit (R423, R428). -/
  mirror : Nat
  lmsLimit : Nat
  /-- Fuses are being blown. -/
  blowing : Bool
  /-- A challenge drawn and not consumed (R429). -/
  challenge : Bool
  /-- QCLK is SCLK divided by this (R416). -/
  qdiv : Nat
  /-- PCLK edge at which image data last arrived (R414). -/
  dataAt : Nat
  otp : FMap Byte
deriving DecidableEq, Repr

/-- Lifetime counters (R412): powered minutes, equivalent hours in 2^-32 hour, minutes at 105 degrees or more. -/
structure Life where
  pwr : Nat
  eq : Nat
  hot : Nat
deriving DecidableEq, Repr

/-- The chip level. -/
structure Chip where
  /-- Registers by offset in the chip register space (R19). -/
  regs : FMap Word
  /-- MSI-X Enable and Function Mask of the MSI-X capability (R221). -/
  msixEnable : Bool
  msixFmask : Bool
  /-- The function is in D3hot, not in D0 (R354). -/
  d3 : Bool
  /-- Uncorrectable Error Status of Advanced Error Reporting (R354). -/
  aer : Word
  /-- Chip-wide snapshot commands that wait for their edge (R46, R49). -/
  snapReq : Nat
  /-- Watchdogs whose coming count edge a command has taken: 0 to 7 a region's, 8 the chip's (R450, R451). -/
  wdTaken : List Nat
  /-- MRAM bytes (R430). -/
  mram : FMap Byte
  eth : FMap EthPort
  xl : FMap XlPort
  jn : Journal
  boot : Boot
  /-- Lifetime counters and their last commit to MRAM. -/
  life : Life
  lifeSaved : Life
  /-- Steps of R446 completed since the last chip-reach reset: 1 to 5, 6 replay, 7 image accepted or none needed. -/
  rel : Nat
  /-- The journal has been replayed. -/
  replayed : Bool
  /-- KCLK cycles of the present second (R452). -/
  kclk : Nat
deriving DecidableEq, Repr

/-- The state of the block. (DESIGN CHOICE, log 7) -/
structure State where
  /-- Commands waiting, first in first out. -/
  pending : List Instr
  /-- Free values taken so far (the model's own; R159, R461). -/
  free : Nat
  time : Time
  chip : Chip
  regions : FMap Region
  /-- What the device sent out, oldest first (the model's own). -/
  out : List Out
  /-- Answer to the last request of the host or of the debug port (the model's own). -/
  host : Option HostAnswer
deriving DecidableEq, Repr

/-! ## Reset values -/

/-- A cell after a chip-reach reset: halted (R448), its memories zero (R444). (DESIGN CHOICE, log 2, 3) -/
def cellInit : Cell where
  gpr := []
  acc := 0
  pc := 0
  rs := []
  io := []
  imem := []
  dmem := []
  cstore := []
  disp := []
  coef := []
  loadQ := []
  storeBuf := []
  acks := []
  longOps := []
  imp := []
  seq := 0
  pred := []
  ports := []
  shadow := []
  escOrigin := false
  halted := true
  awaiting := false
  stepping := false
  byDebug := false
  inReset := false
  hold := .none
  reachErr := 0
  slot := none
  micro := none
  lastPar := none
  swapDue := false
  behind := none

def eventsInit : Events := ⟨[], [], [], [], [], [], [], [], [], 0, []⟩

def adcInit : Adc := ⟨[], [], [], [], [], [], [], [], none, none, false, [], [], [], []⟩

def timersInit : Timers := ⟨[], [], [], [], [], [], [], [], [], [], [], [], [], [], [], []⟩

def loopInit : Loop := ⟨[], [], [], 0, 0, 0, 0, 0, false, 0, [], [], 0⟩

def banksInit : Banks := ⟨[], [], [], none, true, [], none, 0, none⟩

def dmaInit : Dma := ⟨.idle, [], 0, 0, [], [], [], 0, false, false, false⟩

def fieldPinInit : FieldPin := ⟨[], [], ⟨false, 0⟩, none, none⟩

def takeoverInit : Takeover := ⟨.idle, 0, 0, []⟩

/-- A region as a chip-reach reset leaves it: held in reset until the release sequence reaches it (R446, R448).
(DESIGN CHOICE, log 2, 6) -/
def regionInit : Region where
  regs := []
  banks := banksInit
  cells := []
  ev := eventsInit
  adc := adcInit
  tm := timersInit
  load := []
  lp := loopInit
  fb := []
  faultQ := []
  dma := []
  fp := []
  tk := []
  sweep := false
  tlSeq := 0
  tlCarry := []
  rcorr := 0
  railBad := []
  autorun := []
  snapReq := 0
  pmHeld := []
  inReset := true
  blockReset := []

/-- GTIME after a chip-reach reset (R31). The fraction F is zero too, for which the specification gives no value.
(DESIGN CHOICE, log 3) -/
def timeInit : Time := ⟨0, 0, none, 0, []⟩

def ethInit : EthPort := ⟨[], false, false, none⟩

def laneInit : XlLane := ⟨0, none, [], []⟩

def xlInit : XlPort := ⟨0, 0, [], [], [], [], 0, false, 0, [], [], [], [], false, [], 0, 0⟩

def journalInit : Journal := ⟨none, 0, [], 0, 0, [], 0, [], [], 0, []⟩

def bootInit : Boot := ⟨0, [], [], 0, [], 0, none, false, none, 0, 0, false, false, 40, 0, []⟩

def chipInit : Chip where
  regs := []
  msixEnable := false
  msixFmask := false
  d3 := false
  aer := 0
  snapReq := 0
  wdTaken := []
  mram := []
  eth := []
  xl := []
  jn := journalInit
  boot := bootInit
  life := ⟨0, 0, 0⟩
  lifeSaved := ⟨0, 0, 0⟩
  rel := 0
  replayed := false
  kclk := 0

/-- The machine at the moment a power-on reset ends, no release step done (R444 to R448); RS_CAUSE names it (R449).
(DESIGN CHOICE, log 2, 3) -/
def State.reset : State where
  pending := []
  free := 0
  time := timeInit
  chip := { chipInit with regs := [(Reg.RS_CAUSE.base, 1)] }
  regions := []
  out := []
  host := none

end Sys2Proof.Machine
end

