-- ==== Sys2Proof/Machine/Ops.lean ====
section
/-!
DEFINITION. The named reads and writes of the state: registers, counters, memories, cells, regions, and GTIME.
-/

namespace Sys2Proof.Machine

/-- Zero for every key. -/
def zeroWord (_ : Nat) : Word := 0

/-- Nothing for every key. -/
def noneAt {α : Type} (_ : Nat) : Option α := none

/-! ## Lifting -/

/-- The cell with regional index `i`. -/
def Region.cell (R : Region) (i : Nat) : Cell := mapGet (fun _ => cellInit) R.cells i

/-- Replaces a cell. -/
def Region.setCell (R : Region) (i : Nat) (k : Cell) : Region :=
  { R with cells := mapSet (fun _ => cellInit) R.cells i k }

/-- The region `r`. -/
def State.region (s : State) (r : Nat) : Region := mapGet (fun _ => regionInit) s.regions r

/-- Replaces a region. -/
def State.setRegion (s : State) (r : Nat) (R : Region) : State :=
  { s with regions := mapSet (fun _ => regionInit) s.regions r R }

/-- The cell with linear index `c` (R8). -/
def State.cell (s : State) (c : Nat) : Cell := (s.region (c / 128)).cell (c % 128)

/-- Replaces a cell. -/
def State.setCell (s : State) (c : Nat) (k : Cell) : State :=
  s.setRegion (c / 128) ((s.region (c / 128)).setCell (c % 128) k)

/-! ## Registers -/

/-- A region register, by offset. -/
def Region.reg (R : Region) (a : Nat) : Word := mapGet regionDefault R.regs a

/-- Stores a region register. -/
def Region.setReg (R : Region) (a : Nat) (v : Word) : Region := { R with regs := mapSet regionDefault R.regs a v }

/-- A chip register, by offset. -/
def Chip.reg (h : Chip) (a : Nat) : Word := mapGet chipDefault h.regs a

/-- Stores a chip register. -/
def Chip.setReg (h : Chip) (a : Nat) (v : Word) : Chip := { h with regs := mapSet chipDefault h.regs a v }

/-- A chip register of the state. -/
def State.chipReg (s : State) (a : Nat) : Word := s.chip.reg a

/-- Stores a chip register of the state. -/
def State.setChipReg (s : State) (a : Nat) (v : Word) : State := { s with chip := s.chip.setReg a v }

/-- A cell register as stored, by offset. -/
def Cell.ioReg (k : Cell) (a : Nat) : Word := mapGet cellDefault k.io a

/-- Stores a cell register. -/
def Cell.setIo (k : Cell) (a : Nat) (v : Word) : Cell := { k with io := mapSet cellDefault k.io a v }

/-- A general register: g0 reads as zero (R52). -/
def Cell.g (k : Cell) (r : RegNo) : Word := if r = 0 then 0 else mapGet zeroWord k.gpr r

/-- Writes a general register: a write to g0 is discarded (R52). -/
def Cell.setG (k : Cell) (r : RegNo) (v : Word) : Cell :=
  if r = 0 then k else { k with gpr := mapSet zeroWord k.gpr r v }

/-- A field of a region register. -/
def Region.field (R : Region) (a hi lo : Nat) : Nat := bitsOf (R.reg a) hi lo

/-- Stores a field of a region register. -/
def Region.setField (R : Region) (a hi lo v : Nat) : Region := R.setReg a (setBits (R.reg a) hi lo v)

/-- A bit of a region register. -/
def Region.bit (R : Region) (a i : Nat) : Bool := (R.reg a).getLsbD i

/-- Stores a bit of a region register. -/
def Region.setBit (R : Region) (a i : Nat) (b : Bool) : Region := R.setReg a (Machine.setBit (R.reg a) i b)

/-- Adds to a 16-bit counter that saturates (R44). -/
def Region.count (R : Region) (a : Nat) (n : Nat := 1) : Region := R.setReg a (satAdd 0xFFFF (R.reg a) n)

/-- Adds one to a 32-bit counter that wraps (R44). -/
def Region.countWrap (R : Region) (a : Nat) (n : Nat := 1) : Region := R.setReg a (R.reg a + BitVec.ofNat 32 n)

/-- Writes a 64-bit value to a pair of registers. -/
def Region.setPair (R : Region) (lo hi : Nat) (v : BitVec 64) : Region :=
  (R.setReg lo (v.truncate 32)).setReg hi ((v >>> 32).truncate 32)

/-- Reads a 64-bit value from a pair of registers. -/
def Region.pairVal (R : Region) (lo hi : Nat) : BitVec 64 := (R.reg hi ++ R.reg lo : BitVec 64)

/-- Adds to a 16-bit chip counter that saturates. -/
def Chip.count (h : Chip) (a : Nat) (n : Nat := 1) : Chip := h.setReg a (satAdd 0xFFFF (h.reg a) n)

/-- Writes a 64-bit value to a pair of chip registers. -/
def Chip.setPair (h : Chip) (lo hi : Nat) (v : BitVec 64) : Chip :=
  (h.setReg lo (v.truncate 32)).setReg hi ((v >>> 32).truncate 32)

/-- A register write through a mask of writable bits (R40, R41): other bits keep their value. -/
def maskWrite (mask : Nat) (old v : Word) : Word :=
  let m := BitVec.ofNat 32 mask
  (old &&& ~~~ m) ||| (v &&& m)

/-! ## Status of a cell (R56) -/

def Cell.cstat (k : Cell) : Word := k.ioReg Reg.CSTAT.base

def Cell.setCstat (k : Cell) (v : Word) : Cell := k.setIo Reg.CSTAT.base v

/-- CSTAT.PRIV: supervisor level. -/
def Cell.sup (k : Cell) : Bool := k.cstat.getLsbD 4

/-- CSTAT.ML. -/
def Cell.ml (k : Cell) : Nat := bitsOf k.cstat 3 0

/-- CSTAT.FH. -/
def Cell.fh (k : Cell) : Bool := k.cstat.getLsbD 5

/-- CSTAT.ESC. -/
def Cell.esc (k : Cell) : Bool := k.cstat.getLsbD 6

/-- CSTAT.NBP. -/
def Cell.nbp (k : Cell) : Bool := k.cstat.getLsbD 7

/-- CSTAT.DS. -/
def Cell.ds (k : Cell) : Nat := bitsOf k.cstat 9 8

/-- RSPTR, RSBASE, RSLIMIT as byte addresses. -/
def Cell.rsptr (k : Cell) : Nat := (k.ioReg Reg.RSPTR.base).toNat
def Cell.rsbase (k : Cell) : Nat := (k.ioReg Reg.RSBASE.base).toNat
def Cell.rslimit (k : Cell) : Nat := (k.ioReg Reg.RSLIMIT.base).toNat

/-- A word of DMEM, little-endian. -/
def Cell.dmem32 (k : Cell) (a : Nat) : Word := BitVec.ofNat 32 (leNat (mapRead zeroByte k.dmem a 4))

/-- Stores bytes in DMEM. -/
def Cell.setDmem (k : Cell) (a : Nat) (bs : List Byte) : Cell := { k with dmem := mapWrite zeroByte k.dmem a bs }

/-- A word of IMEM, little-endian. -/
def Cell.imem32 (k : Cell) (a : Nat) : Word := BitVec.ofNat 32 (leNat (mapRead zeroByte k.imem a 4))

/-- A dispatch entry: opcode or index `i` of set `d` (R132). -/
def Cell.dispatch (k : Cell) (d i : Nat) : BitVec 12 := mapGet (fun _ => 0) k.disp (256 * d + i)

/-- The entry is valid and its parity is even (R132). -/
def dispValid (e : BitVec 12) : Bool := e.getLsbD 10

/-- The cell runs: neither in reset nor halted (R94, R448). -/
def Cell.running (k : Cell) : Bool := !k.halted && !k.inReset

/-- Tags a cell holds: loads on their way and non-local writes not acknowledged (R33, R34). (DESIGN CHOICE, log 54) -/
def Cell.tags (k : Cell) : Nat := k.loadQ.length + k.acks.length

/-- Adds to a cell counter that saturates at 32 bits (R128). (DESIGN CHOICE, log 25) -/
def Cell.countIo (k : Cell) (a top : Nat) : Cell := k.setIo a (satAdd top (k.ioReg a) 1)

/-- PFCTL counts at the cell's present level (R128). (DESIGN CHOICE, log 25) -/
def Cell.pfCounts (k : Cell) : Bool :=
  let c := k.ioReg Reg.PFCTL.base
  c.getLsbD 0 && (match bitsOf c 2 1 with | 1 => !k.sup | 2 => k.sup | _ => true)

/-! ## GTIME (R25, R29) -/

/-- What a unit of a region sees of the rest of the chip in one command. -/
structure Ctx where
  /-- Region number. -/
  r : Nat
  time : Time
  /-- Chip registers, for CH_GTRATE and CH_XEVc_CFG. -/
  chip : FMap Word
  /-- Index of the next free value. -/
  free : Nat
deriving DecidableEq, Repr

/-- The context of region `r`. -/
def State.ctx (s : State) (r : Nat) : Ctx := ⟨r, s.time, s.chip.regs, s.free⟩

/-- GTIME now. -/
def Ctx.gt (x : Ctx) : Ticks := x.time.gtime

/-- CH_GTRATE as a signed number. -/
def Ctx.rate (x : Ctx) : Int := (mapGet chipDefault x.chip Reg.CH_GTRATE.base).toInt

/-- GTIME and F after one PCLK edge, no step applied (R29). -/
def advance (rate : Int) (g : Ticks) (f : BitVec 40) : Ticks × BitVec 40 :=
  let x := (f.toNat : Int) + rate
  (g + BitVec.ofInt 64 (16 + x / 2 ^ 40), BitVec.ofInt 40 x)

/-- GTIME and F one PCLK edge earlier, under the present rate. -/
def goBack (rate : Int) (g : Ticks) (f : BitVec 40) : Ticks × BitVec 40 :=
  let f' := BitVec.ofInt 40 ((f.toNat : Int) - rate)
  (g - BitVec.ofInt 64 (16 + ((f'.toNat : Int) + rate) / 2 ^ 40), f')

/-- `n` edges forward. -/
def advanceN (rate : Int) : Nat → Ticks → BitVec 40 → Ticks × BitVec 40
  | 0, g, f => (g, f)
  | n + 1, g, f => advanceN rate n (advance rate g f).1 (advance rate g f).2

/-- `n` edges back. -/
def goBackN (rate : Int) : Nat → Ticks → BitVec 40 → Ticks × BitVec 40
  | 0, g, f => (g, f)
  | n + 1, g, f => goBackN rate n (goBack rate g f).1 (goBack rate g f).2

/-- GTIME after the PCLK edge `q` edges from the last one, and its advance at the edge after that without a step: an
earlier edge as it was, a later one under the present rate. An edge before those kept is reckoned back under the
present rate. (DESIGN CHOICE, log 57) -/
def Ctx.edgeAt (x : Ctx) (q : Int) : Ticks × Ticks :=
  let ahead (p : Ticks × BitVec 40) : Ticks × Ticks := (p.1, (advance x.rate p.1 p.2).1 - p.1)
  if q ≥ 0 then ahead (advanceN x.rate q.toNat x.time.gtime x.time.frac)
  else match x.time.past[(-q).toNat - 1]? with
    | some e => e
    | none => ahead (goBackN x.rate (-q).toNat x.time.gtime x.time.frac)

/-- GTIME at the instant `h` half PCLK periods from the last PCLK edge; a midway instant adds half the advance of
the next edge, rounded down (R25). -/
def Ctx.gtAtHalf (x : Ctx) (h : Int) : Ticks :=
  let e := x.edgeAt (h / 2)
  if h % 2 = 0 then e.1 else e.1 + e.2 / 2

/-- The earlier edges whose GTIME is kept: as many as the longest filter reaches back. (DESIGN CHOICE, log 57) -/
def pastKept : Nat := 264

/-- The time after one more PCLK edge, no step applied; the edge left behind is kept (R25, R29). -/
def Time.tick (rate : Int) (t : Time) : Time :=
  let g := advance rate t.gtime t.frac
  { t with gtime := g.1, frac := g.2, pclk := t.pclk + 1, past := ((t.gtime, g.1 - t.gtime) :: t.past).take pastKept }

/-- The context at the coming PCLK edge. -/
def Ctx.next (x : Ctx) : Ctx := { x with time := x.time.tick x.rate }

/-- GTIME at the coming PCLK edge. -/
def Ctx.gtNext (x : Ctx) : Ticks := x.next.gt

/-- Ticks from the last PCLK edge to the coming one. -/
def Ctx.adv (x : Ctx) : Nat := (x.gtNext - x.gt).toNat

/-- PCLK edges from the last one back to the last at or before the stamp `st`, if it is among those kept (R275). -/
def Ctx.edgesBack (x : Ctx) (st : Ticks) : Option Nat :=
  (x.time.gtime :: x.time.past.map Prod.fst).findIdx? (fun g => decide (g.toNat ≤ st.toNat))

/-- Index of the last ACLK edge at or before now: every fifth half PCLK period is one (R25). -/
def Ctx.aclk (x : Ctx) : Nat := 2 * x.time.pclk / 5

/-- Index of the last ACLK edge at or before the coming PCLK edge. -/
def Ctx.aclkNext (x : Ctx) : Nat := 2 * (x.time.pclk + 1) / 5

/-- The PCLK edge at which the single-bit synchroniser delivers an event of ACLK edge `m`: the third after it (R490). -/
def aclkEdge (m : Nat) : Nat := 5 * m / 2 + 3

/-- GTIME of ACLK edge `m`. -/
def Ctx.gtAclk (x : Ctx) (m : Nat) : Ticks := x.gtAtHalf (5 * (m : Int) - 2 * (x.time.pclk : Int))

/-- An input shows the level `b` at PCLK edge `e` and after: a new run, unless it showed it already (R269, R308). -/
def Line.show (b : Bool) (e : Nat) (l : Line) : Line := if l.sync = b then l else ⟨b, max e l.since⟩

/-- At PCLK edge `e` the input has shown its level at `filt` + 1 consecutive edges (R269, R308). -/
def Line.passed (filt e : Nat) (l : Line) : Bool := decide (l.since + filt ≤ e)

/-- Applies a region's function under its context. -/
def State.onRegion (s : State) (r : Nat) (f : Ctx → Region → Region) : State := s.setRegion r (f (s.ctx r) (s.region r))

/-- Applies a function to a cell of a region. -/
def Region.onCell (R : Region) (i : Nat) (f : Cell → Cell) : Region := R.setCell i (f (R.cell i))

/-- Applies a function to a cell. -/
def State.onCell (s : State) (c : Nat) (f : Cell → Cell) : State := s.setCell c (f (s.cell c))

/-- Presents a pulse of source `src`, stamped with GTIME now (R191). -/
def Region.raise (R : Region) (x : Ctx) (src : Nat) : Region :=
  { R with ev := { R.ev with fabric := R.ev.fabric ++ [⟨src, x.gt⟩] } }

/-- Presents a pulse of source `src` at the coming PCLK edge. -/
def Region.raiseNext (R : Region) (src : Nat) : Region := { R with ev := { R.ev with coming := R.ev.coming ++ [src] } }

/-- Presents a pulse of source `src` at PCLK edge `e`, or at the coming edge if that is over. -/
def Region.raiseEdge (R : Region) (e src : Nat) : Region := { R with ev := { R.ev with sched := R.ev.sched ++ [(e,
    src)] } }

/-- Presents a pulse with another stamp. -/
def Region.raiseAt (R : Region) (src : Nat) (stamp : Ticks) : Region :=
  { R with ev := { R.ev with fabric := R.ev.fabric ++ [⟨src, stamp⟩] } }

/-- Folds a function over the numbers below `n`. -/
def foldN {α : Type} (n : Nat) (f : Nat → α → α) (a : α) : α := (List.range n).foldl (fun s i => f i s) a

end Sys2Proof.Machine
end

