-- ==== Sys2Proof/Machine/Timers.lean ====
section
/-!
DEFINITION. Timer channels, PWM pairs, trips, deadline monitor and capture (R254 to R278).
-/

namespace Sys2Proof.Machine

def falseAt (_ : Nat) : Bool := false
def trueAt (_ : Nat) : Bool := true
def zeroNat (_ : Nat) : Nat := 0

def pairInit : Pair := ⟨false, false, none, false, none, false, false, false, none⟩

def Region.pair (R : Region) (k : Nat) : Pair := mapGet (fun _ => pairInit) R.tm.pair k
def Region.setPwmPair (R : Region) (k : Nat) (p : Pair) : Region :=
  { R with tm := { R.tm with pair := mapSet (fun _ => pairInit) R.tm.pair k p } }

def Region.tmRun (R : Region) (n : Nat) : Bool := mapGet falseAt R.tm.run n
def Region.setTmRun (R : Region) (n : Nat) (b : Bool) : Region := { R with tm := { R.tm with run := mapSet falseAt R.tm.run n b } }
def Region.signal (R : Region) (n : Nat) : Bool := mapGet falseAt R.tm.signal n
def Region.putSignal (R : Region) (n : Nat) (b : Bool) : Region :=
  { R with tm := { R.tm with signal := mapSet falseAt R.tm.signal n b } }
def Region.tmPre (R : Region) (n : Nat) : Nat := mapGet zeroNat R.tm.pre n
def Region.setTmPre (R : Region) (n v : Nat) : Region := { R with tm := { R.tm with pre := mapSet zeroNat R.tm.pre n v } }
/-- What is made of the coming edge at channel `n` already. -/
def Region.tmEdge (R : Region) (n : Nat) : Option TmEdge := mapGet noneAt R.tm.edge n
def Region.setTmEdge (R : Region) (n : Nat) (e : Option TmEdge) : Region :=
  { R with tm := { R.tm with edge := mapSet noneAt R.tm.edge n e } }
def Region.capFifo (R : Region) (n : Nat) : List (Word × Ticks) := mapGet (fun _ => []) R.tm.cap n
def Region.setCapFifo (R : Region) (n : Nat) (l : List (Word × Ticks)) : Region :=
  { R with tm := { R.tm with cap := mapSet (fun _ => []) R.tm.cap n l } }
/-- Filtered level of trip input `i`; high until it changes, so not asserted at reset with POL 0.
(DESIGN CHOICE, log 6) -/
def Region.trpLevel (R : Region) (i : Nat) : Bool := mapGet trueAt R.tm.trp i
def Region.setTrpLevel (R : Region) (i : Nat) (b : Bool) : Region := { R with tm := { R.tm with trp := mapSet trueAt R.tm.trp i b } }

def Region.cnt (R : Region) (n : Nat) : Word := R.reg (regAt Reg.TM_CH_CNT n 0)
def Region.tripped (R : Region) (k : Nat) : Bool := R.bit (regAt Reg.TM_PAIR_STAT k 0) 0
def Region.comp (R : Region) (k : Nat) : Bool := R.bit (regAt Reg.TM_PAIR_CFG k 0) 0

/-! ## Trips (R269 to R271) -/

/-- Trip input `i` is asserted: its filtered level is the active one (R269). -/
def Region.trpAsserted (R : Region) (i : Nat) : Bool := R.trpLevel i == R.bit (regAt Reg.TM_TRP_CFG i 0) 0

/-- Lowest asserted input that pair `k` enables. -/
def Region.trpCause (R : Region) (k : Nat) : Option Nat :=
  (List.range 4).find? (fun i => R.bit (regAt Reg.TM_PAIR_CFG k 0) (8 + i) && R.trpAsserted i)

/-- The lowest cause that a REARM at the coming edge meets as a new one: neither a TRP input, 1 to 4, which is a level,
nor a software trip, 8, which is another write of the same register (R271, R287). -/
def freshCause (cause : Nat) (p : Pair) : Option Nat :=
  if cause ≤ 4 ∨ cause = 8 then p.fresh else some (min cause (p.fresh.getD cause))

/-- Pair `k` enters the tripped state at the coming edge (R271). -/
def enterTrip (k cause : Nat) (latch : Bool) (R : Region) : Region :=
  let R := R.setReg (regAt Reg.TM_PAIR_STAT k 0) (BitVec.ofNat 32 (cause * 16 + 1))
  let R := R.count (regAt Reg.TM_PAIR_TRIPS k 0)
  R.setPwmPair k { R.pair k with h := false, l := false, dead := none, latched := latch, entered := true,
                                 fresh := freshCause cause (R.pair k) }

/-- A cause trips pair `k`, or adds to what trips it already: of several causes of one entry the lowest is recorded;
`latch` holds the pair until REARM (R271). -/
def tripPair (k cause : Nat) (latch : Bool) (R : Region) : Region :=
  let p := R.pair k
  if !R.tripped k then enterTrip k cause latch R
  else
    let at' := regAt Reg.TM_PAIR_STAT k 0
    let R := if p.entered then R.setField at' 7 4 (min cause (R.field at' 7 4)) else R
    R.setPwmPair k { p with latched := p.latched || latch, fresh := freshCause cause p }

/-- The outputs of pair `k` restart from off, `o` ticks after the last PCLK edge: the one that the reference selects
turns on after its dead time, at once where that is zero (R268, R271). -/
def restartOuts (o k : Nat) (R : Region) : Region :=
  let dt := R.reg (regAt Reg.TM_PAIR_DT k 0)
  let up := R.signal (2 * k)
  let d := if up then bitsOf dt 15 0 else bitsOf dt 31 16
  R.setPwmPair k { R.pair k with
    h := up && d == 0, l := !up && d == 0, dead := if R.comp k && d != 0 then some (up, o + d) else none }

/-- Pair `k` leaves the tripped state: its outputs restart from off (R271). -/
def untripPair (o k : Nat) (R : Region) : Region :=
  let R := R.setBit (regAt Reg.TM_PAIR_STAT k 0) 0 false
  restartOuts o k (R.setPwmPair k { R.pair k with latched := false })

/-- Trips or releases pair `k` by its TRP inputs as they stand (R271). -/
def trpUpdate (o k : Nat) (R : Region) : Region :=
  match R.trpCause k with
  | some i => tripPair k (1 + i) (R.bit (regAt Reg.TM_PAIR_CFG k 0) 1) R
  | none => if R.tripped k && !(R.pair k).latched then untripPair o k R else R

/-- Every pair meets the present state of the inputs. -/
def trpUpdateAll (o : Nat) (R : Region) : Region := foldN 24 (trpUpdate o) R

/-- Input `i` may have become asserted for the coming edge: presents its source and moves the pairs (R269). -/
def trpEdge (o i : Nat) (was : Bool) (R : Region) : Region :=
  trpUpdateAll o (if R.trpAsserted i && !was then R.raiseNext (0x011 + i) else R)

/-- Run of the synchronised level of trip input `i`. -/
def Region.trpLine (R : Region) (i : Nat) : Line := mapGet (fun _ => ⟨true, 0⟩) R.tm.trpLine i
def Region.setTrpLine (R : Region) (i : Nat) (l : Line) : Region :=
  { R with tm := { R.tm with trpLine := mapSet (fun _ => ⟨true, 0⟩) R.tm.trpLine i l } }

/-- The filter of trip input `i` at PCLK edge `e`, which lies `o` ticks after the last one made: the filtered level
takes the synchronised one once it has shown it long enough (R269). -/
def trpDecide (o e i : Nat) (R : Region) : Region :=
  let l := R.trpLine i
  if l.sync != R.trpLevel i && l.passed (R.field (regAt Reg.TM_TRP_CFG i 0) 15 8) e then
    trpEdge o i (R.trpAsserted i) (R.setTrpLevel i l.sync)
  else R

/-- REARM: takes effect only when no enabled TRP input is asserted; a cause that arises at its edge makes a new entry
of the tripped state (R271, R277). -/
def rearmPair (o k : Nat) (R : Region) : Region :=
  let p := R.pair k
  if R.tripped k && (R.trpCause k).isNone then
    match p.fresh with
    | some c => if p.entered then R else enterTrip k c true R
    | none => untripPair o k R
  else R

/-! ## Signals and actions (R262, R263, R268) -/

/-- The dead time that runs in pair `k` ends if it does so before `o` ticks after the last PCLK edge: its output turns
on (R268). -/
def deadBefore (o k : Nat) (R : Region) : Region :=
  match (R.pair k).dead with
  | some (up, d) =>
    if d < o then
      let p := R.pair k
      R.setPwmPair k (if up then { p with h := true, dead := none } else { p with l := true, dead := none })
    else R
  | none => R

/-- Sets the signal of channel `n`, `o` ticks after the last PCLK edge; in complementary mode a change of the reference
turns one output off at once and the other on after its dead time, at once where that is zero (R268). -/
def setSignal (o n : Nat) (b : Bool) (R : Region) : Region :=
  let k := n / 2
  let old := R.signal n
  if n % 2 = 0 ∧ n < 48 ∧ R.comp k ∧ !R.tripped k then
    let R := deadBefore o k R
    let R := R.putSignal n b
    if old = b then R else restartOuts o k R
  else R.putSignal n b

/-- An action code on the signal of channel `n`: 1 high, 2 low, 3 toggle (R262). -/
def signalAct (o n code : Nat) (R : Region) : Region :=
  match code with
  | 1 => setSignal o n true R
  | 2 => setSignal o n false R
  | 3 => setSignal o n (!R.signal n) R
  | _ => R

/-- FRACEN of channel `n`; internal channels have none (R260). -/
def Region.fracen (R : Region) (n : Nat) : Bool := decide (n < 48) && R.bit (regAt Reg.TM_CH_CFG n 0) 30

/-- INT and FRAC of a compare value (R260). -/
def cmpInt (fracen : Bool) (v : Word) : Nat := if fracen then v.toNat / 16 else v.toNat
def cmpFrac (fracen : Bool) (v : Word) : Nat := if fracen then v.toNat % 16 else 0

/-- `v` where the injection unit names destination `kind`, `idx`; zero otherwise (R302). -/
def Region.injected (R : Region) (v : Word) (kind idx : Nat) : Int :=
  let c := R.reg Reg.LP_INJ_CFG.base
  if bitsOf c 18 16 = kind ∧ bitsOf c 5 0 = idx then v.toInt else 0

/-- Effective compare of channel `n` at the coming edge: the register with an injection added and clamped; a step edge
changes it as a write does, from the edge after (R264, R302). -/
def Region.effCmp (R : Region) (n : Nat) (b : Bool) : Word :=
  let v := R.reg (regAt (if b then Reg.TM_CH_CMPB else Reg.TM_CH_CMPA) n 0)
  BitVec.ofInt 32 (max 0 (min 0xFFFFFFFF ((v.toNat : Int) + R.injected R.lp.injCmp (if b then 3 else 2) n)))

/-- An action: ticks after its PCLK edge, its place in the order of R262, and its code. -/
structure Action where
  tick : Nat
  order : Nat
  code : Nat
deriving DecidableEq, Repr

/-- Places in the order of R262, lowest first; of a set and a clear on one tick the clear acts (R283). -/
def orderInit : Nat := 0
def orderWrap : Nat := 1
def orderA : Nat := 2
def orderB : Nat := 3
def orderForce : Nat := 4
def orderSet : Nat := 5
def orderClear : Nat := 6

/-- Applies the actions of one PCLK edge, which lies `o` ticks after the last one made: on each tick only the highest
in order, ticks in order (R262). -/
def applyActs (o n : Nat) (acts : List Action) (R : Region) : Region :=
  let real := acts.filter (fun a => a.code != 0)
  let win := real.filter (fun a => !real.any (fun b => b.tick == a.tick && decide (a.order < b.order)))
  foldN 16 (fun t R => (win.filter (fun a => a.tick == t)).foldl (fun R a => signalAct (o + t) n a.code R) R) R

/-- The counter of channel `n` takes the value `v` at an edge `o` ticks after the last one made, `wrap` when by a wrap:
matches, actions and events of that edge, with the actions `others` that fall on it as well (R261, R262). -/
def takeValue (o n : Nat) (v : Word) (wrap : Bool) (others : List Action) (R : Region) : Region :=
  let f := R.fracen n
  let a := R.effCmp n false
  let b := R.effCmp n true
  let act := R.reg (regAt Reg.TM_CH_ACT n 0)
  let mA := cmpInt f a == v.toNat
  let mB := cmpInt f b == v.toNat
  let R := R.setReg (regAt Reg.TM_CH_CNT n 0) v
  let R := R.setTmPre n 0
  let acts := others ++ (if wrap then [⟨0, orderWrap, bitsOf act 5 4⟩] else [])
    ++ (if mA then [⟨cmpFrac f a, orderA, bitsOf act 1 0⟩] else [])
    ++ (if mB then [⟨cmpFrac f b, orderB, bitsOf act 3 2⟩] else [])
  let R := applyActs o n acts R
  let R := if mA then R.raiseNext (0x100 + n) else R
  let R := if mB then R.raiseNext (0x140 + n) else R
  if wrap then R.raiseNext (0x180 + n) else R

/-- Channel `n` counts the wraps of its lower neighbour (R257). -/
def Region.linked (R : Region) (n : Nat) : Bool := decide (n % 2 = 1) && R.bit (regAt Reg.TM_CH_CFG n 0) 31

/-- The value of the next count edge and whether it is a wrap edge (R254). -/
def nextCount (n : Nat) (R : Region) : Word × Bool :=
  let c := R.cnt n
  if c.toNat ≥ (R.reg (regAt Reg.TM_CH_RELOAD n 0)).toNat then (0, true) else (c + 1, false)

/-! ## Commands, tasks and counts of one edge (R254 to R257, R277) -/

def tmReqNone : TmReq := ⟨false, false, false, false, false, false, none⟩

/-- Requests of one edge together; of two written values the later one stands. -/
def TmReq.join (a b : TmReq) : TmReq :=
  ⟨a.start || b.start, a.stop || b.stop, a.reload || b.reload, a.force || b.force, a.set || b.set, a.clear || b.clear,
    b.write <|> a.write⟩

/-- The requests replace the count of their edge (R255, R277). -/
def TmReq.replaces (q : TmReq) : Bool := q.start || q.stop || q.reload || q.write.isSome

/-- Source `c` is a match or the wrap of channel `n`. -/
def tmSource (n c : Nat) : Bool := c == 0x100 + n || c == 0x140 + n || c == 0x180 + n

/-- Channel `n` and the outputs of its pair as they stand, with nothing made of the coming edge. -/
def Region.tmPresent (R : Region) (n : Nat) : TmEdge :=
  let p := R.pair (n / 2)
  ⟨tmReqNone, R.cnt n, R.tmPre n, R.tmRun n, R.signal n, p.h, p.l, p.dead, false, false,
      R.ev.coming.filter (tmSource n)⟩

/-- Undoes what was made of the coming edge at channel `n`. -/
def tmRestore (n : Nat) (R : Region) : Region :=
  match R.tmEdge n with
  | none => R
  | some e =>
    let R := (((R.setReg (regAt Reg.TM_CH_CNT n 0) e.cnt).setTmPre n e.pre).setTmRun n e.run).putSignal n e.signal
    let R := if n % 2 = 0 ∧ n < 48 ∧ !R.tripped (n / 2) then
        R.setPwmPair (n / 2) { R.pair (n / 2) with h := e.h, l := e.l, dead := e.dead } else R
    let R := { R with tm := { R.tm with
      carryNext := if e.wrapped then R.tm.carryNext.erase (n + 1) else R.tm.carryNext } }
    { R with ev := { R.ev with coming := R.ev.coming.filter (fun c => !tmSource n c) ++ e.kept } }

def tmPhase (R : Region) (n : Nat) : Word := R.reg (regAt Reg.TM_CH_PHASE n 0)

/-- The actions that the requests themselves make, on tick 0 of their edge: INIT at a start of a stopped channel, the
force, the tramline's set and clear (R255, R262). -/
def reqActs (n : Nat) (q : TmReq) (R : Region) : List Action :=
  let act := R.reg (regAt Reg.TM_CH_ACT n 0)
  (if q.start && !q.stop && !R.tmRun n then [⟨0, orderInit, if act.getLsbD 12 then 1 else 2⟩] else [])
    ++ (if q.force then [⟨0, orderForce, bitsOf act 7 6⟩] else [])
    ++ (if q.set then [⟨0, orderSet, 1⟩] else []) ++ (if q.clear then [⟨0, orderClear, 2⟩] else [])

/-- The value that the requests load: a written one before PHASE; a stop cancels a start's load, not a reload's. -/
def reqLoad (n : Nat) (q : TmReq) (R : Region) : Option Word :=
  match q.write with
  | some v => some v
  | none => if q.reload || (q.start && !q.stop) then some (tmPhase R n) else none

/-- The requests of one edge act on channel `n` (R255, R277). -/
def tmApply (o n : Nat) (q : TmReq) (R : Region) : Region :=
  let acts := reqActs n q R
  let R' := R.setTmRun n (!q.stop && (q.start || R.tmRun n))
  match reqLoad n q R with
  | some v => takeValue o n v false acts R'
  | none => applyActs o n acts R'

/-- A task or a tramline action reaches channel `n` at the edge under way: it acts together with those of that edge
before it, and with the last command given for that edge (R277). -/
def tmAct (o n : Nat) (q : TmReq) (R : Region) : Region :=
  let R := tmRestore n R
  let e := (R.tmEdge n).getD (R.tmPresent n)
  let q := e.req.join q
  (tmApply o n q R).setTmEdge n (some { e with req := q, counted := false, wrapped := false })

/-- A command reaches channel `n` for the coming edge. Commands come one after the other: the unit performs one write of
these registers at an edge (R287). -/
def tmCommand (o n : Nat) (q : TmReq) (R : Region) : Region :=
  (tmApply o n q R).setTmEdge n (some { R.tmPresent n with req := q })

/-- Start: a stopped channel loads PHASE and INIT and runs; a running one reloads. -/
def reqStart : TmReq := { tmReqNone with start := true }
/-- Stop: the counter holds the value from before the edge. -/
def reqStop : TmReq := { tmReqNone with stop := true }
/-- Reload: the counter takes PHASE. -/
def reqReload : TmReq := { tmReqNone with reload := true }
/-- Force: the force action (R262). -/
def reqForce : TmReq := { tmReqNone with force := true }
/-- A write of TM_CHn_CNT. -/
def reqWrite (v : Word) : TmReq := { tmReqNone with write := some v }
/-- The bits of one TM_CHn_CTL write (R277). -/
def reqCtl (v : Word) : TmReq :=
  { tmReqNone with start := v.getLsbD 0, stop := v.getLsbD 1, reload := v.getLsbD 2, force := v.getLsbD 3 }

/-- The count edge of channel `n`, `o` ticks after the last PCLK edge; with `blocked` the actions of its tick 0 yield to
a force or a tramline action made there already. Whether it is a wrap edge comes with it (R254, R262). -/
def countEdge (o : Nat) (blocked : Bool) (n : Nat) (R : Region) : Bool × Region :=
  let v := nextCount n R
  let top : List Action := if blocked then [⟨0, orderClear + 1, 4⟩] else []
  (v.2, takeValue o n v.1 v.2 top R)

/-- A force or a tramline action of the coming edge has acted on the signal of channel `n`. -/
def Region.tmBlocked (R : Region) (n : Nat) : Bool :=
  match R.tmEdge n with
  | some e => e.req.set || e.req.clear || (e.req.force && R.field (regAt Reg.TM_CH_ACT n 0) 7 6 != 0)
  | none => false

/-- The coming PCLK edge is a count edge of channel `n`: it runs, its prescaler is at the end or the carry of its lower
neighbour lands, and no request or row has taken the edge (R254, R255, R257). -/
def Region.countDue (R : Region) (n : Nat) : Bool :=
  let free := match R.tmEdge n with | some e => !e.req.replaces && !e.counted | none => true
  free && R.tmRun n
    && (if R.linked n then R.tm.carry.contains n else decide (R.field (regAt Reg.TM_CH_CFG n 0) 7 0 ≤ R.tmPre n))

/-- A wrap of an even channel `n` sends its carry to land at the edge after it (R257). -/
def sendCarry (w : Bool) (n : Nat) (R : Region) : Region :=
  if w then { R with tm := { R.tm with carryNext := R.tm.carryNext ++ [n + 1] } } else R

/-- The coming edge's count of channel `n` is made now. -/
def countEarly (o n : Nat) (R : Region) : Region :=
  let e := (R.tmEdge n).getD (R.tmPresent n)
  let c := countEdge o (R.tmBlocked n) n R
  let w := c.1 && decide (n % 2 = 0)
  (sendCarry w n c.2).setTmEdge n (some { e with counted := true, wrapped := w })

/-- WRAP_EDGE: the coming edge is a wrap edge of channel `n` (R254). (DESIGN CHOICE, log 32) -/
def wrapOf (o n : Nat) (R : Region) : Region :=
  if R.countDue n && (nextCount n R).2 then countEarly o n R else R

/-- COMPARE_MATCH: the counter of channel `n` takes its effective compare value A or B at the coming edge by counting
(R261). (DESIGN CHOICE, log 32) -/
def compareHit (o n : Nat) (b : Bool) (R : Region) : Region :=
  if R.countDue n && cmpInt (R.fracen n) (R.effCmp n b) == (nextCount n R).1.toNat then countEarly o n R
  else R

/-- One PCLK edge of channel `n` (R254, R257). -/
def tmTickCh (n : Nat) (R : Region) : Region :=
  if R.countDue n then
    let c := countEdge 0 (R.tmBlocked n) n R
    sendCarry (c.1 && decide (n % 2 = 0)) n c.2
  else
    let taken := match R.tmEdge n with | some e => e.counted || e.req.replaces | none => false
    if !taken && R.tmRun n && !R.linked n then R.setTmPre n (R.tmPre n + 1) else R

/-- The dead time of pair `k` as counted from the edge that now is the last, `adv` ticks after the one before. -/
def pairTick (adv k : Nat) (R : Region) : Region :=
  let R := deadBefore adv k R
  let p := R.pair k
  R.setPwmPair k { p with dead := p.dead.map (fun d => (d.1, d.2 - adv)) }

/-- DEAD_TIME_EXPIRY: the dead time of pair `k` that ends before the coming edge ends (R268). (DESIGN CHOICE, log 32) -/
def deadTimeOver (adv k : Nat) (R : Region) : Region := deadBefore adv k R

/-- Applies a function to every channel 32w + j whose bit j is set (R256). -/
def groupAct (w : Nat) (v : Word) (f : Nat → Region → Region) (R : Region) : Region :=
  foldN 32 (fun j R => if v.getLsbD j then f (32 * w + j) R else R) R

/-! ## Deadline monitor (R273) -/

/-- A window of pair `k` closes as a miss at the coming edge. -/
def deadlineMissed (k : Nat) (R : Region) : Region :=
  let R := (R.count (regAt Reg.TM_PAIR_DLMISS k 0)).raiseNext (0x018 + k)
  if R.field (regAt Reg.TM_PAIR_DL k 0) 31 30 = 2 ∧ !(R.pair k).hold then tripPair k 7 true R else R

/-- Closes the open window of pair `k`, as a miss if no write came on time. -/
def closeWindow (k : Nat) (R : Region) : Region :=
  let p := R.pair k
  match p.window with
  | none => R
  | some _ =>
    let R := R.setPwmPair k { p with window := none, onTime := false }
    if p.onTime then R else deadlineMissed k R

/-- The window of pair `k` closes at an edge at which GTIME is `g`, once that is its end. -/
def windowEnd (g : Ticks) (k : Nat) (R : Region) : Region :=
  match (R.pair k).window with
  | some a => if a.toNat + R.field (regAt Reg.TM_PAIR_DL k 0) 23 0 ≤ g.toNat then closeWindow k R else R
  | none => R

/-- The edge at which a start of sample group `g` takes its aperture stamp `a`: closes the windows of the pairs that
watch it and opens the next. -/
def openWindows (g : Nat) (a : Ticks) (R : Region) : Region :=
  foldN 24 (fun k R =>
    let dl := R.reg (regAt Reg.TM_PAIR_DL k 0)
    if bitsOf dl 31 30 ≠ 0 ∧ bitsOf dl 26 24 = g then
      let R := closeWindow k R
      R.setPwmPair k { R.pair k with window := some a, onTime := false }
    else R) R

/-- A compare write of channel `n` is judged against the window of its pair; the first on-time one ends the
takeover action's hold (R273, R401). -/
def judgeWrite (x : Ctx) (n : Nat) (R : Region) : Region :=
  let k := n / 2
  if n < 48 then
    match (R.pair k).window with
    | some a =>
      if a.toNat ≤ x.gt.toNat ∧ x.gt.toNat < a.toNat + R.field (regAt Reg.TM_PAIR_DL k 0) 23 0 then
        R.setPwmPair k { R.pair k with onTime := true, hold := false }
      else R
    | none => R
  else R

/-- The takeover action of pair `k` (R401). -/
def takeoverPair (k : Nat) (R : Region) : Region :=
  let R := R.setPwmPair k { R.pair k with hold := true }
  if R.bit (regAt Reg.TM_PAIR_CFG k 0) 2 then tripPair k 9 true R else R

/-! ## Tramline actions (R282, R283) -/

/-- Map action on pair `k` at the edge under way: 1 set, 2 clear, 3 trip request. -/
def tramAct (k code : Nat) (R : Region) : Region :=
  match code with
  | 1 => tmAct 0 (2 * k) { tmReqNone with set := true } R
  | 2 => tmAct 0 (2 * k) { tmReqNone with clear := true } R
  | 3 => if R.bit (regAt Reg.TM_PAIR_CFG k 0) 12 then tripPair k 5 true R else R
  | _ => R

/-! ## Capture (R274 to R276) -/

/-- A capture of the coming edge enters the FIFO, or is lost; a lost one is kept until the edge is over (R276). -/
def captureIn (n : Nat) (cnt : Word) (stamp : Ticks) (R : Region) : Region :=
  let l := R.capFifo n
  if l.length < 2 then (R.setCapFifo n (l ++ [(cnt, stamp)])).raiseNext (0x1C0 + n)
  else { R.count (regAt Reg.TM_CH_CAPOVR n 0) with
    tm := { R.tm with capLost := mapSet noneAt R.tm.capLost n (some (cnt, stamp)) } }

/-- TM_CHn_CAPCFG.SRC names an input: a PW or TRP pin or a feedback line (R274). -/
def capSourced (src : Nat) : Bool := decide (src ≤ 51) || (decide (64 ≤ src) && decide (src ≤ 87))

/-- EDGE of a CAPCFG value selects a change to `rising` (R274). -/
def capSelects (cfg : Word) (rising : Bool) : Bool := cfg.getLsbD (if rising then 8 else 9)

/-- The counter of channel `n` after the PCLK edge `back` edges before the last one (R275). -/
def cntBack (n back : Nat) (R : Region) : Word :=
  let now := match R.tmEdge n with | some e => e.cnt | none => R.cnt n
  if back = 0 then now else ((mapGet (fun _ => []) R.tm.capHist n)[back - 1]?).getD now

/-- The capture edges kept to find the counter at the ball, which lies at most 4 PCLK and 2 ns before the synchronised
edge (R275). -/
def capKept : Nat := 6

def Region.capRun (R : Region) (n : Nat) : Option CapRun := mapGet noneAt R.tm.capRun n
def Region.setCapRun (R : Region) (n : Nat) (c : Option CapRun) : Region :=
  { R with tm := { R.tm with capRun := mapSet noneAt R.tm.capRun n c } }

def capFilt (n : Nat) (R : Region) : Nat := R.field (regAt Reg.TM_CH_CAPCFG n 0) 23 16

/-- A qualifying edge of channel `n` by the run `c`: captured through the prescaler (R274, R275). -/
def captureQual (n : Nat) (c : CapRun) (R : Region) : Region :=
  let q := mapGet zeroNat R.tm.capPre n
  let take := decide (R.field (regAt Reg.TM_CH_CAPCFG n 0) 31 24 ≤ q)
  let R := { R with tm := { R.tm with
    capPre := mapSet zeroNat R.tm.capPre n (if take then 0 else q + 1)
    capEdge := mapSet noneAt R.tm.capEdge n (some ⟨c.cnt, c.stamp, take⟩) } }
  if take then captureIn n c.cnt c.stamp R else R

/-- The filter of channel `n`'s capture input at PCLK edge `e`: a change of the filtered level qualifies by EDGE (R274).
-/
def capDecide (e n : Nat) (R : Region) : Region :=
  match R.capRun n with
  | none => R
  | some c =>
    if c.taken || !c.line.passed (capFilt n R) e then R
    else
      let R := R.setCapRun n (some { c with taken := true })
      if capSelects (R.reg (regAt Reg.TM_CH_CAPCFG n 0)) c.line.sync then captureQual n c R else R

/-- The synchronised level of channel `n`'s capture input becomes `b` at the coming PCLK edge; the edge at the ball has
the stamp `st` (R274, R275). A run that the filter had not taken is over without an edge. No change where SRC names no
input, where the level is none but the present one, or where the stamp lies further back than the synchroniser. -/
def captureShow (x : Ctx) (n : Nat) (b : Bool) (st : Ticks) (R : Region) : Region :=
  let e := x.time.pclk + 1
  match x.edgesBack st with
  | none => R
  | some back =>
    if !capSourced (R.field (regAt Reg.TM_CH_CAPCFG n 0) 6 0) || decide (capKept ≤ back) then R
    else
      let run (taken : Bool) : Option CapRun := some ⟨⟨b, e⟩, cntBack n back R, st, taken⟩
      match R.capRun n with
      | none => capDecide e n (R.setCapRun n (run false))
      | some c =>
        if c.line.sync = b then capDecide e n R
        else capDecide e n (R.setCapRun n (run (!c.taken)))

/-- The capture trigger task reaches channel `n` at the edge under way. -/
def captureAsk (n : Nat) (R : Region) : Region := { R with tm := { R.tm with capAsked := R.tm.capAsked ++ [n] } }

/-- The capture trigger task acts, after the counts of its edge: with a qualifying edge at its edge it makes one
capture, with the data of that edge (R275). -/
def captureTask (x : Ctx) (n : Nat) (R : Region) : Region :=
  match mapGet noneAt R.tm.capEdge n with
  | some e => if e.taken then R else captureIn n e.cnt e.stamp R
  | none => captureIn n (R.cnt n) x.gt R

/-- A capture that found the FIFO full at the edge of a read enters it after all (R276). -/
def captureBack (n : Nat) (R : Region) : Region :=
  match mapGet noneAt R.tm.capLost n with
  | none => R
  | some e =>
    let a := regAt Reg.TM_CH_CAPOVR n 0
    let R := { R with tm := { R.tm with capLost := mapSet noneAt R.tm.capLost n none } }
    captureIn n e.1 e.2 (R.setReg a (R.reg a - 1))

/-- A read of TM_CHn_CAP removes the oldest entry and loads its stamp (R276). -/
def readCap (n : Nat) (R : Region) : Word × Region :=
  match R.capFifo n with
  | [] => (0, R)
  | e :: l =>
    (e.1, captureBack n
      ((R.setCapFifo n l).setPair (regAt Reg.TM_CH_CAPGT_L n 0) (regAt Reg.TM_CH_CAPGT_H n 0) e.2))

/-- The counter before an edge joins the values kept for channel `n`, while it captures. -/
def capKeep (n : Nat) (R : Region) : Region :=
  let nothing : Nat → List Word := fun _ => []
  let l := if R.field (regAt Reg.TM_CH_CAPCFG n 0) 9 8 = 0 then []
    else (cntBack n 0 R :: mapGet nothing R.tm.capHist n).take capKept
  { R with tm := { R.tm with capHist := mapSet nothing R.tm.capHist n l } }

/-- A write of TM_CHn_CAPCFG: the prescaler count restarts, and a change of SRC, EDGE or FILT takes the input's level as
it is (R274). -/
def capCfgWrite (n : Nat) (plain : Region → Region) (R : Region) : Region :=
  let key (R : Region) : Nat × Nat × Nat :=
    let a := regAt Reg.TM_CH_CAPCFG n 0
    (R.field a 6 0, R.field a 9 8, R.field a 23 16)
  let R' := plain R
  { R' with tm := { R'.tm with
    capPre := mapSet zeroNat R'.tm.capPre n 0
    capRun := if key R' = key R then R'.tm.capRun
      else mapSet noneAt R'.tm.capRun n
        (if (key R').1 = (key R).1 then (R'.capRun n).map (fun c => { c with taken := true }) else none) } }

/-! ## One PCLK edge (R254 to R277) -/

/-- The work of a PCLK edge at the timer channels and pairs, `x` holding the time after it. Filters and the tasks of the
edge, at `tasks`, come before its counts, as the commands given since the edge before do. (DESIGN CHOICE, log 1) -/
def tmTick (x : Ctx) (adv : Nat) (tasks : Region → Region) (R : Region) : Region :=
  let e := x.time.pclk
  let R := foldN 24 (pairTick adv) (foldN 64 capKeep R)
  let R := tasks (foldN 64 (capDecide e) (foldN 4 (trpDecide 0 e) R))
  let R := foldN 64 tmTickCh R
  let R := R.tm.capAsked.foldl (fun R n => captureTask x n R) R
  let R := foldN 24 (windowEnd x.gt) R
  let R := foldN 24 (fun k R => R.setPwmPair k { R.pair k with entered := false, fresh := none }) R
  { R with tm := { R.tm with
      edge := [], capEdge := [], capAsked := [], capLost := [], carry := R.tm.carryNext, carryNext := [] } }

/-! ## Status and pins -/

/-- PCLK edges to the next wrap edge of a running channel, under its current RELOAD and PRE (R265). -/
def toWrap (n : Nat) (R : Region) : Nat :=
  let pre := R.field (regAt Reg.TM_CH_CFG n 0) 7 0
  let left := (R.reg (regAt Reg.TM_CH_RELOAD n 0)).toNat - (R.cnt n).toNat
  (left + 1) * (pre + 1) - R.tmPre n

/-- HEADLAND (R265). A linked channel's wrap edge is the edge after its neighbour's, whose carry may be on its way. -/
def headland (n : Nat) (R : Region) : Bool :=
  if R.linked n then
    R.tmRun n && R.tmRun (n - 1) && decide ((R.cnt n).toNat ≥ (R.reg (regAt Reg.TM_CH_RELOAD n 0)).toNat)
      && (decide (toWrap (n - 1) R ≤ 15) || R.tm.carry.contains n)
  else R.tmRun n && decide (toWrap n R ≤ 16)

/-- TM_STATn as read. -/
def tmStat (n : Nat) (R : Region) : Word :=
  BitVec.ofNat 32 ((R.tmRun n).toNat + 2 * (headland n R).toNat + 4 * (R.capFifo n).length
    + 16 * (R.reg (regAt Reg.TM_CH_CAPOVR n 0) != 0).toNat + 32 * (decide (n < 48) && R.tripped (n / 2)).toNat)

/-- The level that pin PW n drives; none while it is high-impedance (R263, R268, R270, R453, R468). -/
def pwPin (R : Region) (n : Nat) : Option Bool :=
  let k := n / 2
  let act := R.reg (regAt Reg.TM_CH_ACT n 0)
  if !R.bit Reg.PM_OE.base 0 || !R.railBad.isEmpty || R.inReset then none
  else if R.tripped k then (match bitsOf act 10 9 with | 1 => some false | 2 => some true | _ => none)
  else
    let s := if R.comp k then (if n % 2 = 0 then (R.pair k).h else (R.pair k).l) else R.signal n
    some (s != act.getLsbD 8)

/-! ## The register interface (R278) -/

/-- A write to a timer register: side effects by register, else the writable bits. -/
def tmWrite (x : Ctx) (a : Nat) (v : Word) (plain : Region → Region) (R : Region) : Region :=
  match regIdx Reg.TM_CH_CTL a with
  | some (n, _) => tmCommand x.adv n (reqCtl v) R
  | none =>
  match regIdx Reg.TM_CH_CNT a with
  | some (n, _) => tmCommand x.adv n (reqWrite v) R
  | none =>
  match regIdx Reg.TM_CH_CMPA a with
  | some (n, _) => judgeWrite x n (plain R)
  | none =>
  match regIdx Reg.TM_CH_CMPB a with
  | some (n, _) => judgeWrite x n (plain R)
  | none =>
  match regIdx Reg.TM_GSTART a with
  | some (w, _) => groupAct w v (fun n => tmCommand x.adv n reqStart) R
  | none =>
  match regIdx Reg.TM_GSTOP a with
  | some (w, _) => groupAct w v (fun n => tmCommand x.adv n reqStop) R
  | none =>
  match regIdx Reg.TM_PAIR_CTL a with
  | some (k, _) =>
    let R := if v.getLsbD 1 then rearmPair x.adv k R else R
    if v.getLsbD 0 then tripPair k 8 true R else R
  | none =>
  match regIdx Reg.TM_TRP_CFG a with
  | some (i, _) => trpEdge x.adv i (R.trpAsserted i) (plain R)
  | none =>
  match regIdx Reg.TM_PAIR_CFG a with
  | some (k, _) =>
    let was := R.comp k
    let R := plain R
    let R := if R.comp k != was && !R.tripped k then restartOuts x.adv k R else R
    trpUpdate x.adv k R
  | none =>
  match regIdx Reg.TM_PAIR_DL a with
  | some (k, _) =>
    let R := plain R
    if R.field (regAt Reg.TM_PAIR_DL k 0) 31 30 = 0 then R.setPwmPair k { R.pair k with window := none, onTime := false }
    else R
  | none =>
  match regIdx Reg.TM_CH_CAPCFG a with
  | some (n, _) => capCfgWrite n plain R
  | none => plain R

/-- TM_TRPSTAT as read. -/
def trpStat (R : Region) : Word := BitVec.ofNat 32 (foldN 4 (fun i s => s + (R.trpAsserted i).toNat * 2 ^ i) 0)

/-- TM_PAIRk_STAT as read: LEVELC is live. -/
def pairStat (k : Nat) (R : Region) : Word := Machine.setBit (R.reg (regAt Reg.TM_PAIR_STAT k 0)) 1 (R.trpCause k).isSome

/-- A read of a timer register. -/
def tmRead (a : Nat) (R : Region) : Word × Region :=
  match regIdx Reg.TM_STAT a with
  | some (n, _) => (tmStat n R, R)
  | none =>
  match regIdx Reg.TM_CH_CAP a with
  | some (n, _) => readCap n R
  | none =>
  match regIdx Reg.TM_PAIR_STAT a with
  | some (k, _) => (pairStat k R, R)
  | none => if a = Reg.TM_TRPSTAT.base then (trpStat R, R) else (R.reg a, R)

end Sys2Proof.Machine
end

