-- ==== Sys2Proof/Machine/Loop.lean ====
section
/-!
DEFINITION. Loop units: band units, tramline, profile generators, test-signal injection, response capture
(R279 to R305).
-/

namespace Sys2Proof.Machine

/-! ## Injection (R299 to R302) -/

def Region.putLp (R : Region) (f : Loop → Loop) : Region := { R with lp := f R.lp }

/-- Half a turn of S(theta) by exact fixed-point arithmetic: `q` is 0 to 1,024 of 4,096 steps, scaled by 2^64. -/
def sineQuarter (q : Nat) : Int :=
  let x : Int := 28296951008113761 * (q : Int)
  let x2 := x * x / 2 ^ 64
  ((List.range 13).foldl (fun (p : Int × Int) (i : Nat) =>
    let k : Int := (i : Int) + 1
    let t := p.1 * x2 / 2 ^ 64 / ((2 * k) * (2 * k + 1))
    (t, if i % 2 = 0 then p.2 - t else p.2 + t)) (x, x)).2

/-- S(theta) = round(32,767 sin(2 pi theta / 4,096)) (R299). -/
def sineS (th : Nat) : Int :=
  let q := th % 1024
  let h := th / 1024 % 4
  let v := sineQuarter (if h % 2 = 0 then q else 1024 - q)
  let r := (32767 * v * 2 + 2 ^ 64) / 2 ^ 65
  if h < 2 then r else -r

/-- Taps by LENGTH (R300). -/
def prbsTaps : Nat → List Nat
  | 8 => [8, 6, 5, 4]
  | 9 => [9, 5]
  | 10 => [10, 7]
  | 11 => [11, 9]
  | 12 => [12, 6, 4, 1]
  | 13 => [13, 4, 3, 1]
  | 14 => [14, 5, 3, 1]
  | 15 => [15, 14]
  | 16 => [16, 15, 13, 4]
  | 17 => [17, 14]
  | 18 => [18, 11]
  | 19 => [19, 6, 2, 1]
  | 20 => [20, 17]
  | 21 => [21, 19]
  | 22 => [22, 21]
  | 23 => [23, 18]
  | 24 => [24, 23, 22, 17]
  | 25 => [25, 22]
  | 26 => [26, 6, 2, 1]
  | 27 => [27, 5, 2, 1]
  | 28 => [28, 25]
  | 29 => [29, 27]
  | 30 => [30, 6, 4, 1]
  | 31 => [31, 28]
  | _ => [7, 6]

def Region.injRun (R : Region) : Bool := R.bit Reg.LP_INJ_STAT.base 0

/-- v becomes zero and the run ends, presenting source 0x016 at the coming edge (R301). -/
def injEnd (R : Region) : Region :=
  ((R.setReg Reg.LP_INJ_VALUE.base 0).setBit Reg.LP_INJ_STAT.base 0 false).raiseNext 0x016

/-- Steps of the run in force; none when it has no end by steps (R299). -/
def injTotal (R : Region) : Option Nat :=
  let dur := (R.reg Reg.LP_INJ_DUR.base).toNat
  match bitsOf (R.reg Reg.LP_INJ_CFG.base) 31 29 with
  | 2 | 3 => if dur = 0 then none else some dur
  | 4 => some (max 1 (R.field Reg.LP_INJ_COUNT.base 15 0) * max 1 dur)
  | _ => none

/-- A step edge of a run in progress, at PCLK edge `e` (R299). -/
def injStep (e : Nat) (R : Region) : Region :=
  if !R.injRun then R
  else if injTotal R == some R.lp.steps then injEnd R
  else
    let cfg := R.reg Reg.LP_INJ_CFG.base
    let ampl : Int := R.field Reg.LP_INJ_AMPL.base 15 0
    let n := R.lp.steps + 1
    let dfreq := (R.reg Reg.LP_INJ_DFREQ.base).toInt
    let sine : Int := (ampl * sineS (R.lp.phase.toNat / 2 ^ 20)) >>> 15
    let phase' := R.lp.phase + BitVec.ofNat 32 (R.lp.freq.toNat / 2 ^ 16)
    let put (v : Int) (R : Region) : Region := R.setReg Reg.LP_INJ_VALUE.base (BitVec.ofInt 32 v)
    let R := match bitsOf cfg 31 29 with
      | 1 => put ampl R
      | 2 =>
        let len := max 7 (bitsOf cfg 28 24)
        let bit := ((prbsTaps len).filter (fun t => R.lp.sr.testBit (t - 1))).length % 2
        put (if bit = 1 then ampl else -ampl) (R.putLp (fun l => { l with sr := (2 * l.sr + bit) % 2 ^ len }))
      | 3 => put sine (R.putLp (fun l => { l with phase := phase', freq := l.freq + BitVec.ofInt 48 dfreq }))
      | 4 => put sine (R.putLp (fun l =>
          { l with phase := phase'
                   freq := if n % max 1 (R.reg Reg.LP_INJ_DUR.base).toNat = 0 then l.freq + BitVec.ofInt 48 (dfreq * 2 ^ 16) else l.freq }))
      | _ => R
    (R.putLp (fun l => { l with steps := n, injLast := e })).raiseNext 0x016

/-- GO: initialises the generator; with INT not zero its first step is this edge, `e` (R299). -/
def injGo (e : Nat) (R : Region) : Region :=
  let len := max 7 (R.field Reg.LP_INJ_CFG.base 28 24)
  let seed := (R.reg Reg.LP_INJ_SEED.base).toNat % 2 ^ len
  let R := R.setBit Reg.LP_INJ_STAT.base 0 true
  let R := R.putLp (fun l =>
    { l with steps := 0, phase := 0, sr := if seed = 0 then 1 else seed
             freq := BitVec.ofNat 48 ((R.reg Reg.LP_INJ_FREQ.base).toNat * 2 ^ 16) })
  if R.reg Reg.LP_INJ_INT.base = 0 then R else injStep e R

/-- STOP: at its edge v becomes zero and the source is presented, whether a run is in progress or not (R301). -/
def injStop (R : Region) : Region := injEnd R

/-- Task 0x009: a step of the edge under way when INT is zero (R299). -/
def injTask (R : Region) : Region :=
  if R.reg Reg.LP_INJ_INT.base = 0 then R.putLp (fun l => { l with injAsked := true }) else R

/-- PCLK edge `e` is a step edge by the interval: INT is not zero, and 1 to 63 act as 64 (R299). -/
def injDue (e : Nat) (R : Region) : Bool :=
  let int := (R.reg Reg.LP_INJ_INT.base).toNat
  R.injRun && int != 0 && decide (R.lp.injLast + max 64 int ≤ e)

/-- INJECTION_STEP: the step of PCLK edge `e`, if it is a step edge. (DESIGN CHOICE, log 32) -/
def injStepAt (e : Nat) (R : Region) : Region := if injDue e R then injStep e R else R

/-- PCLK edge `e` at the injection unit, after the timers' counts: a step asked by the task or due by the interval, and
v as compares use it from then on (R302). -/
def injTick (e : Nat) (R : Region) : Region :=
  let R := if R.lp.injAsked || injDue e R then injStep e R else R
  R.putLp (fun l => { l with injAsked := false, injCmp := R.reg Reg.LP_INJ_VALUE.base })

/-! ## Band units and tramline (R279 to R283) -/

/-- Effective CENTER of band unit `n` (R279, R302). -/
def bandCenter (n : Nat) (R : Region) : Int :=
  clampBits16 (((R.reg (regAt Reg.LP_BAND_LIM n 0)).extractLsb' 16 16).toInt
    + R.injected (R.reg Reg.LP_INJ_VALUE.base) 1 n)
where
  /-- Clamp to 16 signed bits. -/
  clampBits16 (v : Int) : Int := max (-32768) (min 32767 v)

/-- Map entry actions of exit `e` on every pair they name, as the entries stand (R282, R283). -/
def deliverExit (e : Nat) (R : Region) : Region :=
  foldN 2 (fun m R =>
    let v := R.reg (regAt Reg.LP_TRM_MAP e m)
    foldN 24 (fun k R => if v.getLsbD k then tramAct k (bitsOf v 31 30) R else R) R) R

/-- The exits that PCLK edge `e` delivers to the tramline (R282). -/
def tramTick (e : Nat) (R : Region) : Region :=
  let now := R.lp.exits.filter (fun p => decide (p.1 ≤ e))
  let R := R.putLp (fun l => { l with exits := l.exits.filter (fun p => decide (e < p.1)) })
  now.foldl (fun R p => deliverExit p.2 R) R

/-- An exit of channel `n` at ACLK edge `m`, `d` = 0 above, 1 below: it goes to the event fabric and to the tramline
(R280, R282). -/
def bandExit (n d m : Nat) (R : Region) : Region :=
  let a := regAt Reg.LP_BAND_XCNT n 0
  let v := R.reg a
  let R := if d = 0 then R.setField a 31 16 (bitsOf v 31 16 + 1) else R.setField a 15 0 (bitsOf v 15 0 + 1)
  (R.putLp (fun l => { l with exits := l.exits ++ [(aclkEdge m,
      2 * n + d)] })).raiseEdge (aclkEdge m) (0x070 + 2 * n + d)

/-- Zone of a sample: 1 above, 2 below, 0 inside, as LP_BANDn_STAT holds it. -/
def bandZone (c half v : Int) : Nat := if v > c + half then 1 else if v < c - half then 2 else 0

/-- A sample of channel `n` reaches its band unit; an exit falls on ACLK edge `m` (R279, R280). -/
def bandSample (n : Nat) (code : Int) (m : Nat) (R : Region) : Region :=
  let cfg := R.reg (regAt Reg.LP_BAND_CFG n 0)
  if cfg.getLsbD 31 then
    let old := (R.reg (regAt Reg.LP_BAND_STAT n 0)).toNat
    let z := bandZone (bandCenter n R) (R.field (regAt Reg.LP_BAND_LIM n 0) 14 0) code
    let R := R.setReg (regAt Reg.LP_BAND_STAT n 0) (BitVec.ofNat 32 z)
    if z ≠ 0 ∧ (cfg.getLsbD 30 ∨ old ≠ z) then bandExit n (z - 1) m R else R
  else R

/-! ## Profile generators (R293 to R298) -/

def pgPair (R : Region) (lo hi : RegDef) (p : Nat) : BitVec 64 := R.pairVal (regAt lo p 0) (regAt hi p 0)
def pgSet (R : Region) (lo hi : RegDef) (p : Nat) (v : Int) : Region :=
  R.setPair (regAt lo p 0) (regAt hi p 0) (BitVec.ofInt 64 v)

/-- A limit is zero (LIMERR). -/
def pgLimErr (p : Nat) (R : Region) : Bool :=
  pgPair R Reg.LP_PG_VMAX_L Reg.LP_PG_VMAX_H p == 0 || pgPair R Reg.LP_PG_AMAX_L Reg.LP_PG_AMAX_H p == 0
    || pgPair R Reg.LP_PG_JMAX_L Reg.LP_PG_JMAX_H p == 0

def pgMoving (p : Nat) (R : Region) : Bool := R.bit (regAt Reg.LP_PG_STAT p 0) 0

/-- The target that a start latched; none before the first start. -/
def pgTarget (p : Nat) (R : Region) : Option (BitVec 64) := mapGet noneAt R.lp.target p

/-- A start at PCLK edge `e`: latches TARGET and sets MOVING unless a limit is zero; during motion the tick phase stays
(R293, R294). -/
def pgStart (e p : Nat) (R : Region) : Region :=
  if pgLimErr p R then R
  else
    let t := pgPair R Reg.LP_PG_TARGET_L Reg.LP_PG_TARGET_H p
    let moving := pgMoving p R
    (R.putLp (fun l => { l with
      target := mapSet noneAt l.target p (some t)
      pgLast := if moving then l.pgLast else mapSet (fun _ =>
          0) l.pgLast p e })).setBit (regAt Reg.LP_PG_STAT p 0) 0 true

/-- An abort (R298). -/
def pgAbort (p : Nat) (R : Region) : Region :=
  let R := R.setBit (regAt Reg.LP_PG_STAT p 0) 0 false
  pgSet (pgSet R Reg.LP_PG_VEL_L Reg.LP_PG_VEL_H p 0) Reg.LP_PG_ACC_L Reg.LP_PG_ACC_H p 0

/-- L(c) of R295. -/
def rampGain (j c : Int) : Int :=
  if c ≤ 0 then 0
  else
    let m := (c + j - 1) / j - 1
    m * c - j * m * (m + 1) / 2

/-- The loop of D in R295, `n` bounding its turns: the distance it counts until it ends, or until it stands still
because u and b no longer change, and the u that is then left. -/
def brakeLoop (a j : Int) : Nat → Int → Int → Int → Int × Int
  | 0, u, _, d => (d, max u 0)
  | n + 1, u, b, d =>
    if u ≤ 0 then (d, 0)
    else
      let bn := max (b - j) (-a)
      let bn := if u + bn ≤ rampGain j (-bn) then min (b + j) 0 else bn
      if bn = 0 ∧ b = 0 then (d, u)
      else
        let u' := u + bn
        brakeLoop a j n u' bn (if u' > 0 then d + u' else d)

/-- Turns that the loop cannot exceed: b falls to zero, then u falls or b returns to zero at every turn. -/
def brakeTurns (u b : Int) : Nat := 2 * (u + (b.natAbs + 1) * (b.natAbs + 1)).toNat + 4

/-- D(u, b) of R295. Where its loop stands still with a speed left, its sum has no end and the value is free from the
distance counted by then up to that speed more, so that R296 holds. (DESIGN CHOICE, log 30) -/
def brakeD (a j u b : Int) : Int :=
  let e := brakeLoop a j (brakeTurns u b) u b 0
  e.1 + Config.brakeDistance u b a j % (e.2 + 1)

/-- Sign of an integer. -/
def signOf (v : Int) : Int := if v > 0 then 1 else if v < 0 then -1 else 0

/-- POS, VEL and ACC after one tick towards `tgt` under the limits (R295). -/
def pgNext (tgt pos vel acc vmax amax jmax : Int) : Int × Int × Int :=
  let d0 := tgt - pos
  let vf := d0
  let af := vf - vel
  let ab (v : Int) : Int := v.natAbs
  if ab vf ≤ vmax ∧ ab vf ≤ amax ∧ ab vf ≤ jmax ∧ ab af ≤ amax ∧ ab (af - acc) ≤ jmax ∧ ab (vf + af) ≤ jmax then
    (tgt, vf, af)
  else
    let s := if signOf d0 ≠ 0 then signOf d0 else if signOf vel ≠ 0 then -signOf vel else -signOf acc
    let d := s * d0
    let u := s * vel
    let b := s * acc
    let clampA (v : Int) : Int := max (-amax) (min amax v)
    let ok (j : Int) : Bool :=
      let b1 := clampA (b + j)
      let u1 := u + b1
      decide (u1 + rampGain jmax b1 ≤ vmax) && decide (u1 - rampGain jmax (-b1) ≥ -vmax)
        && decide (brakeD amax jmax u1 b1 ≤ d - u1)
    let j := match [jmax, 0, -jmax].find? ok with
      | some j => j
      | none => -jmax
    let b1 := clampA (b + j)
    let u1 := u + b1
    (pos + s * u1, s * u1, s * b1)

/-- PER as it acts (R293). -/
def pgPer (p : Nat) (R : Region) : Nat := max 80 (min 800000 (R.field (regAt Reg.LP_PG_TICK p 0) 19 0))

/-- A profile tick at PCLK edge `e` (R295). -/
def pgTick (e p : Nat) (R : Region) : Region :=
  let tgt := ((pgTarget p R).getD 0).toInt
  let n := pgNext tgt (pgPair R Reg.LP_PG_POS_L Reg.LP_PG_POS_H p).toInt (pgPair R Reg.LP_PG_VEL_L Reg.LP_PG_VEL_H p).toInt
    (pgPair R Reg.LP_PG_ACC_L Reg.LP_PG_ACC_H p).toInt (pgPair R Reg.LP_PG_VMAX_L Reg.LP_PG_VMAX_H p).toNat
    (pgPair R Reg.LP_PG_AMAX_L Reg.LP_PG_AMAX_H p).toNat (pgPair R Reg.LP_PG_JMAX_L Reg.LP_PG_JMAX_H p).toNat
  let R := pgSet R Reg.LP_PG_POS_L Reg.LP_PG_POS_H p n.1
  let R := pgSet R Reg.LP_PG_VEL_L Reg.LP_PG_VEL_H p n.2.1
  let R := pgSet R Reg.LP_PG_ACC_L Reg.LP_PG_ACC_H p n.2.2
  let R := R.putLp (fun l => { l with pgLast := mapSet (fun _ => 0) l.pgLast p e })
  if n.1 = tgt ∧ n.2.1 = 0 ∧ n.2.2 = 0 then (R.setBit (regAt Reg.LP_PG_STAT p 0) 0 false).raiseNext (0x0B0 + p) else R

/-- PROFILE_TICK: the tick of PCLK edge `e`, if the generator moves and PER has passed since its last tick or its start
(R293). (DESIGN CHOICE, log 32) -/
def pgTickAt (e p : Nat) (R : Region) : Region :=
  if pgMoving p R && decide (mapGet (fun _ => 0) R.lp.pgLast p + pgPer p R ≤ e) then pgTick e p R else R

/-- LP_PGp_POS as read: an injection of kind 4 adds v x 2^32 (R302). -/
def pgPosRead (p : Nat) (R : Region) : BitVec 64 :=
  pgPair R Reg.LP_PG_POS_L Reg.LP_PG_POS_H p + BitVec.ofInt 64 (R.injected (R.reg Reg.LP_INJ_VALUE.base) 4 p * 2 ^ 32)

/-- LP_PGp_STAT as read. -/
def pgStat (p : Nat) (R : Region) : Word :=
  BitVec.ofNat 32 ((pgMoving p R).toNat
    + 2 * (pgTarget p R == some (pgPair R Reg.LP_PG_POS_L Reg.LP_PG_POS_H p)).toNat + 4 * (pgLimErr p R).toNat)

/-! ## Response capture (R303, R304) -/

/-- Entries of the ring. -/
def rcLen (R : Region) : Nat := 2 ^ (min 16 (max 4 (R.field Reg.LP_RC_CFG.base 20 16)))

/-- The ring lies wholly within the region memory. -/
def rcFits (R : Region) : Bool := decide (R.field Reg.LP_RC_BASE.base 15 0 * 16 + 16 * rcLen R ≤ 0x100000)

/-- STAT.FULL. -/
def rcFull (R : Region) : Bool := R.bit Reg.LP_RC_CFG.base 30 && decide (R.lp.rcCount ≥ rcLen R)

/-- The PCLK source edge of a ready event (R303). -/
def rcEntry (q : RcReady) (R : Region) : Region :=
  let cfg := R.reg Reg.LP_RC_CFG.base
  if cfg.getLsbD 31 ∧ 4 * bitsOf cfg 5 2 + bitsOf cfg 1 0 = q.acc ∧ rcFits R ∧ !rcFull R then
    if R.lp.rcBuf.length < 16 then
      let w := R.field Reg.LP_RC_WPTR.base 15 0 % rcLen R
      let e : RcEntry := ⟨q.stamp, R.reg Reg.LP_INJ_VALUE.base, q.result, w⟩
      let w' := (w + 1) % rcLen R
      let R := R.putLp (fun l => { l with rcBuf := l.rcBuf ++ [e], rcCount := l.rcCount + 1 })
      let R := R.setReg Reg.LP_RC_WPTR.base (BitVec.ofNat 32 w')
      if w' = 0 then R.raiseNext 0x017 else R
    else R.count Reg.LP_RC_LOST.base
  else R

/-- The ready events that PCLK edge `e` presents reach the capture unit. -/
def rcTick (e : Nat) (R : Region) : Region :=
  let now := R.lp.rcReady.filter (fun q => decide (q.edge ≤ e))
  let R := R.putLp (fun l => { l with rcReady := l.rcReady.filter (fun q => decide (e < q.edge)) })
  now.foldl (fun R q => rcEntry q R) R

/-- CTL.RESET. -/
def rcReset (R : Region) : Region := (R.setReg Reg.LP_RC_WPTR.base 0).putLp (fun l => { l with rcCount := 0 })

/-- LP_RC_STAT as read. -/
def rcStat (R : Region) : Word :=
  BitVec.ofNat 32 ((R.bit Reg.LP_RC_CFG.base 31 && rcFits R && !rcFull R).toNat + 2 * (rcFull R).toNat + 4 * (!rcFits R).toNat)

/-! ## The register interface (R305) -/

/-- A write to a loop register. -/
def lpWrite (x : Ctx) (a : Nat) (v : Word) (plain : Region → Region) (R : Region) : Region :=
  match regIdx Reg.LP_PG_CTL a with
  | some (p, _) => if v.getLsbD 1 then pgAbort p R else if v.getLsbD 0 then pgStart x.time.pclk p R else R
  | none =>
  match regIdx Reg.LP_PG_POS_L a with
  | some (p, _) => if pgMoving p R then R else plain R
  | none =>
  match regIdx Reg.LP_PG_POS_H a with
  | some (p, _) => if pgMoving p R then R else plain R
  | none =>
  match regIdx Reg.LP_BAND_CFG a with
  | some (n, _) =>
    let R := plain R
    if R.bit (regAt Reg.LP_BAND_CFG n 0) 31 then R else R.setReg (regAt Reg.LP_BAND_STAT n 0) 0
  | none =>
    if a = Reg.LP_INJ_CTL.base then (if v.getLsbD 1 then injStop R else if v.getLsbD 0 then injGo (x.time.pclk + 1) R else R)
    else if a = Reg.LP_RC_CTL.base then (if v.getLsbD 0 then rcReset R else R)
    else plain R

/-- A read of a loop register. -/
def lpRead (a : Nat) (R : Region) : Word :=
  match regIdx Reg.LP_PG_STAT a with
  | some (p, _) => pgStat p R
  | none =>
  match regIdx Reg.LP_PG_POS_L a with
  | some (p, _) => (pgPosRead p R).truncate 32
  | none =>
  match regIdx Reg.LP_PG_POS_H a with
  | some (p, _) => (pgPosRead p R >>> 32).truncate 32
  | none => if a = Reg.LP_RC_STAT.base then rcStat R else R.reg a

end Sys2Proof.Machine
end

