-- ==== Sys2Proof/Machine/Memory.lean ====
section
/-!
DEFINITION. Memory banks: ECC, bank power, harrow, march tests, and the accesses to a region's memories
(R326 to R340); the fault queue (R392, R393).
-/

namespace Sys2Proof.Machine

/-! ## Fault queue -/

/-- Places a fault record in the queue, or loses it when 16 wait (R393). -/
def queueFault (x : Ctx) (kind detail loc : Nat) (info : Word) (R : Region) : Region :=
  if R.faultQ.length < 16 then { R with faultQ := R.faultQ ++ [⟨kind, detail, loc, info, x.gt⟩] }
  else R.count Reg.TL_FLTLOST.base

/-- A permanent fault: counted and recorded (R392). (DEDUCED, log 29) -/
def permanentFault (x : Ctx) (kind detail loc : Nat) (info : Word) (R : Region) : Region :=
  queueFault x kind detail loc info (R.count Reg.TL_PFCNT.base)

/-! ## Places and ECC -/

/-- A byte address in one of a region's memories. -/
inductive Place where
  /-- Region memory offset. -/
  | rmem (o : Nat)
  /-- Block and offset in its memory. -/
  | bmem (b o : Nat)
  /-- Regional index of a cell and DMEM address. -/
  | dmem (i o : Nat)
  /-- Regional index of a cell and IMEM address. -/
  | imem (i o : Nat)
deriving DecidableEq, Repr

def placeOff : Place → Nat
  | .rmem o | .bmem _ o | .dmem _ o | .imem _ o => o

/-- Location code of the place's memory without WORD, as MB_ECC_LASTSBE codes it (R340). -/
def placeCode : Place → Nat
  | .rmem _ => 0
  | .bmem b _ => 2 ^ 28 + b * 2 ^ 20
  | .dmem i _ => 2 * 2 ^ 28 + i * 2 ^ 20
  | .imem i _ => 3 * 2 ^ 28 + i * 2 ^ 20

/-- Bank index of a place (R326); cell memories have none. -/
def placeBank : Place → Option Nat
  | .rmem o => some (o / 0x10000)
  | .bmem b o => some (16 + 8 * b + o / 0x2000)
  | _ => none

def eccAt (R : Region) (code : Nat) : Option EccErr := mapGet noneAt R.banks.ecc code
def setEcc (code : Nat) (e : Option EccErr) (R : Region) : Region :=
  { R with banks := { R.banks with ecc := mapSet noneAt R.banks.ecc code e } }

/-- Bank index, or none for a cell memory, of a location code. -/
def codeBank (code : Nat) : Option Nat :=
  let w := code % 2 ^ 17
  match code / 2 ^ 28 with
  | 0 => some (w / 0x2000)
  | 1 => some (16 + 8 * (code / 2 ^ 20 % 8) + w / 0x400)
  | _ => none

def bankStat (b : Nat) : Nat := regAt Reg.MB_BANK_STAT b 0

/-- A condition of R330 holds at a location: its bank is marked failed, or its cell reports a cell-reach error, whose
retirement is counted when the block takes it up (R392). (DEDUCED, log 29) -/
def markFailed (x : Ctx) (code : Nat) (R : Region) : Region :=
  match codeBank code with
  | some b => permanentFault x 3 0 b (BitVec.ofNat 32 code) (R.count (bankStat b))
  | none =>
    let i := code / 2 ^ 20 % 128
    queueFault x 3 0 (0x100 + i) (BitVec.ofNat 32 code)
      (R.onCell i (fun k => if k.reachErr = 0 then { k with halted := true, reachErr := 3 } else k))

/-- Adds one to word `w` of block `b`'s running tally (R409). -/
def tallyAt (b w : Nat) (R : Region) : Region :=
  let a := regAt Reg.TL_B_RUN b w
  R.setReg a (satAdd 0xFFFFFFFF (R.reg a) 1)

/-- Ticks of one second (R330). -/
def oneSecond : Nat := 12800000000

/-- The telemetry tally of corrected errors: CORR of the block, or the region's own count (R409). -/
def tallyCorrected (code : Nat) (R : Region) : Region :=
  match code / 2 ^ 28 with
  | 0 => { R with rcorr := R.rcorr + 1 }
  | 1 => tallyAt (code / 2 ^ 20 % 8) 9 R
  | _ => tallyAt (code / 2 ^ 20 % 128 / 16) 9 R

/-- A corrected error is found at a location (R328, R330). -/
def corrected (x : Ctx) (code : Nat) (R : Region) : Region :=
  let near := match R.banks.sbeGt with
    | some t => decide ((R.reg Reg.MB_ECC_LASTSBE.base).toNat = code ∧ (x.gt - t).toNat ≤ oneSecond)
    | none => false
  let old := R.field Reg.MB_ECC_REPEAT.base 1 0
  let rep := if near then min 3 (old + 1) else 1
  let R := tallyCorrected code (R.count Reg.MB_ECC_SBE.base)
  let R := (R.setReg Reg.MB_ECC_LASTSBE.base (BitVec.ofNat 32 code)).setReg Reg.MB_ECC_REPEAT.base (BitVec.ofNat 32 rep)
  let R := { R with banks := { R.banks with sbeGt := some x.gt } }
  if rep = 3 ∧ old < 3 then markFailed x code R else R

/-- An uncorrectable error is found at a location (R329, R330). (DEDUCED, log 29) -/
def uncorrectable (x : Ctx) (code : Nat) (R : Region) : Region :=
  let again := decide ((R.reg Reg.MB_ECC_LASTDBE.base).toNat = code) && !R.banks.dbeFresh
  let R := (R.count Reg.MB_ECC_DBE.base).setReg Reg.MB_ECC_LASTDBE.base (BitVec.ofNat 32 code)
  let R := { R with banks := { R.banks with dbeFresh := false } }
  if again then markFailed x code R else R

/-- A read touches the ECC word with location `code`: whether its data can be used. -/
def eccTouch (x : Ctx) (code : Nat) (R : Region) : Bool × Region :=
  match eccAt R code with
  | none => (true, R)
  | some .single => (true, corrected x code R)
  | some .uncorrectable => (false, uncorrectable x code R)

/-- Touches `n` consecutive words. -/
def eccTouchN (x : Ctx) (code : Nat) : Nat → Region → Bool × Region
  | 0, R => (true, R)
  | n + 1, R =>
    let p := eccTouch x code R
    let q := eccTouchN x (code + 1) n p.2
    (p.1 && q.1, q.2)

/-- The bytes from `lo` to `hi` of the memory with first location `base` are written: the words they touch have fresh
check bits, and a whole-word write may have reached the word of LASTDBE (R327, R330). -/
def eccWritten (base lo hi : Nat) (R : Region) : Region :=
  let out (k : Nat) : Bool := !decide (base + lo / 8 ≤ k ∧ k < base + (hi + 7) / 8)
  let l := (R.reg Reg.MB_ECC_LASTDBE.base).toNat
  { R with banks := { R.banks with
      ecc := mapKeep out R.banks.ecc
      dbeFresh := R.banks.dbeFresh || decide (base + (lo + 7) / 8 ≤ l ∧ l < base + hi / 8) } }

/-- Number of 64-bit words that `n` bytes from `o` touch. -/
def wordsTouched (o n : Nat) : Nat := if n = 0 then 0 else (o + n - 1) / 8 - o / 8 + 1

/-! ## Bank power (R331 to R333) -/

/-- Key of a bank's power register. The map of R340 gives PWR of banks 64 to 79 the offsets of STAT of banks 0 to 15:
those offsets are STAT, and the registers of banks 64 to 79 are kept under keys of the model's own. (DEDUCED, log 27) -/
def pwrKey (b : Nat) : Nat := if b < 64 then regAt Reg.MB_BANK_PWR b 0 else 0x91000 + 4 * b

def bankCur (b : Nat) (R : Region) : Nat := R.field (pwrKey b) 5 4
def bankWant (b : Nat) (R : Region) : Nat := match R.field (pwrKey b) 1 0 with | 3 => 0 | s => s

/-- The bank is under a destructive march test (R337). -/
def bankMarched (b : Nat) (R : Region) : Bool :=
  match R.banks.march with
  | some m => !m.preserving && m.banks.head? == some b
  | none => false

/-- The bank is under any march test. -/
def bankTested (b : Nat) (R : Region) : Bool :=
  match R.banks.march with
  | some m => m.banks.head? == some b
  | none => false

/-- The bank serves accesses. -/
def bankServes (b : Nat) (R : Region) : Bool := bankCur b R == 0 && !bankMarched b R

/-- First byte and length of a bank in its memory. -/
def bankSpan (b : Nat) : Nat × Nat := if b < 16 then (b * 0x10000, 0x10000) else ((b - 16) * 0x2000, 0x2000)

/-- Location code of a bank's first word, and its words. -/
def bankWords (b : Nat) : Nat × Nat :=
  if b < 16 then (b * 0x2000, 0x2000) else (2 ^ 28 + (b - 16) / 8 * 2 ^ 20 + (b - 16) % 8 * 0x400, 0x400)

/-- A bank holds zeros with valid check bits. -/
def bankZero (b : Nat) (R : Region) : Region :=
  let s := bankSpan b
  let w := bankWords b
  let out (k : Nat) : Bool := !(decide (s.1 ≤ k ∧ k < s.1 + s.2))
  let R := eccWritten w.1 0 (8 * w.2) R
  { R with banks := { R.banks with
      rmem := if b < 16 then mapKeep out R.banks.rmem else R.banks.rmem
      bmem := if b < 16 then R.banks.bmem else mapKeep out R.banks.bmem } }

/-- Starts a transition of bank `b` to state `t` where none is in progress and the bank is elsewhere. -/
def bankMove (b t : Nat) (R : Region) : Region :=
  if (mapGet noneAt R.banks.trans b).isNone ∧ bankCur b R ≠ t then
    { R.setField (pwrKey b) 5 4 3 with banks := { R.banks with trans := mapSet noneAt R.banks.trans b (some t) } }
  else R

/-- A write of MB_BANKb_PWR by the host or by another requester (R332, R333). (DEDUCED, log 27) -/
def bankPowerWrite (b : Nat) (host : Bool) (v : Word) (R : Region) : Region :=
  let pin := (R.reg (pwrKey b)).getLsbD 31
  let refused := !host && pin && decide (bitsOf v 1 0 ≠ R.field (pwrKey b) 1 0)
  let R := if host then R.setBit (pwrKey b) 31 (v.getLsbD 31) else R
  if refused then R.count Reg.MB_PINREF.base
  else
    let R := R.setField (pwrKey b) 1 0 (bitsOf v 1 0)
    if bankTested b R then R else bankMove b (bankWant b R) R

/-- The region is in L3 and has unpinned banks in Retention (R333, R459). -/
def heldByL3 (b : Nat) (R : Region) : Bool := R.field Reg.PM_STAT.base 2 0 == 3 && !(R.reg (pwrKey b)).getLsbD 31

/-- A transition completes; another starts if STATE then names another state (R332). Off loses the contents, and an
unpinned bank that would be On in L3 is in Retention (R459). -/
def bankPowerDone (b : Nat) (R : Region) : Region :=
  match mapGet noneAt R.banks.trans b with
  | none => R
  | some t =>
    let R := if t = 2 then bankZero b R else R
    let R := { R.setField (pwrKey b) 5 4 t with banks := { R.banks with trans := mapSet noneAt R.banks.trans b none } }
    let R := bankMove b (bankWant b R) R
    if heldByL3 b R && bankCur b R == 0 then R.setField (pwrKey b) 5 4 1 else R

/-! ## Accesses -/

/-- The banks that `n` bytes from a place lie in. (DEDUCED, log 26) -/
def placeBanks (p : Place) (n : Nat) : List Nat :=
  match p with
  | .rmem o => (List.range ((o + n - 1) / 0x10000 - o / 0x10000 + 1)).map (fun j => o / 0x10000 + j)
  | .bmem b o => (List.range ((o + n - 1) / 0x2000 - o / 0x2000 + 1)).map (fun j => 16 + 8 * b + o / 0x2000 + j)
  | _ => []

/-- The banks of an access serve; a refusal is counted (R332). Cell memories are always served here. (DEDUCED, log 26)
-/
def placeServed (p : Place) (n : Nat) (R : Region) : Bool × Region :=
  if (placeBanks p n).all (fun b => bankServes b R) then (true, R) else (false, R.count Reg.MB_PWRREF.base)

/-- The place's block is held in reset (R7). -/
def placeInReset (p : Place) (R : Region) : Bool :=
  match p with
  | .bmem b _ => R.blockReset.contains b
  | _ => false

/-- Bytes of a memory, whatever their check bits. -/
def rawRead (p : Place) (n : Nat) (R : Region) : List Byte :=
  match p with
  | .rmem o => mapRead zeroByte R.banks.rmem o n
  | .bmem b o => mapRead zeroByte R.banks.bmem (b * 0x10000 + o) n
  | .dmem i o => mapRead zeroByte (R.cell i).dmem o n
  | .imem i o => mapRead zeroByte (R.cell i).imem o n

/-- Writes bytes to a memory. -/
def rawWrite (p : Place) (bs : List Byte) (R : Region) : Region :=
  match p with
  | .rmem o => { R with banks := { R.banks with rmem := mapWrite zeroByte R.banks.rmem o bs } }
  | .bmem b o => { R with banks := { R.banks with bmem := mapWrite zeroByte R.banks.bmem (b * 0x10000 + o) bs } }
  | .dmem i o => R.onCell i (fun k => { k with dmem := mapWrite zeroByte k.dmem o bs })
  | .imem i o => R.onCell i (fun k => { k with imem := mapWrite zeroByte k.imem o bs })

/-- The memories of a region are in canonical form: region and block memories, DMEM and IMEM of its cells (the form is
the model's own). -/
def Memory.wf (R : Region) : Bool :=
  mapWf zeroByte R.banks.rmem && mapWf zeroByte R.banks.bmem
    && (List.range 128).all (fun i => mapWf zeroByte (R.cell i).imem && mapWf zeroByte (R.cell i).dmem)

/-- What an access to a region's memory gives. -/
inductive Access (α : Type) where
  /-- Served. -/
  | ok (a : α)
  /-- The bank, block or region refuses it (R7, R332). -/
  | refused
  /-- An uncorrectable error (R329). -/
  | ecc
deriving DecidableEq, Repr

/-- A read of `n` bytes at a place. (DEDUCED, log 26) -/
def memRead (x : Ctx) (p : Place) (n : Nat) (R : Region) : Access (List Byte) × Region :=
  if R.inReset || placeInReset p R then (.refused, R)
  else
    let s := placeServed p n R
    if !s.1 then (.refused, s.2)
    else
      let t := eccTouchN x (placeCode p + placeOff p / 8) (wordsTouched (placeOff p) n) s.2
      if t.1 then (.ok (rawRead p n t.2), t.2) else (.ecc, t.2)

/-- Bytes of a row, which one bank access reads or writes (R326). -/
def rowBytes : Place → Nat
  | .rmem _ => 32
  | _ => 8

/-- The place `n` bytes on. -/
def Place.plus (p : Place) (n : Nat) : Place :=
  match p with
  | .rmem o => .rmem (o + n)
  | .bmem b o => .bmem b (o + n)
  | .dmem i o => .dmem i (o + n)
  | .imem i o => .imem i (o + n)

/-- Bytes are written whole at a place, with fresh check bits (R327). -/
def memFill (p : Place) (bs : List Byte) (R : Region) : Region :=
  rawWrite p bs (eccWritten (placeCode p) (placeOff p) (placeOff p + bs.length) R)

/-- The first and the last word of a write are read where it covers them in part: whether each can be merged
(R327, R329). -/
def mergeEnds (x : Ctx) (p : Place) (n : Nat) (R : Region) : (Bool × Bool) × Region :=
  let o := placeOff p
  let w := o / 8
  let w' := (o + n - 1) / 8
  let a := if o % 8 ≠ 0 ∨ o + n < 8 * w + 8 then eccTouch x (placeCode p + w) R else (true, R)
  let b := if w' ≠ w ∧ (o + n) % 8 ≠ 0 then eccTouch x (placeCode p + w') a.2 else (true, a.2)
  ((a.1, b.1), b.2)

/-- A write of bytes at a place: a row of which a word cannot be merged is discarded (R329). (DEDUCED, log 26) -/
def memWrite (x : Ctx) (p : Place) (bs : List Byte) (R : Region) : Access Unit × Region :=
  if R.inReset || placeInReset p R then (.refused, R)
  else
    let s := placeServed p bs.length R
    if !s.1 then (.refused, s.2)
    else if bs = [] then (.ok (), s.2)
    else
      let t := mergeEnds x p bs.length s.2
      let o := placeOff p
      let g := rowBytes p
      let skip := if t.1.1 then 0 else min bs.length (g - o % g)
      let stop := if t.1.2 then bs.length else (o + bs.length - 1) / g * g - o
      (if t.1.1 && t.1.2 then .ok () else .ecc, memFill (p.plus skip) ((bs.take stop).drop skip) t.2)

/-! ## Harrow (R334, R335) -/

/-- The row with number `n` of a pass: a place and its words. Region banks first, then block banks, DMEM and IMEM;
the specification's order is one the model leaves to the command. (DESIGN CHOICE, log 28) -/
def harrowRow (n : Nat) : Option (Place × Nat) :=
  if n < 32768 then some (.rmem (n * 32), 4)
  else if n < 98304 then let m := n - 32768; some (.bmem (m / 8192) (m % 8192 * 8), 1)
  else if n < 229376 then let m := n - 98304; some (.dmem (m / 1024) (m % 1024 * 8), 1)
  else if n < 360448 then let m := n - 229376; some (.imem (m / 1024) (m % 1024 * 8), 1)
  else none

/-- The harrow may read the place: its bank is On, or its cell is neither in reset nor in retention, as cells are in L2
(R459). -/
def harrowReads (p : Place) (R : Region) : Bool :=
  match p with
  | .dmem i _ | .imem i _ => !(R.cell i).inReset && decide (R.field Reg.PM_STAT.base 2 0 < 2)
  | _ => !placeInReset p R && (match placeBank p with | some b => bankServes b R | none => true)

/-- Reads and scrubs `n` words from a location: single-bit errors are rewritten in the same access. -/
def scrubN (x : Ctx) (code : Nat) : Nat → Region → Region
  | 0, R => R
  | n + 1, R =>
    let R := (eccTouch x code R).2
    let R := if eccAt R code = some .single then setEcc code none R else R
    scrubN x (code + 1) n R

/-- Accesses of a pass. -/
def harrowRows : Nat := 360448

/-- Ticks from the first access of a pass to access `n`; access 360,448 is the first of the next pass (R334). -/
def harrowDue (n : Nat) (R : Region) : Nat :=
  n * (max 1 (min 600 (R.field Reg.MB_HRW_CFG.base 9 0)) * oneSecond) / harrowRows

/-- The harrow runs: EN is 1, and the region is in no state in which no pass runs (R459). (DEDUCED, log 59) -/
def harrowOn (R : Region) : Bool := R.bit Reg.MB_HRW_CFG.base 31 && decide (R.field Reg.PM_STAT.base 2 0 < 3)

/-- Harrow access `n`, made where it is the next one of the pass; the last ends the pass, and the next pass is due a
period after this one (R334, R335). (DESIGN CHOICE, log 28) -/
def harrowAccess (x : Ctx) (n : Nat) (R : Region) : Region :=
  if !harrowOn R || n != R.banks.harrow then R
  else
    match harrowRow n with
    | none => R
    | some (p, w) =>
      let R := if harrowReads p R then scrubN x (placeCode p + placeOff p / 8) w R else R.count Reg.MB_HRW_SKIP.base
      let first := R.banks.harrowGt.getD (x.gt - BitVec.ofNat 64 (harrowDue n R))
      if n + 1 = harrowRows then
        { R.count Reg.MB_HRW_PASSES.base with banks := { R.banks with
            harrow := 0, harrowGt := some (first + BitVec.ofNat 64 (harrowDue harrowRows R)) } }
      else { R with banks := { R.banks with harrow := n + 1, harrowGt := some first } }

/-- An access of the harrow still waits at the instant at which the one after it is due (R335). -/
def harrowBehind (x : Ctx) (R : Region) : Bool :=
  match R.banks.harrowGt with
  | some t => harrowOn R && decide ((harrowDue (R.banks.harrow + 1) R : Int) ≤ (x.gt - t).toInt)
  | none => false

/-- A write of MB_HRW_CFG: a new pass starts at the next access (R340). -/
def harrowCfg (plain : Region → Region) (R : Region) : Region :=
  let R := plain R
  { R with banks := { R.banks with harrow := 0, harrowGt := none } }

/-- The bank's next idle cycle rewrites a corrected word (R328). -/
def eccRewrite (code : Nat) (R : Region) : Region :=
  if eccAt R code = some .single then setEcc code none R else R

/-! ## March tests (R336 to R339) -/

/-- Bit of bank `b` in a row of three words. -/
def bankBit (d : RegDef) (b : Nat) (R : Region) : Bool := R.bit (regAt d (b / 32) 0) (b % 32)
def setBankBit (d : RegDef) (b : Nat) (R : Region) : Region := R.setBit (regAt d (b / 32) 0) (b % 32) true

/-- Takes up the first of `banks` that is On, recording those skipped; ends the test when none is left. -/
def marchNext (preserving abort : Bool) : List Nat → Region → Region
  | [], R => { R.setBit Reg.MB_MT_STAT.base 31 false with banks := { R.banks with march := none } }
  | b :: bs, R =>
    if bankCur b R = 0 then
      let R := { R with banks := { R.banks with march := some ⟨preserving, b :: bs, abort⟩ } }
      (R.setBit Reg.MB_MT_STAT.base 31 true).setField Reg.MB_MT_STAT.base 6 0 b
    else marchNext preserving abort bs (setBankBit Reg.MB_MT_SKIP b R)

/-- GO (R339): the results of the last test are cleared. -/
def marchGo (R : Region) : Region :=
  if R.banks.march.isSome then R
  else
    let R := foldN 3 (fun w R => (R.setReg (regAt Reg.MB_MT_FAIL w 0) 0).setReg (regAt Reg.MB_MT_SKIP w 0) 0) R
    let R := R.setReg Reg.MB_MT_FIRST.base 0
    marchNext (R.bit Reg.MB_MT_CFG.base 0) false ((List.range 80).filter (fun b => bankBit Reg.MB_MT_MASK b R)) R

/-- Rows of a bank. -/
def bankRows (b : Nat) : Nat := if b < 16 then 2048 else 1024

/-- A bank left after `row` of element `e` of March C-: rows that the element has treated hold its value, the others
the value before, which is their contents in element 0 (R336). (DESIGN CHOICE, log 28) -/
def marchLeave (b e row : Nat) (R : Region) : Region :=
  let rows := bankRows b
  let ones (r : Nat) : Bool :=
    match e with
    | 1 => decide (r ≤ row)
    | 2 => decide (row < r)
    | 3 => decide (row ≤ r)
    | 4 => decide (r < row)
    | _ => false
  let w := bankWords b
  let s := bankSpan b
  let rb := s.2 / rows
  let place (r : Nat) : Place := if b < 16 then .rmem (s.1 + r * rb) else .bmem (s.1 / 0x10000) (s.1 % 0x10000 + r * rb)
  let fill (r : Nat) (R : Region) : Region :=
    if ones r then
      foldN (rb / 8) (fun j R => setEcc (w.1 + r * (rb / 8) + j)
        (match Config.allOnesRow with | 0 => none | 1 => some .single | _ => some .uncorrectable) R)
        (memFill (place r) (List.replicate rb 0xFF) R)
    else R
  if e = 0 then memFill (place 0) (List.replicate ((row + 1) * rb) 0) R else foldN rows fill (bankZero b R)

/-- A read of row `row` in element `e` of the test of bank `b` differs from its expectation (R339). -/
def marchFail (x : Ctx) (b e row : Nat) (R : Region) : Region :=
  let R := setBankBit Reg.MB_MT_FAIL b R
  let R := if R.bit Reg.MB_MT_FIRST.base 31 then R
    else R.setReg Reg.MB_MT_FIRST.base (BitVec.ofNat 32 (2 ^ 31 + b * 2 ^ 24 + e % 8 * 2 ^ 20 + row % 2048))
  permanentFault x 3 0 b (R.reg Reg.MB_ECC_LASTSBE.base) (R.count (bankStat b))

/-- A failure that the bank under test may have had before element `e` and row `row` of a destructive test were left:
whether it had one, and where, the free value `f` says. Element 0 reads nothing. (DESIGN CHOICE, log 28) -/
def marchFailedAt (rows e row f : Nat) : Option (Nat × Nat) :=
  let e' := 1 + f / 2 % 8 % max 1 e
  let k := f / 16
  let row' := if e' < e then k % rows else if e ≤ 2 then k % (row + 1) else if e ≤ 4 then row + k % (rows - row) else k % rows
  if e = 0 ∨ f % 2 = 0 then none else some (e', row')

/-- ABORT: the test ends after the current row or segment. How far it had come, and whether the bank had failed by then,
is not known to the model, so they are free values (R339). (DESIGN CHOICE, log 28) -/
def marchAbort (x : Ctx) (R : Region) : Region :=
  match R.banks.march with
  | none => R
  | some m =>
    match m.banks with
    | [] => { R.setBit Reg.MB_MT_STAT.base 31 false with banks := { R.banks with march := none } }
    | b :: _ =>
      let f := (Config.freeWord x.free).toNat
      let e := if m.preserving then 5 else f % 6
      let row := f / 8 % bankRows b
      let R := if m.preserving then R else marchLeave b e row R
      let R := match marchFailedAt (bankRows b) e row (Config.freeWord (x.free + 1)).toNat with
        | some (e', row') => marchFail x b e' row' R
        | none => R
      let R := { R.setBit Reg.MB_MT_STAT.base 31 false with banks := { R.banks with march := none } }
      bankMove b (bankWant b R) R

/-- Free values that an abort of a march test takes. -/
def abortFree : Nat := 2

/-- The test of the bank under test ends (R337 to R339). A failure is at a row of the bank in one of the elements 1 to 5
that read. -/
def marchBankDone (x : Ctx) (failed : Bool) (element row : Nat) (R : Region) : Region :=
  match R.banks.march with
  | none => R
  | some m =>
    match m.banks with
    | [] => R
    | b :: bs =>
      if failed && (element == 0 || decide (5 < element) || decide (bankRows b ≤ row)) then R
      else
        let R := if m.preserving then R else bankZero b R
        let R := if failed then marchFail x b element row R else R
        let R := marchNext m.preserving m.abort bs R
        bankMove b (bankWant b R) R

/-! ## The register interface (R340) -/

/-- A write to a bank register. (DEDUCED, log 27) -/
def mbWrite (x : Ctx) (host : Bool) (a : Nat) (v : Word) (plain : Region → Region) (R : Region) : Region :=
  match regIdx Reg.MB_BANK_STAT a with
  | some _ => plain R
  | none =>
  match regIdx Reg.MB_BANK_PWR a with
  | some (b, _) => bankPowerWrite b host v R
  | none =>
    if a = Reg.MB_MT_CTL.base then
      if v.getLsbD 1 then marchAbort x R else if v.getLsbD 0 then marchGo R else R
    else if a = Reg.MB_HRW_CFG.base then harrowCfg plain R
    else plain R

/-- The region is in L0 (PM_STAT.STATE). -/
def inL0 (R : Region) : Bool := R.field Reg.PM_STAT.base 2 0 == 0

/-- A read of a bank register: FAILED, RUN and BEHIND are live. (DEDUCED, log 27) -/
def mbRead (x : Ctx) (a : Nat) (R : Region) : Word :=
  match regIdx Reg.MB_BANK_STAT a with
  | some _ => setBit (R.reg a) 16 (bitsOf (R.reg a) 15 0 != 0)
  | none =>
    if a = Reg.MB_HRW_STAT.base then
      setBit (ofBool (R.bit Reg.MB_HRW_CFG.base 31 && inL0 R)) 1 (harrowBehind x R)
    else R.reg a

end Sys2Proof.Machine
end

