-- ==== Sys2Proof/Machine/Adc.lean ====
section
/-!
DEFINITION. Converter group: sample groups, conversions, accumulators, trackers, probe, background calibration
(R223 to R253).
-/

namespace Sys2Proof.Machine

def Region.putAdc (R : Region) (f : Adc → Adc) : Region := { R with adc := f R.adc }

/-! ## Accumulators (R233 to R238); key 4 x channel + k, 64 the diagnostic one -/

/-- Offset of the register block of accumulator `a`. -/
def accBase (a : Nat) : Nat := if a = 64 then Reg.AD_DIAG_CFG.base else regAt Reg.AD_CH_ACC_CFG (a / 4) (a % 4)

/-- Offset of the result register of accumulator `a`. -/
def accRes (a : Nat) : Nat := if a = 64 then Reg.AD_DIAG_RES.base else regAt Reg.AD_CH_RES (a / 4) (a % 4)

def accMode (a : Nat) (R : Region) : Nat := R.field (accBase a) 31 30
def accStatAt (a : Nat) : Nat := accBase a + 8
def accRun (a : Nat) (R : Region) : Bool := R.bit (accStatAt a) 16
def accSum (a : Nat) (R : Region) : Int := mapGet (fun _ => 0) R.adc.sum a

/-- The partial sum restarts at zero. -/
def accClear (a : Nat) (R : Region) : Region :=
  (R.putAdc (fun d => { d with sum := mapSet (fun _ => 0) d.sum a 0 })).setField (accStatAt a) 7 0 0

/-- The result of the exact sum `s` under configuration `cfg` (R234). -/
def accResult (cfg : Word) (s : Int) : Word :=
  let logn := bitsOf cfg 2 0
  if cfg.getLsbD 29 then BitVec.ofInt 32 (s * 2 ^ (15 - logn))
  else
    let sh := min 8 (bitsOf cfg 11 8)
    let v := s + (if cfg.getLsbD 28 && decide (0 < sh) then 2 ^ (sh - 1) else 0)
    BitVec.ofInt 32 (v >>> sh)

/-- The accumulator takes samples: continuous, or one-shot between GO and its result (R235). -/
def accTaking (a : Nat) (R : Region) : Bool :=
  match accMode a R with | 1 => accRun a R | 2 => true | _ => false

/-- The N-th sample completes the sum `s` at ACLK edge `m`: the ready event is presented, and meets the capture unit,
at its PCLK source edge (R235, R303). -/
def accComplete (a : Nat) (s : Int) (stamp : Ticks) (m : Nat) (R : Region) : Region :=
  let res := accResult (R.reg (accBase a)) s
  let R := R.setReg (accRes a) res
  let R := R.putAdc (fun d => { d with resStamp := mapSet (fun _ => 0) d.resStamp a stamp })
  let R := accClear a R
  let R := R.setBit (accStatAt a) 17 true
  let R := if accMode a R = 1 then R.setBit (accStatAt a) 16 false else R
  if a = 64 then R
  else (R.putLp (fun l => { l with rcReady := l.rcReady ++ [⟨aclkEdge m, a, stamp,
      res⟩] })).raiseEdge (aclkEdge m) (0x030 + a)

/-- Accumulator `a` takes a sample of groups `groups` at ACLK edge `m` (R233). -/
def accSample (a : Nat) (code : Int) (groups : Nat) (stamp : Ticks) (m : Nat) (R : Region) : Region :=
  let cfg := R.reg (accBase a)
  let gm := bitsOf cfg 19 12
  if accTaking a R ∧ (a = 64 ∨ gm = 0 ∨ gm &&& groups ≠ 0) then
    let s := accSum a R + code
    let n := bitsOf (R.reg (accStatAt a)) 7 0 + 1
    let R := R.countWrap (accBase a + 0x14)
    if n = 2 ^ (bitsOf cfg 2 0 + 1) then accComplete a s stamp m R
    else (R.putAdc (fun d => { d with sum := mapSet (fun _ => 0) d.sum a s })).setField (accStatAt a) 7 0 n
  else R

/-- A write of the configuration (R237). (DESIGN CHOICE, log 32) -/
def accCfgWrite (a : Nat) (plain : Region → Region) (R : Region) : Region :=
  let old := accMode a R
  let run := accRun a R
  let R := accClear a (plain R)
  let m := accMode a R
  R.setBit (accStatAt a) 16 (m == 2 || (m == 1 && old == 1 && run))

/-- A write of CTL.GO (R235). -/
def accGo (a : Nat) (R : Region) : Region :=
  if accMode a R = 1 ∨ accMode a R = 2 then (accClear a R).setBit (accStatAt a) 16 true else R

/-- A read of the result copies its stamp (R236). -/
def accRead (a : Nat) (R : Region) : Word × Region :=
  (R.reg (accRes a), R.setPair (accBase a + 0xC) (accBase a + 0x10) (mapGet (fun _ => 0) R.adc.resStamp a))

/-! ## Trackers (R239 to R242); key 2 x channel + k -/

def windowInit : Window := ⟨0, 0, 0, 0, 0⟩
def trackerInit : Tracker := ⟨false, windowInit, []⟩
def Region.tracker (R : Region) (t : Nat) : Tracker := mapGet (fun _ => trackerInit) R.adc.trk t
def Region.setTracker (R : Region) (t : Nat) (v : Tracker) : Region :=
  R.putAdc (fun d => { d with trk := mapSet (fun _ => trackerInit) d.trk t v })

def trkBase (t : Nat) : Nat := regAt Reg.AD_CH_TRK_CFG (t / 2) (t % 2)
def trkMode (t : Nat) (R : Region) : Nat := R.field (trkBase t) 31 30
def trkRepeat (t : Nat) (R : Region) : Bool := R.bit (trkBase t) 29
def trkLen (t : Nat) (R : Region) : Nat := (R.reg (trkBase t + 0xC)).toNat
def trkOpen (t : Nat) (R : Region) : Ticks := R.pairVal (trkBase t + 0x10) (trkBase t + 0x14)

/-- A window takes a sample. -/
def windowAdd (w : Window) (q : Taken) : Window :=
  if w.cnt = 0 then ⟨1, q.code, q.code, q.stamp, q.edge⟩
  else ⟨w.cnt + 1, min w.min q.code, max w.max q.code, q.stamp, q.edge⟩

/-- Samples of a window in sample mode (R240). -/
def trkCount (t : Nat) (R : Region) : Nat := max 2 (trkLen t R)

/-- A sample joins the window it belongs to: the current one, or one after it where windows repeat (R239, R240). -/
def trkTake (t : Nat) (R : Region) (k : Tracker) (q : Taken) : Tracker :=
  let after := if trkRepeat t R then { k with later := k.later ++ [q] } else k
  match trkMode t R with
  | 1 =>
    let o := (trkOpen t R).toNat
    let s := q.stamp.toNat
    if s < o then k else if s < o + trkLen t R then { k with cur := windowAdd k.cur q } else after
  | 2 => if k.cur.cnt < trkCount t R then { k with cur := windowAdd k.cur q } else after
  | _ => k

/-- Tracker `t` takes a sample of groups `groups` (R233, R239). -/
def trkSample (t : Nat) (q : Taken) (groups : Nat) (R : Region) : Region :=
  let k := R.tracker t
  let gm := R.field (trkBase t) 19 12
  if k.armed ∧ (gm = 0 ∨ gm &&& groups ≠ 0) then R.setTracker t (trkTake t R k q) else R

/-- The window end at ACLK edge `m` writes its extremes, count, END and event; where windows repeat, the samples beyond
it join the next ones (R239 to R241). -/
def trkEnd (m t : Nat) (R : Region) : Region :=
  let k := R.tracker t
  let tick := trkMode t R == 1
  let w := k.cur
  let close := trkOpen t R + BitVec.ofNat 64 (trkLen t R)
  let b := trkBase t
  let valid := decide (2 ≤ w.cnt)
  let res : Word := if valid then (BitVec.ofInt 16 w.max ++ BitVec.ofInt 16 w.min : BitVec 32) else 0x80007FFF
  let R := (R.setReg (b + 0x18) res).setReg (b + 0x1C) (BitVec.ofNat 32 w.cnt)
  let R := R.setPair (b + 0x20) (b + 0x24) (if tick then close else w.last)
  let R := R.setBit (b + 8) 2 valid
  let R := if tick ∧ trkRepeat t R then R.setPair (b + 0x10) (b + 0x14) close else R
  let R := R.setTracker t (k.later.foldl (trkTake t R) ⟨trkRepeat t R, windowInit, []⟩)
  R.raiseEdge (aclkEdge m) (0x090 + t)

/-- The window of tracker `t` ends at ACLK edge `m` or ended before it: in tick mode GTIME has reached OPEN + LEN + 680
there, in sample mode the last sample is taken (R239, R240). -/
def trkPast (x : Ctx) (m t : Nat) (R : Region) : Bool :=
  let k := R.tracker t
  k.armed && (match trkMode t R with
    | 1 => decide ((trkOpen t R).toNat + trkLen t R + 680 ≤ (x.gtAclk m).toNat)
    | 2 => decide (trkCount t R ≤ k.cur.cnt)
    | _ => false)

/-- TRACKER_WINDOW_END: the window end of tracker `t`, if it falls on ACLK edge `m` or before; in sample mode it is the
edge at which the last sample was taken. (DESIGN CHOICE, log 32) -/
def trkEndAt (x : Ctx) (m t : Nat) (R : Region) : Region :=
  if trkPast x m t R then trkEnd (if trkMode t R = 2 then (R.tracker t).cur.edge else m) t R else R

/-- GO arms a window afresh. -/
def trkGo (t : Nat) (R : Region) : Region :=
  if trkMode t R = 1 ∨ trkMode t R = 2 then R.setTracker t ⟨true, windowInit, []⟩ else R

/-- A write of the configuration: a change of MODE or REPEAT ends the window without a result (R242). -/
def trkCfgWrite (t : Nat) (plain : Region → Region) (R : Region) : Region :=
  let old := bitsOf (R.reg (trkBase t)) 31 29
  let R := plain R
  if bitsOf (R.reg (trkBase t)) 31 29 = old then R else R.setTracker t trackerInit

/-- A write of OPEN or LEN moves the window; one that is past ends (R242). -/
def trkMove (x : Ctx) (t : Nat) (R : Region) : Region := trkEndAt x x.aclk t R

/-- TRK_STAT as read. -/
def trkStat (x : Ctx) (t : Nat) (R : Region) : Word :=
  let k := R.tracker t
  let isOpen := k.armed && (match trkMode t R with
    | 1 => decide (x.gt.toNat ≥ (trkOpen t R).toNat)
    | _ => decide (k.cur.cnt ≠ 0))
  setBits (R.reg (trkBase t + 8)) 1 0 ((k.armed && !isOpen).toNat + 2 * isOpen.toNat)

/-! ## Sample groups (R225 to R231) -/

def sgCfg (g : Nat) : Nat := regAt Reg.AD_SG_CFG g 0
def sgArmed (g : Nat) (R : Region) : Bool := R.bit (sgCfg g) 31
def sgTimed (g : Nat) (R : Region) : Bool := R.bit (sgCfg g) 30
def sgAt (g : Nat) (R : Region) : Ticks := R.pairVal (regAt Reg.AD_SG_AT_L g 0) (regAt Reg.AD_SG_AT_H g 0)
def sgWait (g : Nat) (R : Region) : SgWait := mapGet (fun _ => SgWait.idle) R.adc.wait g
def Region.setSgWait (R : Region) (g : Nat) (w : SgWait) : Region :=
  R.putAdc (fun d => { d with wait := mapSet (fun _ => SgWait.idle) d.wait g w })

/-- PER in ACLK: 1 to 15 act as 16 (R253). -/
def sgPer (g : Nat) (R : Region) : Nat :=
  let p := R.field (regAt Reg.AD_SG_PER g 0) 23 0
  if p = 0 then 0 else max 16 p

/-- Conversions of channel `ch` in flight, oldest first. -/
def Region.conv (R : Region) (ch : Nat) : List Conv := mapGet (fun _ => []) R.adc.conv ch
def Region.setConv (R : Region) (ch : Nat) (l : List Conv) : Region :=
  R.putAdc (fun d => { d with conv := mapSet (fun _ => []) d.conv ch l })

def initCal (R : Region) : Bool := R.bit Reg.AD_STAT.base 0

/-- A channel of the group converts at ACLK edge `m` from an earlier start (R228, R231). -/
def sgBusy (g m : Nat) (R : Region) : Bool :=
  (List.range 16).any (fun ch => R.bit (sgCfg g) ch && (R.conv ch).any (fun c => c.edge != m
      && decide (m < c.edge + 16)))

/-! ## Slices and the steps of calibration (R223, R247, R250) -/

def sliceAt (j : Nat) : Nat := regAt Reg.AD_SLICE_STAT j 0
def sliceState (j : Nat) (R : Region) : Nat := R.field (sliceAt j) 30 28
def sliceRetired (j : Nat) (R : Region) : Bool := R.bit (sliceAt j) 31

/-- Sets STATE and CH of a slice. -/
def setSlice (j state ch : Nat) (R : Region) : Region :=
  (R.setField (sliceAt j) 30 28 state).setField (sliceAt j) 20 16 ch

def calInit : CalStep := ⟨.idle, 0, 0⟩
def Region.calStep (R : Region) (s : Nat) : CalStep := mapGet (fun _ => calInit) R.adc.cal s

/-- Sets the step of spare 16 + `s` and the channel AD_CALSTAT shows for it (0x1F none). -/
def Region.setCalStep (R : Region) (s : Nat) (c : CalStep) (shown : Nat) : Region :=
  let R := R.putAdc (fun d => { d with cal := mapSet (fun _ => calInit) d.cal s c })
  if s = 0 then R.setField Reg.AD_CALSTAT.base 20 16 shown else R.setField Reg.AD_CALSTAT.base 12 8 shown

/-- Channel that spare 16 + `s` delivers for good (R250). -/
def Region.perm (R : Region) (s : Nat) : Option Nat := mapGet noneAt R.adc.perm s
def Region.setPerm (R : Region) (s : Nat) (c : Option Nat) : Region :=
  R.putAdc (fun d => { d with perm := mapSet noneAt d.perm s c })

/-- Spare 16 + `s` is available: not retired and not assigned to a channel for good (R250). -/
def spareAvail (s : Nat) (R : Region) : Bool := !sliceRetired (16 + s) R && (R.perm s).isNone

/-- The slice that delivers channel `n`: state 0 with CH = n. -/
def sliceOf (n : Nat) (R : Region) : Option Nat :=
  (List.range 18).find? (fun j => sliceState j R == 0 && R.field (sliceAt j) 20 16 == n && !sliceRetired j R)

/-- At a start of its channel the spare of step `s` takes over the delivery (R248). -/
def takeOverStep (s : Nat) (R : Region) : Region :=
  let c := R.calStep s
  if c.phase == .handOver then
    (setSlice c.slice 2 0x1F (setSlice (16 + s) 0 c.ch R)).setCalStep s ⟨.cal, c.ch, c.slice⟩ c.ch
  else R

/-- Digital correction of slice `j` in 1/64 LSB. -/
def Region.corr (R : Region) (j : Nat) : Int := mapGet (fun _ => 0) R.adc.corr j
def Region.setCorr (R : Region) (j : Nat) (d : Int) : Region :=
  R.putAdc (fun a => { a with corr := mapSet (fun _ => 0) a.corr j d })

/-- Channel `n` belongs to an armed group. -/
def chArmed (n : Nat) (R : Region) : Bool := (List.range 8).any (fun g => sgArmed g R && R.bit (sgCfg g) n)

def probeTarget (R : Region) : Nat := R.field Reg.AD_PROBE.base 31 30
def probeCh (R : Region) : Nat := R.field Reg.AD_PROBE.base 19 16
/-- AD_PROBE.CODE, signed (R243). -/
def probeCode (R : Region) : Int := ((R.reg Reg.AD_PROBE.base).extractLsb' 0 12).toInt
/-- The spare that TARGET = 2 names, 0 or 1. -/
def probeSpare (R : Region) : Nat := R.field Reg.AD_PROBE.base 20 20
/-- Channel `n` is driven by the probe (R244). -/
def probed (n : Nat) (R : Region) : Bool := probeTarget R == 1 && probeCh R == n
/-- Spare 16 + `s` is parked for the probe (R246). -/
def spareParked (s : Nat) (R : Region) : Bool := sliceState (16 + s) R == 4
/-- Spare `s` takes part in the rotation. -/
def spareRotates (s : Nat) (R : Region) : Bool := spareAvail s R && !spareParked s R

/-- CONNECTED and PROBEON. -/
def setConnected (b : Bool) (R : Region) : Region :=
  (R.setBit Reg.AD_PROBESTAT.base 2 b).setBit Reg.AD_STAT.base 3 b

/-- CALRUN as the steps stand. -/
def calFlags (R : Region) : Region :=
  let run := (List.range 2).any (fun s => (R.calStep s).phase != .idle)
  (R.setBit Reg.AD_STAT.base 2 run).putAdc (fun d => { d with rotating := run })

/-- CALDEG: no spare is available (R251). -/
def calDeg (R : Region) : Bool := !spareAvail 0 R && !spareAvail 1 R

/-- Channels spare `s` serves: even or odd with two spares, all with one (R247). -/
def servesCh (s n : Nat) (R : Region) : Bool := !spareRotates (1 - s) R || n % 2 == s

/-- Starts the rotation: every available spare that is not parked calibrates itself (R247). -/
def calStart (R : Region) : Region :=
  calFlags (foldN 2 (fun s R =>
    if spareRotates s R then (setSlice (16 + s) 1 0x1F R).setCalStep s ⟨.self, 0, 16 + s⟩ 0x1F else R) R)

/-- The next channel at or after `n` that spare `s` serves and no probe drives. -/
def nextCh (s n : Nat) (R : Region) : Option Nat :=
  (List.range 16).find? (fun i => decide (n ≤ i) && servesCh s i R && !probed i R && (sliceOf i R).isSome)

/-- When no spare has a step left, the rotation is over. Run to its end, with EN = 1, it is complete: AD_CALROT
increments and the next one begins (R247, R249). -/
def calRoundEnd (R : Region) : Region :=
  let phase (s : Nat) : CalPhase := (R.calStep s).phase
  if (List.range 2).all (fun s => phase s == .done || phase s == .idle) then
    let whole := R.bit Reg.AD_CALCFG.base 0 && (List.range 2).any (fun s => phase s == .done)
    let R := foldN 2 (fun s R => if (R.calStep s).phase == .done then R.setCalStep s calInit 0x1F else R) R
    if whole then calStart (R.countWrap Reg.AD_CALROT.base) else calFlags R
  else calFlags R

/-- Spare 16 + `s` leaves the rotation. -/
def calLeave (s : Nat) (R : Region) : Region := calRoundEnd (R.setCalStep s calInit 0x1F)

/-- Parks spare `s`, which holds no channel (R246). -/
def parkNow (s : Nat) (R : Region) : Region :=
  setConnected true ((calLeave s (setSlice (16 + s) 4 0x1F R)).setBit Reg.AD_PROBESTAT.base 1 false)

/-- Spare `s` is the one that waits to be parked. -/
def parkWaits (s : Nat) (R : Region) : Bool := R.bit Reg.AD_PROBESTAT.base 1 && probeSpare R == s && spareAvail s R

/-- Spare 16 + `s`, which holds no channel, goes on to its next one at or after `n`, is parked, or stops (R246, R247,
R249). -/
def calNext (s n : Nat) (R : Region) : Region :=
  let spare := 16 + s
  if !spareAvail s R then calLeave s R
  else
    let R := setSlice spare 5 0x1F R
    if parkWaits s R then parkNow s R
    else if !R.bit Reg.AD_CALCFG.base 0 then calLeave s R
    else
      match nextCh s n R with
      | none => calRoundEnd (R.setCalStep s ⟨.done, 16, spare⟩ 0x1F)
      | some ch =>
        let k := (sliceOf ch R).getD ch
        if chArmed ch R then calFlags ((setSlice spare 3 ch R).setCalStep s ⟨.shadow, ch, k⟩ ch)
        else calFlags (R.setCalStep s ⟨.inPlace, ch, k⟩ ch)

/-- At a start of its channel the working slice of step `s` resumes the delivery (R248). -/
def giveBackStep (s : Nat) (R : Region) : Region :=
  let c := R.calStep s
  if c.phase == .handBack then calNext s (c.ch + 1) (setSlice c.slice 0 c.ch (setSlice (16 + s) 5 0x1F R)) else R

/-- A start of channel `ch`: a hand-over or a hand-back that waits for it is made, and the receiving slice converts
(R248). -/
def startSlice (ch : Nat) (R : Region) : Region :=
  foldN 2 (fun s R => if (R.calStep s).ch = ch then giveBackStep s (takeOverStep s R) else R) R

/-! ## Starts (R226 to R231) -/

/-- Channel `ch` starts for group `g` at ACLK edge `m`; groups that start together share the conversion (R231). -/
def chStart (g m ch : Nat) (R : Region) : Region :=
  let l := R.conv ch
  if l.any (fun c => c.edge == m) then
    R.setConv ch (l.map (fun c => if c.edge = m then { c with groups := c.groups ||| 2 ^ g } else c))
  else
    let R := startSlice ch R
    R.setConv ch (R.conv ch ++ [⟨2 ^ g, m, (sliceOf ch R).getD ch, none, none, false⟩])

/-- A start of group `g` at ACLK edge `m`, by CHMASK as it stands: accepted or refused (R225, R228). -/
def sgStart (g m : Nat) (R : Region) : Region :=
  if initCal R ∨ sgBusy g m R then R.count (regAt Reg.AD_SG_OVR g 0)
  else
    let R := foldN 16 (fun ch R => if R.bit (sgCfg g) ch then chStart g m ch R else R) R
    R.putAdc (fun d => { d with opens := d.opens ++ [(g, m)] })

/-- Event trigger of group `g` (R226): the start edge is the first ACLK edge later than now; a second trigger with the
same start edge merges with the first. -/
def sgTrigger (x : Ctx) (g : Nat) (R : Region) : Region :=
  if sgArmed g R ∧ !sgTimed g R ∧ !R.adc.starts.contains (g, x.aclk + 1) then
    R.putAdc (fun d => { d with starts := d.starts ++ [(g, x.aclk + 1)] })
  else R

/-- The arming, or a write of AT, reaches a timed group: an instant already passed is missed (R227). -/
def sgJudge (x : Ctx) (g : Nat) (R : Region) : Region :=
  let t := sgAt g R
  let before := x.gtAclk x.aclk
  if t.toNat ≤ before.toNat then
    let R := R.count (regAt Reg.AD_SG_MISS g 0)
    let per := sgPer g R * 40
    if per = 0 then R.setSgWait g .idle
    else R.setSgWait g (.at (BitVec.ofNat 64 (t.toNat + ((before.toNat - t.toNat) / per + 1) * per)))
  else R.setSgWait g (.at t)

/-- A write of AD_SGg_CFG. -/
def sgCfgWrite (x : Ctx) (g : Nat) (plain : Region → Region) (R : Region) : Region :=
  let was := sgArmed g R && sgTimed g R
  let R := plain R
  if sgArmed g R && sgTimed g R then (if was then R else sgJudge x g R) else R.setSgWait g .idle

/-- A write of AD_SGg_AT: a running series restarts from the new instant (R231). -/
def sgAtWrite (x : Ctx) (g : Nat) (plain : Region → Region) (R : Region) : Region :=
  let R := plain R
  if sgArmed g R && sgTimed g R then sgJudge x g R else R

/-- The start edge of a timed group whose instant has come by ACLK edge `m`, if it has. -/
def sgDue (x : Ctx) (m g : Nat) (R : Region) : Option Nat :=
  if sgArmed g R && sgTimed g R then
    match sgWait g R with
    | .at t => if t.toNat ≤ (x.gtAclk m).toNat then some m else none
    | .edge e => if e ≤ m then some e else none
    | .idle => none
  else none

/-- TIMED_START: the start of timed group `g` at ACLK edge `m`, if it is due, and the next of its series (R227).
(DESIGN CHOICE, log 32) -/
def sgTimedStart (x : Ctx) (m g : Nat) (R : Region) : Region :=
  match sgDue x m g R with
  | none => R
  | some e =>
    let per := sgPer g R
    (sgStart g e R).setSgWait g (if per = 0 then .idle else .edge (e + per))

/-- `s` lies within 2 us (25,600 ticks) of `t`. -/
def within2us (t : Option Ticks) (s : Ticks) : Bool :=
  match t with
  | some t => decide (t.toNat ≤ s.toNat ∧ s.toNat < t.toNat + 25600)
  | none => false

/-- PCLK edges that SETTLING lasts (R245). -/
def settleEdges : Nat := 1600

/-- SETTLING = 1 at PCLK edge `e` because of a probe change that left channel `was`. -/
def settlesAt (e : Nat) (q : Nat × Option Nat) : Bool := decide (q.1 ≤ e ∧ e < q.1 + settleEdges)

/-- A sample whose aperture closes at PCLK edge `e` with stamp `s` has an unspecified value: of channel `n`, or of the
parked spare where `n` is 16 (R245, VREFSEL in R253). (DESIGN CHOICE, log 33) -/
def sampleFree (n e : Nat) (s : Ticks) (R : Region) : Bool :=
  within2us R.adc.vrefGt s
    || R.adc.probeAt.any (fun q => settlesAt e q && (n == 16 || probed n R || q.2 == some n))

/-- The aperture of a conversion of channel `ch` closes with stamp `st` (R229, R230, R244, R245). -/
def apertureOf (x : Ctx) (ch : Nat) (st : Ticks) (R : Region) (c : Conv) : Conv :=
  { c with stamp := some st, probe := if probed ch R then some (probeCode R) else none
           free := sampleFree ch x.time.pclk st R }

/-- The first PCLK edge at or after ACLK edge c + 3 of a start of group `g`: the stamp is taken, recorded, and the
deadline windows close and open (R229, R230, R273). -/
def sgAperture (x : Ctx) (g c : Nat) (R : Region) : Region :=
  let st := x.gtAclk (c + 3)
  let R := foldN 16 (fun ch R =>
    if (R.conv ch).any (fun k => k.edge == c && k.stamp.isNone) then
      R.setConv ch ((R.conv ch).map (fun k => if k.edge = c then apertureOf x ch st R k else k))
    else R) R
  openWindows g st (R.setPair (regAt Reg.AD_SG_GT_L g 0) (regAt Reg.AD_SG_GT_H g 0) st)

/-- A PCLK edge in the converter group, with the ACLK edge at or before it: starts that are due, apertures that close,
window ends. (DESIGN CHOICE, log 1) -/
def adTick (x : Ctx) (R : Region) : Region :=
  let m := x.aclk
  let due := R.adc.starts.filter (fun p => decide (p.2 ≤ m))
  let R := R.putAdc (fun d => { d with starts := d.starts.filter (fun p => decide (m < p.2)) })
  let R := due.foldl (fun R p => sgStart p.1 p.2 R) R
  let R := foldN 8 (sgTimedStart x m) R
  let open' := R.adc.opens.filter (fun p => decide (p.2 + 3 ≤ m))
  let R := R.putAdc (fun d => { d with opens := d.opens.filter (fun p => decide (m < p.2 + 3)) })
  let R := open'.foldl (fun R p => sgAperture x p.1 p.2 R) R
  let R := foldN 32 (trkEndAt x m) R
  let left := R.adc.probeAt.filter (fun q => decide (x.time.pclk < q.1 + 2 * settleEdges))
  (R.putAdc (fun d => { d with probeAt := left })).setBit Reg.AD_PROBESTAT.base 0 (left.any (settlesAt x.time.pclk))

/-! ## Delivery of samples (R224, R229, R232) -/

/-- The delivered code: clipped to 16 bits (R224). -/
def clipCode (v : Int) : Int := max (-32768) (min 32767 v)

/-- CODE x 15.36 in 1/64 LSB, to the nearest (R243). -/
def probeValue (code : Int) : Int := (code * 98304 + 50) / 100

/-- The conversion of slice `j`, in 1/64 LSB: `v` of the pins, or, of the probe at `code`, what `v` deviates from the
value that R243 gives it. With an external reference that value is open (R224). (DESIGN CHOICE, log 33) -/
def converted (x : Ctx) (j : Nat) (code : Option Int) (v : Int) (R : Region) : Int :=
  v + R.corr j + (match code with
    | none => 0
    | some c => if R.bit Reg.AD_CFG.base 0 then 64 * Config.freeSample x.free else probeValue c)

/-- The unclipped code of a conversion in 1/64 LSB, rounded to the nearest, a half up (R224). (DESIGN CHOICE, log 33) -/
def roundCode (v : Int) : Int := (v + 32) / 64

/-- Channel `n` delivers the sample of its oldest conversion, which is over at or before the coming PCLK edge; the
corrections of the slice that converted are made (R229, R232, R248). (DESIGN CHOICE, log 33) -/
def deliverSample (x : Ctx) (n : Nat) (v : Int) (R : Region) : Region :=
  match R.conv n with
  | [] => R
  | c :: l =>
    match c.stamp with
    | none => R
    | some st =>
      if x.aclkNext < c.edge + 16 then R
      else
        let R := R.setConv n l
        let v := if c.free then Config.freeSample x.free else roundCode (converted x c.slice c.probe v R)
        let code := clipCode v
        let R := if code ≠ v then R.count (regAt Reg.AD_CH_CLIP n 0) else R
        let m := c.edge + 17
        let R := bandSample n code m R
        let R := foldN 4 (fun k R => accSample (4 * n + k) code c.groups st m R) R
        foldN 2 (fun k R => trkSample (2 * n + k) ⟨code, st, m⟩ c.groups R) R

/-- The parked spare delivers a probe sample to the diagnostic accumulator, one every 16 ACLK; its aperture closed 13
ACLK ago (R246). (DESIGN CHOICE, log 33) -/
def deliverDiag (x : Ctx) (v : Int) (R : Region) : Region :=
  let m := x.aclkNext
  let early := match R.adc.diagEdge with | some e => decide (m < e + 16) | none => false
  if spareParked (probeSpare R) R ∧ probeTarget R = 2 ∧ !early then
    let R := R.putAdc (fun d => { d with diagEdge := some m })
    let s := x.gtAclk (m - 13)
    let v := if sampleFree 16 (5 * (m - 13) / 2) s R then Config.freeSample x.free
      else roundCode (converted x (16 + probeSpare R) (some (probeCode R)) v R)
    accSample 64 (clipCode v) 0 s m R
  else R

/-! ## Slices, calibration and probe (R243 to R252) -/

/-- The step, if any, whose present calibration is of slice `j`. -/
def calOf (j : Nat) (R : Region) : Option Nat :=
  (List.range 2).find? (fun s =>
    let c := R.calStep s
    c.slice == j && (c.phase == .self || c.phase == .inPlace || c.phase == .cal))

/-- The trim of slice `j`: in range clears FAILLAST and ends the former correction; out of range counts and, a second
time, retires the slice as a permanent fault (R248, R250, R392). -/
def trimResult (x : Ctx) (j : Nat) (inRange : Bool) (R : Region) : Region :=
  let a := sliceAt j
  if inRange then (R.setBit a 8 false).setCorr j 0
  else
    let R := R.setField a 7 0 (min 255 (R.field a 7 0 + 1))
    if R.bit a 8 then permanentFault x 4 0 j 0 ((setSlice j 6 0x1F R).setBit a 31 true) else R.setBit a 8 true

/-- Spare 16 + `s` delivers channel `ch` for good (R250). -/
def spareKeeps (s ch : Nat) (R : Region) : Region := calLeave s ((setSlice (16 + s) 0 ch R).setPerm s (some ch))

/-- A slice that was the permanent one of its channel is retired: the assignment ends. -/
def permEnds (j : Nat) (R : Region) : Region := if 16 ≤ j then R.setPerm (j - 16) none else R

/-- A calibration of slice `j` ends (R247, R250). A slice retired in place leaves its channel to the spare of the step,
so that one slice delivers it (R223). (DEDUCED, log 59) -/
def calComplete (x : Ctx) (j : Nat) (inRange : Bool) (R : Region) : Region :=
  match calOf j R with
  | none =>
    if initCal R ∧ !sliceRetired j R ∧ !R.adc.initDone.contains j then
      (trimResult x j inRange R).putAdc (fun d => { d with initDone := d.initDone ++ [j] })
    else R
  | some s =>
    let c := R.calStep s
    let R := trimResult x j inRange R
    if c.phase == .self then calNext s c.ch R
    else if sliceRetired j R then spareKeeps s c.ch (permEnds j R)
    else if c.phase == .cal then (setSlice j 3 c.ch R).setCalStep s ⟨.shadowBack, c.ch, j⟩ c.ch
    else calNext s (c.ch + 1) R

/-- 1,024 shadow samples give slice `j` the difference `d` in 1/64 LSB (R247). -/
def shadowDone (j : Nat) (d : Int) (R : Region) : Region :=
  match (List.range 2).find? (fun s =>
      let c := R.calStep s
      (c.phase == .shadow && j == 16 + s) || (c.phase == .shadowBack && c.slice == j)) with
  | none => R
  | some s =>
    let c := R.calStep s
    if c.phase == .shadow then
      if d.natAbs > 32 * 64 then
        ((setSlice j 1 0x1F R).count Reg.AD_CALFAIL.base).setCalStep s ⟨.self, c.ch + 1, j⟩ 0x1F
      else (R.setCorr j (-d)).setCalStep s ⟨.handOver, c.ch, c.slice⟩ c.ch
    else (R.setCorr j (-d)).setCalStep s ⟨.handBack, c.ch, c.slice⟩ c.ch

/-- Too few shadow samples within a second: the step is abandoned (R247). -/
def shadowLate (j : Nat) (R : Region) : Region :=
  match (List.range 2).find? (fun s => (R.calStep s).phase == .shadow && j == 16 + s) with
  | none => R
  | some s => calNext s ((R.calStep s).ch + 1) (R.count Reg.AD_CALFAIL.base)

/-- A start of channel `ch` falls on the ACLK edge at or before the coming PCLK edge. -/
def chStarts (x : Ctx) (ch : Nat) (R : Region) : Bool :=
  let m := x.aclkNext
  !initCal R && (List.range 8).any (fun g =>
    R.bit (sgCfg g) ch && !sgBusy g m R && (R.adc.starts.any (fun p => p.1 == g && decide (p.2 ≤ m))
        || (sgDue x m g R).isSome))

/-- HAND_OVER, HAND_BACK: the start at the coming PCLK edge makes the hand-over to spare `j`, or the hand-back from it
(R248). (DESIGN CHOICE, log 32) -/
def handAt (x : Ctx) (j : Nat) (back : Bool) (R : Region) : Region :=
  let s := j - 16
  if 16 ≤ j ∧ chStarts x (R.calStep s).ch R then (if back then giveBackStep s R else takeOverStep s R) else R

/-- A write of AD_CALCFG (R249): a write of 1 starts a rotation where none runs. -/
def calCfgWrite (plain : Region → Region) (R : Region) : Region :=
  let R := plain R
  if R.bit Reg.AD_CALCFG.base 0 && !R.adc.rotating && !initCal R then calStart R else R

/-- Calibration after reset ends (R252). -/
def initCalDone (R : Region) : Region :=
  if initCal R then
    let R := (R.setBit Reg.AD_STAT.base 0 false).putAdc (fun d => { d with initDone := [] })
    if R.bit Reg.AD_CALCFG.base 0 then calStart R else R
  else R

/-- Spare `s` holds no channel: no step of its own between shadow and hand-back (R246). -/
def spareFree (s : Nat) (R : Region) : Bool :=
  match (R.calStep s).phase with | .idle | .done | .self | .inPlace => true | _ => false

/-- SPARE_PARK: parks the named spare, which waits for it and holds no channel (R246). -/
def sparePark (R : Region) : Region :=
  if parkWaits (probeSpare R) R && spareFree (probeSpare R) R then parkNow (probeSpare R) R else R

/-- A spare that was parked is named no longer: it returns to calibration (R246). -/
def unpark (s : Nat) (R : Region) : Region :=
  let R := setConnected false (setSlice (16 + s) 5 0x1F R)
  if R.bit Reg.AD_CALCFG.base 0 then calFlags ((setSlice (16 + s) 1 0x1F R).setCalStep s ⟨.self, 0, 16 + s⟩ 0x1F) else R

/-- A write of AD_PROBE (R244 to R246). A spare that calibrates nothing is parked at once. -/
def probeWrite (x : Ctx) (plain : Region → Region) (R : Region) : Region :=
  let old := R.reg Reg.AD_PROBE.base
  let t0 := probeTarget R
  let c0 := probeCh R
  let s0 := probeSpare R
  let R := plain R
  let new := R.reg Reg.AD_PROBE.base
  let t1 := probeTarget R
  let s1 := probeSpare R
  let changed := bitsOf old 11 0 != bitsOf new 11 0 || t0 != t1 || (c0 != probeCh R && (t0 == 1 || t1 == 1))
  let R := if changed then
      (R.setBit Reg.AD_PROBESTAT.base 0 true).putAdc (fun d =>
        { d with probeAt := d.probeAt ++ [(x.time.pclk, if t0 = 1 then some c0 else none)] })
    else R
  let R := if spareParked s0 R ∧ (t1 ≠ 2 ∨ s1 ≠ s0) then unpark s0 R else R
  match t1 with
  | 1 => setConnected true (R.setBit Reg.AD_PROBESTAT.base 1 false)
  | 2 =>
    if spareParked s1 R then R
    else
      let R := setConnected false (R.setBit Reg.AD_PROBESTAT.base 1 true)
      if (R.calStep s1).phase == .idle || (R.calStep s1).phase == .done then sparePark R else R
  | _ => setConnected false (R.setBit Reg.AD_PROBESTAT.base 1 false)

/-- PROBE_SETTLED: SETTLING falls, 1,600 PCLK after the last probe change (R245). (DESIGN CHOICE, log 32) -/
def probeSettle (x : Ctx) (R : Region) : Region :=
  if R.adc.probeAt.any (settlesAt (x.time.pclk + 1)) then R else R.setBit Reg.AD_PROBESTAT.base 0 false

/-! ## The register interface (R253) -/

/-- A write to a converter register. -/
def adWrite (x : Ctx) (a : Nat) (v : Word) (plain : Region → Region) (R : Region) : Region :=
  match regIdx Reg.AD_SG_CFG a with
  | some (g, _) => sgCfgWrite x g plain R
  | none =>
  match regIdx Reg.AD_SG_AT_L a with
  | some (g, _) => sgAtWrite x g plain R
  | none =>
  match regIdx Reg.AD_SG_AT_H a with
  | some (g, _) => sgAtWrite x g plain R
  | none =>
  match regIdx Reg.AD_CH_ACC_CFG a with
  | some (n, k) => accCfgWrite (4 * n + k) plain R
  | none =>
  match regIdx Reg.AD_CH_ACC_CTL a with
  | some (n, k) => if v.getLsbD 0 then accGo (4 * n + k) R else R
  | none =>
  match regIdx Reg.AD_CH_TRK_CFG a with
  | some (n, k) => trkCfgWrite (2 * n + k) plain R
  | none =>
  match regIdx Reg.AD_CH_TRK_CTL a with
  | some (n, k) => if v.getLsbD 0 then trkGo (2 * n + k) R else R
  | none =>
  match regIdx Reg.AD_CH_TRK_LEN a with
  | some (n, k) => trkMove x (2 * n + k) (plain R)
  | none =>
  match regIdx Reg.AD_CH_TRK_OPEN_L a with
  | some (n, k) => trkMove x (2 * n + k) (plain R)
  | none =>
  match regIdx Reg.AD_CH_TRK_OPEN_H a with
  | some (n, k) => trkMove x (2 * n + k) (plain R)
  | none =>
    if a = Reg.AD_PROBE.base then probeWrite x plain R
    else if a = Reg.AD_CALCFG.base then calCfgWrite plain R
    else if a = Reg.AD_DIAG_CFG.base then accCfgWrite 64 plain R
    else if a = Reg.AD_DIAG_CTL.base then (if v.getLsbD 0 then accGo 64 R else R)
    else if a = Reg.AD_CFG.base then
      let R' := plain R
      if R'.reg Reg.AD_CFG.base = R.reg Reg.AD_CFG.base then R' else R'.putAdc (fun d => { d with vrefGt := some x.gt })
    else plain R

/-- A read of a converter register. -/
def adRead (x : Ctx) (a : Nat) (R : Region) : Word × Region :=
  match regIdx Reg.AD_CH_RES a with
  | some (n, k) => accRead (4 * n + k) R
  | none =>
  match regIdx Reg.AD_CH_TRK_STAT a with
  | some (n, k) => (trkStat x (2 * n + k) R, R)
  | none =>
    if a = Reg.AD_DIAG_RES.base then accRead 64 R
    else if a = Reg.AD_STAT.base then (setBit (R.reg a) 1 (calDeg R), R) else (R.reg a, R)

end Sys2Proof.Machine
end

