-- ==== Sys2Proof/Machine/FieldPins.lean ====
section
/-!
DEFINITION. Field pins: timed queues, captures and service requests (R384 to R390, R468).
-/

namespace Sys2Proof.Machine

def Region.fpin (R : Region) (p : Nat) : FieldPin := mapGet (fun _ => fieldPinInit) R.fp p
def Region.setFpin (R : Region) (p : Nat) (f : FieldPin) : Region :=
  { R with fp := mapSet (fun _ => fieldPinInit) R.fp p f }

/-- A push of FP_Pp_TQACT (R386). -/
def tqPush (p : Nat) (v : Word) (R : Region) : Region :=
  let f := R.fpin p
  if f.tq.length < 8 then
    R.setFpin p { f with tq := f.tq ++ [(R.pairVal (regAt Reg.FP_P_TQ_L p 0) (regAt Reg.FP_P_TQ_H p 0), bitsOf v 2 0)] }
  else R.count (regAt Reg.FP_P_TQOVR p 0)

/-- The action of a timed entry (R386). -/
def tqAct (p act : Nat) (R : Region) : Region :=
  match act with
  | 0 => R.setBit Reg.FP_OUT.base p false
  | 1 => R.setBit Reg.FP_OUT.base p true
  | 2 => R.setBit Reg.FP_OUT.base p (!R.bit Reg.FP_OUT.base p)
  | 3 => R.setBit Reg.FP_OE.base p false
  | 4 => R.setBit Reg.FP_OE.base p true
  | _ => R

/-- The head entry acts at the last PCLK edge of `x` where GTIME has reached its time and none has acted at that edge,
late where the edge before had reached it as well (R386). (DESIGN CHOICE, log 32) -/
def tqHead (x : Ctx) (p : Nat) (R : Region) : Region :=
  let f := R.fpin p
  match f.tq, f.acted with
  | e :: l, none =>
    if x.gt.toNat < e.1.toNat then R
    else
      let late := decide (e.1.toNat ≤ (x.edgeAt (-1)).1.toNat)
      let R := tqAct p e.2 (R.setFpin p { f with tq := l, acted := some e.2 })
      if late then R.count (regAt Reg.FP_P_LATE p 0) else R
  | _, _ => R

/-- FP_IN follows the filtered level of pin `p` (R385). -/
def pinLevel (p : Nat) (level : Bool) (R : Region) : Region := R.setBit Reg.FP_IN.base p level

/-- A capture of the edge enters the FIFO, or is lost; a lost one is kept until the edge is over (R387). -/
def pinCapIn (p : Nat) (e : Ticks × Bool) (R : Region) : Region :=
  let f := R.fpin p
  if f.cap.length < 4 then (R.setFpin p { f with cap := f.cap ++ [e] }).raiseNext (0x0E0 + p)
  else (R.setFpin p { f with lost := some e }).count (regAt Reg.FP_P_CAPOVR p 0)

/-- EDGE of pin `p` selects a change to `rising`. -/
def pinSelects (p : Nat) (rising : Bool) (R : Region) : Bool := R.bit (regAt Reg.FP_P_CFG p 0) (if rising then 8 else 9)

/-- The filter of pin `p` at the last PCLK edge of `x`: the filtered level takes a level shown long enough; a change in
the direction of EDGE is captured with GTIME at the first edge of its run, less 48 ticks (R385, R387). -/
def pinDecide (x : Ctx) (p : Nat) (R : Region) : Region :=
  let l := (R.fpin p).line
  if l.sync == R.bit Reg.FP_IN.base p || !l.passed (R.field (regAt Reg.FP_P_CFG p 0) 23 16) x.time.pclk then R
  else
    let first := (x.edgeAt ((l.since : Int) - x.time.pclk)).1
    let R := pinLevel p l.sync R
    if pinSelects p l.sync R then pinCapIn p ((first - 48) &&& ~~~ 0xF, l.sync) R else R

/-- The synchronised level of pin `p` is `b` from PCLK edge `e` on (R385). -/
def pinShow (e p : Nat) (b : Bool) (R : Region) : Region :=
  let f := R.fpin p
  R.setFpin p { f with line := f.line.show b e }

/-- A PCLK edge at the field pins, the last one of `x`: filters and timed queues. -/
def pinTick (x : Ctx) (R : Region) : Region := foldN 32 (fun p R => tqHead x p (pinDecide x p R)) R

/-- The edge is over at every field pin. -/
def pinOver (R : Region) : Region := foldN 32 (fun p R => R.setFpin p { R.fpin p with acted := none, lost := none }) R

/-- A capture that found the FIFO full at the edge of a read enters it after all (R276, R387). -/
def pinCapBack (p : Nat) (R : Region) : Region :=
  match (R.fpin p).lost with
  | none => R
  | some e =>
    let a := regAt Reg.FP_P_CAPOVR p 0
    pinCapIn p e ((R.setFpin p { R.fpin p with lost := none }).setReg a (R.reg a - 1))

/-- A read of FP_Pp_CAP_L (R387). -/
def pinCapRead (p : Nat) (R : Region) : Word × Region :=
  match (R.fpin p).cap with
  | [] => (0, R)
  | e :: l =>
    ((e.1.truncate 32 &&& ~~~ 0xF) ||| ofBool e.2,
      pinCapBack p ((R.setFpin p { R.fpin p with cap := l }).setReg (regAt Reg.FP_P_CAP_H p 0) ((e.1 >>> 32).truncate 32)))

/-- Service request of pin `p` (R388). -/
def pinRequest (p : Nat) (R : Region) : Bool :=
  match R.field (regAt Reg.FP_P_CFG p 0) 25 24 with
  | 1 => decide ((R.fpin p).tq.length < 8)
  | 2 => !(R.fpin p).cap.isEmpty
  | _ => false

/-- FP_Pp_TQSTAT as read. -/
def pinStat (p : Nat) (R : Region) : Word :=
  BitVec.ofNat 32 ((R.fpin p).cap.length * 128 + (R.fpin p).tq.length)

/-- A VIO rail leaves or re-enters its range, or changes level (R384, R468). -/
def railChange (rail : Nat) (good v18 : Bool) (R : Region) : Region :=
  let rest := R.railBad.filter (fun k => k != rail)
  let R := { R with railBad := if good then rest else rail :: rest }
  if rail = 1 then R.setBit Reg.FP_BANK.base 0 (good && !v18)
  else if rail = 2 then R.setBit Reg.FP_BANK.base 1 (good && !v18)
  else R

/-- The level that field pin `p` drives; none while it is high-impedance or released (R384, R453, R468). -/
def fpPin (R : Region) (p : Nat) : Option Bool :=
  let bank := if p < 16 then 1 else 2
  if R.bit Reg.FP_OE.base p && R.bit Reg.PM_OE.base bank && R.railBad.isEmpty && !R.inReset then
    let out := R.bit Reg.FP_OUT.base p
    if R.bit (regAt Reg.FP_P_CFG p 0) 31 && out then none else some out
  else none

/-- A write of FP_OUT or FP_OE keeps the bits that timed actions of its edge made, codes 0 to 2 or 3 and 4 (R389). -/
def pinsWrite (a lo hi : Nat) (plain : Region → Region) (R : Region) : Region :=
  foldN 32 (fun p R' =>
    match (R.fpin p).acted with
    | some c => if lo ≤ c ∧ c ≤ hi then R'.setBit a p (R.bit a p) else R'
    | none => R') (plain R)

/-- A write to a field-pin register. -/
def fpWrite (a : Nat) (v : Word) (plain : Region → Region) (R : Region) : Region :=
  match regIdx Reg.FP_P_TQACT a with
  | some (p, _) => tqPush p v R
  | none =>
    if a = Reg.FP_OUT.base then pinsWrite a 0 2 plain R
    else if a = Reg.FP_OE.base then pinsWrite a 3 4 plain R
    else plain R

/-- A read of a field-pin register. -/
def fpRead (a : Nat) (R : Region) : Word × Region :=
  match regIdx Reg.FP_P_CAP_L a with
  | some (p, _) => pinCapRead p R
  | none =>
  match regIdx Reg.FP_P_TQSTAT a with
  | some (p, _) => (pinStat p R, R)
  | none => (R.reg a, R)

end Sys2Proof.Machine
end

