-- ==== Sys2Proof/Machine/Interrupts.lean ====
section
/-!
DEFINITION. Interrupt controller: posts, completion, delivery, recall and level lines (R211 to R220).
-/

namespace Sys2Proof.Machine

/-- Bit `s` of a row of 32-bit registers. -/
def icBit (d : RegDef) (s : Nat) (R : Region) : Bool := R.bit (regAt d (s / 32) 0) (s % 32)
def setIcBit (d : RegDef) (s : Nat) (b : Bool) (R : Region) : Region := R.setBit (regAt d (s / 32) 0) (s % 32) b

def icPending (s : Nat) (R : Region) : Bool := icBit Reg.IC_PEND s R
def icActive (s : Nat) (R : Region) : Bool := icBit Reg.IC_ACT s R
def icCfg (s : Nat) : Nat := regAt Reg.IC_SRC_CFG s 0
def icPrio (s : Nat) (R : Region) : Nat := R.field (icCfg s) 3 0
def icLevel (s : Nat) (R : Region) : Bool := R.bit (icCfg s) 4

/-- The source in slot `p` of cell `i`. -/
def icSlot (i p : Nat) (R : Region) : Option Nat := mapGet noneAt R.ev.slots (16 * i + p)
def setIcSlot (i p : Nat) (v : Option Nat) (R : Region) : Region :=
  { R with ev := { R.ev with slots := mapSet noneAt R.ev.slots (16 * i + p) v } }

/-- Source `s` is delivered: held at one cell and not taken. -/
def icDelivered (s : Nat) (R : Region) : Bool := R.ev.slots.any (fun e => e.2 == some s)

/-- Line of a level source (R218). -/
def icLine (s : Nat) (R : Region) : Bool :=
  if 0x011 ≤ s ∧ s ≤ 0x014 then R.trpAsserted (s - 0x011)
  else if s = 0x015 then R.bit Reg.CF_STAT.base 0
  else if 0x070 ≤ s ∧ s ≤ 0x08F then R.bit (regAt Reg.LP_BAND_STAT ((s - 0x070) / 2) 0) (s % 2)
  else if 0x0C8 ≤ s ∧ s ≤ 0x0CF then R.reg (regAt Reg.FB_UN_ILL (s - 0x0C8) 0) != 0
  else if 0x400 ≤ s then icBit Reg.IC_LINE s R
  else false

/-- A post of source `s` is accepted (R213). -/
def icPost (s : Nat) (R : Region) : Region :=
  if icPrio s R = 0 then R.count Reg.IC_DISCARD.base
  else if icPending s R || icDelivered s R then R.count Reg.IC_COAL.base
  else setIcBit Reg.IC_PEND s true R

/-- A write of IC_EOI (R217). -/
def icEoi (s : Nat) (R : Region) : Region :=
  if icActive s R then
    let R := setIcBit Reg.IC_ACT s false R
    if icLevel s R && icLine s R then setIcBit Reg.IC_PEND s true R else R
  else R.count Reg.IC_EOIBAD.base

/-- What eligibility asks beside a free slot (R214). -/
def icTarget (i s p : Nat) (R : Region) : Bool :=
  R.bit (regAt Reg.IC_TSET (R.field (icCfg s) 13 8) (i / 32)) (i % 32) && (R.cell i).running
    && decide (R.field (regAt Reg.IC_THR i 0) 3 0 < p) && icPrio s R == p && p != 0

/-- Cell `i` is eligible for source `s` of priority `p` (R214). -/
def icEligible (i s p : Nat) (R : Region) : Bool := icTarget i s p R && (icSlot i p R).isNone

/-- The pending sources, ascending. -/
def icPendList (R : Region) : List Nat :=
  R.regs.flatMap (fun e =>
    match regIdx Reg.IC_PEND e.1 with
    | some (w, _) => ((List.range 32).filter (fun j => e.2.getLsbD j)).map (fun j => 32 * w + j)
    | none => [])

/-- The cell that the search of R214 finds for source `s`. -/
def icSearch (s p : Nat) (R : Region) : Option Nat :=
  let ptr := R.field (icCfg s) 22 16
  ((List.range 128).map (fun j => (ptr + j) % 128)).find? (fun i => icEligible i s p R)

/-- The source and cell that one cycle delivers. -/
def icChoice (R : Region) : Option (Nat × Nat) :=
  let l := (icPendList R).filter (fun s => !icActive s R && !icDelivered s R)
  ((List.range 15).flatMap (fun k => (l.filter (fun s => icPrio s R == 15 - k)).map (fun s => (s, 15 - k)))).findSome?
    (fun e => (icSearch e.1 e.2 R).map (fun i => (e.1, i)))

/-- HELD bit of a slot. -/
def setHeld (i p : Nat) (b : Bool) (R : Region) : Region := R.setBit (regAt Reg.IC_HELD i 0) p b

/-- Source `s` is delivered to cell `i` (R214). -/
def icDeliver (s i : Nat) (R : Region) : Region :=
  let p := icPrio s R
  let R := setHeld i p true (setIcSlot i p (some s) (setIcBit Reg.IC_PEND s false R))
  (R.setField (icCfg s) 31 25 i).setField (icCfg s) 22 16 ((i + 1) % 128)

/-- One cycle of delivery. -/
def icCycle (R : Region) : Region :=
  match icChoice R with
  | some (s, i) => icDeliver s i R
  | none => R

/-- A source whose target is no longer eligible returns to pending (R215). -/
def icRecall (i p : Nat) (R : Region) : Region :=
  match icSlot i p R with
  | none => R
  | some s =>
    if icTarget i s p R then R
    else setIcBit Reg.IC_PEND s true (setHeld i p false (setIcSlot i p none R))

/-- Cell `i` takes the source of its slot `p` (R216). -/
def icTake (i p : Nat) (R : Region) : Region :=
  match icSlot i p R with
  | none => R
  | some s => setIcBit Reg.IC_ACT s true (setHeld i p false (setIcSlot i p none R))

/-- The occupied slot of highest level of cell `i` that a mask level admits (R184). -/
def icAdmitted (i ml : Nat) (R : Region) : Option (Nat × Nat) :=
  ((List.range 15).map (fun k => 15 - k)).findSome? (fun p =>
    if p > ml then (icSlot i p R).map (fun s => (p, s)) else none)

/-! ## Doorbell generator (R212) -/

/-- Inserts in an ascending list without repeats. -/
def addBit (n : Nat) : List Nat → List Nat
  | [] => [n]
  | m :: l => if n < m then n :: m :: l else if n = m then m :: l else m :: addBit n l

/-- A request bit is set; a bit already set at the edge counts a merge. -/
def dbRequest (s : Nat) (R : Region) : Region :=
  if R.ev.req.contains s then R.count Reg.EV_DBMERGE.base
  else { R with ev := { R.ev with req := addBit s R.ev.req } }

/-- Request bits reach RCLK and set post bits; one whose post bit is set is merged. (DESIGN CHOICE, log 1) -/
def dbHand (R : Region) : Region :=
  let n := (R.ev.req.filter (fun s => R.ev.post.contains s)).length
  let R' := { R with ev := { R.ev with req := [], post := R.ev.req.foldl (fun l s => addBit s l) R.ev.post } }
  if n = 0 then R' else R'.count Reg.EV_DBMERGE.base n

/-- The controller accepts one set post bit in round-robin order. -/
def dbAccept (R : Region) : Region :=
  match (R.ev.post.filter (fun s => R.ev.postPtr ≤ s) ++ R.ev.post).head? with
  | none => R
  | some s =>
    icPost s { R with ev := { R.ev with post := R.ev.post.filter (fun k => k != s), postPtr := (s + 1) % 1024 } }

/-! ## The register interface (R220) -/

/-- A write to a controller register; CELL and PTR of a source are not writable. -/
def icWrite (a : Nat) (v : Word) (plain : Region → Region) (R : Region) : Region :=
  if a = Reg.IC_DOORBELL.base then icPost (bitsOf v 11 0) R
  else if a = Reg.IC_EOI.base then icEoi (bitsOf v 11 0) R
  else
    match regIdx Reg.IC_LINE a with
    | some (w, _) => if w < 32 then R else plain R
    | none => plain R

/-- A read of a controller register: the lines of peripheral sources are live. -/
def icRead (a : Nat) (R : Region) : Word :=
  match regIdx Reg.IC_LINE a with
  | some (w, _) =>
    if w < 32 then BitVec.ofNat 32 (foldN 32 (fun j n => n + (icLine (32 * w + j) R).toNat * 2 ^ j) 0) else R.reg a
  | none => R.reg a

end Sys2Proof.Machine
end

