-- ==== Sys2Proof/Machine/Dma.lean ====
section
/-!
DEFINITION. The DMA engine as a unit: descriptors, shuffles, requests, start and abort (R341 to R353).
-/

namespace Sys2Proof.Machine

def Region.dmaCh (R : Region) (c : Nat) : Dma := mapGet (fun _ => dmaInit) R.dma c
def Region.setDma (R : Region) (c : Nat) (d : Dma) : Region := { R with dma := mapSet (fun _ => dmaInit) R.dma c d }

def dmCfg (c : Nat) : Nat := regAt Reg.DM_CH_CFG c 0
def dmStat (c : Nat) : Nat := regAt Reg.DM_CH_STAT c 0
def dmRun (c : Nat) (R : Region) : Bool := R.bit (dmStat c) 31
def dmPermit (c : Nat) (R : Region) : Bool := R.bit (dmStat c) 30
def dmAborting (c : Nat) (R : Region) : Bool := R.bit (dmStat c) 29
def dmMode (c : Nat) (R : Region) : Nat := match R.field (dmCfg c) 9 8 with | 3 => 0 | m => m

/-- The level line that LSRC names (R347). -/
def dmLine (c : Nat) (R : Region) : Bool :=
  let l := R.field (dmCfg c) 6 0
  if l < 64 then !(R.capFifo l).isEmpty
  else if l < 96 then pinRequest (l - 64) R
  else icLine (0x400 + l - 96) R

/-- A DMA request task; one at the edge of an ABORT is discarded (R347, R352). -/
def dmaRequest (c : Nat) (R : Region) : Region :=
  if dmMode c R = 1 ∧ !(R.dmaCh c).abortNow then
    if dmPermit c R then R.count (regAt Reg.DM_CH_OVR c 0) else R.setBit (dmStat c) 30 true
  else R

/-- GO: a stopped channel starts the chain at DESC (R352, R353). -/
def dmaStart (c : Nat) (R : Region) : Region :=
  if dmRun c R then R
  else
    let R := (R.setReg (regAt Reg.DM_CH_CUR c 0) (R.reg (regAt Reg.DM_CH_DESC c 0))).setBit (dmStat c) 31 true
    R.setDma c { dmaInit with phase := .fetch }

/-- ABORT: a running channel issues no further read (R351). -/
def dmaStop (c : Nat) (R : Region) : Region :=
  let R := R.setDma c { R.dmaCh c with abortNow := true }
  if dmRun c R then R.setBit (dmStat c) 29 true else R

/-- A write of DM_CHc_CTL: GO and ABORT together abort, or leave a stopped channel stopped (R352). -/
def dmaCtl (c : Nat) (v : Word) (R : Region) : Region :=
  if v.getLsbD 1 then dmaStop c R else if v.getLsbD 0 then dmaStart c R else R

/-! ## Descriptors (R343 to R346) -/

/-- Field of word `w` of the channel's descriptor. -/
def dField (d : Dma) (w hi lo : Nat) : Nat := bitsOf (d.desc.getD w 0) hi lo

def dType (d : Dma) : Nat := dField d 0 31 30
def dShuf (d : Dma) : Nat := dField d 0 29 27
def dStreams (d : Dma) : Nat := dField d 0 26 23 + 1
def dElem (d : Dma) : Nat := dField d 0 22 17 + 1
def dBurst (d : Dma) : Nat := 32 * 2 ^ dField d 0 15 14
def dSfix (d : Dma) : Bool := dField d 0 13 13 == 1
def dDfix (d : Dma) : Bool := dField d 0 12 12 == 1
def dSrc (d : Dma) : Nat := (d.desc.getD 1 0).toNat
def dDst (d : Dma) : Nat := (d.desc.getD 2 0).toNat
def dRowLen (d : Dma) : Nat := dField d 3 15 0

/-- T, the bytes of the transfer (R344). -/
def dTotal (d : Dma) : Nat :=
  match dType d with
  | 0 => dField d 3 23 0
  | 1 => dField d 3 31 16 * dRowLen d
  | _ => dField d 3 23 0 * dElem d

/-- Bits that must be zero are zero (R343). -/
def dZeros (d : Dma) : Bool :=
  dField d 0 16 16 == 0 && dField d 0 9 0 == 0
    && (dType d == 1 || dField d 3 31 24 == 0)
    && (dType d != 0 || dField d 4 31 0 == 0) && (dType d == 1 || dField d 5 31 0 == 0)
    && dField d 6 31 20 == 0 && dField d 6 4 0 == 0 && dField d 7 26 24 == 0

/-- The descriptor is in error (R346). -/
def dError (d : Dma) : Bool :=
  let t := dTotal d
  let s := dShuf d
  !dZeros d || decide (s ≥ 5)
    || (s != 0 && (dType d != 0 || dSfix d || dDfix d))
    || ((s == 1 || s == 2) && (dStreams d == 1 || t % (dStreams d * dElem d) != 0))
    || (s == 3 && t % 8 != 0) || (s == 4 && t % 128 != 0)
    || ((dSfix d || dDfix d) && (dSrc d % 4 != 0 || dDst d % 4 != 0 || t % 4 != 0))
    || decide (t > 16777215)

/-- Signed stride word as an integer. -/
def dStride (d : Dma) (w : Nat) : Int := (d.desc.getD w 0).toInt

/-- An address modulo 2^32. -/
def wrap32 (x : Int) : Nat := (x % 4294967296).toNat

/-- Source address of transfer byte `m`; `idx` gives the index words (R344). -/
def dSrcAt (d : Dma) (idx : Nat → Nat) (m : Nat) : Nat :=
  if dSfix d then dSrc d + m % 4
  else
    match dType d with
    | 1 => wrap32 (dSrc d + (m / dRowLen d : Nat) * dStride d 4 + (m % dRowLen d : Nat))
    | 2 => (dSrc d + idx (m / dElem d) + m % dElem d) % 2 ^ 32
    | _ => (dSrc d + m) % 2 ^ 32

/-- Destination offset of transfer byte `m` under the interleaves of R345. -/
def dShuffled (d : Dma) (m : Nat) : Nat :=
  let e := m / dElem d
  let k := dTotal d / (dStreams d * dElem d)
  match dShuf d with
  | 1 => (e % k * dStreams d + e / k) * dElem d + m % dElem d
  | 2 => (e % dStreams d * k + e / dStreams d) * dElem d + m % dElem d
  | _ => m

/-- Destination address of transfer byte `m`. -/
def dDstAt (d : Dma) (idx : Nat → Nat) (m : Nat) : Nat :=
  if dDfix d then dDst d + m % 4
  else
    match dType d with
    | 1 => wrap32 (dDst d + (m / dRowLen d : Nat) * dStride d 5 + (m % dRowLen d : Nat))
    | 3 => (dDst d + idx (m / dElem d) + m % dElem d) % 2 ^ 32
    | _ => (dDst d + dShuffled d m) % 2 ^ 32

/-- Length of the burst that starts at transfer byte `m`: one contiguous read that crosses no multiple of BURST. -/
def dBurstLen (d : Dma) (idx : Nat → Nat) (m : Nat) : Nat :=
  let run :=
    match dType d with
    | 1 => dRowLen d - m % dRowLen d
    | 2 => dElem d - m % dElem d
    | _ => dTotal d - m
  let a := dSrcAt d idx m
  let lim := if dSfix d then dBurst d else dBurst d - a % dBurst d
  min lim (min run (dTotal d - m))

/-- Bytes of a transpose group; 1 without one. -/
def dGroup (d : Dma) : Nat := match dShuf d with | 3 => 8 | 4 => 128 | _ => 1

/-- Bit `i` of output unit `j` is bit `j` of input unit `i`, for units of `n` bits (R345). -/
def transpose (n : Nat) (xs : List Nat) : List Nat :=
  (List.range n).map (fun j => (List.range n).foldl (fun s i => s + (xs.getD i 0 >>> j % 2) * 2 ^ i) 0)

/-- The little-endian words of a list of bytes. -/
def wordsOf : List Byte → List Nat
  | a :: b :: c :: d :: l => leNat [a, b, c, d] :: wordsOf l
  | _ => []

/-- Output bytes of one transpose group. -/
def dTranspose (d : Dma) (g : List Byte) : List Byte :=
  match dShuf d with
  | 3 => (transpose 8 (g.map BitVec.toNat)).map (fun v => BitVec.ofNat 8 v)
  | 4 => (transpose 32 (wordsOf g)).flatMap (fun v => leBytes 4 v)
  | _ => g

/-- Output bytes of `k` whole groups. -/
def dGroups (d : Dma) : Nat → List Byte → List Byte
  | 0, _ => []
  | k + 1, l => dTranspose d (l.take (dGroup d)) ++ dGroups d k (l.drop (dGroup d))

/-- Bytes of the shared buffer in use by one channel, the bytes of an incomplete transpose group among them, and by all
(R342, R353). -/
def dmChUsed (c : Nat) (R : Region) : Nat :=
  ((R.dmaCh c).bursts.map (·.len)).foldl (· + ·) (R.dmaCh c).carry.length
def dmUsed (R : Region) : Nat := foldN 16 (fun c n => n + dmChUsed c R) 0

/-- Bursts in flight, one tag each (R342). (DESIGN CHOICE, log 54) -/
def dmTags (R : Region) : Nat := foldN 16 (fun c n => n + (R.dmaCh c).bursts.length) 0

/-- Tags the DMA engine may hold (R34). -/
def dmLimit (R : Region) : Nat := max 64 (min 1024 (R.field Reg.RG_TAGCFG.base 22 12))

/-- Shared tags lent to cells and to the DMA engine (R33, R34). (DESIGN CHOICE, log 54) -/
def sharedLent (R : Region) : Nat :=
  foldN 128 (fun i n => n + ((R.cell i).tags - 32)) (dmTags R - 64)

/-- Shared tags not lent. (DESIGN CHOICE, log 54) -/
def sharedFree (R : Region) : Nat := 12192 - sharedLent R

/-- The DMA engine obtains one more tag: within its limit, a guaranteed one or a shared one (R34, R36). -/
def dmTagFree (R : Region) : Bool :=
  decide (dmTags R < dmLimit R) && (decide (dmTags R < 64) || decide (0 < sharedFree R))

/-- A read of `n` bytes may issue for a channel: a tag, buffer space, and fewer than 16 bursts (R342, R351). -/
def dmRoom (c n : Nat) (R : Region) : Bool :=
  dmTagFree R && decide (dmChUsed c R + n ≤ 4096) && decide (dmUsed R + n ≤ 16384)
    && decide ((R.dmaCh c).bursts.length < 16)

/-- The request mode of a channel lets a burst start (R347). -/
def dmPaced (c : Nat) (R : Region) : Bool :=
  match dmMode c R with | 1 => dmPermit c R | 2 => dmLine c R | _ => true

/-- A channel may issue a burst of `n` bytes: a request, buffer space and a tag allow it (R342, R347). -/
def dmReady (c n : Nat) (R : Region) : Bool := dmPaced c R && dmRoom c n R

/-- A PCLK edge at the DMA engine: the level line of a channel that it paces is seen low by the bursts in flight (R348).
(DESIGN CHOICE, log 57) -/
def dmTick (R : Region) : Region :=
  foldN 16 (fun c R =>
    let d := R.dmaCh c
    let low := dmMode c R == 2 && !dmLine c R
    R.setDma c { d with bursts := d.bursts.map (fun b => { b with wdr := b.wdr || low }), abortNow := false }) R

/-! ## The register interface (R353) -/

/-- A write to a DMA register. -/
def dmWrite (a : Nat) (v : Word) (plain : Region → Region) (R : Region) : Region :=
  match regIdx Reg.DM_CH_CTL a with
  | some (c, _) => dmaCtl c v R
  | none => plain R

/-- A read of a DMA register. -/
def dmRead (a : Nat) (R : Region) : Word :=
  match regIdx Reg.DM_CH_STAT a with
  | some (c, _) => Machine.setBit (R.reg a) 28 (dmMode c R == 2 && dmLine c R)
  | none =>
  match regIdx Reg.DM_CH_RESID a with
  | some (c, _) => BitVec.ofNat 32 (if dmRun c R then (dTotal (R.dmaCh c) - (R.dmaCh c).written) % 2 ^ 24 else (R.reg a).toNat)
  | none => if a = Reg.DM_STAT.base then BitVec.ofNat 32 (dmUsed R) else R.reg a

end Sys2Proof.Machine
end

