-- ==== Sys2Proof/Machine/Feedback.lean ====
section
/-!
DEFINITION. Position and speed feedback (R307 to R325).
-/

namespace Sys2Proof.Machine

def fbInit : Feedback := ⟨[], none, none, none, [], false, false, false, none, none⟩
def Region.fbUnit (R : Region) (u : Nat) : Feedback := mapGet (fun _ => fbInit) R.fb u
def Region.setFb (R : Region) (u : Nat) (f : Feedback) : Region := { R with fb := mapSet (fun _ => fbInit) R.fb u f }

def fbAt (d : RegDef) (u : Nat) : Nat := regAt d u 0
def fbMode (u : Nat) (R : Region) : Nat := match R.field (fbAt Reg.FB_UN_CFG u) 1 0 with | 3 => 0 | m => m
def fbWide (u : Nat) : Bool := decide (6 ≤ u)

/-- The position: 32 bits in a narrow unit, 64 in a wide one. -/
def fbPos (u : Nat) (R : Region) : BitVec 64 := R.pairVal (fbAt Reg.FB_UN_POS_L u) (fbAt Reg.FB_UN_POS_H u)

/-- Writes a position value, its upper half only in a wide unit. -/
def fbPut (u : Nat) (lo hi : RegDef) (v : BitVec 64) (R : Region) : Region :=
  let R := R.setReg (fbAt lo u) (v.truncate 32)
  if fbWide u then R.setReg (fbAt hi u) ((v >>> 32).truncate 32) else R

def fbSetPos (u : Nat) (v : BitVec 64) (R : Region) : Region := fbPut u Reg.FB_UN_POS_L Reg.FB_UN_POS_H v R

/-- Hall sector of the levels (U bit 0, V bit 1, W bit 2); none when invalid (R310). -/
def hallSector : Nat → Option Nat
  | 1 => some 0
  | 3 => some 1
  | 2 => some 2
  | 6 => some 3
  | 4 => some 4
  | 5 => some 5
  | _ => none

/-- Place of (A bit 0, B bit 1) in the quadrature sequence 00, 10, 11, 01 (R311). -/
def quadPlace : Nat → Nat
  | 0 => 0
  | 1 => 1
  | 3 => 2
  | _ => 3

/-- What a change of lines is (R310 to R313). -/
inductive FbChange where
  /-- A valid edge, forward or not. -/
  | valid (fwd : Bool)
  /-- An illegal change with its LASTILL. -/
  | illegal (code : Nat)
  /-- A resynchronisation. -/
  | resync
  /-- No change of the decoded lines. -/
  | nothing
deriving DecidableEq, Repr

/-- Number of lines that differ, of the low `n`. -/
def linesDiffer (n a b : Nat) : Nat := ((List.range n).filter (fun i => a.testBit i != b.testBit i)).length

/-- Decides a change from levels `o` to `w` in mode `m`. (DEDUCED, log 31) -/
def fbDecide (m o w : Nat) : FbChange :=
  match m with
  | 1 =>
    if o = w then .nothing
    else
      match hallSector o, hallSector w with
      | none, none => .illegal (if w = 0 then 2 else 3)
      | none, some _ => .resync
      | some a, some b => if linesDiffer 3 o w = 1 then .valid (b == (a + 1) % 6) else .illegal 1
      | some _, none => if linesDiffer 3 o w = 1 then .illegal (if w = 0 then 2 else 3) else .illegal 1
  | 2 =>
    match linesDiffer 2 o w with
    | 0 => .nothing
    | 1 => .valid (quadPlace (w % 4) == (quadPlace (o % 4) + 1) % 4)
    | _ => .illegal 1
  | _ => .nothing

/-- A timeout of the edge gives way to a valid edge (R316, R324). -/
def fbUnstop (u : Nat) (R : Region) : Region :=
  let f := R.fbUnit u
  match f.stopped with
  | none => R
  | some (hist, per, n) =>
    ((R.setFb u { f with hist := hist, stopped := none }).setReg (fbAt Reg.FB_UN_PERIOD u) per).setField
      (fbAt Reg.FB_UN_STAT u) 14 12 n

/-- A valid edge at the last PCLK edge of `x`: position, history, timing and event (R312, R314, R315). -/
def fbValid (x : Ctx) (u : Nat) (fwd : Bool) (R : Region) : Region :=
  let cfg := R.reg (fbAt Reg.FB_UN_CFG u)
  let st := fbAt Reg.FB_UN_STAT u
  let up := fwd != cfg.getLsbD 2
  let R := fbSetPos u (if up then fbPos u R + 1 else fbPos u R - 1) R
  let R := R.setBit st 4 (!up)
  let R := fbUnstop u R
  let f := R.fbUnit u
  let inst := x.time.pclk - bitsOf cfg 15 8
  let rev := match f.lastFwd with | some d => d != fwd | none => false
  let hist := if rev then [inst] else (inst :: f.hist).take 7
  let R := R.setFb u { f with hist := hist, lastFwd := some fwd, lastEdge := some inst, edge := true }
  let R := R.setBit st 5 rev
  let n := match bitsOf cfg 6 4 with | 0 => 1 | 7 => 6 | n => n
  let k := min (hist.length - 1) n
  let R := if 1 ≤ k then
      (R.setField st 14 12 k).setReg (fbAt Reg.FB_UN_PERIOD u) (BitVec.ofNat 32 (min 0xFFFFFFFF (inst - hist.getD k inst)))
    else R
  let stamp := x.gtAtHalf (-2 * (bitsOf cfg 15 8 : Int))
  (R.setPair (fbAt Reg.FB_UN_LEDGE_L u) (fbAt Reg.FB_UN_LEDGE_H u) stamp).raiseNext (0x0B8 + u)

/-- BEHIND of a compare value `v` against the position (R321). -/
def fbBehind (u : Nat) (v : Word) (R : Region) : Bool :=
  decide ((v - (fbPos u R).truncate 32 : Word).toInt * (if R.bit (fbAt Reg.FB_UN_STAT u) 4 then -1 else 1) ≤ 0)

/-- A valid edge arrives at CMP as it stood before the edge: hit, count and the next compare, which a CMP written at the
edge replaces (R319, R324). A position written at the edge makes no hit (R318). -/
def fbHit (u : Nat) (R : Region) : Region :=
  let f := R.fbUnit u
  let a := fbAt Reg.FB_UN_CMP u
  let cmp := f.cmpOld.getD (R.reg a)
  let R :=
    if !f.posW && (fbPos u R).truncate 32 == cmp then
      let sp := R.reg (fbAt Reg.FB_UN_CMPSP u)
      let R := (R.raiseNext (0x0C0 + u)).count (fbAt Reg.FB_UN_HITS u)
      if f.cmpOld.isSome then R
      else R.setReg a (if R.bit (fbAt Reg.FB_UN_STAT u) 4 then cmp - sp else cmp + sp)
    else R
  if f.cmpOld.isSome then R.setBit (fbAt Reg.FB_UN_STAT u) 8 (fbBehind u (R.reg a) R) else R

/-- The timing history restarts with no instant held (R315). -/
def fbForget (u : Nat) (R : Region) : Region := R.setFb u { R.fbUnit u with hist := [] }

/-- PERIOD and NAVG become 0. -/
def fbStop (u : Nat) (R : Region) : Region :=
  (R.setReg (fbAt Reg.FB_UN_PERIOD u) 0).setField (fbAt Reg.FB_UN_STAT u) 14 12 0

/-- A Z edge loads the position (R317). -/
def zLoads (u : Nat) (R : Region) : Bool :=
  match R.field (fbAt Reg.FB_UN_CFG u) 17 16 with
  | 2 => true
  | 3 => !R.bit (fbAt Reg.FB_UN_STAT u) 9
  | _ => false

/-- Action of a Z edge (R317). -/
def fbZ (u : Nat) (R : Region) : Region :=
  let zm := R.field (fbAt Reg.FB_UN_CFG u) 17 16
  if zm = 0 then R
  else
    let load := zLoads u R
    let R := fbPut u Reg.FB_UN_ZPOS_L Reg.FB_UN_ZPOS_H (fbPos u R) R
    if load then
      let R := fbSetPos u ((R.reg (fbAt Reg.FB_UN_ZLOAD u)).signExtend 64) R
      if zm = 3 then R.setBit (fbAt Reg.FB_UN_STAT u) 9 true else R
    else R

/-- The change of lines `o` to `w` makes a counted Z edge. -/
def isZ (u o w : Nat) (R : Region) : Bool :=
  fbMode u R == 2 && !o.testBit 2 && w.testBit 2
    && (!R.bit (fbAt Reg.FB_UN_CFG u) 18 || (w.testBit 0 && w.testBit 1))

/-- SECTOR by the levels and mode. -/
def fbSector (u w : Nat) (R : Region) : Nat := if fbMode u R = 1 then (hallSector w).getD 7 else 7

/-- The filtered lines of unit `u` become `w` at the decision edge, the last of `x` (R309 to R320). (DEDUCED, log 31) -/
def fbChange (x : Ctx) (u w : Nat) (R : Region) : Region :=
  let st := fbAt Reg.FB_UN_STAT u
  let o := R.field st 18 16
  if o = w then R
  else
    let ch := fbDecide (fbMode u R) o w
    let z := isZ u o w R
    let R := (R.setField st 18 16 w).setField st 2 0 (fbSector u w R)
    -- a write of CFG at the edge: the decoder takes the levels as its state (R324)
    if (R.fbUnit u).cfgW then R else
    let R := match ch with
      | .valid fwd =>
        let R := fbValid x u fwd R
        if z && zLoads u R then R else fbHit u R
      | .illegal c => fbForget u (((R.count (fbAt Reg.FB_UN_ILL u)).setField st 11 10 c).raiseNext (0x0C8 + u))
      | .resync => fbForget u R
      | .nothing => R
    if z then fbZ u R else R

/-- AGE as read (R316). (DEDUCED, log 31) -/
def fbAge (x : Ctx) (u : Nat) (R : Region) : Word :=
  match (R.fbUnit u).lastEdge with
  | some e => BitVec.ofNat 32 (min 0xFFFFFFFF (x.time.pclk - e))
  | none => 0

/-- AGE has reached TIMEOUT at the last PCLK edge of `x`, with no valid edge at it (R315, R316). (DEDUCED, log 31) -/
def fbTimedOut (x : Ctx) (u : Nat) (R : Region) : Bool :=
  let t := R.reg (fbAt Reg.FB_UN_TIMEOUT u)
  let f := R.fbUnit u
  t != 0 && f.lastEdge.isSome && !f.edge && decide (t.toNat ≤ (fbAge x u R).toNat)

/-- The timeout: the history restarts and PERIOD and NAVG become 0 (R315). -/
def fbTimeout (x : Ctx) (u : Nat) (R : Region) : Region :=
  if fbTimedOut x u R then
    let f := R.fbUnit u
    let was := (f.hist, R.reg (fbAt Reg.FB_UN_PERIOD u), R.field (fbAt Reg.FB_UN_STAT u) 14 12)
    fbStop u (R.setFb u { f with hist := [], stopped := f.stopped <|> some was })
  else R

/-- The PCLK edge is over for unit `u`. -/
def fbEdgeOver (u : Nat) (R : Region) : Region :=
  R.setFb u { R.fbUnit u with edge := false, posW := false, cfgW := false, cmpOld := none, stopped := none }

/-- Lines of unit `u`. -/
def Region.fbLine (R : Region) (u i : Nat) : Line := mapGet (fun _ => ⟨false, 0⟩) (R.fbUnit u).line i

/-- The synchronised lines of unit `u` show `w` at PCLK edge `e` (R308). -/
def fbShow (e u w : Nat) (R : Region) : Region :=
  foldN 3 (fun i R =>
    let f := R.fbUnit u
    R.setFb u { f with line := mapSet (fun _ => ⟨false, 0⟩) f.line i ((R.fbLine u i).show (w.testBit i) e) }) R

/-- The filtered lines of unit `u` at the last PCLK edge of `x`: each takes a level that it has shown long enough
(R308).
-/
def fbFiltered (x : Ctx) (u : Nat) (R : Region) : Nat :=
  let o := R.field (fbAt Reg.FB_UN_STAT u) 18 16
  let filt := R.field (fbAt Reg.FB_UN_CFG u) 15 8
  foldN 3 (fun i n =>
    let l := R.fbLine u i
    n + (if l.passed filt x.time.pclk then l.sync else o.testBit i).toNat * 2 ^ i) 0

/-- The filtered lines are decoded at the last PCLK edge of `x` (R309). Of a second change for one edge the writes of
that edge have been met already. (DESIGN CHOICE, log 57) -/
def fbDecideAt (x : Ctx) (u : Nat) (R : Region) : Region :=
  fbChange x u (fbFiltered x u R) (if (R.fbUnit u).edge then fbEdgeOver u R else R)

/-- A PCLK edge at every unit, the last one of `x`: changes of lines, timeouts that no valid edge forestalls (R309,
R316). -/
def fbTick (x : Ctx) (R : Region) : Region := foldN 8 (fun u R => fbTimeout x u (fbDecideAt x u R)) R

/-- The edge is over at every unit. -/
def fbOver (R : Region) : Region := foldN 8 fbEdgeOver R

/-- A write of POS_L or POS_H (R318). -/
def fbPosWrite (u : Nat) (hi : Bool) (v : Word) (R : Region) : Region :=
  let f := R.fbUnit u
  if fbWide u then
    if hi then fbSetPos u (v ++ f.posHeld.getD ((fbPos u R).truncate 32)) 
      (R.setFb u { f with posHeld := none, posW := true })
    else R.setFb u { f with posHeld := some v }
  else if hi then R else (R.setFb u { f with posW := true }).setReg (fbAt Reg.FB_UN_POS_L u) v

/-- A write of CMP sets BEHIND (R321). -/
def fbCmpWrite (u : Nat) (v : Word) (R : Region) : Region :=
  let a := fbAt Reg.FB_UN_CMP u
  let f := R.fbUnit u
  let R := (R.setFb u { f with cmpOld := f.cmpOld <|> some (R.reg a) }).setReg a v
  R.setBit (fbAt Reg.FB_UN_STAT u) 8 (fbBehind u v R)

/-- A write of CFG (R315, R317, R324). -/
def fbCfgWrite (u : Nat) (plain : Region → Region) (R : Region) : Region :=
  let a := fbAt Reg.FB_UN_CFG u
  let st := fbAt Reg.FB_UN_STAT u
  let old := bitsOf (R.reg a) 2 0
  let R := (plain R).setBit st 9 false
  let R := R.setFb u { R.fbUnit u with cfgW := true }
  if bitsOf (R.reg a) 2 0 = old then R
  else (fbStop u (fbForget u R)).setField st 2 0 (fbSector u (R.field st 18 16) R)

/-- STAT as read: ILLF and STOPPED are live. (DEDUCED, log 31) -/
def fbStat (u : Nat) (R : Region) : Word :=
  let s := R.reg (fbAt Reg.FB_UN_STAT u)
  setBit (setBit s 7 (R.reg (fbAt Reg.FB_UN_ILL u) != 0)) 6 (bitsOf s 14 12 == 0)

/-- Task 0x018 + u: the latch (R322). -/
def fbLatch (x : Ctx) (u : Nat) (R : Region) : Region :=
  let R := fbPut u Reg.FB_UN_LPOS_L Reg.FB_UN_LPOS_H (fbPos u R) R
  let R := R.count (fbAt Reg.FB_UN_LCNT u)
  if fbWide u then
    let s := fbStat u R
    let R := R.setPair (fbAt Reg.FB_UN_LGT_L u) (fbAt Reg.FB_UN_LGT_H u) x.gt
    let R := R.setPair (fbAt Reg.FB_UN_LEDGEL_L u) (fbAt Reg.FB_UN_LEDGEL_H u)
      (R.pairVal (fbAt Reg.FB_UN_LEDGE_L u) (fbAt Reg.FB_UN_LEDGE_H u))
    let R := R.setReg (fbAt Reg.FB_UN_LPER u) (R.reg (fbAt Reg.FB_UN_PERIOD u))
    R.setReg (fbAt Reg.FB_UN_LSTAT u)
      (BitVec.ofNat 32 ((s.getLsbD 4).toNat + 2 * (s.getLsbD 6).toNat + 16 * bitsOf s 14 12))
  else R

/-- Registers that only wide units have (R325). -/
def fbWideOnly (a : Nat) : Bool :=
  [Reg.FB_UN_POS_H, Reg.FB_UN_ZPOS_H, Reg.FB_UN_SNAP_H, Reg.FB_UN_LPOS_H, Reg.FB_UN_LGT_L, Reg.FB_UN_LGT_H,
    Reg.FB_UN_LEDGEL_L, Reg.FB_UN_LEDGEL_H, Reg.FB_UN_LPER, Reg.FB_UN_LSTAT].any (fun d => (regIdx d a).isSome)

/-- The offset names a register of its unit: wide-only ones exist in units 6 and 7. -/
def fbNamed (a : Nat) : Bool := !(fbWideOnly a && decide ((a - Reg.FB_UN_CFG.base) / 0x80 < 6))

/-- A write to a feedback register. -/
def fbWrite (a : Nat) (v : Word) (plain : Region → Region) (R : Region) : Region :=
  match regIdx Reg.FB_UN_CFG a with
  | some (u, _) => fbCfgWrite u plain R
  | none =>
  match regIdx Reg.FB_UN_POS_L a with
  | some (u, _) => fbPosWrite u false v R
  | none =>
  match regIdx Reg.FB_UN_POS_H a with
  | some (u, _) => fbPosWrite u true v R
  | none =>
  match regIdx Reg.FB_UN_CMP a with
  | some (u, _) => fbCmpWrite u v R
  | none => plain R

/-- A read of a feedback register. -/
def fbRead (x : Ctx) (a : Nat) (R : Region) : Word :=
  match regIdx Reg.FB_UN_STAT a with
  | some (u, _) => fbStat u R
  | none =>
  match regIdx Reg.FB_UN_AGE a with
  | some (u, _) => fbAge x u R
  | none => R.reg a

end Sys2Proof.Machine
end

