-- ==== Sys2Proof/Machine/Events.lean ====
section
/-!
DEFINITION. Event fabric: channels, forks, task inputs, merges and chip-wide channels (R191 to R210).
-/

namespace Sys2Proof.Machine

/-- Task input `t` acts on a trigger with stamp `stamp` (R200). -/
def taskAct (x : Ctx) (t : Nat) (stamp : Ticks) (R : Region) : Region :=
  if t = 0 then R
  else if t ≤ 0x008 then sgTrigger x (t - 1) R
  else if t = 0x009 then injTask R
  else if t < 0x010 then R
  else if t ≤ 0x017 then pgStart x.time.pclk (t - 0x010) R
  else if t ≤ 0x01F then fbLatch x (t - 0x018) R
  else if t ≤ 0x02F then dmaRequest (t - 0x020) R
  else if t ≤ 0x047 then
    let k := t - 0x030
    if R.bit (regAt Reg.TM_PAIR_CFG k 0) 13 then tripPair k 6 true R else R
  else if t < 0x050 then R
  else if t ≤ 0x07F then tmAct 0 (t - 0x050) reqForce R
  else if t ≤ 0x0BF then tmAct 0 (t - 0x080) reqStart R
  else if t ≤ 0x0FF then tmAct 0 (t - 0x0C0) reqStop R
  else if t ≤ 0x13F then tmAct 0 (t - 0x100) reqReload R
  else if t ≤ 0x17F then captureAsk (t - 0x140) R
  else { R with ev := { R.ev with crossing := R.ev.crossing ++ [⟨t, stamp⟩] } }

/-- A task number that names a task input (R196, R200). -/
def taskNamed (t : Nat) : Bool :=
  t != 0 && !(decide (0x00A ≤ t ∧ t ≤ 0x00F) || decide (0x048 ≤ t ∧ t ≤ 0x04F)) && decide (t ≤ 0x3FF)

/-- The channels that are enabled, ascending: only a listed register can be. -/
def evEnabled (R : Region) : List Nat :=
  R.regs.filterMap (fun e =>
    match regIdx Reg.EV_CH_CFG e.1 with
    | some (n, _) => if e.2.getLsbD 31 then some n else none
    | none => none)

def evSrc (n : Nat) (R : Region) : Nat := R.field (regAt Reg.EV_CH_CFG n 0) 9 0

/-- The task inputs that the fork list of channel `n` names, each once (R196). -/
def evForks (n : Nat) (R : Region) : List Nat :=
  ((List.range 4).flatMap (fun k =>
    let v := R.reg (regAt Reg.EV_CH_FORK n k)
    (if v.getLsbD 15 then [bitsOf v 9 0] else []) ++ (if v.getLsbD 31 then [bitsOf v 25 16] else []))).filter
      taskNamed |>.eraseDups

/-- The number under which a software fire of channel `n` is presented (R198): beyond the source numbers. -/
def fireSource (n : Nat) : Nat := 0x400 + n

/-- The arrival at channel `n` among the pulses and fires of one edge, if any: its stamp (R195). -/
def evArrival (pulses : List Pulse) (n : Nat) (R : Region) : Option Ticks :=
  match pulses.find? (fun p => p.src == evSrc n R && p.src != 0) with
  | some p => some p.stamp
  | none => (pulses.find? (fun p => p.src == fireSource n)).map Pulse.stamp

/-- The channel accepts an arrival at source edge `s` (R195). -/
def evAccepts (s n : Nat) (R : Region) : Bool :=
  let m := R.field (regAt Reg.EV_CH_MININT n 0) 15 0
  match mapGet noneAt R.ev.lastAcc n with
  | none => true
  | some a => m == 0 || decide (a + m ≤ s)

/-- Chip-wide channels whose origin is channel `n` of region `r` (R206). -/
def xevOf (x : Ctx) (n : Nat) : List Nat :=
  (List.range 16).filter (fun c =>
    let v := mapGet chipDefault x.chip (regAt Reg.CH_XEV_CFG c 0)
    v.getLsbD 31 && bitsOf v 10 8 == x.r && bitsOf v 7 0 == n)

/-- An arrival with stamp `st` and source edge `e` at channel `n`: dropped, or accepted, its tasks and its doorbell
request to act at the next edge; an accepted one leaves on the chip-wide channels that carry it (R193 to R195, R206).
-/
def evAccept (x : Ctx) (e n : Nat) (st : Ticks) (R : Region) : Region :=
  if evAccepts e n R then
    let R := R.setReg (regAt Reg.EV_CH_LASTGT n 0) (st.truncate 32)
    { R with ev := { R.ev with
      lastAcc := mapSet noneAt R.ev.lastAcc n (some e)
      accepted := R.ev.accepted ++
        [⟨n, st, if R.bit (regAt Reg.EV_CH_CFG n 0) 30 then some (evSrc n R) else none⟩]
      xout := R.ev.xout ++ (xevOf x n).map (fun c => ⟨c, st, x.time.pclk⟩) } }
  else R.count (regAt Reg.EV_CH_DROP n 0)

/-- The pulses and fires of source edge `e` at every enabled channel (R193, R195). -/
def evEdge (x : Ctx) (e : Nat) (pulses : List Pulse) (R : Region) : Region :=
  (evEnabled R).foldl (fun R n =>
    match evArrival pulses n R with
    | none => R
    | some st => evAccept x e n st R) R

/-- Triggers gathered by task: the least stamp and the count (R197). -/
def addTrigger (t : Nat) (st : Ticks) : List (Nat × Ticks × Nat) → List (Nat × Ticks × Nat)
  | [] => [(t, st, 1)]
  | e :: l =>
    if e.1 = t then (t, if st.toNat < e.2.1.toNat then st else e.2.1, e.2.2 + 1) :: l else e :: addTrigger t st l

/-- Every trigger of the arrivals accepted at the edge before acts by the fork lists as they stand, merges counted, and
the doorbells are requested (R194, R196, R197). -/
def evActs (x : Ctx) (acc : List Accepted) (R : Region) : Region :=
  let trig := acc.foldl (fun l e => (evForks e.chan R).foldl (fun l t => addTrigger t e.stamp l) l) []
  let R := acc.foldl (fun R e => match e.db with | some s => dbRequest s R | none => R) R
  trig.foldl (fun R e =>
    taskAct x e.1 e.2.1 (if e.2.2 > 1 then R.count (regAt Reg.EV_TK e.1 0) (e.2.2 - 1) else R)) R

/-- A write of EV_FIRE (R198). -/
def evFire (x : Ctx) (ch : Nat) (R : Region) : Region := R.raiseAt (fireSource ch) x.gt

/-- The pulses of the first source edge: a source presents one pulse at an edge, and EV_FIRE is written once in one, so
a repeat belongs to the next edge. (DESIGN CHOICE, log 32) -/
def firstEdge (seen : List Nat) : List Pulse → List Pulse
  | [] => []
  | p :: l => if seen.contains (min p.src 0x400) then [] else p :: firstEdge (min p.src 0x400 :: seen) l

/-- A pulse that waits is presented at the present edge; a chip-wide one keeps its stamp (R191). -/
def Pulse.at (st : Ticks) (p : Pulse) : Pulse := if 1 ≤ p.src ∧ p.src ≤ 0x010 then p else { p with stamp := st }

/-- The fabric's part of a PCLK edge, `x` holding the time after it: the arrivals of the edge before are accepted or
dropped. What is left waits for the pulses of this edge. (DESIGN CHOICE, log 1, 32) -/
def evTick (x : Ctx) (R : Region) : Region :=
  let now := firstEdge [] R.ev.fabric
  let rest := R.ev.fabric.drop now.length
  evEdge x (x.time.pclk - 1) now { R with ev := { R.ev with fabric := rest.map (Pulse.at x.gt), accepted := [] } }

/-- The pulses of the present edge join the fabric, stamped with its GTIME (R191). -/
def evPresent (x : Ctx) (R : Region) : Region :=
  let due := (R.ev.sched.filter (fun e => decide (e.1 ≤ x.time.pclk))).map Prod.snd
  { R with ev := { R.ev with
    fabric := R.ev.fabric ++ (R.ev.coming ++ due).map (fun c => ⟨c, x.gt⟩)
    coming := []
    sched := R.ev.sched.filter (fun e => decide (x.time.pclk < e.1)) } }

/-- A trigger that has crossed to a cell is no longer on its way. -/
def evCrossed (t : Nat) (R : Region) : Region :=
  { R with ev := { R.ev with crossing := R.ev.crossing.eraseP (fun c => c.task == t) } }

/-! ## Cell event ports (R202 to R205) -/

/-- An event reaches port `p` of a cell (R203). -/
def portArrive (p : Nat) (stamp : Ticks) (k : Cell) : Cell :=
  if k.inReset then k
  else
    match mapGet noneAt k.ports p with
    | none => { k with ports := mapSet noneAt k.ports p (some stamp) }
    | some _ => k.countIo (regAt Reg.EPOVR p 0) 0xFFFF

/-- A consume of port `p`: the stamp is kept; none pending has no effect (R203, R204). -/
def portConsume (p : Nat) (k : Cell) : Cell :=
  match mapGet noneAt k.ports p with
  | none => k
  | some st =>
    ({ k with ports := mapSet noneAt k.ports p none }.setIo (regAt Reg.EPGT_L p 0) (st.truncate 32)).setIo
      (regAt Reg.EPGT_H p 0) ((st >>> 32).truncate 32)

/-- Port `p` holds an event. -/
def Cell.portPending (k : Cell) (p : Nat) : Bool := (mapGet noneAt k.ports p).isSome

/-- EPSTAT as read (R205). -/
def epStat (k : Cell) : Word :=
  BitVec.ofNat 32 (foldN 4 (fun p n => n + (k.portPending p).toNat * 2 ^ p
    + (k.ioReg (regAt Reg.EPOVR p 0) != 0).toNat * 2 ^ (4 + p)) 0)

/-! ## The register interface (R209) -/

/-- A write to an event register: EN rising forgets the last accepted arrival (R195). -/
def evWrite (x : Ctx) (a : Nat) (v : Word) (plain : Region → Region) (R : Region) : Region :=
  if a = Reg.EV_FIRE.base then evFire x (bitsOf v 7 0) R
  else
    match regIdx Reg.EV_CH_CFG a with
    | some (n, _) =>
      let was := R.bit a 31
      let R := plain R
      if R.bit a 31 && !was then { R with ev := { R.ev with lastAcc := mapSet noneAt R.ev.lastAcc n none } } else R
    | none => plain R

end Sys2Proof.Machine
end

