-- ==== Sys2Proof/Machine/Loader.lean ====
section
/-!
DEFINITION. Control stores, dispatch tables and the load engine of a block (R131 to R139).
-/

namespace Sys2Proof.Machine

/-! ## Parity (R131, R132) -/

/-- Even-parity bit of the low `n` bits of a number. -/
def oddBits (n v : Nat) : Bool := ((List.range n).filter (fun i => v.testBit i)).length % 2 == 1

/-- Parity byte of 128 data bits. -/
def csParity (data : Nat) : Nat := (List.range 8).foldl (fun s k =>
    s + (oddBits 16 (data >>> (16 * k) % 65536)).toNat * 2 ^ k) 0

/-- A control-store word with its parity bits. -/
def csWord (data : Nat) : BitVec 136 := BitVec.ofNat 136 (csParity data * 2 ^ 128 + data % 2 ^ 128)

/-- A dispatch entry with V and ADDR and its parity bit. -/
def dispEntry (v : Bool) (addr : Nat) : BitVec 12 :=
  let x := v.toNat * 1024 + addr % 1024
  BitVec.ofNat 12 ((oddBits 11 x).toNat * 2048 + x)

/-- Parity of a control-store word and of a dispatch entry holds. -/
def csParityOk (w : BitVec 136) : Bool := csParity (w.toNat % 2 ^ 128) == w.toNat / 2 ^ 128
def dispParityOk (e : BitVec 12) : Bool := !oddBits 12 e.toNat

def csAt (k : Cell) (w : Nat) : BitVec 136 := mapGet (fun _ => 0) k.cstore w

/-! ## Registers of a block (R139, R18) -/

/-- Register `d` of block `b`, second index `j`. -/
def blk (d : RegDef) (b : Nat) (j : Nat := 0) : Nat := regAt d b j

/-- Bit of cell `c` in a block register of one bit per cell. -/
def blkBit (d : RegDef) (b c : Nat) (R : Region) : Bool := R.bit (blk d b) c
def setBlkBit (d : RegDef) (b c : Nat) (v : Bool) (R : Region) : Region := R.setBit (blk d b) c v

/-- Register and lowest bit of the section-valid bits of cell `c`: CSB, CSU, DSU, IMEM upward. -/
def sectAt (b c : Nat) : Nat × Nat := (if c < 8 then blk Reg.BK_LDSECT0 b else blk Reg.BK_LDSECT1 b, 4 * (c % 8))

/-- The four section-valid bits of a cell (R134). -/
def sections (b c : Nat) (R : Region) : Nat := R.field (sectAt b c).1 ((sectAt b c).2 + 3) (sectAt b c).2
def setSections (b c v : Nat) (R : Region) : Region := R.setField (sectAt b c).1 ((sectAt b c).2 + 3) (sectAt b c).2 v

/-- Section-valid bits of the sections a load selects: `Load.sections` has IMEM in bit 0 and CSB in bit 3. -/
def sectMask (n : Nat) : Nat :=
  (n.testBit 3).toNat + 2 * (n.testBit 1).toNat + 4 * (n.testBit 2).toNat + 8 * (n.testBit 0).toNat

/-! ## The engine (R137) -/

/-- First byte of the golden copy of cell `c`, as the engine finds it now (R136). -/
def goldBase (b c : Nat) (R : Region) : Nat := R.field (blk Reg.BK_CGOLD b c) 19 12 * 0x1000

/-- A load ends without a write or after one: its result is recorded (R139). -/
def loadResult (b c result : Nat) (R : Region) : Region :=
  let R := R.setReg (blk Reg.BK_LDSTAT b) (BitVec.ofNat 32 (c * 16 + result * 2))
  if result ≠ 0 then R.count (blk Reg.BK_LDFAIL b) else R

/-- Reads `n` bytes of region memory; none when a bank refuses or an error cannot be corrected. -/
def rmemBytes (x : Ctx) (o n : Nat) (R : Region) : Option (List Byte) × Region :=
  match memRead x (.rmem o) n R with
  | (.ok l, R) => (some l, R)
  | (_, R) => (none, R)

/-- The header of a golden copy is in order (R135, R137). -/
def headerOk (base : Nat) (h : List Byte) : Bool :=
  leNat (h.take 4) == 0x4D594743 && leNat ((h.drop 4).take 1) == 1 && leNat ((h.drop 8).take 4) == 0x7000
    && decide (base + 0x7000 ≤ 0x100000)

/-- Starts a load of cell `c` (R137); a start while one runs is counted and ignored (R139). All 64 header bytes are read
(R138); an uncorrectable error in them ends the load with RESULT 5 (R329). BK_LDSTAT shows the running load's cell, and
RESULT 0 until it ends. (DEDUCED, log 55) -/
def loadStart (x : Ctx) (b c sel : Nat) (software : Bool) (R : Region) : Region :=
  if R.bit (blk Reg.BK_LDSTAT b) 0 then R.count (blk Reg.BK_LDFAIL b)
  else if (R.cell (16 * b + c)).running then loadResult b c 3 R
  else if software && sel.testBit 3 then loadResult b c 4 R
  else
    let base := goldBase b c R
    let p := memRead x (.rmem base) 0x40 R
    let h := rawRead (.rmem base) 0x40 R
    let bad := match p.1 with | .ecc => true | _ => false
    let run := match p.1 with | .ok _ => headerOk base h | .ecc => decide (base + 0x7000 ≤ 0x100000) | .refused => false
    if run then
      { p.2.setReg (blk Reg.BK_LDSTAT b) (BitVec.ofNat 32 (c * 16 + 1)) with
        load := mapSet noneAt p.2.load b
          (some ⟨c, sel, software, base, BitVec.ofNat 32 (leNat ((h.drop 12).take 4)), bad⟩) }
    else loadResult b c 2 p.2

/-- A write of BK_LDCTL: the fields are kept, GO starts a load. -/
def ldCtlWrite (x : Ctx) (b : Nat) (v : Word) (plain : Region → Region) (R : Region) : Region :=
  let R := plain R
  if v.getLsbD 0 then loadStart x b (bitsOf v 7 4) (bitsOf v 11 8) true R else R

/-- Marks every entry of dispatch set `d` invalid. -/
def dispClear (d : Nat) (k : Cell) : Cell :=
  foldN 256 (fun i k =>
    let e := k.dispatch d i
    if e.getLsbD 10 then
      { k with disp := mapSet (fun _ => 0) k.disp (256 * d + i) (dispEntry false (e.toNat % 1024)) } else k) k

/-- Writes dispatch set `d` from its 512 golden bytes. -/
def dispLoad (d : Nat) (bytes : List Byte) (k : Cell) : Cell :=
  foldN 256 (fun i k =>
    let e := leNat ((bytes.drop (2 * i)).take 2)
    { k with disp := mapSet (fun _ => 0) k.disp (256 * d + i) (dispEntry (e.testBit 15) (e % 1024)) }) k

/-- Writes the control-store words from `lo`, `n` of them, from the golden bytes of all words. -/
def csLoad (lo n : Nat) (bytes : List Byte) (k : Cell) : Cell :=
  foldN n (fun j k =>
    let w := lo + j
    { k with cstore := mapSet (fun _ => 0) k.cstore w (csWord (leNat ((bytes.drop (16 * w)).take 16))) }) k

/-- Writes the selected sections of a cell from a body: dispatch sets at 0, control store at 0x800, IMEM at 0x4800.
(DEDUCED, log 55) -/
def loadSections (sel : Nat) (body : List Byte) (k : Cell) : Cell :=
  let set (d : Nat) : List Byte := (body.drop (512 * d)).take 512
  let cs := (body.drop 0x800).take 0x4000
  let k := if sel.testBit 0 then { k with imem := mapWrite zeroByte k.imem 0 ((body.drop 0x4800).take 0x2000) } else k
  let k := if sel.testBit 1 then csLoad 384 640 cs k else k
  let k := if sel.testBit 2 then dispLoad 3 (set 3) (dispLoad 2 (set 2) (dispLoad 1 (set 1) k)) else k
  if sel.testBit 3 then dispLoad 0 (set 0) (csLoad 0 384 cs k) else k

/-- A failed load: the selected section-valid bits clear and the dispatch sets it selected become invalid (R137).
(DEDUCED, log 55) -/
def loadSpoil (b c sel : Nat) (R : Region) : Region :=
  let R := setSections b c (sections b c R &&& (15 - sectMask sel)) R
  R.onCell (16 * b + c) (fun k =>
    let k := if sel.testBit 3 then dispClear 0 k else k
    if sel.testBit 1 || sel.testBit 2 then dispClear 3 (dispClear 2 (dispClear 1 k)) else k)

/-- The load in progress in block `b` ends (R137). The whole body of the copy named at its start is read and the
selected sections written. (DEDUCED, log 55) -/
def loadEnd (x : Ctx) (b : Nat) (R : Region) : Region :=
  match mapGet noneAt R.load b with
  | none => R
  | some l =>
    let base := l.base
    let R := { R with load := mapSet noneAt R.load b none }
    let d := rmemBytes x (base + 0x40) 0x800 R
    let m := rmemBytes x (base + 0x1000) 0x6000 d.2
    let body := (d.1.getD (rawRead (.rmem (base + 0x40)) 0x800 R))
        ++ (m.1.getD (rawRead (.rmem (base + 0x1000)) 0x6000 R))
    let i := 16 * b + l.cell
    let R := m.2.onCell i (loadSections l.sections body)
    let R := if l.sections.testBit 0 then eccWritten (placeCode (.imem i 0)) 0 0x2000 R else R
    match l.bad, d.1, m.1 with
    | false, some _, some _ =>
      if crc32c body = l.crc then
        loadResult b l.cell 0 (setSections b l.cell (sections b l.cell R ||| sectMask l.sections) R)
      else loadResult b l.cell 1 (loadSpoil b l.cell l.sections R)
    | _, _, _ => loadResult b l.cell 5 (loadSpoil b l.cell l.sections R)

/-- A reset of block reach or greater abandons the load in progress (R137). (DEDUCED, log 55) -/
def loadAbandon (b : Nat) (R : Region) : Region :=
  match mapGet noneAt R.load b with
  | none => R
  | some l => loadSpoil b l.cell l.sections { R with load := mapSet noneAt R.load b none }

/-- A whole load by the boot unit or at a return from L4: all four sections, its result in BK_LDSTAT.
(DEDUCED, log 55) -/
def loadNow (x : Ctx) (b c : Nat) (R : Region) : Region := loadEnd x b (loadStart x b c 15 false R)

/-- RESULT of the last load of block `b`. -/
def loadCode (b : Nat) (R : Region) : Nat := R.field (blk Reg.BK_LDSTAT b) 3 1

end Sys2Proof.Machine
end

