-- ==== Sys2Proof/Machine/Reset.lean ====
section
/-!
DEFINITION. Resets of every reach, release, power states and clocks (R395, R396, R442 to R461).
-/

namespace Sys2Proof.Machine

/-! ## Cells -/

/-- A cell after a cell-reach reset: IMEM, DMEM, control store, dispatch tables and coefficient banks stay (R444). -/
def Cell.afterReset (k : Cell) : Cell :=
  { cellInit with imem := k.imem, dmem := k.dmem, cstore := k.cstore, disp := k.disp, coef := k.coef }

/-- A cell started at vector 0 (R181, R448). -/
def Cell.started (k : Cell) : Cell := { k.afterReset with halted := false }

/-- The cell has been retired (R396). -/
def isRetired (i : Nat) (R : Region) : Bool := blkBit Reg.BK_RETIRED (i / 16) (i % 16) R

/-- Cell `i` is retired: halted for good, its pairs take the takeover action, the fault is recorded (R392, R396, R399).
-/
def retireCell (x : Ctx) (i : Nat) (R : Region) : Region :=
  let k := R.cell i
  let detail := k.reachErr
  let R := (setBlkBit Reg.BK_RETIRED (i / 16) (i % 16) true R).setCell i { k with halted := true, byDebug := false, reachErr := 0 }
  let R := permanentFault x 1 detail (x.r * 128 + i) 0 R
  let own := R.reg (blk Reg.BK_OWN (i / 16) (i % 16))
  foldN 24 (fun p R => if own.getLsbD p then takeoverPair p R else R) R

/-- Cells of a block whose cell-reach error its arbiter has not taken up. -/
def reachErrors (b : Nat) (R : Region) : List Nat :=
  ((List.range 16).map (fun c => 16 * b + c)).filter (fun i => (R.cell i).reachErr != 0 && !isRetired i R)

/-- BK_START on cell `i` (R448). -/
def startCell (i : Nat) (R : Region) : Region :=
  if sections (i / 16) (i % 16) R == 15 && !isRetired i R && !R.inReset && !R.blockReset.contains (i / 16) then
    R.onCell i Cell.started
  else R

/-- A write of BK_START. -/
def bkStart (b : Nat) (v : Word) (R : Region) : Region :=
  foldN 16 (fun c R => if v.getLsbD c then startCell (16 * b + c) R else R) R

/-- A cell-reach reset that releases its cell halted (R447). -/
def cellReset (i : Nat) (R : Region) : Region :=
  if R.inReset || R.blockReset.contains (i / 16) then R else R.onCell i Cell.afterReset

/-! ## Blocks and regions -/

/-- Puts the cells of a block in reset, noting those that ran (R443, R448). -/
def cellsIntoReset (b : Nat) (R : Region) : Region :=
  foldN 16 (fun c R =>
    let i := 16 * b + c
    let k := R.cell i
    let R := if k.running then { R with autorun := addBit i R.autorun } else R
    R.setCell i { k.afterReset with inReset := true }) R

/-- The block-level part of a reset: errors not taken up retire their cells, load and takeover are abandoned, cells
enter reset (R137, R402, R443). -/
def blockDown (x : Ctx) (b : Nat) (R : Region) : Region :=
  let R := (reachErrors b R).foldl (fun R i => retireCell x i R) R
  let R := loadAbandon b R
  cellsIntoReset b { R with tk := mapSet (fun _ => takeoverInit) R.tk b takeoverInit }

/-- What AD_SLICEj_STAT keeps of a retirement, or of the permanent assignment of a spare (R252). -/
def sliceKept (j : Nat) (R : Region) : Option Word :=
  if sliceRetired j R then some 0xE01F0000
  else if 16 ≤ j then (R.perm (j - 16)).map (fun ch => BitVec.ofNat 32 (ch * 2 ^ 16)) else none

/-- The value that a region register keeps over a region-reach reset; none for one that returns to its reset value
(R252, R444). Registers that show the level of an input keep showing it. (DESIGN CHOICE, log 50) -/
def keptReg (R : Region) (a : Nat) (v : Word) : Option Word :=
  if (regIdx Reg.BK_CGOLD a).isSome || (regIdx Reg.BK_FALLOW a).isSome || (regIdx Reg.BK_PROT a).isSome
      || (regIdx Reg.BK_RETIRED a).isSome || (regIdx Reg.BK_CKPT a).isSome || (regIdx Reg.BK_OWN a).isSome
      || (regIdx Reg.BK_RSTCAUSE a).isSome || (regIdx Reg.BK_LDSECT0 a).isSome || (regIdx Reg.BK_LDSECT1 a).isSome
      || (regIdx Reg.TL_PFCNT a).isSome || (regIdx Reg.FP_BANK a).isSome then some v
  else
    match regIdx Reg.MB_BANK_STAT a with
    | some _ => some (v &&& 0xFFFF)
    | none =>
    match (List.range 80).find? (fun b => pwrKey b == a) with
    | some _ => some (v &&& 0x80000000)
    | none =>
    match regIdx Reg.AD_SLICE_STAT a with
    | some (j, _) => sliceKept j R
    | none => none

/-- Whether a register lies in block `b`'s register file. -/
def inBlockFile (b a : Nat) : Bool := decide (0xA0000 + 0x1000 * b ≤ a ∧ a < 0xA0000 + 0x1000 * (b + 1))

/-- Registers returned to their reset values where `which` names them, with what R444 keeps. -/
def regsAfterReset (which : Nat → Bool) (R : Region) : FMap Word :=
  R.regs.foldl (fun m e =>
    if which e.1 then
      match keptReg R e.1 e.2 with
      | some v => mapSet regionDefault m e.1 v
      | none => m
    else mapSet regionDefault m e.1 e.2) []

/-- A block-reach reset is asserted (R442, R444). -/
def blockAssert (x : Ctx) (b cause : Nat) (R : Region) : Region :=
  let again := R.inReset || R.blockReset.contains b
  let was := (R.reg (blk Reg.BK_RSTCAUSE b)).toNat
  let R := if again then R else blockDown x b R
  let R := if again then R else { R with regs := regsAfterReset (inBlockFile b) R, blockReset := addBit b R.blockReset }
  R.setReg (blk Reg.BK_RSTCAUSE b) (BitVec.ofNat 32 (if again then was ||| cause else cause))

/-- The inputs of `R` over a reset that leaves `R'`: the filtered levels take the synchronised ones (R269, R308, R385).
-/
def inputsStay (R R' : Region) : Region :=
  let still (l : Line) : Line := ⟨l.sync, 0⟩
  let R' := foldN 4 (fun i Q => (Q.setTrpLine i (still (R.trpLine i))).setTrpLevel i (R.trpLine i).sync) R'
  let R' := foldN 8 (fun u Q =>
    (Q.setFb u { fbInit with line := foldN 3 (fun i m => mapSet (fun _ => ⟨false,
        0⟩) m i (still (R.fbLine u i))) [] }).setField
      (fbAt Reg.FB_UN_STAT u) 18 16 (foldN 3 (fun i n => n + (R.fbLine u i).sync.toNat * 2 ^ i) 0)) R'
  foldN 32 (fun p Q =>
    let l := (R.fpin p).line
    pinLevel p l.sync (Q.setFpin p { fieldPinInit with line := still l })) R'

/-- A region-reach reset is asserted: every unit returns to its reset state but for what R444 keeps.
(DESIGN CHOICE, log 6) -/
def regionAssert (x : Ctx) (R : Region) : Region :=
  if R.inReset then R
  else
    let R := marchAbort x R
    let R := foldN 8 (fun b R => if R.blockReset.contains b then R else blockDown x b R) R
    inputsStay R { regionInit with
      regs := regsAfterReset (fun _ => true) R
      banks := { R.banks with sbeGt := none, dbeFresh := true, trans := [], march := none, harrow := 0, harrowGt := none }
      cells := R.cells
      adc := { adcInit with corr := R.adc.corr, perm := R.adc.perm }
      railBad := R.railBad
      autorun := R.autorun
      blockReset := [] }

/-- Every source asserted on the region but its clock has ended: HOLD is 0 (R442). -/
def held (x : Ctx) : Bool := (mapGet chipDefault x.chip (regAt Reg.RS_RG_CTL x.r 0)).getLsbD 1

/-- RCLK of the region is good (R445). -/
def rclkGood (x : Ctx) : Bool := (mapGet chipDefault x.chip Reg.CK_STAT.base).getLsbD (8 + x.r)

def autorunOn (x : Ctx) : Bool := (mapGet chipDefault x.chip (regAt Reg.RS_RG_CTL x.r 0)).getLsbD 2

/-- Blocks and cells of the region leave reset: cells halted, or started under AUTORUN (R447, R448). -/
def blocksRelease (x : Ctx) (R : Region) : Region :=
  let run := R.autorun
  let R := { R with blockReset := [], autorun := [] }
  let R := foldN 128 (fun i R => if (R.cell i).inReset then R.onCell i (fun k => { k with inReset := false }) else R) R
  if autorunOn x then run.foldl (fun R i => startCell i R) R else R

/-- The region is released where its sources have ended and its clock is good; then its blocks and cells (R447). Every
slice that is not retired then calibrates (R252). -/
def regionRelease (x : Ctx) (R : Region) : Region :=
  if R.inReset then
    if held x || !rclkGood x then R
    else blocksRelease x ({ R with inReset := false }.setBit Reg.AD_STAT.base 0 true)
  else blocksRelease x R

/-! ## Region resets with their cause, at chip level -/

/-- Records a source of a region reset (R449, R462): added while the region is in reset, else alone. -/
def recordRegionCause (r bit : Nat) (s : State) : State :=
  let a := regAt Reg.RS_RG_CAUSE r 0
  let old := if (s.region r).inReset then (s.chipReg a).toNat else 0
  s.setChipReg a (BitVec.ofNat 32 (old ||| 2 ^ bit))

/-- A region-reach reset with its source. It may cut a march test short, which takes a free value. -/
def regionResetFor (r bit : Nat) (s : State) : State :=
  let s := (recordRegionCause r bit s).onRegion r regionAssert
  { s with free := s.free + abortFree }

/-! ## Chip reset (R442 to R446) -/

/-- A cell after a chip-reach reset. -/
def Cell.afterChipReset (k : Cell) : Cell :=
  { cellInit with cstore := k.cstore, disp := k.disp, coef := k.coef, inReset := true }

/-- A region after a chip-reach reset: memories zero with valid check bits, retirements cleared; inputs keep their
levels. (DESIGN CHOICE, log 6; DEDUCED, log 51) -/
def Region.afterChipReset (R : Region) : Region :=
  let R := foldN 8 loadAbandon R
  inputsStay R { regionInit with
    regs := R.regs.foldl (fun m e => if (regIdx Reg.FP_BANK e.1).isSome then mapSet regionDefault m e.1 e.2 else m) []
    cells := foldN 128 (fun i m => mapSet (fun _ => cellInit) m i (R.cell i).afterChipReset) []
    railBad := R.railBad }

/-- Chip registers that a chip-reach reset keeps: the backup domain and the lifetime counters (R412, R444). -/
def keptChipReg (a : Nat) : Bool :=
  a == Reg.RS_BKCNT.base || a == Reg.RS_BKLAST.base || a == Reg.RS_BKSEC.base
    || (regIdx Reg.RS_BKHIST_C a).isSome || (regIdx Reg.RS_BKHIST_S a).isSome
    || a == Reg.CH_LIFE_PWR.base || a == Reg.CH_LIFE_EQ.base || a == Reg.CH_LIFE_HOT.base

/-- Chip state after a chip-reach reset: MRAM, OTP, flash and pins stay. -/
def Chip.afterReset (h : Chip) : Chip :=
  { chipInit with
    regs := mapKeep keptChipReg h.regs
    mram := h.mram
    jn := { journalInit with anchors := h.jn.anchors, wear := h.jn.wear, cal := h.jn.cal }
    boot := { bootInit with
      pins := h.boot.pins, flash := h.boot.flash, otp := h.boot.otp, activeB := h.boot.activeB,
          trialB := h.boot.trialB }
    life := h.life
    lifeSaved := h.lifeSaved
    kclk := h.kclk }

/-- A chip-reach reset with the causes `c` as RS_CAUSE codes them. The sequence of R446 starts from its first step;
causes asserted before that step add up (R449). (DEDUCED, log 51) -/
def chipReset (c : Nat) (s : State) : State :=
  let old := if s.chip.rel = 0 then (s.chipReg Reg.RS_CAUSE.base).toNat else 0
  { s with
    time := timeInit
    chip := s.chip.afterReset.setReg Reg.RS_CAUSE.base (BitVec.ofNat 32 (old ||| c))
    regions := foldN 8 (fun r m => mapSet (fun _ => regionInit) m r (s.region r).afterChipReset) [] }

/-- Step 1 of R446: the backup domain records the reset (R452). -/
def backupRecord (h : Chip) : Chip :=
  let h := h.setReg Reg.RS_BKCNT.base (satAdd 0xFFFFFFFF (h.reg Reg.RS_BKCNT.base) 1)
  let h := foldN 7 (fun j h =>
    let i := 7 - j
    (h.setReg (regAt Reg.RS_BKHIST_C i 0) (h.reg (regAt Reg.RS_BKHIST_C (i - 1) 0))).setReg
      (regAt Reg.RS_BKHIST_S i 0) (h.reg (regAt Reg.RS_BKHIST_S (i - 1) 0))) h
  let c := h.reg Reg.RS_CAUSE.base
  ((h.setReg Reg.RS_BKLAST.base c).setReg (regAt Reg.RS_BKHIST_C 0 0) c).setReg (regAt Reg.RS_BKHIST_S 0 0)
    (h.reg Reg.RS_BKSEC.base)

/-- The backup domain's counter, last causes and history are cleared (R452). -/
def backupErase (h : Chip) : Chip :=
  foldN 8 (fun i h => (h.setReg (regAt Reg.RS_BKHIST_C i 0) 0).setReg (regAt Reg.RS_BKHIST_S i 0) 0)
    ((h.setReg Reg.RS_BKCNT.base 0).setReg Reg.RS_BKLAST.base 0)

/-! ## Clocks (R445, R455 to R457) -/

/-- Clock `k` becomes good: RCLK0 to RCLK7, 8 the fabric, 9 the timebase. -/
def clockIsGood (k : Nat) (h : Chip) : Chip :=
  h.setReg Reg.CK_STAT.base
    (Machine.setBit (h.reg Reg.CK_STAT.base) (if k < 8 then 8 + k else if k = 8 then 1 else 2) true)

/-- RCLK of region `r` is out of lock, and the region resets (R442). -/
def rclkLost (r : Nat) (s : State) : State :=
  let s := s.setChipReg Reg.CK_STAT.base (Machine.setBit (s.chipReg Reg.CK_STAT.base) (8 + r) false)
  regionResetFor r 2 s

/-- FB and POST keep the limits of R456. -/
def pllAllowed (v : Word) : Bool :=
  let fb := bitsOf v 7 0
  let den := 4 * 2 ^ bitsOf v 16 16
  decide (1600 ≤ 25 * fb ∧ 25 * fb ≤ 3200 ∧ 200 * den ≤ 25 * fb ∧ 25 * fb ≤ 750 * den)

/-- A write of CK_RGr_PLL (R456, R457). -/
def pllSet (r : Nat) (v : Word) (s : State) : State :=
  let a := regAt Reg.CK_RG_PLL r 0
  if pllAllowed v then
    let old := s.chipReg a
    let s := s.setChipReg a (v &&& BitVec.ofNat 32 Reg.CK_RG_PLL.mask)
    if bitsOf old 7 0 = bitsOf v 7 0 ∧ bitsOf old 16 16 = bitsOf v 16 16 then s else rclkLost r s
  else { s with chip := s.chip.count Reg.CK_BADCFG.base }

/-! ## Power states (R458 to R461) -/

/-- PM_OECTL.COMMIT (R454). -/
def oeCommit (R : Region) : Region :=
  if R.bit Reg.CF_STAT.base 0 then R.count Reg.PM_OEREF.base
  else R.setReg Reg.PM_OE.base (R.reg Reg.PM_OESTAGE.base)

def pmState (R : Region) : Nat := R.field Reg.PM_STAT.base 2 0

/-- The region is quiet (R459). -/
def quiet (R : Region) : Bool :=
  !(List.range 8).any (fun g => sgArmed g R)
    && !(List.range 48).any (fun n => R.tmRun n)
    && (icPendList R).isEmpty && R.ev.slots.isEmpty
    && !(List.range 16).any (fun c => dmRun c R)
    && (List.range 128).all (fun i =>
      let k := R.cell i
      k.tags == 0 && (!k.running || k.hold != .none))

/-- No cell is in WAIT. -/
def noWait (R : Region) : Bool :=
  (List.range 128).all (fun i => match (R.cell i).hold with | .wait _ => !(R.cell i).running | _ => true)

/-- Every unit that L4 would stop is off or empty (R459). -/
def unitsOff (R : Region) : Bool :=
  !(List.range 64).any (fun n => R.tmRun n)
    && !(List.range 16).any (fun n => R.bit (regAt Reg.LP_BAND_CFG n 0) 31)
    && !(List.range 8).any (fun u => fbMode u R != 0)
    && !(List.range 8).any (fun p => pgMoving p R)
    && !R.injRun && !R.bit Reg.LP_RC_CFG.base 31
    && !(List.range 32).any (fun t => trkMode t R != 0 && (R.tracker t).armed)
    && !(List.range 65).any (fun a => accMode a R != 0 && accRun a R)
    && (List.range 32).all (fun p => (R.fpin p).tq.isEmpty)

/-- Exit time of a state in units of 10 ns (R459). -/
def exitTime (n : Nat) : Nat := match n with | 1 => 1 | 2 => 100 | 3 => 4000 | _ => 300000

/-- The state that PM_LATENCY names: the deepest whose exit time does not exceed T (R458). -/
def admitted (R : Region) : Nat :=
  let t := R.field Reg.PM_LATENCY.base 4 0 * 4 ^ R.field Reg.PM_LATENCY.base 7 5
  if exitTime 4 ≤ t then 4 else if exitTime 3 ≤ t then 3 else if exitTime 2 ≤ t then 2 else if 1 ≤ t then 1 else 0

/-- The conditions of a power state hold (R459). -/
def stateAllowed (n : Nat) (R : Region) : Bool :=
  match n with
  | 0 => false
  | 1 => quiet R
  | 2 | 3 => quiet R && noWait R
  | _ => quiet R && noWait R && unitsOff R

/-- Banks of the region that are not pinned. -/
def unpinned (R : Region) : List Nat := (List.range 80).filter (fun b => !R.bit (pwrKey b) 31)

/-- PCLK edges of 1 µs, for which the conditions of a power state must hold before it is entered (R458). -/
def pmWait : Nat := 800

/-- A PCLK edge for the conditions of the power states. -/
def pmTick (R : Region) : Region :=
  { R with pmHeld := foldN 4 (fun i m =>
      mapSet zeroNat m (i + 1) (if stateAllowed (i + 1) R then min pmWait (mapGet zeroNat m (i + 1) + 1) else 0)) R.pmHeld }

/-- Enters the admitted power state, whose conditions have held for 1 µs (R458, R459). In L3 unpinned banks that are On
go to Retention and the harrow rests. (DEDUCED, log 37) -/
def powerEnter (R : Region) : Region :=
  let n := admitted R
  if pmState R < n && stateAllowed n R && decide (pmWait ≤ mapGet zeroNat R.pmHeld n) && !R.inReset then
    let R := (R.setField Reg.PM_STAT.base 2 0 n).count (regAt Reg.PM_ENTRY (n - 1) 0)
    if n = 3 then
      let R := { R with banks := { R.banks with harrowGt := none } }
      (unpinned R).foldl (fun R b => if bankCur b R = 0 then R.setField (pwrKey b) 5 4 1 else R) R
    else R
  else R

/-- Returns from L1, L2 or L3 to L0: banks go back to the state their registers name (R460). (DEDUCED, log 37) -/
def powerWake (R : Region) : Region :=
  match pmState R with
  | 3 =>
    let R := R.setField Reg.PM_STAT.base 2 0 0
    (unpinned R).foldl (fun R b =>
      if bankCur b R = 1 && bankWant b R == 0 then R.setField (pwrKey b) 5 4 0 else R) R
  | 1 | 2 => R.setField Reg.PM_STAT.base 2 0 0
  | _ => R

/-- CRC-covered registers, in ascending offset, block files at their lowest alias (R404). -/
def coveredDefs : List RegDef := (List.range 12).flatMap (fun u => (regionUnit u).filter (fun d => d.crc))

/-- A register at `a` is covered by the configuration check. -/
def isCovered (a : Nat) : Bool := match regionReg a with | some d => d.crc | none => false

/-- A key of a bank's power register, which is covered wherever it is kept (R340). -/
def isPwrKey (a : Nat) : Bool := (List.range 80).any (fun b => pwrKey b == a)

/-- Bytes of a memory map outside the spans of `gone`. -/
def keepOutside (gone : List (Nat × Nat)) (m : FMap Byte) : FMap Byte :=
  mapKeep (fun k => !gone.any (fun s => decide (s.1 ≤ k ∧ k < s.1 + s.2))) m

/-- The coefficient banks of a cell hold undefined contents: free values from `n` upward (R461). (DEDUCED, log 37) -/
def freeCoef (n : Nat) (k : Cell) : Cell :=
  { k with coef := foldN 128 (fun j m => mapSet zeroWord m j (Config.freeWord (n + j))) [] }

/-- A return from L4 (R461): as after a region-reach reset, but covered registers, CF_COMMITTED and pinned banks are
kept, unpinned banks, DMEM and IMEM are zero, cells that had all four sections are loaded again, those that were in IDLE
start. Bank transitions have ended, and every bank is in the state its STATE names (R333). The tallies of the interval
under way carry over into the next records (R459). Coefficient banks are undefined. (DEDUCED, log 37) -/
def l4Back (x : Ctx) (R : Region) : Region :=
  let R := foldN 80 (fun b R => bankPowerDone b (bankPowerDone b R)) R
  let idle := (List.range 128).filter (fun i => (R.cell i).hold == .idle && (R.cell i).running)
  let gone := unpinned R
  let rm := (gone.filter (fun b => b < 16)).map bankSpan
  let bm := (gone.filter (fun b => !(b < 16))).map bankSpan
  let ws := gone.map bankWords
  let R0 := R
  let R := regionAssert x R
  let R := { R with
    regs := R0.regs.foldl (fun m e =>
      if isCovered e.1 || e.1 == Reg.CF_COMMITTED.base || isPwrKey e.1
          || (regIdx Reg.TL_B_RUN e.1).isSome then mapSet regionDefault m e.1 e.2 else m) R.regs
    banks := { R.banks with
      rmem := keepOutside rm R.banks.rmem
      bmem := keepOutside bm R.banks.bmem
      ecc := mapKeep (fun k => decide (k < 2 ^ 29) && !ws.any (fun s => decide (s.1 ≤ k ∧ k < s.1 + s.2))) R.banks.ecc }
    rcorr := R0.rcorr
    tlCarry := if R0.bit Reg.TL_RING.base 31 then List.range 9 else []
    autorun := [] }
  let R := foldN 80 (fun b R => R.setField (pwrKey b) 5 4 (bankWant b R)) R
  let R := foldN 128 (fun i R =>
    R.onCell i (fun k => freeCoef (x.free + abortFree + 128 * i) { k with imem := [], dmem := [] })) R
  let R := regionRelease x R
  if R.inReset then R
  else
    let R := foldN 128 (fun i R =>
      if sections (i / 16) (i % 16) R == 15 then loadNow x (i / 16) (i % 16) R else R) R
    idle.foldl (fun R i => startCell i R) R

/-- Free words a return from L4 takes. (DEDUCED, log 37) -/
def l4Free : Nat := abortFree + 128 * 128

/-- The region is back in L0 before an event, post or access is served (R460, R461). (DEDUCED, log 37) -/
def State.awake (s : State) (r : Nat) : State :=
  match pmState (s.region r) with
  | 0 => s
  | 4 =>
    let a := regAt Reg.RS_RG_CAUSE r 0
    let s := s.setChipReg a 0x10
    let x := s.ctx r
    { s.setRegion r (l4Back x ((s.region r).setField Reg.PM_STAT.base 2 0 0)) with free := s.free + l4Free }
  | _ => s.setRegion r (powerWake (s.region r))

end Sys2Proof.Machine
end

