-- ==== Sys2Proof/Machine/Takeover.lean ====
section
/-!
DEFINITION. Checkpoints, the configuration check value, and takeover by a fallow cell (R395 to R404).
-/

namespace Sys2Proof.Machine

/-! ## Checkpoint record (R397, R398) -/

def words4 (l : List Word) : List Byte := l.flatMap (fun w => leBytes 4 w.toNat)

/-- L, the carry-over length: LEN8 above 128 acts as 128 (R56, R91). -/
def ckLen (k : Cell) : Nat := 8 * min 128 (bitsOf (k.ioReg Reg.CKAREA.base) 23 16)

/-- First byte of the carry-over area in DMEM. -/
def ckBase (v : Word) : Nat := bitsOf v 12 3 * 8

/-- The sixteen registers of the record, in its order; RSDEPTH is the depth of the return stack. -/
def ckRegs : List RegDef :=
  [Reg.CSTAT, Reg.CMASK, Reg.CKEY, Reg.RSBASE, Reg.RSLIMIT, Reg.RSPTR, Reg.RSDEPTH, Reg.GATEBASE, Reg.PWINBASE,
    Reg.PWINLIMIT, Reg.ESP, Reg.CKAREA, Reg.CFCTL, Reg.CRCPOLY, Reg.CRCCFG, Reg.PFCTL]

/-- Coefficient banks A and B as 128 words. -/
def coefWords (k : Cell) : List Word := (List.range 128).map (mapGet zeroWord k.coef)

/-- Bytes 0x000 to 0x0F7 of a record. -/
def ckFixed (k : Cell) (seq : Nat) (gt : Ticks) (pc : BitVec 13) : List Byte :=
  words4 ([BitVec.ofNat 32 seq, BitVec.ofNat 32 (768 + ckLen k), gt.truncate 32, (gt >>> 32).truncate 32]
    ++ (List.range 15).map (fun i => mapGet zeroWord k.gpr (i + 1))
    ++ [pc.zeroExtend 32, (k.acc >>> 32).truncate 32, k.acc.truncate 32]
    ++ ckRegs.map (fun d => if d = Reg.RSDEPTH then BitVec.ofNat 32 k.rs.length else k.ioReg d.base)
    ++ (List.range 16).map (fun i => (k.rs.reverse.getD i 0).zeroExtend 32)
    ++ List.replicate 8 0)

/-- Bytes 0x100 to the end. -/
def ckRest (k : Cell) : List Byte :=
  words4 (coefWords k) ++ mapRead zeroByte k.dmem (ckBase (k.ioReg Reg.CKAREA.base)) (ckLen k)

/-- A whole record. -/
def ckRecord (k : Cell) (seq : Nat) (gt : Ticks) (pc : BitVec 13) : List Byte :=
  let a := ckFixed k seq gt pc
  let b := ckRest k
  a ++ words4 [crc32c (a ++ b), ~~~ BitVec.ofNat 32 seq] ++ b

/-- Offset in block memory of slot `n` of cell `c`'s mirror, for a carry-over length. -/
def slotAt (b c n len : Nat) (R : Region) : Nat :=
  R.field (blk Reg.BK_CKPT b c) 15 8 * 256 + n * ((768 + len + 255) / 256 * 256)

def wordAt (l : List Byte) (o : Nat) : Word := BitVec.ofNat 32 (leNat ((l.drop o).take 4))

/-- The committed record at an offset of block memory, if one stands there (R397). -/
def slotRecord (x : Ctx) (b o : Nat) (R : Region) : Option (List Byte) × Region :=
  if o + 0x100 > 0x10000 then (none, R)
  else
    match memRead x (.bmem b o) 0x100 R with
    | (.ok h, R) =>
      let n := (wordAt h 4).toNat
      if n < 768 ∨ o + n > 0x10000 then (none, R)
      else
        match memRead x (.bmem b (o + 0x100)) (n - 0x100) R with
        | (.ok t, R) =>
          if wordAt h 0xFC = ~~~ wordAt h 0 ∧ wordAt h 0xF8 = crc32c (h.take 0xF8 ++ t) then (some (h ++ t), R)
          else (none, R)
        | (_, R) => (none, R)
    | (_, R) => (none, R)

/-- SEQ `a` is newer than `b`: their difference modulo 2^32, taken as signed, is positive. -/
def newer (a b : Word) : Bool := decide ((a - b).toInt > 0)

/-- The newest committed record of cell `c`'s mirror for a carry-over length: its slot and bytes. -/
def newestRecord (x : Ctx) (b c len : Nat) (R : Region) : Option (Nat × List Byte) × Region :=
  let p := slotRecord x b (slotAt b c 0 len R) R
  let q := slotRecord x b (slotAt b c 1 len p.2) p.2
  (match p.1, q.1 with
    | none, none => none
    | some r, none => some (0, r)
    | none, some r => some (1, r)
    | some r, some t => if newer (wordAt t 0) (wordAt r 0) then some (1, t) else some (0, r), q.2)

/-- The bits of a register of the record that exist. -/
def ckBits (d : RegDef) : Word :=
  if d = Reg.CSTAT then 0x3FF else if d = Reg.CFCTL then 3 else BitVec.ofNat 32 d.mask

/-- DMEM bytes of a record. -/
def ckImage (rec : List Byte) : List Byte :=
  (rec.drop 0x300).take (min ((wordAt rec 4).toNat - 768) (0x2000 - ckBase (wordAt rec 0x84)))

/-- A cell with the state of a record, before it is released (R399). -/
def ckRestore (rec : List Byte) (k : Cell) : Cell :=
  let w (o : Nat) : Word := wordAt rec o
  let k := { k.afterReset with
    gpr := foldN 15 (fun i m => mapSet zeroWord m (i + 1) (w (0x10 + 4 * i))) []
    pc := (w 0x4C).truncate 13 &&& 0x1FFC
    acc := (w 0x50 ++ w 0x54 : BitVec 64)
    rs := ((List.range (min 16 (w 0x70).toNat)).map (fun i => (w (0x98 + 4 * i)).truncate 13 &&& 0x1FFC)).reverse
    coef := foldN 128 (fun i m => mapSet zeroWord m i (w (0x100 + 4 * i))) []
    awaiting := true }
  let k := ((List.range 16).zip ckRegs).foldl (fun k e =>
    if e.2 = Reg.RSDEPTH then k else k.setIo e.2.base (w (0x58 + 4 * e.1) &&& ckBits e.2)) k
  k.setDmem (ckBase (w 0x84)) (ckImage rec)

/-! ## Configuration check value (R404) -/

/-- Addresses of the covered set, ascending. -/
def coveredAddrs : List Nat :=
  (coveredDefs.flatMap (fun d => (List.range d.n1).flatMap (fun i => (List.range d.n2).map (fun j =>
      regAt d i j)))).mergeSort

/-- CRC-32C of the covered registers of a region. (DEDUCED, log 35) -/
def checkValue (R : Region) : Word := crc32c (coveredAddrs.flatMap (fun a => leBytes 4 (R.reg a).toNat))

/-- CF_COMMITTED follows the change that the block arbiter's rewrites make to the check value (R406).
(DEDUCED, log 35) -/
def recommit (before after : Region) : Region :=
  after.setReg Reg.CF_COMMITTED.base (after.reg Reg.CF_COMMITTED.base ^^^ checkValue before ^^^ checkValue after)

/-! ## Takeover (R399) -/

def Region.takeover (R : Region) (b : Nat) : Takeover := mapGet (fun _ => takeoverInit) R.tk b
def Region.setTakeover (R : Region) (b : Nat) (t : Takeover) : Region :=
  { R with tk := mapSet (fun _ => takeoverInit) R.tk b t }

/-- SUSPEND: a takeover runs in some block of the region, so that no sweep runs (R406). (DEDUCED, log 35) -/
def cfSuspended (R : Region) : Bool := (List.range 8).any (fun b => (R.takeover b).phase != .idle)

/-- Cell `c` of block `b` is available for takeover (R395). -/
def available (b c : Nat) (R : Region) : Bool :=
  let k := R.cell (16 * b + c)
  blkBit Reg.BK_FALLOW b c R && k.halted && !isRetired (16 * b + c) R
    && (match mapGet noneAt R.load b with | some l => l.cell != c | none => true)

/-- A takeover stops with a result, which is recorded (R393, R399, R403). -/
def tkFinish (x : Ctx) (b result : Nat) (dst : Option Nat) (R : Region) : Region :=
  let t := R.takeover b
  let a := blk Reg.BK_TKSTAT b
  let R := (R.setField a 3 1 result).setBit a 31 false
  let R := if result = 0 then R.count (blk Reg.BK_TKCNT b) else R
  let info := match dst with | some f => BitVec.ofNat 32 (x.r * 128 + 16 * b + f) | none => 0xFFFFFFFF
  let R := queueFault x 2 result (x.r * 128 + 16 * b + t.src) info R
  R.setTakeover b { t with phase := .idle }

/-- Chooses the fallow cell for the takeover of cell `c` and starts its load; false when the takeover has stopped. A
sweep under way is discarded (R406). BK_TKSTAT shows both cells from here on. (DEDUCED, log 36) -/
def tkChoose (x : Ctx) (b c : Nat) (R : Region) : Bool × Region :=
  let a := blk Reg.BK_TKSTAT b
  let R := (R.setField a 7 4 c).setBit a 31 true
  let R := { R.setTakeover b { R.takeover b with phase := .load, src := c } with sweep := false }
  if !blkBit Reg.BK_PROT b c R then (false, tkFinish x b 4 none R)
  else
    match (List.range 16).find? (fun f => available b f R) with
    | none => (false, tkFinish x b 1 none R)
    | some f =>
      let R := (R.setField a 11 8 f).setTakeover b { R.takeover b with dst := f }
      let R := recommit R (R.setReg (blk Reg.BK_CGOLD b f) (R.reg (blk Reg.BK_CGOLD b c)))
      if R.bit (blk Reg.BK_LDSTAT b) 0 then (true, R)
      else
        let R := loadStart x b f 15 false R
        if R.bit (blk Reg.BK_LDSTAT b) 0 then (true, R) else (false, tkFinish x b 2 (some f) R)

/-- Takes up retired cells one after the other until a load runs or none is left (R402). -/
def tkNext (x : Ctx) (b : Nat) : Nat → Region → Region
  | 0, R => R
  | n + 1, R =>
    match (R.takeover b).phase, (R.takeover b).queue with
    | .idle, c :: l =>
      let p := tkChoose x b c (R.setTakeover b { R.takeover b with queue := l })
      if p.1 then p.2 else tkNext x b n p.2
    | _, _ => R

/-- The block arbiter takes up its cell-reach errors: every such cell is retired, in ascending order, and queued.
(DEDUCED, log 29) -/
def takeUp (x : Ctx) (b : Nat) (R : Region) : Region :=
  let l := reachErrors b R
  let R := l.foldl (fun R i => retireCell x i R) R
  let t := R.takeover b
  let R := R.setTakeover b { t with queue := t.queue ++ l.map (fun i => i % 16) }
  if t.phase = .load ∧ l.contains (16 * b + t.dst) then
    let p := tkChoose x b t.src R
    if p.1 then p.2 else tkNext x b 16 p.2
  else tkNext x b 16 R

/-- A write of BK_RETIRE (R403). -/
def retireWrite (x : Ctx) (b : Nat) (v : Word) (R : Region) : Region :=
  let R := foldN 16 (fun c R =>
    if v.getLsbD c && !isRetired (16 * b + c) R then
      R.onCell (16 * b + c) (fun k => { k with halted := true, reachErr := if k.reachErr = 0 then 4 else k.reachErr })
    else R) R
  takeUp x b R

/-- A load of the block ends; a takeover waiting for the engine then starts its own (R399, R400). -/
def loadDone (x : Ctx) (b : Nat) (R : Region) : Region :=
  match mapGet noneAt R.load b with
  | none => R
  | some l =>
    let R := loadEnd x b R
    let t := R.takeover b
    if t.phase = .load ∧ (l.cell ≠ t.dst ∨ l.software) then
      let R := loadStart x b t.dst 15 false R
      if R.bit (blk Reg.BK_LDSTAT b) 0 then R else tkNext x b 16 (tkFinish x b 2 (some t.dst) R)
    else R

/-- A task or source number of cell `c` becomes that of cell `f`; regional indices. (DEDUCED, log 36) -/
def rebindTask (c f t : Nat) : Nat :=
  if t = 0x180 + c then 0x180 + f
  else if 0x200 + 4 * c ≤ t ∧ t < 0x200 + 4 * c + 4 then 0x200 + 4 * f + (t - (0x200 + 4 * c)) else t

/-- A source number: only FIRE sources are rewritten. (DEDUCED, log 36) -/
def rebindSrc (c f n : Nat) : Nat := if 0x200 ≤ n then rebindTask c f n else n

/-- Both entries of a fork register are rewritten, valid or not. (DEDUCED, log 36) -/
def rebindFork (c f : Nat) (v : Word) : Word :=
  let v := setBits v 9 0 (rebindTask c f (bitsOf v 9 0))
  setBits v 25 16 (rebindTask c f (bitsOf v 25 16))

/-- Every register that names cell `c` names cell `f` (R9, R399). (DEDUCED, log 36) -/
def rebind (c f : Nat) (R : Region) : Region :=
  let new (a : Nat) (v : Word) : Word :=
    if (regIdx Reg.EV_CH_CFG a).isSome then setBits v 9 0 (rebindSrc c f (bitsOf v 9 0))
    else if (regIdx Reg.EV_CH_FORK a).isSome then rebindFork c f v
    else v
  let R := { R with regs := R.regs.foldl (fun m (e : Nat × Word) => mapSet regionDefault m e.1 (new e.1 e.2)) [] }
  let R := foldN 64 (fun s R =>
    if R.bit (regAt Reg.IC_TSET s (c / 32)) (c % 32) then
      (R.setBit (regAt Reg.IC_TSET s (c / 32)) (c % 32) false).setBit (regAt Reg.IC_TSET s (f / 32)) (f % 32) true
    else R) R
  R.setReg (regAt Reg.IC_THR f 0) (R.reg (regAt Reg.IC_THR c 0))

/-- After the load: the checkpoint is restored and the bindings are rewritten (R399). (DEDUCED, log 35) -/
def tkRestore (x : Ctx) (b : Nat) (R : Region) : Region :=
  let t := R.takeover b
  if t.phase = .load ∧ !R.bit (blk Reg.BK_LDSTAT b) 0 ∧ R.field (blk Reg.BK_LDSTAT b) 7 4 = t.dst then
    let c := 16 * b + t.src
    let f := 16 * b + t.dst
    if loadCode b R ≠ 0 then tkNext x b 16 (tkFinish x b 2 (some t.dst) R)
    else
      let p := newestRecord x b t.src (ckLen (R.cell c)) R
      match p.1 with
      | none => tkNext x b 16 (tkFinish x b 3 (some t.dst) p.2)
      | some (_, rec) =>
        let R := p.2.onCell f (ckRestore rec)
        let a := ckBase (wordAt rec 0x84)
        let R := eccWritten (placeCode (.dmem f 0)) a (a + (ckImage rec).length) R
        let R' := rebind c f R
        let R' := R'.setReg (blk Reg.BK_OWN b t.dst) (R.reg (blk Reg.BK_OWN b t.src))
        let R' := R'.setReg (blk Reg.BK_CKPT b t.dst) (R.reg (blk Reg.BK_CKPT b t.src))
        let R' := setBlkBit Reg.BK_PROT b t.dst true R'
        let R' := setBlkBit Reg.BK_FALLOW b t.dst false R'
        let R' := R'.setReg (blk Reg.BK_OWN b t.src) 0
        tkNext x b 16 (tkFinish x b 0 (some t.dst) (recommit R R'))
  else R

/-- The swap takes effect: ACTIVE toggles and PEND clears (R290). -/
def swapMade (k : Cell) : Cell :=
  let v := k.ioReg Reg.CFCTL.base
  (k.setIo Reg.CFCTL.base (setBit (setBit v 1 false) 0 (!v.getLsbD 0))).countIo Reg.CFSWAPS.base 0xFFFF

/-- CFCTL.PEND. -/
def swapPends (k : Cell) : Bool := (k.ioReg Reg.CFCTL.base).getLsbD 1

/-- The coefficient swap at a boundary, where one is pending (R290). -/
def coefSwap (k : Cell) : Cell := if swapPends k then swapMade k else k

/-- A restored cell runs from the edge of its sample boundary; a restored PEND swaps the banks first (R399). -/
def fallowRun (k : Cell) : Cell :=
  if k.awaiting then { coefSwap k with awaiting := false, halted := false } else k

/-- A cell is inside an instruction: it carries out a routine, and neither holds in WAIT or IDLE nor is halted. -/
def midInstr (k : Cell) : Bool := k.micro.isSome && !k.halted && k.hold == .none

/-- A sample boundary reaches a cell (R290): whether a swap is made is decided now; an instruction in progress delays it
to its end. -/
def boundary (k : Cell) : Cell :=
  if k.inReset then k
  else if k.awaiting then fallowRun k
  else if midInstr k then { k with swapDue := k.swapDue || swapPends k }
  else coefSwap k

end Sys2Proof.Machine
end

