-- ==== Sys2Proof/Machine/Service.lean ====
section
/-!
DEFINITION. Snapshots, configuration check, telemetry ring, aging and lifetime counters (R46 to R49, R393, R404 to
R412).
-/

namespace Sys2Proof.Machine

/-! ## Snapshots -/

/-- The counter of channel `n` at a snapshot edge, a carry that has not landed included (R258). -/
def snapCount (n : Nat) (R : Region) : Word :=
  if R.linked n && R.tmRun n then
    let due := R.countDue n
    let R := if due then R.setReg (regAt Reg.TM_CH_CNT n 0) (nextCount n R).1 else R
    if R.tm.carryNext.contains n then (nextCount n R).1 else R.cnt n
  else R.cnt n

/-- Every counter of the region is copied to its holding register (R47). -/
def snapCopy (x : Ctx) (R : Region) : Region :=
  let R := foldN 64 (fun n R => R.setReg (regAt Reg.TM_CH_SNAP n 0) (snapCount n R)) R
  let R := foldN 8 (fun u R =>
    let R := R.setReg (regAt Reg.FB_UN_SNAP_L u 0) (R.reg (regAt Reg.FB_UN_POS_L u 0))
    if fbWide u then R.setReg (regAt Reg.FB_UN_SNAP_H u 0) (R.reg (regAt Reg.FB_UN_POS_H u 0)) else R) R
  let R := foldN 64 (fun a R =>
    R.setReg (regAt Reg.AD_CH_ACC_SNAPCNT (a / 4) (a % 4)) (R.reg (regAt Reg.AD_CH_ACC_SCOUNT (a / 4) (a % 4)))) R
  let R := R.setReg Reg.AD_DIAG_SNAPCNT.base (R.reg Reg.AD_DIAG_SCOUNT.base)
  let R := foldN 8 (fun b R => foldN 11 (fun w R =>
    R.setReg (regAt Reg.TL_B_SNAP b w) (R.reg (regAt Reg.TL_B_RUN b w))) R) R
  R.setPair Reg.RG_SNAPGT_L.base Reg.RG_SNAPGT_H.base x.gt

/-- The snapshot commands of one edge reach a region: its own, `chip` of the chip's, or both (R49). -/
def snapArrive (own : Bool) (chip : Nat) (x : Ctx) (R : Region) : Region :=
  let n := (if own then R.snapReq else 0) + chip
  let R := if own then { R with snapReq := 0 } else R
  if R.inReset || n == 0 then R
  else if R.bit Reg.RG_SNAPSTAT.base 0 then R.count Reg.RG_SNAP_DROP.base n
  else (snapCopy x R).setReg Reg.RG_SNAPSTAT.base (BitVec.ofNat 32 (if chip = 0 then 1 else 3))

/-- A snapshot edge for the commands that wait in the named regions and at the chip (R46, R49). -/
def snapEdge (regions : BitVec 8) (chip : Bool) (s : State) : State :=
  let n := if chip then s.chip.snapReq else 0
  let busy := (s.chipReg Reg.CH_SNAPSTAT.base).getLsbD 0
  let s := if chip then { s with chip := { s.chip with snapReq := 0 } } else s
  let s :=
    if n = 0 then s
    else if busy then { s with chip := s.chip.count Reg.CH_SNAP_DROP.base n }
    else { s with chip := (s.chip.setReg Reg.CH_SNAPSTAT.base 1).setPair Reg.CH_SNAPGT_L.base Reg.CH_SNAPGT_H.base s.time.gtime }
  foldN 8 (fun r s => s.onRegion r (snapArrive (regions.getLsbD r) (if busy then 0 else n))) s

/-- Holding registers are valid: BUSY falls (R48). -/
def snapDone (regions : BitVec 8) (chip : Bool) (s : State) : State :=
  let s := if chip then s.setChipReg Reg.CH_SNAPSTAT.base 0 else s
  foldN 8 (fun r s =>
    if regions.getLsbD r then s.onRegion r (fun _ R => R.setBit Reg.RG_SNAPSTAT.base 0 false) else s) s

/-! ## GTIME steps (R30) -/

/-- A write of CH_GTSTEP_H arms a step. -/
def gtArm (v : Word) (s : State) : State :=
  let s := s.setChipReg Reg.CH_GTSTEP_H.base v
  { s with time := { s.time with step := some (v ++ s.chipReg Reg.CH_GTSTEP_L.base : BitVec 64) } }

/-- A sample group of some region is armed. -/
def anyArmed (s : State) : Bool := (List.range 8).any (fun r => (List.range 8).any (fun g => sgArmed g (s.region r)))

/-- The armed step is added where no sample group is armed. -/
def gtApply (s : State) : State :=
  match s.time.step with
  | none => s
  | some d => if anyArmed s then s else { s with time := { s.time with gtime := s.time.gtime + d, step := none } }

/-! ## Configuration check (R405, R406) -/

def cfMismatch (R : Region) : Bool := R.bit Reg.CF_STAT.base 0

/-- A sweep begins, unless a CALC or a takeover runs or the region is in L3 or L4. -/
def sweepBegin (R : Region) : Region :=
  if R.bit Reg.CF_CFG.base 31 && !R.bit Reg.CF_STAT.base 1 && !cfSuspended R
      && decide (pmState R < 3) then { R with sweep := true } else R

/-- CF_STAT as read: SUSPEND is live. -/
def cfStat (R : Region) : Word := setBit (R.reg Reg.CF_STAT.base) 2 (cfSuspended R)

/-- A sweep ends. Whether the region must be reset comes with it. -/
def sweepFinish (x : Ctx) (R : Region) : Bool × Region :=
  if !R.sweep then (false, R)
  else
    let v := checkValue R
    let was := cfMismatch R
    let R := ({ R with sweep := false }.setReg Reg.CF_LAST.base v).countWrap Reg.CF_SWEEPS.base
    if v = R.reg Reg.CF_COMMITTED.base then (false, R.setBit Reg.CF_STAT.base 0 false)
    else
      let R := (R.setBit Reg.CF_STAT.base 0 true).count Reg.CF_MISCNT.base
      if was then (false, R)
      else (R.bit Reg.CF_CFG.base 30, permanentFault x 6 0 0 v (R.raise x 0x015))

/-- A write of CF_CTL.CALC. -/
def calcStart (R : Region) : Region := R.setBit Reg.CF_STAT.base 1 true

/-- A CALC finishes. -/
def calcFinish (R : Region) : Region :=
  if R.bit Reg.CF_STAT.base 1 then (R.setReg Reg.CF_CALC.base (checkValue R)).setBit Reg.CF_STAT.base 1 false else R

/-- A write of CF_CTL.COMMIT. -/
def refCommit (R : Region) : Region := R.setReg Reg.CF_COMMITTED.base (R.reg Reg.CF_REF.base)

/-- A write of CF_CTL. -/
def cfCtl (v : Word) (R : Region) : Region :=
  let R := if v.getLsbD 1 then refCommit R else R
  if v.getLsbD 0 then calcStart R else R

/-! ## Telemetry (R393, R408, R409) -/

def tlLen (R : Region) : Nat := 2 ^ (max 6 (min 12 (R.field Reg.TL_RING.base 27 24)))
def tlBase (R : Region) : Nat := R.field Reg.TL_RING.base 13 0 * 64
/-- RINGERR: the ring does not fit its region memory. -/
def tlMisfit (R : Region) : Bool := decide (tlBase R + 64 * tlLen R > 0x100000)
def tlFree (R : Region) : Nat :=
  let n := tlLen R
  n - 1 - ((R.reg Reg.TL_WPTR.base).toNat + n - (R.reg Reg.TL_RPTR.base).toNat % n) % n

/-- Writes one 64-byte entry and advances WPTR. -/
def tlPut (x : Ctx) (bytes : List Byte) (R : Region) : Region :=
  let w := (R.reg Reg.TL_WPTR.base).toNat % tlLen R
  let R := (memWrite x (.rmem (tlBase R + 64 * w)) bytes R).2
  R.setReg Reg.TL_WPTR.base (BitVec.ofNat 32 ((w + 1) % tlLen R))

/-- Header of a record (R409). -/
def tlHeader (type : Nat) (carry : Bool) (block entries : Nat) (gt : Ticks) (R : Region) : List Word :=
  [BitVec.ofNat 32 (type * 2 ^ 28 + carry.toNat * 2 ^ 27 + block * 2 ^ 24 + R.tlSeq % 65536), BitVec.ofNat 32 entries,
    gt.truncate 32, (gt >>> 32).truncate 32]

/-- Writes a record of one or two entries. (DESIGN CHOICE, log 34) -/
def tlRecord (x : Ctx) (ws : List Word) (R : Region) : Region :=
  let b := words4 ws
  let R := tlPut x (b.take 64) R
  let R := if b.length > 64 then tlPut x (b.drop 64) R else R
  { R with tlSeq := R.tlSeq + 1 }

/-- The oldest queued fault record is written where the ring runs, fits and has a free entry. -/
def faultWrite (x : Ctx) (R : Region) : Region :=
  match R.faultQ with
  | [] => R
  | f :: l =>
    if !R.bit Reg.TL_RING.base 31 || tlMisfit R || tlFree R == 0 then R
    else
      let ws := tlHeader 3 false 0 1 f.gtime R
        ++ [BitVec.ofNat 32 (f.kind * 2 ^ 24 + f.detail % 256 * 2 ^ 16 + f.loc % 65536), f.info] ++ List.replicate 10 0
      tlRecord x ws { R with faultQ := l }

/-- The record of source `n` (a block, or 8 for the region) is written, or dropped with its counts carried over.
(DESIGN CHOICE, log 34) -/
def tlSource (x : Ctx) (n entries : Nat) (body : List Word) (clear : Region → Region) (R : Region) : Region :=
  if tlFree R < entries then { R.count Reg.TL_DROP.base with tlCarry := addBit n R.tlCarry }
  else
    let ws := tlHeader (if n < 8 then 1 else 2) (R.tlCarry.contains n) (if n < 8 then n else 0) entries x.gt R ++ body
    clear { tlRecord x ws R with tlCarry := R.tlCarry.filter (fun k => k != n) }

/-- Two halfwords in a word. -/
def pack16 (lo hi : Word) : Word := hi.truncate 16 ++ lo.truncate 16

/-- Free words a telemetry record takes: sixteen temperatures and eight supplies (R409). -/
def tlFreeCount : Nat := 24

/-- Every millisecond: queued faults, the block tallies, the region record (R408); in L3 the counts carry over (R459).
Sensor readings are free values. (DESIGN CHOICE, log 34) -/
def tlMilli (x : Ctx) (R : Region) : Region :=
  let sensor (n : Nat) : Word := Config.freeWord (x.free + n)
  let R := foldN 16 (fun s R => R.setReg (regAt Reg.TL_TEMP s 0) ((sensor s) &&& 0xFFFF)) R
  if !R.bit Reg.TL_RING.base 31 || tlMisfit R then R
  else if 3 ≤ pmState R then { R with tlCarry := List.range 9 }
  else
    let R := foldN R.faultQ.length (fun _ R => faultWrite x R) R
    let R := foldN 8 (fun b R =>
      tlSource x b 1 ((List.range 11).map (fun w => R.reg (regAt Reg.TL_B_RUN b w)) ++ [0])
        (foldN 11 (fun w R => R.setReg (regAt Reg.TL_B_RUN b w) 0)) R) R
    tlSource x 8 2
      ((List.range 8).map (fun s => pack16 (sensor (2 * s)) (sensor (2 * s + 1)))
        ++ (List.range 4).map (fun s => pack16 (sensor (16 + 2 * s)) (sensor (16 + 2 * s + 1)))
        ++ (List.range 4).map (fun a => R.reg (regAt Reg.TL_AGE a 0))
        ++ [0, 0, BitVec.ofNat 32 (min 0xFFFFFFFF R.rcorr), R.reg Reg.TL_DROP.base, R.reg Reg.TL_FLTLOST.base]
        ++ List.replicate 7 0)
      (fun R => { R with rcorr := 0 }) R

/-- A write of TL_SWFAULT: a fault that software found is counted and recorded (R392, R393). -/
def swFault (x : Ctx) (v : Word) (R : Region) : Region := permanentFault x 8 (bitsOf v 23 16) (bitsOf v 15 0) 0 R

/-- TL_STAT as read (R410). -/
def tlStat (R : Region) : Word := BitVec.ofNat 32 (R.faultQ.length + 32 * (tlMisfit R).toNat)

/-- NFAULT is driven low (R394). -/
def nfaultLow (s : State) : Bool :=
  (List.range 8).any (fun r => (s.chipReg Reg.CH_NFMASK.base).getLsbD r && (s.region r).reg Reg.TL_PFCNT.base != 0)

/-! ## Lifetime counters (R412) -/

/-- Highest region temperature in 1/64 degree, as last sampled. -/
def hottest (s : State) : Int :=
  foldN 8 (fun r m => foldN 16 (fun k m =>
    max m ((((s.region r).reg (regAt Reg.TL_TEMP k 0)).truncate 16 : BitVec 16).toInt)) m) (-32768)

/-- Shows the counters in whole hours, saturating. -/
def lifeShow (h : Chip) : Chip :=
  let sat (n : Nat) : Word := BitVec.ofNat 32 (min 0xFFFFFFFF n)
  ((h.setReg Reg.CH_LIFE_PWR.base (sat (h.life.pwr / 60))).setReg Reg.CH_LIFE_EQ.base
    (sat (h.life.eq / 2 ^ 32))).setReg Reg.CH_LIFE_HOT.base (sat (h.life.hot / 60))

/-- One minute of powered time. -/
def lifeMinute (s : State) : State :=
  let t := hottest s
  let l := s.chip.life
  let l := ⟨l.pwr + 1, l.eq + Config.equivalentMinute t, l.hot + (decide (t ≥ 105 * 64)).toNat⟩
  { s with chip := lifeShow { s.chip with life := l } }

/-- The counters are committed to MRAM. (DESIGN CHOICE, log 41) -/
def lifeSave (h : Chip) : Chip := { h with lifeSaved := h.life }

end Sys2Proof.Machine
end

