-- ==== Sys2Proof/Machine/RegionAccess.lean ====
section
/-!
DEFINITION. Accesses to a region's register space: unit dispatch, aliases, live values, bus errors (R7, R17, R18, R40
to R45, R50).
-/

namespace Sys2Proof.Machine

/-- The canonical offset of an access: block register files decode bits [9:2] only (R18). -/
def canonical (a : Nat) : Nat := if a / 0x10000 = 0xA then a / 0x1000 * 0x1000 + a % 0x400 else a

/-- Block of a block-register-file offset. -/
def blockOf (a : Nat) : Nat := (a - 0xA0000) / 0x1000

/-- The offset names a register (R45); position registers that a narrow feedback unit lacks are none. -/
def isNamed (a : Nat) : Bool := (regionReg a).isSome && (a / 0x10000 != 4 || fbNamed a)

/-- The writable bits of a register take the value. -/
def plainWrite (a : Nat) (v : Word) (R : Region) : Region :=
  match regionReg a with
  | some d => R.setReg a (maskWrite d.mask (R.reg a) v)
  | none => R

/-- A write of BK_SWRST: the block bit resets the block, the others reset cells (R442, R465). -/
def swrstWrite (x : Ctx) (b : Nat) (v : Word) (R : Region) : Region :=
  if v.getLsbD 16 then blockAssert x b 2 R
  else foldN 16 (fun c R => if v.getLsbD c then cellReset (16 * b + c) R else R) R

/-- A write to a block register. -/
def bkWrite (x : Ctx) (a : Nat) (v : Word) (plain : Region → Region) (R : Region) : Region :=
  let b := blockOf a
  if a = blk Reg.BK_LDCTL b then ldCtlWrite x b v plain R
  else if a = blk Reg.BK_RETIRE b then retireWrite x b v R
  else if a = blk Reg.BK_START b then bkStart b v R
  else if a = blk Reg.BK_SWRST b then swrstWrite x b v R
  else plain R

/-- A write to the RG, CF and PM registers. -/
def rgWrite (a : Nat) (v : Word) (plain : Region → Region) (R : Region) : Region :=
  if a = Reg.RG_SNAP.base then (if v.getLsbD 0 then { R with snapReq := R.snapReq + 1 } else R)
  else if a = Reg.CF_CTL.base then cfCtl v R
  else if a = Reg.PM_OECTL.base then (if v.getLsbD 0 then oeCommit R else R)
  else plain R

/-- A write to the telemetry registers. -/
def tlWrite (x : Ctx) (a : Nat) (v : Word) (plain : Region → Region) (R : Region) : Region :=
  if a = Reg.TL_SWFAULT.base then swFault x v R else plain R

/-- A write that reaches the register at canonical offset `a`. -/
def unitWrite (x : Ctx) (host : Bool) (a : Nat) (v : Word) (R : Region) : Region :=
  match a / 0x10000 with
  | 0 => rgWrite a v (plainWrite a v) R
  | 1 => adWrite x a v (plainWrite a v) R
  | 2 => tmWrite x a v (plainWrite a v) R
  | 3 => lpWrite x a v (plainWrite a v) R
  | 4 => fbWrite a v (plainWrite a v) R
  | 5 => evWrite x a v (plainWrite a v) R
  | 6 => icWrite a v (plainWrite a v) R
  | 7 => dmWrite a v (plainWrite a v) R
  | 8 => fpWrite a v (plainWrite a v) R
  | 9 => mbWrite x host a v (plainWrite a v) R
  | 10 => bkWrite x a v (plainWrite a v) R
  | _ => tlWrite x a v (plainWrite a v) R

/-- Cells of a block that do not run (R465). -/
def bkHalted (b : Nat) (R : Region) : Word :=
  BitVec.ofNat 32 (foldN 16 (fun c n => n + (!(R.cell (16 * b + c)).running
      || isRetired (16 * b + c) R).toNat * 2 ^ c) 0)

/-- A read of the register at canonical offset `a`. -/
def unitRead (x : Ctx) (a : Nat) (R : Region) : Word × Region :=
  match a / 0x10000 with
  | 0 =>
    (if a = Reg.RG_ID.base then BitVec.ofNat 32 x.r
      else if a = Reg.RG_GTIME_L.base then x.gt.truncate 32
      else if a = Reg.RG_GTIME_H.base then (x.gt >>> 32).truncate 32
      else if a = Reg.RG_TAGSTAT.base then BitVec.ofNat 32 (sharedFree R)
      else if a = Reg.CF_STAT.base then cfStat R
      else if a = Reg.PM_STAT.base then Machine.setBit (R.reg a) 3 (quiet R)
      else R.reg a, R)
  | 1 => adRead x a R
  | 2 => tmRead a R
  | 3 => (lpRead a R, R)
  | 4 => (fbRead x a R, R)
  | 6 => (icRead a R, R)
  | 7 => (dmRead a R, R)
  | 8 => fpRead a R
  | 9 => (mbRead x a R, R)
  | 10 => (if a = blk Reg.BK_HALTED (blockOf a) then bkHalted (blockOf a) R else R.reg a, R)
  | 11 => (if a = Reg.TL_STAT.base then tlStat R else R.reg a, R)
  | _ => (R.reg a, R)

/-- The access is answered with a bus error by the region or block in reset (R7), or because nothing is named (R45). -/
def accessFails (a : Nat) (R : Region) : Bool :=
  R.inReset || (if a / 0x10000 = 0xA then decide (a ≥ 0xA8000) || R.blockReset.contains (blockOf a) else !isNamed a)

/-- A read at offset `a` of the register space: none for a bus error. -/
def regionRead (x : Ctx) (a : Nat) (R : Region) : Option Word × Region :=
  if accessFails a R then (none, R)
  else if isNamed (canonical a) then
    let p := unitRead x (canonical a) R
    (some p.1, p.2)
  else (some 0, R)

/-- A write at offset `a`: false for a bus error. -/
def regionWrite (x : Ctx) (host : Bool) (a : Nat) (v : Word) (R : Region) : Bool × Region :=
  if accessFails a R then (false, R)
  else if isNamed (canonical a) then (true, unitWrite x host (canonical a) v R)
  else (true, R)

/-- Reads a region register of the state, the region first back in L0. -/
def State.readRegion (s : State) (r a : Nat) : Option Word × State :=
  let s := s.awake r
  let p := regionRead (s.ctx r) a (s.region r)
  (p.1, s.setRegion r p.2)

/-- Free values a register write may take: as many as an abort of a march test. -/
def writeFree : Nat := abortFree

/-- Writes a region register of the state. -/
def State.writeRegion (s : State) (host : Bool) (r a : Nat) (v : Word) : Bool × State :=
  let s := s.awake r
  let p := regionWrite (s.ctx r) host a v (s.region r)
  (p.1, { s.setRegion r p.2 with free := s.free + writeFree })

/-! ## Memory accesses of the state -/

/-- Reads a region's memory. -/
def State.readMem (s : State) (r : Nat) (p : Place) (n : Nat) : Access (List Byte) × State :=
  let s := s.awake r
  let q := memRead (s.ctx r) p n (s.region r)
  (q.1, s.setRegion r q.2)

/-- Writes a region's memory. -/
def State.writeMem (s : State) (r : Nat) (p : Place) (bs : List Byte) : Access Unit × State :=
  let s := s.awake r
  let q := memWrite (s.ctx r) p bs (s.region r)
  (q.1, s.setRegion r q.2)

/-- Reads bytes of a region's memory where they can be had. -/
def State.rmem (s : State) (r o n : Nat) : Option (List Byte) × State :=
  match s.readMem r (.rmem o) n with
  | (.ok l, s) => (some l, s)
  | (_, s) => (none, s)

/-- Writes bytes of a region's memory, whatever comes of it. -/
def State.setRmem (s : State) (r o : Nat) (bs : List Byte) : State := (s.writeMem r (.rmem o) bs).2

/-- Posts an interrupt source of a region as a write of IC_DOORBELL does (R213). -/
def State.post (s : State) (r src : Nat) : State := (s.awake r).onRegion r (fun _ R =>
    if R.inReset then R else icPost src R)

end Sys2Proof.Machine
end

