-- ==== Sys2Proof/Machine/CellCore.lean ====
section
/-!
DEFINITION. How a cell executes an instruction: hazards and the scoreboard, imprecise reports, retirement, delay slots
and the predictor, exception entry and interrupts (R63, R85 to R87, R95, R101, R108 to R123, R165 to R190).
-/

namespace Sys2Proof.Machine

/-! ## Data space of a cell (R11) -/

/-- Where a data-space address leads. -/
inductive DataAt where
  /-- The cell's own DMEM. -/
  | dmem (o : Nat)
  /-- A block or region memory. -/
  | mem (r : Nat) (p : Place)
  /-- The MRAM read window. -/
  | mram (o : Nat)
  /-- No row of the map. -/
  | none
deriving DecidableEq, Repr

/-- The data-space map as cell `c` sees it. -/
def dataAt (c a : Nat) : DataAt :=
  if a < 0x2000 then .dmem a
  else if 0x10000 ≤ a ∧ a < 0x20000 then .mem (c / 128) (.bmem (c % 128 / 16) (a - 0x10000))
  else if 0x100000 ≤ a ∧ a < 0x180000 then .mem (c / 128) (.bmem ((a - 0x100000) / 0x10000) (a % 0x10000))
  else if 0x1000000 ≤ a ∧ a < 0x1100000 then .mem (c / 128) (.rmem (a - 0x1000000))
  else if 0x10000000 ≤ a ∧ a < 0x18000000 ∧ a % 0x1000000 < 0x100000 then
    .mem ((a - 0x10000000) / 0x1000000) (.rmem (a % 0x1000000))
  else if 0x40000000 ≤ a ∧ a < 0x40800000 then .mram (a - 0x40000000)
  else .none

/-- The region holds a tag for one more operation of cell `i` (R34). (DESIGN CHOICE, log 54) -/
def tagFree (i : Nat) (R : Region) : Bool :=
  let n := (R.cell i).tags
  decide (n < 32) || (decide (n < 32 + min 512 (R.field Reg.RG_TAGCFG.base 9 0)) && decide (0 < sharedFree R))

/-- The tag rule for a cell of the state. -/
def State.tagFree (s : State) (c : Nat) : Bool := Machine.tagFree (c % 128) (s.region (c / 128))

/-- An imprecise fault is held pending (R115). -/
def Cell.addImp (k : Cell) (f : ImpFault) : Cell := { k with imp := k.imp ++ [f] }

/-- The next place in issue order (R117). -/
def Cell.issued (k : Cell) : Cell := { k with seq := k.seq + 1 }

/-- Reads the cell's DMEM. -/
def State.dmRead (s : State) (c a n : Nat) : Access (List Byte) × State := s.readMem (c / 128) (.dmem (c % 128) a) n

/-- Writes the cell's DMEM; the error of a partial write is held as an imprecise bus error (R329). -/
def State.dmWrite (s : State) (c a seq : Nat) (bs : List Byte) : State :=
  match s.writeMem (c / 128) (.dmem (c % 128) a) bs with
  | (.ok _, s) => s
  | (_, s) => s.onCell c (fun k => k.addImp ⟨seq, 5, 4, BitVec.ofNat 32 a, none, false⟩)

/-- One store leaves the buffer: to DMEM, or to its path, where it is performed and then awaits its acknowledgement
(R112, R329). (DESIGN CHOICE, log 8) -/
def storeOut (c : Nat) (e : StoreEntry) (s : State) : State :=
  match dataAt c e.addr.toNat with
  | .dmem o => s.dmWrite c o e.seq e.bytes
  | .mem r p =>
    let q := s.writeMem r p e.bytes
    q.2.onCell c (fun k =>
      { k with acks := k.acks ++ [⟨e.seq, .store, (match q.1 with | .ok _ => false | _ => true), e.addr⟩] })
  | _ => s

def isLocal (c : Nat) (e : StoreEntry) : Bool := match dataAt c e.addr.toNat with | .dmem _ => true | _ => false

/-- The oldest entry leaves the store buffer where its path can take it (R112). (DESIGN CHOICE, log 8) -/
def storeLeave (c : Nat) (s : State) : State :=
  match (s.cell c).storeBuf with
  | [] => s
  | e :: l =>
    if isLocal c e || s.tagFree c then storeOut c e (s.onCell c (fun k => { k with storeBuf := l })) else s

/-- Every DMEM entry leaves, in order, with any non-local entry older than one of them (R176); none while such an
entry waits for a tag. (DEDUCED, log 15) -/
def drainDmem (c : Nat) : List StoreEntry → State → Option State
  | [], s => some s
  | e :: l, s =>
    if (e :: l).any (isLocal c) then
      if isLocal c e || s.tagFree c then drainDmem c l (storeOut c e (s.onCell c (fun k => { k with storeBuf := l })))
      else none
    else some s

/-- The stores that stand before an access by the return stack, a frame or a block operation leave, in order; none while
one of them waits for a tag. (DEDUCED, log 15) -/
def settle (c : Nat) (s : State) : Option State := drainDmem c (s.cell c).storeBuf s

/-! ## Scoreboard and imprecise reports (R109, R115 to R117) -/

/-- A register is pending under a non-local access or a long operation. -/
def Cell.regPending (k : Cell) (r : RegNo) : Bool :=
  r != 0 && (k.loadQ.any (fun e => e.dest == .gpr r) || k.longOps.any (fun o => o.dest == some (.gpr r)))

/-- A destination is a half of ACC. -/
def Dest.inAcc : Dest → Bool
  | .ah => true
  | .al => true
  | _ => false

/-- ACC, or a half of it, is pending under a long operation or a non-local access: it is one register to the scoreboard,
so that a use of either half holds. (DEDUCED, log 14) -/
def Cell.accPending (k : Cell) : Bool :=
  k.longOps.any (fun o => match o.dest with | none => true | some d => d.inAcc) || k.loadQ.any (fun e => e.dest.inAcc)

/-- The older of the imprecise faults that satisfy `p`. (DEDUCED, log 14) -/
def Cell.oldestImp (k : Cell) (p : ImpFault → Bool) : Option ImpFault :=
  (k.imp.filter p).foldl (fun m f =>
    match m with
    | none => some f
    | some g => if f.seq < g.seq then some f else some g) none

/-- A fault of a register among `regs`, or of ACC where `acc`. A fault whose destination is g0 or none has no use point.
(DEDUCED, log 14) -/
def impUse (regs : List RegNo) (acc : Bool) (f : ImpFault) : Bool :=
  (match f.dest with
    | some (.gpr r) => r != 0 && regs.contains r
    | some d => acc && d.inAcc
    | none => false) || (acc && f.acc)

/-! ## Exceptions -/

/-- A synchronous exception (R181). -/
structure Exc where
  vector : Nat
  detail : Nat
  info : Nat
  addr : Word
  /-- An imprecise report with IMP = 1 (R115). -/
  imp : Bool
  /-- The pending imprecise fault that it reports, at a use point, at a barrier or at an entry. -/
  report : Option ImpFault
deriving DecidableEq, Repr

/-- A fault of an access, with the address for FADDR (R177). -/
def accessFault (vector detail : Nat) (addr : Word) : Exc := ⟨vector, detail, 0, addr, false, none⟩

/-- A fault without an address. -/
def plainFault (vector detail : Nat) : Exc := ⟨vector, detail, 0, 0, false, none⟩

/-- The imprecise report of a fault. -/
def impReport (f : ImpFault) : Exc := ⟨f.vector, f.detail, 0, f.addr, true, some f⟩

/-- A RETE claim escalates with its own DETAIL (R183, R185). -/
def isClaim (e : Exc) : Bool := e.vector == 6 && e.detail == 15

/-- The exception stack top: the DSP word of gate entry 0 (R172). -/
def excTop (c : Nat) (s : State) : Option Nat × State :=
  match s.dmRead c (((s.cell c).ioReg Reg.GATEBASE.base).toNat + 12) 4 with
  | (.ok l, s) => (some (leNat l), s)
  | (_, s) => (none, s)

/-- A frame fits below the stack top: a multiple of 4 in 32 to 0x2000 (R185). -/
def topOk (t : Nat) : Bool := decide (t % 4 = 0 ∧ 32 ≤ t ∧ t ≤ 0x2000)

/-- Stack top that an entry uses: g15 at supervisor level, the exception stack top else (R176); none where it is not
valid. (DEDUCED, log 15) -/
def frameTop (c : Nat) (s : State) : Option Nat × State :=
  let k := s.cell c
  let p := if k.sup then (some (k.g 15).toNat, s) else excTop c s
  (p.1.bind (fun t => if topOk t then some t else none), p.2)

/-- Writes a 32-byte frame (R177). -/
def writeFrame (c top : Nat) (fpc : BitVec 13) (cause addr instr : Word) (s : State) : State :=
  let k := s.cell c
  s.dmWrite c (top - 32) k.seq (words4 [fpc.zeroExtend 32, k.cstat, cause, addr, instr, k.g 15,
      s.time.gtime.truncate 32, 0])

/-- CSTAT after an entry (R178): PRIV 1, DS 0, and the fields given. -/
def entryStat (v : Word) (ml : Option Nat) (fh esc : Bool) : Word :=
  let v := setBits (Machine.setBit v 4 true) 9 8 0
  let v := match ml with | some m => setBits v 3 0 m | none => v
  let v := Machine.setBit v 5 fh
  if esc then Machine.setBit v 6 true else v

/-- A destination in a routine that is over receives nothing. -/
def Dest.over : Dest → Dest
  | .t => .nowhere
  | .m _ => .nowhere
  | d => d

/-- A swap that a sample boundary left to the end of an instruction is made (R290). -/
def swapAtEnd (k : Cell) : Cell := if k.swapDue then { swapMade k with swapDue := false } else k

/-- The routine in progress is over: what is still on its way to T or a micro-register goes nowhere (R159). -/
def Cell.dropMicro (k : Cell) : Cell :=
  { swapAtEnd k with
    micro := none
    loadQ := k.loadQ.map (fun e => { e with dest := e.dest.over })
    longOps := k.longOps.map (fun o => { o with dest := o.dest.map Dest.over })
    imp := k.imp.map (fun f => { f with dest := f.dest.map Dest.over }) }

/-- The cell halts with a cell-reach error that waits for its block. After an exception that cannot be entered it writes
nothing more, its buffered stores included (R186). (DEDUCED, log 29) -/
def cellFails (why : Nat) (k : Cell) : Cell :=
  { k.dropMicro with storeBuf := (if why = 1 then [] else k.storeBuf), halted := true, byDebug := false, reachErr := if k.reachErr = 0 then why else k.reachErr, slot := none, hold := .none }

/-- Entry to the handler: the frame stands, g15 and CSTAT change, the vector is fetched (R176, R182). -/
def enterAt (c top vector : Nat) (stat : Word) (s : State) : State :=
  s.onCell c (fun k =>
    let k := (k.setG 15 (BitVec.ofNat 32 (top - 32))).setCstat stat
    { k.dropMicro with pc := BitVec.ofNat 13 (16 * vector), slot := none, hold := .none, behind := none })

/-- Escalation (R185, R186): `detail` of the escalation, and what was escalated. -/
def escalate (c detail evec edet : Nat) (flags : Nat) (fpc : BitVec 13) (addr instr : Word) (s : State) : State :=
  let k := s.cell c
  let top := (k.ioReg Reg.ESP.base).toNat
  if topOk top then
    let cause := flags + (!k.imp.isEmpty).toNat * 2 ^ 30 + edet * 2 ^ 24 + evec * 2 ^ 16 + detail * 2 ^ 8 + 2
    let s := writeFrame c top fpc (BitVec.ofNat 32 cause) addr instr s
    let s := enterAt c top 2 (entryStat k.cstat (some 15) true true) s
    s.onCell c (fun k' => { k' with imp := [], escOrigin := k.sup })
  else s.onCell c (cellFails 1)

/-- The lowest DETAIL of an escalation, none where the exception has its own vector (R185). (DEDUCED, log 15) -/
def escDetail (k : Cell) (sync claim frameBad : Bool) : Option Nat :=
  if sync && k.ml == 15 then some 0
  else if sync && k.fh then some 1
  else if claim then some 3
  else if frameBad then some 2
  else if 8 ≤ k.shadow.length then some 4
  else none

/-- Entry of a fault or machine check to its own vector (R176 to R182). -/
def enterSync (c top : Nat) (e : Exc) (dslot : Bool) (fpc : BitVec 13) (instr : Word) (s : State) : State :=
  let k := s.cell c
  let cause := e.imp.toNat * 2 ^ 31 + dslot.toNat * 2 ^ 29 + e.info * 2 ^ 16 + e.detail * 2 ^ 8 + e.vector
  let s := writeFrame c top fpc (BitVec.ofNat 32 cause) e.addr instr s
  let s := enterAt c top e.vector (entryStat k.cstat none true false) s
  s.onCell c (fun k' => { k' with shadow := (k.sup, false) :: k.shadow })

/-- An imprecise fault is reported, and counted in PFIMP unless a barrier reports it (R115, R128). -/
def reported (imp : Bool) (f : ImpFault) (k : Cell) : Cell :=
  let k := { k with imp := k.imp.erase f }
  if imp && k.pfCounts then k.countIo Reg.PFIMP.base 0xFFFFFFFF else k

/-- A fault or machine check enters its vector, or escalates; `fpc` and `instr` are those of the frame.
(DEDUCED, log 14, 15) -/
def takeSync (c : Nat) (e : Exc) (dslot : Bool) (fpc : BitVec 13) (instr : Word) (s : State) : State :=
  let k := s.cell c
  if k.esc then s.onCell c (cellFails 1)
  else
    match drainDmem c k.storeBuf s with
    | none => s
    | some s =>
      let s := match e.report with
        | some f => s.onCell c (reported e.imp f)
        | none => s
      let p := frameTop c s
      let s := p.2
      let k := s.cell c
      let edet := if isClaim e then 0 else e.detail
      match escDetail k true (isClaim e) p.1.isNone, k.oldestImp (fun _ => true), p.1 with
      | some d, _, _ => escalate c d e.vector edet (e.imp.toNat * 2 ^ 31 + dslot.toNat * 2 ^ 29) fpc e.addr instr s
      | none, some f, some top =>
        -- the entry is the report point of another fault unless it is a report itself (R115, R117)
        if e.report.isSome then enterSync c top e dslot fpc instr s
        else enterSync c top (impReport f) false fpc 0 (s.onCell c (reported true f))
      | none, none, some top => enterSync c top e dslot fpc instr s
      | none, _, none => s

/-- A branch whose delay slot does not complete has not taken effect: return stack, RSPTR and the spilled words are as
before it (R86). (DEDUCED, log 12) -/
def undoSlot (k : Cell) : Cell :=
  match k.slot with
  | none => k
  | some b =>
    let k := ({ k with pc := b.branch, rs := b.rs, slot := none }).setIo Reg.RSPTR.base b.rsptr
    b.spill.foldl (fun k e => k.setDmem e.1 e.2) k

/-- An instruction faults: with its branch, where it stands in a delay slot (R86, R101, R179). (DEDUCED, log 12, 13) -/
def takeFault (c : Nat) (e : Exc) (word : Word) (s : State) : State :=
  let k := s.cell c
  match k.slot with
  | none => takeSync c e false k.pc word s
  | some b =>
    if e.vector = 3 ∧ e.detail = 2 then takeSync c e false b.branch b.word (s.onCell c undoSlot)
    else takeSync c e true b.branch word (s.onCell c undoSlot)

/-! ## Interrupts (R184, R185) -/

/-- The slot of highest level that the mask level admits: (level, source). -/
def admittedAt (c : Nat) (s : State) : Option (Nat × Nat) :=
  let k := s.cell c
  if k.esc then none else icAdmitted (c % 128) k.ml (s.region (c / 128))

/-- An admitted interrupt is taken with the frame PC `fpc` (R176 to R185). An imprecise fault that is pending is
reported instead; an entry that escalates leaves the interrupt in its slot. (DEDUCED, log 11, 14) -/
def takeInterrupt (c level src : Nat) (fpc : BitVec 13) (s : State) : State :=
  match drainDmem c (s.cell c).storeBuf s with
  | none => s
  | some s =>
    let p := frameTop c s
    let s := p.2
    let k := s.cell c
    match escDetail k false false p.1.isNone, k.oldestImp (fun _ => true), p.1 with
    | some d, _, _ => escalate c d (16 + level) 0 0 fpc 0 0 s
    | none, some f, _ => takeSync c (impReport f) false fpc 0 s
    | none, none, some top =>
      let s := s.onRegion (c / 128) (fun _ R => icTake (c % 128) level R)
      let s := writeFrame c top fpc (BitVec.ofNat 32 (src * 2 ^ 16 + 16 + level)) 0 0 s
      let s := enterAt c top (16 + level) (entryStat k.cstat (some level) false false) s
      s.onCell c (fun k' => { k' with shadow := (k.sup, false) :: k.shadow })
    | none, none, none => s

/-- An admitted interrupt is taken at the cell's PC, but not between a branch and its delay slot (R86, R179, R184). -/
def takeAdmitted (c : Nat) (s : State) : State :=
  if (s.cell c).running && (s.cell c).slot.isNone then
    match admittedAt c s with
    | some (level, src) => takeInterrupt c level src (s.cell c).pc s
    | none => s
  else s

/-! ## Retirement, delay slots, prediction (R85, R119 to R123, R128) -/

/-- Counts one event in a performance counter where `on`. -/
def Cell.pfIf (k : Cell) (on : Bool) (a : Nat) : Cell := if on then k.countIo a 0xFFFFFFFF else k

/-- Predictor entry of the branch at `p` (R121). -/
def predIndex (k : Cell) (p : BitVec 13) : Nat :=
  let v := k.ioReg Reg.CKEY.base
  bitsOf p 9 2 ^^^ bitsOf v 7 0 ^^^ bitsOf v 15 8 ^^^ bitsOf v 23 16 ^^^ bitsOf v 31 24

/-- Counter 1 and target 0 (R122). -/
def predDefault (_ : Nat) : BitVec 15 := 0x2000

def Cell.predAt (k : Cell) (p : BitVec 13) : BitVec 15 := mapGet predDefault k.pred (predIndex k p)

/-- The branch at `p` is predicted taken, to the target given. -/
def Cell.predicts (k : Cell) (p : BitVec 13) : Option (BitVec 13) :=
  let e := k.predAt p
  if !k.nbp && decide (2 ≤ bitsOf e 14 13) then some (e.truncate 13) else none

/-- A branch retires: its entry learns (R122). -/
def predLearn (old : Cell) (b : Slot) (k : Cell) : Cell :=
  if b.cond && !old.nbp then
    let e := old.predAt b.branch
    let n := bitsOf e 14 13
    let e' : Nat := if b.taken then min 3 (n + 1) * 2 ^ 13 + b.target.toNat else (n - 1) * 2 ^ 13 + e.toNat % 2 ^ 13
    { k with pred := mapSet predDefault k.pred (predIndex old b.branch) (BitVec.ofNat 15 e') }
  else k

/-- Counts one retired instruction in PFRET where `on`. -/
def Cell.pfRetIf (k : Cell) (on : Bool) : Cell :=
  if on then
    let v := (k.ioReg Reg.PFRET_H.base ++ k.ioReg Reg.PFRET_L.base : BitVec 64).toNat
    let v' := BitVec.ofNat 64 (min (2 ^ 64 - 1) (v + 1))
    (k.setIo Reg.PFRET_L.base (v'.truncate 32)).setIo Reg.PFRET_H.base ((v' >>> 32).truncate 32)
  else k

/-- What a branch counts when it retires. -/
def branchRetire (old : Cell) (b : Slot) (k : Cell) : Cell :=
  let on := old.pfCounts
  predLearn old b (((k.pfRetIf on).pfIf (on && b.taken) Reg.PFBRTKN.base).pfIf (on && b.cond && b.mis) Reg.PFBRMIS.base)

/-- An instruction retires; `old` is the cell as it stood before it. A delay slot is followed by the branch's target,
and its branch retires with it. A single step then halts the cell (R429). (DEDUCED, log 12; DESIGN CHOICE, log 25) -/
def retire (old : Cell) (k : Cell) : Cell :=
  let k := k.pfRetIf old.pfCounts
  let k := match old.slot with
    | none => { k with pc := old.pc + 4 }
    | some b => { branchRetire old b k with pc := b.target, slot := none }
  if old.stepping && k.slot.isNone then { k with stepping := false, halted := true } else k

/-- An instruction without delay slot that names its successor retires. -/
def retireTo (pc : BitVec 13) (old : Cell) (k : Cell) : Cell := { retire old k with pc := pc }

/-- A branch waits for its delay slot, or retires at once where the slot is annulled. (DEDUCED, log 12) -/
def branchGo (b : Slot) (annul : Bool) (old : Cell) (k : Cell) : Cell :=
  if annul then
    let k := { branchRetire old b k with pc := old.pc + 8 }
    if old.stepping then { k with stepping := false, halted := true } else k
  else { k with pc := old.pc + 4, slot := some b }

/-- A redirect without delay slot takes effect as the instruction ends (R157); a branch that is not taken goes on at the
next instruction. (DEDUCED, log 58) -/
def redirectNow (b : Slot) (old k : Cell) : Cell :=
  let k := { branchRetire old b k with pc := if b.taken then b.target else old.pc + 4 }
  if old.stepping then { k with stepping := false, halted := true } else k

/-- The instruction ends, and the redirect that its routine set takes effect (R157). (DEDUCED, log 13) -/
def microEndWith (m : Micro) (old k : Cell) : Cell :=
  match m.redirect with
  | none => retire old k
  | some r =>
    if r.fetch then redirectNow r.slot old k else branchGo { r.slot with spill := m.spill } r.skip old k

/-- An instruction that held completes: the routine that carries it out, if one does, ends with its redirect. -/
def holdOver (k k' : Cell) : Cell :=
  match k.micro with
  | some m => microEndWith m { k.dropMicro with hold := .none } { k'.dropMicro with hold := .none }
  | none => retire { k with hold := .none } { k' with hold := .none }

/-! ## Control store and dispatch parity (R165, R166) -/

/-- First byte of the golden copy of cell `c`. (DEDUCED, log 21) -/
def goldOf (c : Nat) (s : State) : Nat := goldBase (c % 128 / 16) (c % 16) (s.region (c / 128))

/-- Location of a word or entry as the cell remembers it: entries by 1024 x set + index. -/
def parKey (set index : Nat) : Nat := set * 1024 + index

/-- A register of the undo record takes its former value (R165). -/
def putUndo (e : Dest × Word) (k : Cell) : Cell :=
  match e.1 with
  | .gpr r => k.setG r e.2
  | .ah => { k with acc := (e.2 ++ k.acc.truncate 32 : BitVec 64) }
  | .al => { k with acc := ((k.acc >>> 32).truncate 32 ++ e.2 : BitVec 64) }
  | _ => k

/-- What stood before the segment stands again, and the segment starts from its first microword (R165). -/
def rewind (k : Cell) : Cell :=
  match k.micro with
  | none => k
  | some m =>
    { m.undo.foldl (fun k e => putUndo e k) k with
      micro := some { m with upc := m.segUpc, m := m.segM, t := m.segT, ustack := m.segStack, count := 0, undo := [] } }

/-- A load of the present segment has not written its register (R165). -/
def segmentLoads (k : Cell) : Bool :=
  match k.micro with
  | some m => k.loadQ.any (fun e => decide (m.segSeq ≤ e.seq))
  | none => false

/-- The failed word or entry is fetched again from the golden copy, the undo record restored and the segment executed
again; a permanent error halts the cell, and leaves BK_CSPAR_CNT and BK_CSPAR_LAST, which count recovered errors, as
they are. While a load of the segment is on its way nothing happens. (DEDUCED, log 21) -/
def parityRecover (c : Nat) (dt : Bool) (set index : Nat) (s : State) : State :=
  let k := s.cell c
  let b := c % 128 / 16
  if segmentLoads k then s
  else
    let again := match k.lastPar with
      | some (d, i, t) => d == dt && i == parKey set index && decide ((s.time.gtime - t).toNat < oneSecond)
      | none => false
    let dirty := match k.micro with | some m => m.dirty | none => false
    let base := goldOf c s
    let q := if again || dirty then (none, s)
      else if dt then s.rmem (c / 128) (base + 0x40 + 0x200 * set + 2 * index) 2
      else s.rmem (c / 128) (base + 0x1000 + 16 * index) 16
    let s := q.2.onCell c (fun k => { k with lastPar := some (dt, parKey set index, s.time.gtime) })
    match q.1 with
    | none => s.onCell c (cellFails 2)
    | some l =>
      let v := leNat l
      let s := s.onCell c (fun k =>
        rewind (if dt then
            { k with disp := mapSet (fun _ => 0) k.disp (256 * set + index) (dispEntry (v.testBit 15) (v % 1024)) }
          else { k with cstore := mapSet (fun _ => 0) k.cstore index (csWord v) }))
      s.onRegion (c / 128) (fun _ R =>
        tallyAt b 9 ((R.count (blk Reg.BK_CSPAR_CNT b)).setReg (blk Reg.BK_CSPAR_LAST b)
          (BitVec.ofNat 32 (dt.toNat * 2 ^ 16 + c % 16 * 2 ^ 12 + (if dt then set else 0) * 2 ^ 10 + index % 1024))))

/-- The dispatch entry `i` of set `d`, recovered first where its parity fails. -/
def dispatchRead (c d i : Nat) (s : State) : BitVec 12 × State :=
  let e := (s.cell c).dispatch d i
  if dispParityOk e then (e, s)
  else
    let s := parityRecover c true d i s
    ((s.cell c).dispatch d i, s)

/-! ## Execution of an instruction -/

/-- What an instruction does once it executes. -/
inductive Did where
  /-- It completes; the next instruction follows. -/
  | ok (s : State)
  /-- It completes and execution goes on at an address, without delay slot. -/
  | jump (s : State) (pc : BitVec 13)
  /-- It is a branch with its delay slot, which `annul` removes. -/
  | branch (s : State) (b : Slot) (annul : Bool)
  /-- A precise fault. -/
  | fault (s : State) (e : Exc)
  /-- It completes, and then acts outside the cell, which may reset the cell itself. -/
  | after (s : State) (f : State → State)
  /-- It holds: the same instruction executes again. -/
  | stay (s : State)

/-- Instructions that must not stand in a delay slot, by opcode (R87). (DEDUCED, log 13) -/
def slotForbidden (op : Nat) : Bool :=
  decide (0xC0 ≤ op) || [0x36, 0x37, 0x54, 0x55, 0x60, 0x61, 0x62, 0x63, 0x64, 0x65, 0x66, 0x67, 0x68, 0x69, 0x70, 0x71,
    0x72, 0x73, 0x74, 0x80, 0x90, 0x91, 0x92, 0x93, 0x96, 0x97].contains op

/-- Opcode of an instruction word (R60). -/
def opcodeOf (w : Word) : Nat := bitsOf w 31 24

/-- The cell takes an instruction: it runs, holds in nothing and has no routine in progress. -/
def canExecute (k : Cell) : Bool := k.running && k.hold == .none && k.micro.isNone

/-- What becomes of the cell after an instruction's own part. A return that lowers the mask level is followed by the
interrupt that it admits (R175, R183). (DESIGN CHOICE, log 9) -/
def finish (c : Nat) (word : Word) (old : Cell) (d : Did) : State :=
  match d with
  | .ok s => s.onCell c (retire old)
  | .after s f => f (s.onCell c (retire old))
  | .jump s pc => takeAdmitted c (s.onCell c (retireTo pc old))
  | .branch s b annul => s.onCell c (branchGo b annul old)
  | .fault s e => takeFault c e word s
  | .stay s => s

/-- Scoreboard check and imprecise reports of an instruction that uses `regs`, and ACC where `acc`; then `body`.
(DESIGN CHOICE, log 9) -/
def withUses (c : Nat) (regs : List RegNo) (acc : Bool) (body : State → Did) (s : State) : Did :=
  let k := s.cell c
  match k.oldestImp (impUse regs acc) with
  | some f => .fault s (impReport f)
  | none => if regs.any k.regPending || (acc && k.accPending) then .stay s else body s

/-- Dispatch of a base instruction: fetch check, base-set entry, then its own part (R87, R95, R329).
(DESIGN CHOICE, log 10; DEDUCED, log 13) -/
def dispatchBase (c : Nat) (word : Word) (body : State → Did) (s : State) : Did :=
  let k := s.cell c
  match s.readMem (c / 128) (.imem (c % 128) k.pc.toNat) 4 with
  | (.ok _, s) =>
    if k.slot.isSome && slotForbidden (opcodeOf word) then .fault s (plainFault 3 2)
    else
      let e := dispatchRead c 0 (opcodeOf word) s
      if !(e.2.cell c).running then .stay e.2
      else if dispValid e.1 then body e.2
      else .fault e.2 (plainFault 3 0)
  | (_, s) => .fault s (plainFault 5 4)

/-- Runs a base instruction on cell `c`: a cell that takes no instruction is unchanged, an admitted interrupt is taken
in place of the instruction (R180), except between a branch and its delay slot (R86). (DESIGN CHOICE, log 9, 10;
DEDUCED, log 11) -/
def runInstr (c : Nat) (word : Word) (regs : List RegNo) (acc : Bool) (body : State → Did) (s : State) : State :=
  let k := s.cell c
  if !canExecute k then s
  else
    match (if k.slot.isNone then admittedAt c s else none) with
    | some (level, src) => takeInterrupt c level src k.pc s
    | none => finish c word k (dispatchBase c word (withUses c regs acc body) s)

end Sys2Proof.Machine
end

