-- ==== Sys2Proof/Machine/Journal.lean ====
section
/-!
DEFINITION. MRAM and the journal engine: records, anchors, gleaning, the fault log, replay and power loss (R430 to
R441).
-/

namespace Sys2Proof.Machine

/-! ## MRAM (R430, R431) -/

def Chip.mramGet (h : Chip) (o n : Nat) : List Byte := mapRead zeroByte h.mram o n
def Chip.mramSet (h : Chip) (o : Nat) (bs : List Byte) : Chip := { h with mram := mapWrite zeroByte h.mram o bs }

/-- A word at an MRAM offset. -/
def Chip.mramWord (h : Chip) (o : Nat) : Nat := leNat (h.mramGet o 4)

/-- The bytes at `o` belong to an area whose layout the specification does not give: anchors, the key state but for the
replay directory, and the wear table's slots. (DESIGN CHOICE, log 42) -/
def mramOpaque (o : Nat) : Bool := decide (o < 0xA000) || decide (0x712000 ≤ o ∧ o < 0x71A000)

/-- Bytes as a reader of the MRAM window sees them: those of an area of unknown layout are free values.
(DESIGN CHOICE, log 42) -/
def State.mramRead (s : State) (o n : Nat) : List Byte × State :=
  ((List.range n).map (fun i =>
    if mramOpaque (o + i) then (Config.freeWord (s.free + i)).truncate 8 else mapGet zeroByte s.chip.mram (o + i)),
    { s with free := s.free + n })

/-! ## Records (R432) -/

/-- First byte of a segment and of the replay directory. -/
def segBase (n : Nat) : Nat := 0x12000 + n * 0x20000
def dirBase : Nat := 0xA000

/-- Bytes padded with zeros to a multiple of 8. -/
def pad8 (l : List Byte) : List Byte := l ++ List.replicate ((8 - l.length % 8) % 8) 0

/-- A record with its CRC and commit word. (DEDUCED, log 38) -/
def jnSeal (type : Nat) (payload : List Byte) (seq : Nat) : List Byte :=
  let h := words4 [0x4A524E4C, BitVec.ofNat 32 (type + payload.length * 256), BitVec.ofNat 32 seq]
  let crc := crc32c (h ++ payload)
  h ++ words4 [crc] ++ pad8 payload ++ words4 [~~~ BitVec.ofNat 32 seq, crc]

/-- Bytes that a record of a payload takes. -/
def jnSize (payload : List Byte) : Nat := 24 + (payload.length + 7) / 8 * 8

/-- An entry of the replay directory. -/
structure DirEntry where
  type : Nat
  key : Nat
  seq : Nat
  off : Nat
deriving DecidableEq, Repr

/-- The replay directory: entries up to the first of TYPE 0. -/
def dirFrom (h : Chip) : Nat → Nat → List DirEntry
  | 0, _ => []
  | n + 1, o =>
    if h.mramWord o = 0 then []
    else ⟨h.mramWord o, h.mramWord (o + 4), h.mramWord (o + 8), h.mramWord (o + 12)⟩ :: dirFrom h n (o + 16)

def Chip.dir (h : Chip) : List DirEntry := dirFrom h 2048 dirBase

/-- Writes the directory; what was longer before is zeroed. -/
def dirSave (l : List DirEntry) (h : Chip) : Chip :=
  let bytes := words4 ((l.take 2048).flatMap (fun e =>
    [BitVec.ofNat 32 e.type, BitVec.ofNat 32 e.key, BitVec.ofNat 32 e.seq, BitVec.ofNat 32 e.off]))
  h.mramSet dirBase (bytes ++ List.replicate (16 * h.dir.length - bytes.length) 0)

/-- A committed record becomes live: it replaces the one of its type and key, but for wear deltas (R433).
(DEDUCED, log 38) -/
def dirPut (e : DirEntry) (l : List DirEntry) : List DirEntry :=
  if e.type ≠ 5 ∧ l.any (fun f => f.type == e.type && f.key == e.key) then
    l.map (fun f => if f.type = e.type ∧ f.key = e.key then e else f)
  else l ++ [e]

/-! ## Segments and anchors (R432, R435) -/

def Chip.onJn (h : Chip) (f : Journal → Journal) : Chip := { h with jn := f h.jn }

/-- Segments not in use. -/
def jnFree (h : Chip) : List Nat := (List.range 48).filter (fun s => !h.jn.segs.contains s)

/-- The free segment with the fewest uses in the wear table, the lowest of several. (DEDUCED, log 38) -/
def jnPick (h : Chip) : Option Nat :=
  (jnFree h).foldl (fun m s => match m with
    | none => some s
    | some t => if mapGet zeroNat h.jn.wear s < mapGet zeroNat h.jn.wear t then some s else some t) none

/-- The anchor is written: to the anchor that does not hold the newest GEN, in its next slot. (DEDUCED, log 38) -/
def jnAnchor (h : Chip) : Chip :=
  h.onJn (fun j =>
    let g := j.gen + 1
    { j with gen := g, anchors := mapSet noneAt j.anchors (g % 2 * 16 + g / 2 % 16) (some (g, j.segs)) })

/-- Writes a record at the head, which has room, and updates the directory. -/
def jnAppend (type : Nat) (payload : List Byte) (h : Chip) : Chip :=
  match h.jn.head with
  | none => h
  | some n =>
    let off := segBase n + h.jn.pos
    let seq := h.jn.seq + 1
    let h := h.mramSet off (jnSeal type payload seq)
    let h := dirSave (dirPut ⟨type, leNat (payload.take 4), seq, off⟩ h.dir) h
    (h.onJn (fun j => { j with seq := seq, pos := j.pos + jnSize payload })).setReg Reg.JN_LASTSEQ.base (BitVec.ofNat 32 seq)

/-- Takes a new head segment: its header, its wear delta record, the anchor (R435). None when the journal is full.
(DEDUCED, log 38) -/
def jnNewHead (h : Chip) : Option Chip :=
  (jnPick h).map (fun n =>
    let q := h.jn.segSeq + 1
    let hd := words4 [0x4A534547, BitVec.ofNat 32 q]
    let h := h.mramSet (segBase n) (hd ++ words4 [crc32c hd] ++ List.replicate 52 0)
    let h := h.onJn (fun j => { j with head := some n, pos := 0x40, segs := j.segs ++ [n], segSeq := q })
    jnAnchor (jnAppend 5 (words4 [0, BitVec.ofNat 32 n]) h))

/-- The head has room for a payload's record. -/
def jnRoom (payload : List Byte) (h : Chip) : Bool := h.jn.head.isSome && decide (h.jn.pos + jnSize payload ≤ 0x20000)

/-- Writes a record, on a new head where the present one lacks room. -/
def jnPlace (type : Nat) (payload : List Byte) (h : Chip) : Option Chip :=
  if jnRoom payload h then some (jnAppend type payload h)
  else (jnNewHead h).map (jnAppend type payload)

/-! ## Status (R441) -/

def jnBit (i : Nat) (h : Chip) : Bool := (h.reg Reg.JN_STAT.base).getLsbD i
def setJnBit (i : Nat) (b : Bool) (h : Chip) : Chip := h.setReg Reg.JN_STAT.base (Machine.setBit (h.reg Reg.JN_STAT.base) i b)

/-- Records a completion code; codes 1, 2, 4 and 5 are counted as refused (R434). -/
def jnCode (n : Nat) (h : Chip) : Chip :=
  let h := h.setReg Reg.JN_STAT.base (setBits (h.reg Reg.JN_STAT.base) 2 0 n)
  if n = 1 ∨ n = 2 ∨ n = 4 ∨ n = 5 then h.count Reg.JN_REFUSED.base else h

/-- JN_STAT as read: BUSY, FULL and QN are live. -/
def jnStat (h : Chip) : Word :=
  let v := h.reg Reg.JN_STAT.base
  setBits (Machine.setBit (Machine.setBit v 31 (!h.jn.queue.isEmpty || v.getLsbD 29)) 28 (jnFree h).isEmpty) 25 24
    (h.jn.queue.length - 1)

/-- Gleaning runs while more than 36 segments are in use, but not during PFW (R436, R438). (DESIGN CHOICE, log 39) -/
def jnWatch (h : Chip) : Chip := if 36 < h.jn.segs.length ∧ jnBit 30 h = false then setJnBit 29 true h else h

/-! ## Commands (R434, R436, R437) -/

/-- JN_CTL.COMMIT: the command queues, or is refused. (DEDUCED, log 38) -/
def jnCommit (h : Chip) : Chip :=
  let hdr := h.reg Reg.JN_HDR.base
  let t := bitsOf hdr 7 0
  if jnBit 30 h then jnCode 1 h
  else if ¬(t = 1 ∨ t = 2 ∨ t = 4) ∨ bitsOf hdr 23 8 > 4080 then jnCode 2 h
  else if 3 ≤ h.jn.queue.length then jnCode 5 h
  else h.onJn (fun j => { j with queue := j.queue ++ [⟨h.reg Reg.JN_SRC.base, hdr⟩] })

/-- Region and offset that JN_SRC names. -/
def jnSrc (v : Word) : Nat × Nat := (bitsOf v 22 20, bitsOf v 19 3 * 8)

/-- Reads a staged payload; none where it cannot be read. -/
def jnPayload (v : Word) (n : Nat) (s : State) : Option (List Byte) × State :=
  let p := jnSrc v
  if n = 0 then (some [], s) else if p.2 + n > 0x100000 then (none, s) else s.rmem p.1 p.2 n

/-- The command in progress ends: committed, payload unreadable, or journal full. -/
def jnDone (s : State) : State :=
  match s.chip.jn.queue with
  | [] => s
  | c :: l =>
    let s := { s with chip := s.chip.onJn (fun j => { j with queue := l }) }
    let q := jnPayload c.src (bitsOf c.hdr 23 8) s
    let s := q.2
    match q.1 with
    | none => { s with chip := jnCode 3 s.chip }
    | some p =>
      match jnPlace (bitsOf c.hdr 7 0) p s.chip with
      | none => { s with chip := jnCode 4 s.chip }
      | some h => { s with chip := jnWatch (jnCode 0 h) }

/-- A record of the boot unit, written at once; false where the journal refuses it. -/
def jnBoot (type : Nat) (payload : List Byte) (h : Chip) : Bool × Chip :=
  match jnPlace type payload h with
  | some h => (true, jnWatch h)
  | none => (false, h)

/-- First byte of the fault-log entry that follows sequence `n`. (DEDUCED, log 40) -/
def flogAt (n : Nat) : Nat := 0x612000 + n % 16384 * 64

/-- JN_CTL.FLOG: a staged fault record is appended to the fault log (R437). (DEDUCED, log 40) -/
def jnFlog (s : State) : State :=
  if jnBit 30 s.chip then { s with chip := jnCode 1 s.chip }
  else
    let q := jnPayload (s.chipReg Reg.JN_SRC.base) 64 s
    let s := q.2
    match q.1 with
    | none => { s with chip := jnCode 3 s.chip }
    | some p =>
      let n := s.chip.jn.flogSeq
      let e := p.take 56 ++ words4 [BitVec.ofNat 32 (n + 1), ~~~ BitVec.ofNat 32 (n + 1)]
      { s with chip := jnCode 0 ((s.chip.mramSet (flogAt n) e).onJn (fun j => { j with flogSeq := n + 1 })) }

/-- One live record of a segment is copied to the head with a new SEQ; a wear delta is folded instead (R436).
(DESIGN CHOICE, log 39) -/
def gleanOne (e : DirEntry) (h : Chip) : Option Chip :=
  if e.type = 5 then
    let n := h.mramWord (e.off + 20)
    let h := h.onJn (fun j => { j with wear := mapSet zeroNat j.wear n (mapGet zeroNat j.wear n + 1) })
    some (dirSave (h.dir.filter (fun f => f != e)) h)
  else jnPlace e.type (h.mramGet (e.off + 16) (h.mramWord (e.off + 4) / 256 % 65536)) h

/-- Copies records while they fit. (DESIGN CHOICE, log 39) -/
def gleanAll : List DirEntry → Chip → Option Chip
  | [], h => some h
  | e :: l, h => (gleanOne e h).bind (gleanAll l)

/-- The oldest segment is gleaned and freed (R436). A segment that is the head, or whose records do not fit, stays.
(DESIGN CHOICE, log 39) -/
def jnGlean (h : Chip) : Chip :=
  match h.jn.segs with
  | n :: _ :: _ =>
    let own := h.dir.filter (fun e => decide (segBase n ≤ e.off ∧ e.off < segBase n + 0x20000))
    match gleanAll own h with
    | none => setJnBit 29 false h
    | some h =>
      let h := jnAnchor (h.onJn (fun j => { j with segs := j.segs.erase n }))
      let h := h.setReg Reg.JN_GLEANS.base (h.reg Reg.JN_GLEANS.base + 1)
      setJnBit 29 (decide (36 < h.jn.segs.length)) h
  | _ => setJnBit 29 false h

/-- Gleaning as JN_CTL.GLEAN or the segment count starts it; refused during PFW (R438). -/
def jnGleanCmd (h : Chip) : Chip := if jnBit 30 h then jnCode 1 h else jnGlean h

/-- A write of JN_CTL: COMMIT and GLEAN together are both accepted (R439). -/
def jnCtl (v : Word) (s : State) : State :=
  let s := if v.getLsbD 0 then { s with chip := jnCommit s.chip } else s
  let s := if v.getLsbD 1 then jnFlog s else s
  if v.getLsbD 2 then { s with chip := jnGleanCmd s.chip } else s

/-! ## Replay (R435) -/

/-- The record at offset `o` of the MRAM, within a segment that ends at `stop`: its entry where it is committed. -/
def jnRecordAt (h : Chip) (o stop : Nat) : Option (DirEntry × Nat) :=
  let b := h.mramGet o 16
  let len := leNat ((b.drop 4).take 4) / 256 % 65536
  if leNat (b.take 4) ≠ 0x4A524E4C ∨ len > 4080 ∨ o + 24 + (len + 7) / 8 * 8 > stop then none
  else
    let p := h.mramGet (o + 16) len
    let seq := leNat ((b.drop 8).take 4)
    if h.mramGet o (24 + (len + 7) / 8 * 8) = jnSeal (b.getD 4 0).toNat p seq then
      some (⟨(b.getD 4 0).toNat, leNat (p.take 4), seq, o⟩, len)
    else none

/-- Accepts the records of a segment from `o` on while SEQ rises; answers the entries and the place after them. -/
def jnScan (h : Chip) (stop : Nat) : Nat → Nat → Option Nat → List DirEntry → List DirEntry × Nat × Option Nat
  | 0, o, last, l => (l, o, last)
  | n + 1, o, last, l =>
    match jnRecordAt h o stop with
    | none => (l, o, last)
    | some (e, len) =>
      if (match last with | some q => decide (e.seq ≤ q) | none => false) then (l, o, last)
      else jnScan h stop n (o + 24 + (len + 7) / 8 * 8) (some e.seq) (dirPut e l)

/-- Scans the in-use segments in order. -/
def jnScanAll (h : Chip) : List Nat → Nat → Option Nat → List DirEntry → List DirEntry × Nat × Option Nat
  | [], pos, last, l => (l, pos, last)
  | n :: ns, _, last, l =>
    let r := jnScan h (segBase n + 0x20000) 5462 (segBase n + 0x40) last l
    jnScanAll h ns (r.2.1 - segBase n) r.2.2 r.1

/-- The valid anchor with the greatest GEN. -/
def jnBest (j : Journal) : Option (Nat × List Nat) :=
  j.anchors.foldl (fun m e => match m, e.2 with
    | none, a => a
    | some b, some a => if b.1 < a.1 then some a else some b
    | some b, none => some b) none

/-- Value of the live record of a type: the word after its KEY. -/
def jnValue (type : Nat) (l : List DirEntry) (h : Chip) : Nat :=
  match l.find? (fun e => e.type == type) with
  | some e => h.mramWord (e.off + 20)
  | none => 0

/-- Committed fault-log entries: sequence, KIND and LOC. (DEDUCED, log 40) -/
def flogEntries (h : Chip) : List (Nat × Nat × Nat) :=
  let is := ((h.mram.filter (fun e => decide (0x612000 ≤ e.1 ∧ e.1 < 0x712000))).map (fun e =>
      (e.1 - 0x612000) / 64)).eraseDups
  is.filterMap (fun i =>
    let o := 0x612000 + i * 64
    let q := h.mramWord (o + 0x38)
    if h.mramGet (o + 0x3C) 4 = words4 [~~~ BitVec.ofNat 32 q] then
      some (q, h.mramWord (o + 0x10) / 2 ^ 24, h.mramWord (o + 0x10) % 65536)
    else none)

/-- The cell with linear index `c` is retired again. -/
def reRetire (c : Nat) (s : State) : State :=
  s.onRegion (c / 128) (fun _ R => setBlkBit Reg.BK_RETIRED (c % 128 / 16) (c % 16) true R)

/-- XL_Pp_LANESTAT.RETIRED of a lane is set (R382). -/
def laneRetire (p lane : Nat) (h : Chip) : Chip :=
  let a := regAt Reg.XL_P_LANESTAT p 0
  h.setReg a (Machine.setBit (h.reg a) lane true)

/-- Retirements of the latest type 4 record, and of later fault-log entries (R433, R435). -/
def jnRetirements (l : List DirEntry) (s : State) : State :=
  let h := s.chip
  let off := match l.find? (fun e => e.type == 4) with | some e => some (e.off + 20) | none => none
  let s := match off with
    | none => s
    | some o =>
      let s := foldN 1024 (fun c s =>
        if (mapGet zeroByte h.mram (o + c / 8)).getLsbD (c % 8) then reRetire c s else s) s
      let lanes := BitVec.ofNat 32 (h.mramWord (o + 128))
      { s with chip := foldN 16 (fun i k => if lanes.getLsbD i then laneRetire (i / 4) (i % 4) k else k) s.chip }
  let seen := match off with | some o => h.mramWord (o + 132) | none => 0
  (flogEntries h).foldl (fun (s : State) (e : Nat × Nat × Nat) =>
    if e.1 ≤ seen then s
    else if e.2.1 = 1 then reRetire (e.2.2 % 1024) s
    else if e.2.1 = 5 then { s with chip := laneRetire (e.2.2 / 4 % 4) (e.2.2 % 4) s.chip }
    else s) s

/-- A retirement or a permanent assignment of a slice, as the calibration record holds it, is in force again (R252). -/
def sliceRestore (R : Region) (w : Nat × Word) : Region :=
  let R := R.setReg (regAt Reg.AD_SLICE_STAT w.1 0) w.2
  if 16 ≤ w.1 ∧ bitsOf w.2 31 28 = 0 then R.setPerm (w.1 - 16) (some (bitsOf w.2 20 16)) else R

/-- The calibration of every region is restored (R252). -/
def calRestore (s : State) : State :=
  s.chip.jn.cal.foldl (fun s e => s.onRegion e.1 (fun _ R => e.2.foldl sliceRestore R)) s

/-- What a calibration record of a region says of its slices. -/
def calKept (R : Region) : FMap Word := (List.range 18).filterMap (fun j => (sliceKept j R).map (fun w => (j, w)))

/-- Free words of a calibration record after its KEY, whose contents are internal. (DESIGN CHOICE, log 42) -/
def calWords : Nat := 18

/-- The boot unit records the calibration of region `r` (R252, R433). (DESIGN CHOICE, log 42) -/
def calRecord (r : Nat) (s : State) : State :=
  let p := words4 (BitVec.ofNat 32 r :: (List.range calWords).map (fun i => Config.freeWord (s.free + i)))
  let h := s.chip.onJn (fun j => { j with cal := mapSet (fun _ => []) j.cal r (calKept (s.region r)) })
  { s with chip := (jnBoot 3 p h).2, free := s.free + calWords }

/-- A calibration of slice `j` of region `r` ends; one that retires a slice or assigns a spare for good is recorded
(R250, R433). -/
def calEnds (r j : Nat) (inRange : Bool) (s : State) : State :=
  let was := calKept (s.region r)
  let s := s.onRegion r (fun x R => calComplete x j inRange R)
  if calKept (s.region r) = was then s else calRecord r s

/-- Replay of the journal at start-up. -/
def jnReplay (s : State) : State :=
  let h := s.chip
  let best := jnBest h.jn
  let segs := match best with | some a => a.2 | none => []
  let r := jnScanAll h segs 0 none []
  let last := r.2.2.getD 0
  let flog := (flogEntries h).foldl (fun m e => max m e.1) 0
  let lms := jnValue 6 r.1 h
  let h := dirSave r.1 h
  let h := { h with
    jn := { h.jn with
      head := segs.getLast?, pos := r.2.1, segs := segs
      segSeq := match segs.getLast? with | some n => h.mramWord (segBase n + 4) | none => 0
      seq := last, gen := match best with | some a => a.1 | none => 0, flogSeq := flog }
    boot := { h.boot with mirror := jnValue 7 r.1 h, lmsLimit := lms }
    replayed := true }
  let h := (h.setReg Reg.JN_LASTSEQ.base (BitVec.ofNat 32 last)).setReg Reg.BT_LMSNEXT.base (BitVec.ofNat 32 lms)
  jnRetirements r.1 (calRestore { s with chip := h })

/-! ## Power loss (R438) -/

/-- PFW is recognised: commands are refused, gleaning stops, the boot unit commits the lifetime counters and a
reset-history record, whose contents the specification does not give. (DESIGN CHOICE, log 41) -/
def pfwOn (s : State) : State :=
  if jnBit 30 s.chip then s
  else
    let h := lifeSave (setJnBit 29 false (setJnBit 30 true s.chip))
    let p := words4 (0 :: (List.range 11).map (fun i => Config.freeWord (s.free + i)))
    { s with chip := (jnBoot 8 p h).2, free := s.free + 11 }

/-- PFW ends: commands are accepted again and gleaning resumes. -/
def pfwOff (s : State) : State := { s with chip := jnWatch (setJnBit 30 false s.chip) }

/-- A read of a journal register. (DEDUCED, log 40) -/
def jnRead (a : Nat) (h : Chip) : Word :=
  if a = Reg.JN_STAT.base then jnStat h
  else if a = Reg.JN_SEGUSED.base then BitVec.ofNat 32 h.jn.segs.length
  else if a = Reg.JN_FLOGHEAD.base then BitVec.ofNat 32 (h.jn.flogSeq % 16384)
  else h.reg a

end Sys2Proof.Machine
end

