-- ==== Sys2Proof/Machine/Boot.lean ====
section
/-!
DEFINITION. The boot unit: image sources, verification, slots, anti-rollback, one-time store, attestation and
authenticated debug (R413 to R429).
-/

namespace Sys2Proof.Machine

def State.onBoot (s : State) (f : Boot → Boot) : State := { s with chip := { s.chip with boot := f s.chip.boot } }

/-- The bytes of a bit vector, highest first. -/
def beBytes {n : Nat} (m : Nat) (v : BitVec n) : List Byte := (leBytes m v.toNat).reverse

/-! ## One-time programmable store (R424) -/

def otpGet (b : Boot) (o n : Nat) : List Byte := mapRead zeroByte b.otp o n
def otpSet (o : Nat) (l : List Byte) (b : Boot) : Boot := { b with otp := mapWrite zeroByte b.otp o l }

/-- Bit `i` from byte `o` upward. -/
def otpBit (b : Boot) (o i : Nat) : Bool := (mapGet zeroByte b.otp (o + i / 8)).getLsbD (i % 8)

/-- Bits are programmed to 1 and never back. -/
def otpBlow (o i : Nat) (b : Boot) : Boot :=
  otpSet (o + i / 8) [mapGet zeroByte b.otp (o + i / 8) ||| BitVec.ofNat 8 (2 ^ (i % 8))] b

def slotProvisioned (b : Boot) (k : Nat) : Bool := otpBit b 0x168 (2 * k)
def slotRevoked (b : Boot) (k : Nat) : Bool := otpBit b 0x168 (2 * k + 1)

/-- Blown anti-rollback fuses. -/
def fusesBlown (b : Boot) : Nat := ((List.range 64).filter (fun i => otpBit b 0x160 i)).length

/-- The floor (R423). -/
def floorOf (b : Boot) : Nat := max (fusesBlown b) b.mirror

/-- A byte of the store as cells and the host read it. -/
def otpShown (b : Boot) (o : Nat) : Byte :=
  if (0x140 ≤ o ∧ o < 0x160) ∨ 0x180 ≤ o then 0 else mapGet zeroByte b.otp o

/-- The next unblown fuse finishes blowing; blowing goes on until the mirror is reached, or PFW stops it (R423). -/
def fuseBlown (h : Chip) : Chip :=
  let b := h.boot
  if !b.blowing then h
  else
    match (List.range 64).find? (fun i => !otpBit b 0x160 i) with
    | none => { h with boot := { b with blowing := false } }
    | some i =>
      let b := otpBlow 0x160 i b
      { h with boot := { b with blowing := decide (fusesBlown b < b.mirror) && !jnBit 30 h } }

/-! ## Status (R440) -/

def btStat (h : Chip) : Word := h.reg Reg.BT_STAT.base
def setBtField (hi lo v : Nat) (h : Chip) : Chip := h.setReg Reg.BT_STAT.base (setBits (btStat h) hi lo v)

/-- BT_STAT as read: NOIMAGE, ARBPEND and FLOOR are live. -/
def btStatRead (h : Chip) : Word :=
  let v := setBits (btStat h) 23 16 (floorOf h.boot)
  let v := Machine.setBit v 26 (decide (fusesBlown h.boot < h.boot.mirror))
  Machine.setBit v 27 (decide (h.rel = 6 ∧ h.boot.pins = 0 ∧ h.boot.stage = 3))

/-- The boot unit waits for an image from the host, or from the UART (R413, R421). -/
def hostBoot (h : Chip) : Bool :=
  h.rel == 6 && (h.boot.pins == 1 || (h.boot.pins == 0 && h.boot.stage == 3 && h.boot.begun != 2))
def uartBoot (h : Chip) : Bool :=
  h.rel == 6 && (h.boot.pins == 3 || (h.boot.pins == 0 && h.boot.stage == 3 && h.boot.begun != 1))

/-! ## Delivery of an image (R413, R414) -/

/-- A write of BT_HWCNT delivers a block. (DEDUCED, log 43) -/
def hostBlock (v : Word) (s : State) : State :=
  let n := bitsOf v 12 0
  if hostBoot s.chip && decide (1 ≤ n ∧ n ≤ 4096) then
    s.onBoot (fun b => { b with image := b.image ++ mapRead zeroByte b.hwin 0 n, begun := 1, dataAt := s.time.pclk })
  else s

/-- A word of BT_HWIN is written; outside boot it is discarded. -/
def hwinWrite (w : Nat) (v : Word) (h : Chip) : Chip :=
  if hostBoot h then { h with boot := { h.boot with hwin := mapWrite zeroByte h.boot.hwin (4 * w) (leBytes 4 v.toNat) } }
  else h

/-- A block arrives at the UART with its CRC and is answered. -/
def uartBlock (data : List Byte) (s : State) : State :=
  if uartBoot s.chip && decide (5 ≤ data.length ∧ data.length ≤ 1028) then
    let n := data.length - 4
    if words4 [crc32c (data.take n)] = data.drop n then
      { s.onBoot (fun b => { b with image := b.image ++ data.take n, begun := 2, dataAt := s.time.pclk }) with out := s.out ++ [.uart 0x06] }
    else { s with out := s.out ++ [.uart 0x15] }
  else s

/-- PCLK edges of 1 s. -/
def edgesPerSecond : Nat := 800000000

/-- A gap of more than 1 s in the image data is a source error. -/
def sourceTimeout (s : State) : State :=
  if s.chip.rel = 6 ∧ (s.chip.boot.pins ≠ 0 ∨ s.chip.boot.stage = 3) ∧ s.chip.boot.image ≠ []
      ∧ s.chip.boot.dataAt + edgesPerSecond < s.time.pclk then
    { s with chip := setBtField 31 28 9 s.chip }.onBoot (fun b => { b with image := [], begun := 0 })
  else s

/-! ## The image (R417 to R419) -/

/-- Where the image of an attempt comes from. -/
inductive ImageFrom where
  /-- A slot of the flash. -/
  | slot (b : Bool)
  /-- Bytes received. -/
  | received
deriving DecidableEq, Repr

/-- Bytes of an image. -/
def imgGet (b : Boot) (f : ImageFrom) (o n : Nat) : List Byte :=
  match f with
  | .slot t => mapRead zeroByte b.flash ((if t then 0x800000 else 0) + o) n
  | .received => (b.image.drop o).take n

def imgWord (b : Boot) (f : ImageFrom) (o : Nat) : Nat := leNat (imgGet b f o 4)

/-- A manifest entry. -/
structure Segment where
  type : Nat
  region : Nat
  off : Nat
  len : Nat
  dest : Nat
  cells : Nat
  digest : List Byte
deriving DecidableEq, Repr

def imgSegment (b : Boot) (f : ImageFrom) (i : Nat) : Segment :=
  let o := 0x100 + 80 * i
  let t := imgWord b f o
  ⟨t % 256, t / 256 % 8, imgWord b f (o + 4), imgWord b f (o + 8), imgWord b f (o + 12), leNat (imgGet b f (o + 16) 16),
    imgGet b f (o + 32) 48⟩

def imgNseg (b : Boot) (f : ImageFrom) : Nat := imgWord b f 12 % 256
def imgSecver (b : Boot) (f : ImageFrom) : Nat := imgWord b f 4 / 2 ^ 16 % 256
def imgKeyslot (b : Boot) (f : ImageFrom) : Nat := imgWord b f 4 / 2 ^ 24
def imgAbi (b : Boot) (f : ImageFrom) : Nat := imgWord b f 4 / 2 ^ 8 % 256
def imgSegments (b : Boot) (f : ImageFrom) : List Segment := (List.range (imgNseg b f)).map (imgSegment b f)

/-- M, the signed message (R418). -/
def imgMessage (b : Boot) (f : ImageFrom) : List Byte := imgGet b f 0 (0x100 + 80 * imgNseg b f)

/-- Bytes of a segment. -/
def segBytes (b : Boot) (f : ImageFrom) (g : Segment) : List Byte := imgGet b f g.off g.len

/-! ## Verification (R420) -/

/-- Hashes under which a KEYSLOT verifies; none where the slot may not be used. -/
def keyHashes (b : Boot) (k : Nat) : Option (List Byte × List Byte) :=
  if k = 0xFF then (if slotProvisioned b 0 then none else some (otpGet b 0 32, otpGet b 0x20 32))
  else if k < 4 ∧ slotProvisioned b k ∧ !slotRevoked b k then
    some (otpGet b (0x40 + 0x40 * k) 32, otpGet b (0x60 + 0x40 * k) 32)
  else none

/-- The leftmost 256 bits of a SHA-384 digest. -/
def hash256 (l : List Byte) : List Byte := (beBytes 48 (Config.sha384 l)).take 32

/-- Checks a signature block over a message: 0 passes, else the code of R420. -/
def sigCheck (hashes : Option (List Byte × List Byte)) (blk : List Byte) (msg : List Byte) : Nat :=
  match hashes with
  | none => 2
  | some (p, l) =>
    let pk := blk.take 96
    let lk := (blk.drop 192).take 56
    if hash256 pk ≠ p ∨ hash256 lk ≠ l then 2
    else if !Config.ecdsaVerify pk ((blk.drop 96).take 96) msg then 3
    else if !Config.lmsVerify lk ((blk.drop 252).take (leNat ((blk.drop 248).take 4))) msg then 4
    else 0

/-- The signature block at an offset: its fixed part and as many bytes as it names, within the greatest image. -/
def sigBlock (get : Nat → Nat → List Byte) (o : Nat) : List Byte :=
  get o (252 + min 0x800000 (leNat (get (o + 248) 4)))

/-- Header, manifest and signatures: 0, or the code of the rejection. (DEDUCED, log 43) -/
def headCheck (b : Boot) (f : ImageFrom) : Nat :=
  let n := imgNseg b f
  if imgWord b f 0 ≠ 0x49574131 ∨ imgWord b f 4 % 256 ≠ 1 ∨ imgWord b f 8 > 8388608 ∨ n < 1 ∨ 64 < n then 1
  else
    match sigCheck (keyHashes b (imgKeyslot b f)) (sigBlock (imgGet b f) (0x100 + 80 * n)) (imgMessage b f) with
    | 0 => if imgSecver b f < floorOf b then 5 else 0
    | c => c

/-- Two segments of one region share a byte of region memory. -/
def segClash (g h : Segment) : Bool :=
  g.region == h.region && decide (g.dest < h.dest + h.len ∧ h.dest < g.dest + g.len)

/-- Segments are placed and digested in order. (DEDUCED, log 43) -/
def placeAll (f : ImageFrom) : List Segment → List Segment → State → Nat × State
  | _, [], s => (0, s)
  | seen, g :: l, s =>
    if g.dest + g.len > 0x100000 ∨ seen.any (segClash g) ∨ l.any (segClash g) then (8, s)
    else
      let bs := segBytes s.chip.boot f g
      let s := s.setRmem g.region g.dest bs
      if beBytes 48 (Config.sha384 bs) ≠ g.digest then (6, s) else placeAll f (g :: seen) l s

/-- The vendor micro-library of the image: 0, or code 7. (DEDUCED, log 43) -/
def libCheck (b : Boot) (f : ImageFrom) (gs : List Segment) : Nat :=
  match gs.filter (fun g => g.type == 1) with
  | [g] =>
    let lib := segBytes b f g
    if leNat (lib.take 4) ≠ 0x49574C42 then 7
    else if sigCheck (some (otpGet b 0 32, otpGet b 0x20 32)) (sigBlock (imgGet b f) (g.off + 6672)) (lib.take 6672) ≠ 0 then 7
    else if leNat ((lib.drop 4).take 1) < imgAbi b f then 7
    else 0
  | _ => 7

/-- Every golden copy holds the library's words 0 to 383 and base set. -/
def goldCheck (b : Boot) (f : ImageFrom) (gs : List Segment) : Bool :=
  let lib := (gs.filter (fun g => g.type == 1)).flatMap (segBytes b f)
  (gs.filter (fun g => g.type == 2)).all (fun g =>
    let c := segBytes b f g
    (c.drop 0x1000).take 6144 == (lib.drop 16).take 6144 && (c.drop 0x40).take 512 == (lib.drop 6160).take 512)

/-- The register pairs of a type 4 segment; false at a bus error. -/
def applyPairs (r : Nat) : Nat → List Byte → State → Bool × State
  | 0, _, s => (true, s)
  | n + 1, l, s =>
    let p := s.writeRegion false r (leNat (l.take 4)) (BitVec.ofNat 32 (leNat ((l.drop 4).take 4)))
    if p.1 then applyPairs r n (l.drop 8) p.2 else (false, p.2)

/-- Applies the type 4 segments in order. -/
def applyConfigs (f : ImageFrom) : List Segment → State → Bool × State
  | [], s => (true, s)
  | g :: l, s =>
    if g.type = 4 then
      let p := applyPairs g.region (g.len / 8) (segBytes s.chip.boot f g) s
      if p.1 then applyConfigs f l p.2 else p
    else applyConfigs f l s

/-- Regional indices that a segment names. -/
def segCells (g : Segment) : List Nat := (List.range 128).filter (fun i => g.cells.testBit i)

/-- BK_CGOLDc names the copy and the cell is loaded; false where the load fails. -/
def goldLoad (g : Segment) : List Nat → State → Bool × State
  | [], s => (true, s)
  | i :: l, s =>
    let s := s.onRegion g.region (fun x R =>
      loadNow x (i / 16) (i % 16) (R.setReg (blk Reg.BK_CGOLD (i / 16) (i % 16)) (BitVec.ofNat 32 (g.dest / 0x1000 * 0x1000))))
    if loadCode (i / 16) (s.region g.region) ≠ 0 then (false, s) else goldLoad g l s

/-- Loads the cells of every golden copy. -/
def goldLoads : List Segment → State → Bool × State
  | [], s => (true, s)
  | g :: l, s =>
    if g.type = 2 then
      let p := goldLoad g (segCells g) s
      if p.1 then goldLoads l p.2 else p
    else goldLoads l s

/-- DMEM initialisation of a type 3 segment: whole words, with fresh check bits. -/
def dmemInit (f : ImageFrom) (s : State) (g : Segment) : State :=
  if g.type = 3 then
    let bs := (segBytes s.chip.boot f g).take 0x2000
    s.onRegion g.region (fun _ R => (segCells g).foldl (fun R i =>
      eccWritten (placeCode (.dmem i 0)) 0 bs.length (R.onCell i (fun k => k.setDmem 0 bs))) R)
  else s

/-- The parts of R420 after the signatures: 0, or the code of the rejection. (DEDUCED, log 43) -/
def bodyCheck (f : ImageFrom) (s : State) : Nat × State :=
  let gs := imgSegments s.chip.boot f
  let p := placeAll f [] gs s
  if p.1 ≠ 0 then p
  else
    let s := p.2
    let b := s.chip.boot
    if libCheck b f gs ≠ 0 then (7, s)
    else if !goldCheck b f gs then (10, s)
    else
      let q := applyConfigs f gs s
      if !q.1 then (8, q.2)
      else
        let t := goldLoads gs q.2
        if !t.1 then (8, t.2) else (0, gs.foldl (dmemInit f) t.2)

/-! ## An attempt (R420, R421, R446) -/

/-- The regions can all be released. -/
def regionsReady (s : State) : Bool := (List.range 8).all (fun r => let x := s.ctx r; !held x && rclkGood x)

/-- Every region is released; one that an earlier attempt had released is reset first. -/
def regionsFresh (s : State) : State :=
  foldN 8 (fun r s =>
    let s := s.onRegion r (fun x R => regionRelease x (if R.inReset then R else regionAssert x R))
    { s with free := s.free + abortFree }) s

/-- An attempt is rejected with a code; a slot that fails hands on to the next one of R421. (DEDUCED, log 43) -/
def reject (code : Nat) (f : ImageFrom) (s : State) : State :=
  let s := { s with chip := setBtField 31 28 code s.chip }
  s.onBoot (fun b => match f with
    | .slot _ => { b with stage := b.stage + 1 }
    | .received => { b with image := [], begun := 0 })

/-- The image runs. (DEDUCED, log 43) -/
def accept (f : ImageFrom) (trial fallback : Bool) (s : State) : State :=
  let b := s.chip.boot
  let slotB := match f with | .slot t => t | .received => false
  let k := imgKeyslot b f
  let h := setBtField 25 24 (2 * trial.toNat + fallback.toNat) s.chip
  let h := setBtField 15 8 (imgSecver b f) h
  let h := setBtField 7 3 (2 * (if k = 0xFF then 15 else k) + slotB.toNat) h
  let run : Running := ⟨slotB, beBytes 48 (Config.sha384 (imgMessage b f))⟩
  let s := { s with chip := { h with rel := 9, boot := { b with running := some run } } }
  if imgWord b f 12 / 2 ^ 16 % 2 = 1 then
    foldN 8 (fun r s => s.onRegion r (fun _ R =>
      marchGo (R.setBit Reg.MB_MT_CFG.base 0 (imgWord b f 12 / 2 ^ 17 % 2 == 1)))) s
  else s

/-- D of R416: 1,000 over QSPICLK, rounded up, within 8 to 40. -/
def qspiDivider (mhz : Nat) : Nat := if mhz = 0 then 40 else max 8 (min 40 ((1000 + mhz - 1) / mhz))

/-- QCLK as an attempt leaves it: 25 MHz for the first 256 bytes of a flash image, then by QSPICLK of a header that
passes (R413, R416). -/
def qclkSet (f : ImageFrom) (b : Boot) : Boot :=
  match f with
  | .slot _ => { b with qdiv := if headCheck b f = 1 then 40 else qspiDivider (imgWord b f 12 / 2 ^ 8 % 256) }
  | .received => b

/-- An attempt on one image. (DEDUCED, log 43) -/
def attempt (f : ImageFrom) (trial fallback : Bool) (s : State) : State :=
  let s := s.onBoot (qclkSet f)
  match headCheck s.chip.boot f with
  | 0 =>
    let p := bodyCheck f (regionsFresh s)
    if p.1 = 0 then accept f trial fallback p.2 else reject p.1 f p.2
  | c => reject c f s

/-- The whole image has arrived, or its header already tells that it is none. -/
def imageWhole (b : Boot) : Bool :=
  decide (256 ≤ b.image.length) && (headCheck b .received == 1 || decide (imgWord b .received 8 ≤ b.image.length))

/-- The boot unit makes its next attempt; it waits while a region cannot be released. (DESIGN CHOICE, log 2;
DEDUCED, log 43) -/
def bootAttempt (s : State) : State :=
  let b := s.chip.boot
  if s.chip.rel ≠ 6 ∨ !regionsReady s then s
  else if b.pins = 0 ∧ b.stage ≠ 3 then
    match b.stage, b.trialB with
    | 0, some t => attempt (.slot t) true false (s.onBoot (fun b => { b with trialB := none }))
    | 0, none => attempt (.slot b.activeB) false false (s.onBoot (fun b => { b with stage := 1 }))
    | 1, _ => attempt (.slot b.activeB) false false s
    | _, _ => attempt (.slot (!b.activeB)) false true s
  else if imageWhole b then attempt .received false false s
  else s

/-! ## Commands (R421 to R429, R439) -/

/-- The boot unit records the end of a command. -/
def btDone (code : Nat) (s : State) : State := s.setChipReg Reg.BT_CMDSTAT.base (BitVec.ofNat 32 code)

/-- A command runs: fuses are being blown for ARBADV. -/
def btBusy (h : Chip) : Bool := h.boot.blowing && decide (9 ≤ h.rel)

/-- Region and offset that BT_XADDR names. -/
def xaddr (s : State) : Nat × Nat := let v := s.chipReg Reg.BT_XADDR.base; (bitsOf v 22 20, bitsOf v 19 5 * 32)

/-- Reads the command buffer; none where it cannot be read. -/
def xRead (o n : Nat) (s : State) : Option (List Byte) × State :=
  let p := xaddr s
  if p.2 + o + n > 0x100000 then (none, s) else s.rmem p.1 (p.2 + o) n

def trialRun (h : Chip) : Bool := (btStat h).getLsbD 25

/-- BT_CTL.TRIAL. (DEDUCED, log 44) -/
def btTrial (s : State) : State :=
  match s.chip.boot.running with
  | none => btDone 1 s
  | some r => btDone 0 (s.onBoot (fun b => { b with trialB := some (!r.slotB) }))

/-- BT_CTL.CONFIRM. (DEDUCED, log 44) -/
def btConfirm (s : State) : State :=
  match s.chip.boot.running with
  | none => btDone 1 s
  | some r =>
    btDone 0 { s with chip := setBtField 25 24 0 { s.chip with boot := { s.chip.boot with activeB := r.slotB } } }

/-- Commits a record of KEY 0 and one value for a command; refused during PFW (R438). -/
def btRecord (type v : Nat) (h : Chip) : Bool × Chip :=
  if jnBit 30 h then (false, h) else jnBoot type (words4 [0, BitVec.ofNat 32 v]) h

/-- BT_CTL.ARBADV. (DEDUCED, log 44) -/
def btArbadv (s : State) : State :=
  let v := bitsOf (btStat s.chip) 15 8
  if s.chip.boot.running.isNone || trialRun s.chip || decide (v ≤ floorOf s.chip.boot) then btDone 1 s
  else
    let p := btRecord 7 v s.chip
    if p.1 then
      btDone 0 ({ s with chip := p.2 }.onBoot (fun b => { b with mirror := v, blowing := decide (fusesBlown b < v) }))
    else btDone 5 s

/-- PROVISION and REVOKE are permitted (R425). -/
def keysPermitted (h : Chip) : Bool :=
  h.boot.running.isSome && (bitsOf (btStat h) 7 4 != 15 || !(List.range 4).any (slotProvisioned h.boot))

/-- BT_CTL.PROVISION. (DEDUCED, log 44) -/
def btProvision (s : State) : State :=
  match (List.range 4).find? (fun k => !slotProvisioned s.chip.boot k) with
  | none => btDone 1 s
  | some k =>
    if !keysPermitted s.chip then btDone 1 s
    else
      match xRead 0 64 s with
      | (some l, s) => btDone 0 (s.onBoot (fun b => otpBlow 0x168 (2 * k) (otpSet (0x40 + 0x40 * k) l b)))
      | (none, s) => btDone 3 s

/-- BT_CTL.REVOKE. (DEDUCED, log 44) -/
def btRevoke (s : State) : State :=
  if !keysPermitted s.chip then btDone 1 s
  else
    let k := bitsOf (btStat s.chip) 7 4
    btDone 0 (s.onBoot (fun b =>
      foldN 4 (fun j b => if j < k ∧ slotProvisioned b j then otpBlow 0x168 (2 * j + 1) b else b) b))

/-- The next LMS leaf (R428). -/
def lmsNext (s : State) : Nat := bitsOf (s.chipReg Reg.BT_LMSNEXT.base) 20 0

/-- Reserves the next leaf: the code of the refusal, or none. -/
def lmsReserve (s : State) : Option Nat × State :=
  let n := lmsNext s
  if n = 1048576 then (some 4, s)
  else if n = s.chip.boot.lmsLimit then
    let lim := min (n + 16) 1048576
    let p := btRecord 6 lim s.chip
    if p.1 then (none, { s with chip := p.2 }.onBoot (fun b => { b with lmsLimit := lim })) else (some 5, s)
  else (none, s)

/-- The 160-byte report (R427). (DEDUCED, log 44) -/
def attestReport (nonce : List Byte) (leaf : Nat) (s : State) : List Byte :=
  let b := s.chip.boot
  let v := btStat s.chip
  otpGet b 0x170 16 ++ nonce ++ (match b.running with | some r => r.digest | none => List.replicate 48 0)
    ++ words4 [BitVec.ofNat 32 (bitsOf v 15 8), BitVec.ofNat 32 (floorOf b),
      BitVec.ofNat 32 (bitsOf v 3 3 + 256 * bitsOf v 7 4), BitVec.ofNat 32 leaf]
    ++ leBytes 8 s.time.gtime.toNat ++ words4 [s.chipReg Reg.CH_LIFE_EQ.base] ++ List.replicate 20 0

/-- BT_CTL.ATTEST. The last 20 bytes of the response are free values. (DEDUCED, log 44) -/
def btAttest (s : State) : State :=
  let p := xaddr s
  if p.2 + 2048 > 0x100000 then btDone 3 s
  else
    match xRead 0 48 s with
    | (none, s) => btDone 3 s
    | (some nonce, s) =>
      match lmsReserve s with
      | (some c, s) => btDone c s
      | (none, s) =>
        let n := lmsNext s
        let rep := attestReport nonce n s
        let secret := otpGet s.chip.boot 0x140 32
        let bytes := rep ++ beBytes 96 (Config.ecdsaSign secret rep s.free)
            ++ beBytes 1772 (Config.lmsSign secret rep n)
          ++ (List.range 20).map (fun i => (Config.freeWord (s.free + i)).truncate 8)
        let s := s.setChipReg Reg.BT_LMSNEXT.base (BitVec.ofNat 32 (n + 1))
        btDone 0 ({ s with free := s.free + 20 }.setRmem p.1 p.2 bytes)

/-- BT_CTL.DBGCHAL: a challenge of twelve free words. -/
def btChallenge (s : State) : State :=
  let h := foldN 12 (fun w h => h.setReg (regAt Reg.BT_DBGCHAL w 0) (Config.freeWord (s.free + w))) s.chip
  btDone 0 { s with chip := { h with boot := { h.boot with challenge := true } }, free := s.free + 12 }

/-- A debug unlock certificate is presented: it consumes the challenge and may grant PERMS (R429). (DEDUCED, log 44) -/
def btCertificate (cert : List Byte) (s : State) : Nat × State :=
  let b := s.chip.boot
  let chal := words4 ((List.range 12).map (fun w => s.chipReg (regAt Reg.BT_DBGCHAL w 0)))
  let used := s.onBoot (fun b => { b with challenge := false })
  if otpBit b 0x169 0 then (1, used)
  else if b.challenge && cert.take 16 == otpGet b 0x170 16 && (cert.drop 16).take 48 == chal
      && sigCheck (keyHashes b (leNat ((cert.drop 68).take 4))) (cert.drop 72) (cert.take 72) == 0 then
    (0, used.setChipReg Reg.BT_DBGPERM.base (BitVec.ofNat 32 (leNat ((cert.drop 64).take 4) % 16)))
  else (2, used)

/-- BT_CTL.UNLOCK: the certificate staged at BT_XADDR. (DEDUCED, log 44) -/
def btUnlock (s : State) : State :=
  match xRead 0 324 s with
  | (none, s) => btDone 3 s
  | (some l, s) =>
    match xRead 324 (leNat (l.drop 320)) s with
    | (none, s) => btDone 3 s
    | (some t, s) =>
      let p := btCertificate (l ++ t) s
      btDone p.1 p.2

/-- A command of BT_CTL acts unless one runs (R439). -/
def btCommand (f : State → State) (s : State) : State := if btBusy s.chip then s else f s

/-- The command of one bit of BT_CTL. -/
def btAct (i : Nat) : State → State :=
  match i with
  | 0 => btTrial
  | 1 => btConfirm
  | 2 => btArbadv
  | 3 => btAttest
  | 4 => btChallenge
  | 5 => btUnlock
  | 6 => btProvision
  | _ => btRevoke

/-- A write of BT_CTL: the lowest bit acts. -/
def btCtl (v : Word) (s : State) : State :=
  match (List.range 8).find? (fun i => v.getLsbD i) with
  | some i => btCommand (btAct i) s
  | none => s

/-- A read of a boot unit register. -/
def btRead (a : Nat) (h : Chip) : Word :=
  if a = Reg.BT_STAT.base then btStatRead h
  else if a = Reg.BT_CMDSTAT.base then Machine.setBit (h.reg a) 31 (btBusy h)
  else if a = Reg.BT_HWSTAT.base then ofBool (hostBoot h)
  else
    match regIdx Reg.BT_OTP a with
    | some (w, _) => BitVec.ofNat 32 (leNat ((List.range 4).map (fun j => otpShown h.boot (4 * w + j))))
    | none => if (regIdx Reg.BT_HWIN a).isSome then 0 else h.reg a

/-- A write of a boot unit register. -/
def btWrite (a : Nat) (v : Word) (plain : State → State) (s : State) : State :=
  if a = Reg.BT_CTL.base then btCtl v s
  else if a = Reg.BT_HWCNT.base then hostBlock v s
  else
    match regIdx Reg.BT_HWIN a with
    | some (w, _) => { s with chip := hwinWrite w v s.chip }
    | none => plain s

end Sys2Proof.Machine
end

