-- ==== Sys2Proof/Machine/DmaBurst.lean ====
section
/-!
DEFINITION. What a DMA channel does: descriptor fetches, bursts, completion (R341 to R351).
-/

namespace Sys2Proof.Machine

/-- What a DMA address names (R341). -/
inductive DmaAt where
  /-- A memory of a region. -/
  | mem (r : Nat) (p : Place)
  /-- The own region's register space. -/
  | reg (o : Nat)
deriving DecidableEq, Repr

/-- The address map of R341. (DEDUCED, log 52) -/
def dmaTarget (r a : Nat) : Option DmaAt :=
  if 0x00100000 ≤ a ∧ a < 0x00180000 then some (.mem r (.bmem ((a - 0x00100000) / 0x10000) (a % 0x10000)))
  else if 0x01000000 ≤ a ∧ a < 0x01100000 then some (.mem r (.rmem (a - 0x01000000)))
  else if 0x10000000 ≤ a ∧ a < 0x18000000 ∧ a % 0x1000000 < 0x100000 then
    some (.mem ((a - 0x10000000) / 0x1000000) (.rmem (a % 0x1000000)))
  else if 0x20000000 ≤ a ∧ a < 0x20200000 then
    let i := (a - 0x20000000) / 0x4000
    let o := a % 0x4000
    some (.mem r (if o < 0x2000 then .dmem i o else .imem i (o - 0x2000)))
  else if 0x30000000 ≤ a ∧ a < 0x30100000 then some (.reg (a - 0x30000000))
  else none

/-- A cell's memories cannot be reached while it is in reset (R341). -/
def dmaReaches (s : State) (t : DmaAt) : Bool :=
  match t with
  | .mem r (.dmem i _) | .mem r (.imem i _) => !((s.region r).cell i).inReset
  | _ => true

/-- `n` register words from offset `o`. -/
def dmaReadRegs (r o : Nat) : Nat → State → Option (List Byte) × State
  | 0, s => (some [], s)
  | n + 1, s =>
    match s.readRegion r o with
    | (none, s) => (none, s)
    | (some v, s) =>
      match dmaReadRegs r (o + 4) n s with
      | (none, s) => (none, s)
      | (some l, s) => (some (leBytes 4 v.toNat ++ l), s)

def dmaWriteRegs (r o : Nat) : List Nat → State → Bool × State
  | [], s => (true, s)
  | v :: l, s =>
    match s.writeRegion false r o (BitVec.ofNat 32 v) with
    | (false, s) => (false, s)
    | (true, s) => dmaWriteRegs r (o + 4) l s

/-- Reads bytes that one access covers: at most 8, within an aligned group of 8. -/
def dmaReadChunk (r a n : Nat) (s : State) : Option (List Byte) × State :=
  match dmaTarget r a with
  | none => (none, s)
  | some t =>
    if !dmaReaches s t then (none, s)
    else
      match t with
      | .mem q p => match s.readMem q p n with | (.ok l, s) => (some l, s) | (_, s) => (none, s)
      | .reg o => if a % 4 = 0 ∧ n % 4 = 0 then dmaReadRegs r o (n / 4) s else (none, s)

/-- Writes bytes that one access covers. -/
def dmaWriteChunk (r a : Nat) (bs : List Byte) (s : State) : Bool × State :=
  match dmaTarget r a with
  | none => (false, s)
  | some t =>
    if !dmaReaches s t then (false, s)
    else
      match t with
      | .mem q p => match s.writeMem q p bs with | (.ok _, s) => (true, s) | (_, s) => (false, s)
      | .reg o => if a % 4 = 0 ∧ bs.length % 4 = 0 then dmaWriteRegs r o (wordsOf bs) s else (false, s)

/-- Width of the accesses at an address: one register in register space, else an ECC word (R341). -/
def dmaWidth (a : Nat) : Nat := if 0x30000000 ≤ a ∧ a < 0x30100000 then 4 else 8

/-- Groups (address, value) pairs into runs of consecutive addresses that one access covers. (DEDUCED, log 52) -/
def dmaRuns {α : Type} : List (Nat × α) → List (Nat × List α)
  | [] => []
  | (a, v) :: l =>
    match dmaRuns l with
    | [] => [(a, [v])]
    | (b, vs) :: r => if b = a + 1 ∧ b % dmaWidth a ≠ 0 then (a, v :: vs) :: r else (a, [v]) :: (b, vs) :: r

/-- Reads runs in order: the bytes, or the address at which a read failed. (DEDUCED, log 52) -/
def dmaReadRuns (r : Nat) : List (Nat × Nat) → State → (List Byte × Option Nat) × State
  | [], s => (([], none), s)
  | (a, n) :: l, s =>
    match dmaReadChunk r a n s with
    | (none, s) => (([], some a), s)
    | (some bs, s) =>
      let q := dmaReadRuns r l s
      ((bs ++ q.1.1, q.1.2), q.2)

/-- Writes runs in order: the bytes written, and the address at which a write failed. (DEDUCED, log 52) -/
def dmaWriteRuns (r : Nat) : List (Nat × List Byte) → State → (Nat × Option Nat) × State
  | [], s => ((0, none), s)
  | (a, bs) :: l, s =>
    match dmaWriteChunk r a bs s with
    | (false, s) => ((0, some a), s)
    | (true, s) =>
      let q := dmaWriteRuns r l s
      ((bs.length + q.1.1, q.1.2), q.2)

def idxFun (l : List (Nat × Nat)) (i : Nat) : Nat := ((l.find? (fun e => e.1 == i)).map (·.2)).getD 0

/-- Changes a channel of a region. -/
def State.onDma (s : State) (r c : Nat) (f : Dma → Dma) : State :=
  s.onRegion r (fun _ R => R.setDma c (f (R.dmaCh c)))

def dmaErrAddr (r c a : Nat) (s : State) : State :=
  s.onRegion r (fun _ R => R.setReg (regAt Reg.DM_CH_ERRADDR c 0) (BitVec.ofNat 32 a))

/-- The descriptor at CUR is fetched (R343, R350, R351). -/
def dmaFetch (r c : Nat) (s : State) : State :=
  let R := s.region r
  if (R.dmaCh c).phase = .fetch then
    let o := R.field (regAt Reg.DM_CH_CUR c 0) 19 5 * 32
    match s.rmem r o 32 with
    | (none, s) =>
      (dmaErrAddr r c (0x01000000 + o) s).onRegion r (fun _ R =>
        (R.setReg (dmStat c) (setBits (R.reg (dmStat c) &&& 0x50000000) 2 0 3)).setDma c dmaInit)
    | (some l, s) =>
      s.onDma r c (fun _ =>
        let d := { dmaInit with phase := .run, desc := (wordsOf l).map (BitVec.ofNat 32) }
        { d with code := if dmAborting c R then 1 else if dError d then 3 else 0 })
  else s

/-- A read of `r`'s channel at the addresses `as`: the bytes, or the failing address. -/
def dmaRead (r : Nat) (as : List Nat) (s : State) : (List Byte × Option Nat) × State :=
  dmaReadRuns r ((dmaRuns (as.map (fun a => (a, ())))).map (fun e => (e.1, e.2.length))) s

/-- The elements that are at least as far as transfer byte `m`, and the first whose index word is not known. -/
def dFirst (d : Dma) (m : Nat) : Nat := m / dElem d
def dKnown (d : Dma) : Nat := match d.idx.getLast? with | some e => e.1 + 1 | none => dFirst d d.read

/-- Address of index word `i`, and how many words one burst reads from it: within BURST and the table (R342, R344). -/
def dIdxAt (d : Dma) (i : Nat) : Nat := ((d.desc.getD 4 0).toNat + 4 * i) % 2 ^ 32
def dIdxRun (d : Dma) (i : Nat) : Nat :=
  max 1 (min ((dBurst d - dIdxAt d i % dBurst d) / 4) (dTotal d / dElem d - i))

/-- A burst of index words: in order, ahead of their elements, whatever requests say; its tag is free again when the
words are held (R344, R347). (DESIGN CHOICE, log 54) -/
def dmaIdxBurst (r c : Nat) (d : Dma) (s : State) : State :=
  let i := dKnown d
  let n := dIdxRun d i
  if !dmRoom c (4 * n) (s.region r) then s
  else
    let q := dmaRead r ((List.range (4 * n)).map (fun k => (dIdxAt d i + k) % 2 ^ 32)) s
    match q.1.2 with
    | some a => (dmaErrAddr r c a q.2).onDma r c (fun d => { d with code := 2 })
    | none =>
      let ws := (List.range n).map (fun k => (i + k, leNat ((q.1.1.drop (4 * k)).take 4)))
      q.2.onDma r c (fun d => { d with idx := d.idx ++ ws })

/-- A burst of `n` data bytes: its read issues (R342, R350). -/
def dmaDataBurst (r c n : Nat) (d : Dma) (s : State) : State :=
  let s := s.onRegion r (fun _ R => R.setBit (dmStat c) 30 (dmPermit c R && dmMode c R != 1))
  let q := dmaRead r ((List.range n).map (fun k => dSrcAt d (idxFun d.idx) (d.read + k))) s
  match q.1.2 with
  | some a =>
    (dmaErrAddr r c a q.2).onDma r c (fun d =>
      { d with code := 2, bursts := d.bursts ++ [⟨n, [], some (BitVec.ofNat 32 a), [], false⟩] })
  | none =>
    q.2.onDma r c (fun d =>
      { d with
        read := d.read + n
        idx := d.idx.filter (fun e => decide (dFirst d (d.read + n) ≤ e.1))
        bursts := d.bursts ++ [⟨n, q.1.1, none, d.idx.filter (fun e => decide (e.1 * dElem d < d.read + n)), false⟩] })

/-- A burst's read issues, when the channel is ready: an index burst while the index words of the elements that the data
burst touches are not all known, else the data burst (R342, R344, R347). (DESIGN CHOICE, log 8) -/
def dmaBurst (r c : Nat) (s : State) : State :=
  let R := s.region r
  let d := R.dmaCh c
  if d.phase = .run ∧ d.code = 0 ∧ !dmAborting c R ∧ d.read < dTotal d then
    let n := dBurstLen d (idxFun d.idx) d.read
    let indexed := dType d == 2 || dType d == 3
    if indexed && decide (dKnown d ≤ dFirst d d.read) then dmaIdxBurst r c d s
    else if indexed && decide (dKnown d ≤ dFirst d (d.read + n - 1)) then dmaIdxBurst r c d s
    else if dmReady c n R then dmaDataBurst r c n d s
    else s
  else s

/-- Address and byte pairs that a burst writes, and the input bytes left over for the next transpose group. -/
def dmaWrites (d : Dma) (b : Burst) : List (Nat × Byte) × List Byte :=
  if dGroup d = 1 then
    (((List.range b.data.length).zip b.data).map (fun e => (dDstAt d (idxFun b.idx) (d.written + e.1), e.2)), [])
  else
    let input := d.carry ++ b.data
    let k := input.length / dGroup d
    let out := dGroups d k input
    (((List.range out.length).zip out).map (fun e => ((dDst d + d.written + e.1) % 2 ^ 32, e.2)),
        input.drop (k * dGroup d))

/-- The oldest burst's writes are acknowledged (R342, R348, R350). (DESIGN CHOICE, log 8) -/
def dmaBurstDone (r c : Nat) (s : State) : State :=
  let R := s.region r
  let d := R.dmaCh c
  match d.bursts with
  | [] => s
  | b :: l =>
    let wd := b.wdr || (dmMode c R == 2 && !dmLine c R)
    let s := s.onRegion r (fun _ R =>
      let R := if wd then R.count (regAt Reg.DM_CH_WDR c 0) else R
      R.setDma c { d with bursts := l, wdr := d.wdr || wd })
    if b.fail.isSome || d.wfail then s
    else
      let w := dmaWrites d b
      let q := dmaWriteRuns r (dmaRuns w.1) s
      let s := q.2.onDma r c (fun d => { d with written := d.written + q.1.1, carry := w.2 })
      match q.1.2 with
      | none => s
      | some a => (dmaErrAddr r c a s).onDma r c (fun d => { d with code := 2, wfail := true })

/-- CODE with which the descriptor completes. -/
def dmaCode (c : Nat) (R : Region) : Nat :=
  let d := R.dmaCh c
  if d.code ≠ 0 then d.code else if dmAborting c R then 1 else 0

/-- The descriptor completes: status, source, doorbell, then the next descriptor or the end (R349, R351). -/
def dmaDone (r c : Nat) (s : State) : State :=
  let R := s.region r
  let d := R.dmaCh c
  if d.phase = .run ∧ d.bursts.isEmpty ∧ (dmaCode c R ≠ 0 ∨ d.read = dTotal d) then
    let code := dmaCode c R
    let left := dTotal d - d.written
    let w7 := BitVec.ofNat 32 (2 ^ 31 + code * 2 ^ 28 + d.wdr.toNat * 2 ^ 27 + left % 2 ^ 24)
    let s := s.setRmem r (R.field (regAt Reg.DM_CH_CUR c 0) 19 5 * 32 + 28) (leBytes 4 w7.toNat)
    s.onRegion r (fun x R =>
      let ab := dmAborting c R
      let R := R.raise x (0x0D0 + c)
      let R := if dField d 0 11 11 = 1 ∨ ab then dbRequest (0x0D0 + c) R else R
      let R := R.setReg (regAt Reg.DM_CH_RESID c 0) (BitVec.ofNat 32 (left % 2 ^ 24))
      let R := (R.setBit (dmStat c) 29 false).setField (dmStat c) 2 0 code
      if dField d 0 10 10 = 1 ∧ code = 0 then
        (R.setReg (regAt Reg.DM_CH_CUR c 0) (BitVec.ofNat 32 (dField d 6 19 5 * 32))).setDma c { dmaInit with phase := .fetch }
      else (R.setBit (dmStat c) 31 false).setDma c dmaInit)
  else s

end Sys2Proof.Machine
end

