-- ==== Sys2Proof/Machine/Ethernet.lean ====
section
/-!
DEFINITION. Rings and descriptors, and the Ethernet ports (R359 to R362, R366 to R374).
-/

namespace Sys2Proof.Machine

/-! ## Rings (R359 to R362) -/

/-- Length and base of a ring as its register gives them. -/
def ringLen (v : Word) : Nat := 2 ^ max 4 (min 12 (bitsOf v 31 28))
def ringBase (v : Word) : Nat := bitsOf v 19 5 * 32

/-- The ring lies wholly within its region memory. -/
def ringFits (v : Word) : Bool := decide (ringBase v + 32 * ringLen v ≤ 0x100000)

/-- The eight words of descriptor `i`; none where they cannot be read. -/
def descRead (r : Nat) (ring : Word) (i : Nat) (s : State) : Option (List Word) × State :=
  let q := s.rmem r (ringBase ring + 32 * i) 32
  (q.1.map (fun l => (List.range 8).map (fun k => wordAt l (4 * k))), q.2)

def dWord (d : List Word) (k : Nat) : Word := d.getD k 0
def dOwn (d : List Word) : Bool := (dWord d 0).getLsbD 31
def dVer (d : List Word) : Nat := bitsOf (dWord d 0) 30 28
def dEop (d : List Word) : Bool := (dWord d 0).getLsbD 27
def dLen (d : List Word) : Nat := bitsOf (dWord d 0) 15 0
def dBuf (d : List Word) : Nat := bitsOf (dWord d 1) 19 0
def dCap (d : List Word) : Nat := bitsOf (dWord d 2) 15 0

/-- Word 0 of a descriptor handed back, with VER 3 and OWN 0. -/
def dBack (eop : Bool) (code len : Nat) : Word :=
  let err := [1, 2, 3, 5, 7].contains code
  BitVec.ofNat 32 (3 * 2 ^ 28 + eop.toNat * 2 ^ 27 + err.toNat * 2 ^ 26 + code * 2 ^ 16 + len)

/-- Writes a descriptor back: every word but TAG that changed, word 0 last (R361). -/
def descWrite (r : Nat) (ring : Word) (i : Nat) (d : List Word) (w0 : Word) (status : Option Word) (stamp : Option Ticks)
    (s : State) : State :=
  let st := stamp.getD (dWord d 5 ++ dWord d 4 : BitVec 64)
  let s := s.setRmem r (ringBase ring + 32 * i + 4)
    (words4 [dWord d 1, dWord d 2, status.getD (dWord d 3), st.truncate 32, (st >>> 32).truncate 32, dWord d 6,
        dWord d 7])
  s.setRmem r (ringBase ring + 32 * i) (words4 [w0])

/-- A doorbell register posts its source to a region's controller (R372). -/
def doorbell (db : Word) (r : Nat) (s : State) : State := if db.getLsbD 31 then s.post r (bitsOf db 11 0) else s

/-- The shared tags of a region have one for a port's access: the port takes one per access and gives it back before its
command ends, and waits while there is none (R36, R372). (DESIGN CHOICE, log 54) -/
def portTag (r : Nat) (s : State) : Bool := decide (0 < sharedFree (s.region r))

/-- CRC-32 of IEEE 802.3: the FCS of an Ethernet frame and the CRC of a Xesum frame (R366, R377). -/
def crc32 (bytes : List Byte) : Word :=
  ~~~ BitVec.ofNat 32 (bytes.foldl (fun s x => crcStep true 32 0x04C11DB7 8 s (x.zeroExtend 32)) 0xFFFFFFFF)

/-! ## Ports -/

def State.ethPort (s : State) (p : Nat) : EthPort := mapGet (fun _ => ethInit) s.chip.eth p
def State.setEthPort (s : State) (p : Nat) (e : EthPort) : State :=
  { s with chip := { s.chip with eth := mapSet (fun _ => ethInit) s.chip.eth p e } }

/-- Register `d` of port `p`. -/
def enReg (d : RegDef) (p : Nat) (s : State) : Word := s.chipReg (regAt d p 0)
def setEnReg (d : RegDef) (p : Nat) (v : Word) (s : State) : State := s.setChipReg (regAt d p 0) v
def enCount (d : RegDef) (p n : Nat) (s : State) : State := { s with chip := s.chip.count (regAt d p 0) n }

def enOn (p : Nat) (s : State) : Bool := (enReg Reg.EN_P_CFG p s).getLsbD 31
def enRegion (p : Nat) (s : State) : Nat := bitsOf (enReg Reg.EN_P_CFG p s) 26 24
def enMaxLen (p : Nat) (s : State) : Nat := max 64 (min 9216 (bitsOf (enReg Reg.EN_P_CFG p s) 13 0))

/-- RINGERR: a ring of the port does not fit; the port takes no descriptor from that one. -/
def enRingErr (p : Nat) (s : State) : Bool := !ringFits (enReg Reg.EN_P_RXRING p s)
    || !ringFits (enReg Reg.EN_P_TXRING p s)

/-- Advances a ring index register. -/
def enNext (idx ring : RegDef) (p n : Nat) (s : State) : State :=
  setEnReg idx p (BitVec.ofNat 32 (((enReg idx p s).toNat + n) % ringLen (enReg ring p s))) s

/-- Hands back the receive descriptor at RXIDX and rings the doorbell. -/
def rxBack (p : Nat) (d : List Word) (w0 : Word) (status : Option Word) (stamp : Option Ticks) (s : State) : State :=
  let r := enRegion p s
  let s := descWrite r (enReg Reg.EN_P_RXRING p s) (enReg Reg.EN_P_RXIDX p s).toNat d w0 status stamp s
  doorbell (enReg Reg.EN_P_DB p s) r (enNext Reg.EN_P_RXIDX Reg.EN_P_RXRING p 1 s)

/-- The descriptor's fault code on receive: 0 usable, 1 VER, 2 CAP or BUF (R362, R367). -/
def rxCode (d : List Word) : Nat :=
  if dVer d ≠ 3 then 1
  else if dCap d % 32 ≠ 0 ∨ dCap d < 64 ∨ dBuf d + dCap d > 0x100000 then 2 else 0

/-- Waits for a descriptor; each wait is counted once (R367). -/
def rxWait (p : Nat) (s : State) : State :=
  let e := s.ethPort p
  if e.waiting then s else enCount Reg.EN_P_RXWAIT p 1 (s.setEthPort p { e with waiting := true })

/-- Writes frames of the receive FIFO into descriptors while the port owns one and has a tag (R367, R372). -/
def rxDeliver (p : Nat) : Nat → State → State
  | 0, s => s
  | n + 1, s =>
    match (s.ethPort p).rx with
    | [] => s
    | f :: l =>
      if !enOn p s || !ringFits (enReg Reg.EN_P_RXRING p s) || !portTag (enRegion p s) s then s
      else
        let q := descRead (enRegion p s) (enReg Reg.EN_P_RXRING p s) (enReg Reg.EN_P_RXIDX p s).toNat s
        let s := q.2
        match q.1 with
        | none => rxWait p s
        | some d =>
          if !dOwn d then rxWait p s
          else
            let s := s.setEthPort p { s.ethPort p with waiting := false }
            if rxCode d ≠ 0 then rxDeliver p n (rxBack p d (dBack false (rxCode d) 0) none none s)
            else
              let m := min (dCap d) f.bytes.length
              let last := decide (f.bytes.length ≤ dCap d)
              let s := s.setRmem (enRegion p s) (dBuf d) (f.bytes.take m)
              let s := s.setEthPort p
                { s.ethPort p with rx := if last then l else { f with bytes := f.bytes.drop m } :: l }
              rxDeliver p n (rxBack p d (dBack last (if f.bad then 3 else 0) m) (some f.status) (some f.stamp) s)

/-- One walk of the receive ring. -/
def rxRun (p : Nat) (s : State) : State := rxDeliver p (ringLen (enReg Reg.EN_P_RXRING p s) + 1) s

/-- Destination address of a frame, as EN_Pp_MAC would hold it. -/
def frameDest (data : List Byte) : Nat := leNat (data.take 6)

/-- The last four bytes of a frame are the FCS of the bytes before them, first byte lowest (R366). -/
def fcsOk (data : List Byte) : Bool :=
  decide (words4 [crc32 (data.take (data.length - 4))] = data.drop (data.length - 4))

/-- A frame arrives, from its destination address to its FCS (R367, R368): filter, FCS and length, room in the FIFO; the
FCS is removed. `line` is false where the line's code failed within the frame, which leaves its FCS wrong; `stamp` is
GTIME at the balls. (DEDUCED, log 47) -/
def frameReceived (p : Nat) (data : List Byte) (line : Bool) (stamp : Ticks) (s : State) : State :=
  let cfg := enReg Reg.EN_P_CFG p s
  let mac := (enReg Reg.EN_P_MAC_L p s).toNat + bitsOf (enReg Reg.EN_P_MAC_H p s) 15 0 * 2 ^ 32
  let bcast := decide (frameDest data = 2 ^ 48 - 1)
  let group := (data.getD 0 0).getLsbD 0
  let crcOk := line && fcsOk data
  let lenOk := decide (64 ≤ data.length ∧ data.length ≤ enMaxLen p s)
  if !enOn p s then s
  else if !(decide (frameDest data = mac) || bcast || group || cfg.getLsbD 22) then s
  else if !lenOk || (!crcOk && !cfg.getLsbD 23) then enCount Reg.EN_P_RXBAD p 1 s
  else
    let e := s.ethPort p
    let bytes := data.take (data.length - 4)
    if (e.rx.map (fun f => f.bytes.length)).foldl (· + ·) 0 + bytes.length > 32768 then enCount Reg.EN_P_RXFIFO p 1 s
    else
      let st := stamp + (enReg Reg.EN_P_RXLAT p s).signExtend 64
      let f : EthFrame := ⟨bytes, st, !crcOk, BitVec.ofNat 32 (bcast.toNat + 2 * group.toNat)⟩
      let s := s.setEthPort p { e with rx := e.rx ++ [f] }
      if e.rx.isEmpty then rxRun p s else s

/-! ## Transmit (R369, R371) -/

/-- A transmit descriptor's fault code and its bytes. (DEDUCED, log 47) -/
def txBytes (r : Nat) (d : List Word) (s : State) : (Option Nat × List Byte) × State :=
  if dVer d ≠ 3 then ((some 1, []), s)
  else if dBuf d + dLen d > 0x100000 then ((some 2, []), s)
  else if dLen d = 0 then ((none, []), s)
  else
    let q := s.rmem r (dBuf d) (dLen d)
    match q.1 with
    | some l => ((none, l), q.2)
    | none => ((some 2, []), q.2)

/-- Gathers a frame from index `i`: codes, bytes, and LAUNCH of its first descriptor; none where the port meets a
descriptor it does not own. (DEDUCED, log 47) -/
def txGather (r : Nat) (ring : Word) : Nat → Nat → State → Option (List (Option Nat) × List Byte × Ticks) × State
  | 0, _, s => (none, s)
  | n + 1, i, s =>
    let q := descRead r ring (i % ringLen ring) s
    match q.1 with
    | none => (none, q.2)
    | some d =>
      if !dOwn d then (none, q.2)
      else
        let t := txBytes r d q.2
        let launch : Ticks := (dWord d 7 ++ dWord d 6 : BitVec 64)
        if dEop d then (some ([t.1.1], t.1.2, launch), t.2)
        else
          let u := txGather r ring n (i + 1) t.2
          (u.1.map (fun g => (t.1.1 :: g.1, t.1.2 ++ g.2.1, launch)), u.2)

/-- Hands back the descriptors of a frame from TXIDX on: each with its own code, or with `code`. (DEDUCED, log 47) -/
def txBack (p code : Nat) (stamp : Option Ticks) (zero : Bool) : List (Option Nat) → State → State
  | [], s => s
  | c :: l, s =>
    let r := enRegion p s
    let ring := enReg Reg.EN_P_TXRING p s
    let q := descRead r ring (enReg Reg.EN_P_TXIDX p s).toNat s
    let d := q.1.getD []
    let s := descWrite r ring (enReg Reg.EN_P_TXIDX p s).toNat d
      (dBack (dEop d) (c.getD code) (if zero then 0 else dLen d)) none stamp q.2
    let s := doorbell (enReg Reg.EN_P_DB p s) r (enNext Reg.EN_P_TXIDX Reg.EN_P_TXRING p 1 s)
    txBack p code stamp zero l s

/-- Time at the balls plus TXLAT. -/
def txTime (p : Nat) (s : State) : Ticks := s.time.gtime + (enReg Reg.EN_P_TXLAT p s).signExtend 64

/-- Fetches the next frame while a walk is under way and the port has a tag (R369, R372). A frame that is fetched,
behind any earlier one, only after its launch time is late (R371). -/
def txFetch (p : Nat) : Nat → State → State
  | 0, s => s
  | n + 1, s =>
    let e := s.ethPort p
    if !e.kicked || e.tx.isSome || !enOn p s || !ringFits (enReg Reg.EN_P_TXRING p s)
        || !portTag (enRegion p s) s then s
    else
      let ring := enReg Reg.EN_P_TXRING p s
      let q := txGather (enRegion p s) ring (ringLen ring) (enReg Reg.EN_P_TXIDX p s).toNat s
      let s := q.2
      match q.1 with
      | none => s.setEthPort p { e with kicked := false }
      | some (codes, bytes, launch) =>
        if bytes.length > enMaxLen p s - 4 ∨ bytes.length > 16380 then txFetch p n (txBack p 7 none false codes s)
        else if codes.all Option.isSome then txFetch p n (txBack p 0 none false codes s)
        else
          let late := launch != 0 && decide (launch.toNat < (txTime p s).toNat)
          s.setEthPort p { e with tx := some ⟨codes, bytes, launch, false, late⟩ }

def txRun (p : Nat) (s : State) : State := txFetch p (ringLen (enReg Reg.EN_P_TXRING p s) + 1) s

/-- A TX kick starts a walk. -/
def ethKickTx (p : Nat) (s : State) : State :=
  if enOn p s then txRun p (s.setEthPort p { s.ethPort p with kicked := true }) else s

/-- An RX kick, or the retry of every microsecond, reads the next receive descriptor again. -/
def ethKickRx (p : Nat) (s : State) : State := rxRun p s

/-- Ticks of 10 ns, the tolerance of a launch (R371). (DEDUCED, log 47) -/
def launchSlack : Nat := 128

/-- A frame as it leaves: padded to 60 bytes, with its FCS (R369). -/
def ethFrame (bytes : List Byte) : List Byte :=
  let b := bytes ++ List.replicate (60 - bytes.length) 0
  b ++ words4 [crc32 b]

/-- The fetched frame leaves: not before its launch time; late where it was fetched too late for it, or has stood at the
head past the tolerance (R371). A fetch that waited for a tag is taken up first. (DEDUCED, log 47) -/
def frameLaunch (p : Nat) (s : State) : State :=
  let s := txRun p s
  let e := s.ethPort p
  match e.tx with
  | none => s
  | some t =>
    let now := (txTime p s).toNat
    let late := t.late || (t.launch != 0 && decide (t.launch.toNat + launchSlack < now))
    if t.out || (t.launch != 0 && decide (now + launchSlack < t.launch.toNat)) then s
    else
      let s := if late then enCount Reg.EN_P_TXLATE p 1 s else s
      let s := s.setEthPort p { e with tx := some { t with out := true, late := late } }
      { s with out := s.out ++ [.ethernet p (ethFrame t.bytes)] }

/-- The last bit has left: the descriptors are handed back with STAMP (R369, R370). -/
def transmitDone (p : Nat) (stamp : Ticks) (s : State) : State :=
  let e := s.ethPort p
  match e.tx with
  | some t =>
    if t.out then
      let st := stamp + (enReg Reg.EN_P_TXLAT p s).signExtend 64
      let s := txBack p (if t.late then 4 else 0) (some st) false t.codes s
      txRun p (s.setEthPort p { s.ethPort p with tx := none })
    else s
  | none => s

/-! ## Configuration (R373, R374) -/

/-- The three registers of R373. -/
def enConfig (k : Nat) : RegDef := match k with | 0 => Reg.EN_P_CFG | 1 => Reg.EN_P_RXRING | _ => Reg.EN_P_TXRING

/-- The write acts under R373: it clears EN, or changes MODE, REGION or a ring while EN = 1. -/
def enActs (k : Nat) (old v : Word) (on : Bool) : Bool :=
  on && (match k with
    | 0 => !v.getLsbD 31 || bitsOf old 30 29 != bitsOf v 30 29 || bitsOf old 26 24 != bitsOf v 26 24
    | _ => old != v)

/-- Descriptors in progress are handed back with CODE 5, the FIFOs are emptied, the indices return to 0. -/
def enAbort (p : Nat) (s : State) : State :=
  let e := s.ethPort p
  let s := match e.tx with
    | some t => txBack p 5 none true (t.codes.map (fun _ => none)) s
    | none => s
  let s := enCount Reg.EN_P_RXFIFO p e.rx.length s
  let s := setEnReg Reg.EN_P_RXIDX p 0 (setEnReg Reg.EN_P_TXIDX p 0 (s.setEthPort p ethInit))
  setEnReg Reg.EN_P_STAT p (enReg Reg.EN_P_STAT p s &&& 0x3FFFFFFF) s

/-- A write of EN_Pp_CFG, EN_Pp_RXRING or EN_Pp_TXRING. -/
def portReconfigure (p k : Nat) (v : Word) (s : State) : State :=
  let d := enConfig k
  let v := maskWrite d.mask (enReg d p s) v
  let s := if enActs k (enReg d p s) v (enOn p s) then enAbort p s else s
  setEnReg d p v s

/-- Link state of a port changes; ANDONE follows LINK in 10GBASE-R. -/
def ethLink (p : Nat) (link done : Bool) (s : State) : State :=
  if !enOn p s then s
  else
    let done := if bitsOf (enReg Reg.EN_P_CFG p s) 30 29 = 0 then link else done
    setEnReg Reg.EN_P_STAT p (BitVec.ofNat 32 (link.toNat * 2 ^ 31 + done.toNat * 2 ^ 30)) s

/-- A write to an Ethernet register of the chip register space. -/
def enWrite (a : Nat) (v : Word) (plain : State → State) (s : State) : State :=
  match regIdx Reg.EN_P_CFG a, regIdx Reg.EN_P_RXRING a, regIdx Reg.EN_P_TXRING a, regIdx Reg.EN_P_KICK a with
  | some (p, _), _, _, _ => portReconfigure p 0 v s
  | _, some (p, _), _, _ => portReconfigure p 1 v s
  | _, _, some (p, _), _ => portReconfigure p 2 v s
  | _, _, _, some (p, _) =>
    let s := if v.getLsbD 1 then ethKickRx p s else s
    if v.getLsbD 0 then ethKickTx p s else s
  | _, _, _, _ => plain s

/-- EN_Pp_STAT as read. -/
def enRead (a : Nat) (s : State) : Word :=
  match regIdx Reg.EN_P_STAT a with
  | some (p, _) => Machine.setBit (s.chipReg a) 29 (enRingErr p s)
  | none => s.chipReg a

end Sys2Proof.Machine
end

