-- ==== Sys2Proof/Machine/Xesum.lean ====
section
/-!
DEFINITION. The Xesum ports: frames, virtual channels, acknowledgement and retry, training, lane retirement (R375 to
R383).
-/

namespace Sys2Proof.Machine

/-! ## Ports -/

def State.xlPort (s : State) (p : Nat) : XlPort := mapGet (fun _ => xlInit) s.chip.xl p
def State.setXlPort (s : State) (p : Nat) (e : XlPort) : State :=
  { s with chip := { s.chip with xl := mapSet (fun _ => xlInit) s.chip.xl p e } }
def State.onXl (s : State) (p : Nat) (f : XlPort → XlPort) : State := s.setXlPort p (f (s.xlPort p))

def xlReg (d : RegDef) (p : Nat) (s : State) : Word := s.chipReg (regAt d p 0)
def setXlReg (d : RegDef) (p : Nat) (v : Word) (s : State) : State := s.setChipReg (regAt d p 0) v
def xlCount (d : RegDef) (p : Nat) (s : State) : State := { s with chip := s.chip.count (regAt d p 0) }

def xlOn (p : Nat) (s : State) : Bool := (xlReg Reg.XL_P_CFG p s).getLsbD 31
def xlRegion (p : Nat) (s : State) : Nat := bitsOf (xlReg Reg.XL_P_CFG p s) 26 24
def xlUp (p : Nat) (s : State) : Bool := (xlReg Reg.XL_P_STAT p s).getLsbD 31
def xlTraining (p : Nat) (s : State) : Bool := (xlReg Reg.XL_P_STAT p s).getLsbD 30
def xlMajor (p : Nat) (s : State) : Nat := bitsOf (xlReg Reg.XL_P_STAT p s) 23 16
def xlCap (i p : Nat) (s : State) : Bool := (xlReg Reg.XL_P_STAT p s).getLsbD i
def xlRx (p v : Nat) (s : State) : Word := s.chipReg (regAt Reg.XL_P_RXRING p v)
def xlTx (p v : Nat) (s : State) : Word := s.chipReg (regAt Reg.XL_P_TXRING p v)

/-- Payload and virtual channels that a major permits (R381). -/
def majorPayload (m : Nat) : Nat := if m ≤ 1 then 128 else 256
def majorVcs (m : Nat) : Nat := if m ≤ 1 then 2 else 4

/-- Credits of a VC; 16 at the start (R378). -/
def creditStart (_ : Nat) : Nat := 16
def XlPort.creditOf (e : XlPort) (v : Nat) : Nat := mapGet creditStart e.credit v
def XlPort.giveOf (e : XlPort) (v : Nat) : Nat := mapGet zeroNat e.give v
def XlPort.rxOf (e : XlPort) (v : Nat) : List XlRx := mapGet (fun _ => []) e.rx v
def XlPort.setRx (e : XlPort) (v : Nat) (l : List XlRx) : XlPort := { e with rx := mapSet (fun _ => []) e.rx v l }

/-! ## Frames (R376, R377) -/

/-- SOF, EOF and idle: K27.7, K29.7 and K28.5, by the numbers Kx.y gives their bits, y above x (Clause 36 of IEEE
802.3). -/
def sofChar : LineChar := .ctrl 0xFB
def eofChar : LineChar := .ctrl 0xFD
def idleChar : LineChar := .ctrl 0xBC

/-- The character stream of a frame of header, payload and CRC. -/
def xlChars (b : List Byte) : List LineChar := sofChar :: b.map .data ++ [eofChar]

/-- Byte k of a stream on the k mod w-th of w lanes; idles fill the last stripe. -/
def stripe (w : Nat) (l : List LineChar) : List (List LineChar) :=
  (List.range w).map (fun i => (List.range ((l.length + w - 1) / w)).map (fun j => l.getD (w * j + i) idleChar))

/-- The stream that lanes carry, one stripe after the other. -/
def unstripe (lanes : List (List LineChar)) : List LineChar :=
  (List.range (lanes.foldl (fun n l => max n l.length) 0)).flatMap (fun j => lanes.map (fun l => l.getD j idleChar))

/-- The data characters at the head of a stream, up to its EOF; none where another character, or none at all, stands
there. -/
def untilEof : List LineChar → Option (List Byte)
  | .data b :: l => (untilEof l).map (b :: ·)
  | c :: _ => if c = eofChar then some [] else none
  | [] => none

/-- Header, payload and CRC of a stream that begins with SOF; none where a code error or a missing EOF spoils it (R377). -/
def frameBytes : List LineChar → Option (List Byte)
  | c :: l => if c = sofChar then untilEof l else none
  | [] => none

/-- Header, padded payload and CRC of a frame. -/
def xlFrame (type vc seq : Nat) (upper : Nat) (payload : List Byte) : List Byte :=
  let h := leBytes 8 (type + vc * 2 ^ 4 + seq * 2 ^ 6 + payload.length * 2 ^ 18 + upper * 2 ^ 32)
  let b := h ++ payload ++ List.replicate ((4 - payload.length % 4) % 4) 0
  b ++ words4 [crc32 b]

/-- Fields of a header. -/
def hType (h : Nat) : Nat := h % 16
def hVc (h : Nat) : Nat := h / 2 ^ 4 % 4
def hSeq (h : Nat) : Nat := h / 2 ^ 6 % 4096
def hLen (h : Nat) : Nat := h / 2 ^ 18 % 512
def hUser (h : Nat) : Nat := h / 2 ^ 32

/-- A received frame stands under R377: its CRC, its TYPE, LEN and VC under the agreed major. -/
def frameOk (p : Nat) (data : List Byte) (s : State) : Bool :=
  let h := leNat (data.take 8)
  let n := hLen h
  decide (data.length = 12 + (n + 3) / 4 * 4)
    && decide (words4 [crc32 (data.take (data.length - 4))] = data.drop (data.length - 4))
    && decide (n ≤ majorPayload (xlMajor p s)) && decide (hVc h < majorVcs (xlMajor p s))
    && (match hType h with
      | 0 | 1 | 2 => true
      | 4 => xlCap 0 p s
      | _ => false)

/-- Sends a frame out of a port, over the lanes that carry the link. -/
def xlOut (p : Nat) (b : List Byte) (s : State) : State :=
  let l := (s.xlPort p).used
  { s with out := s.out ++ [.xesum p (l.zip (stripe l.length (xlChars b)))] }

/-- CREDITS field and the credits that remain to be given: up to 15 of each VC. -/
def creditField (e : XlPort) : Nat × FMap Nat :=
  foldN 4 (fun v (a : Nat × FMap Nat) =>
    let n := min 15 (e.giveOf v)
    (a.1 + n * 2 ^ (4 * v), mapSet zeroNat a.2 v (e.giveOf v - n))) (0, e.give)

/-- Sends an ack or a nak with the last data frame accepted and the credits due. -/
def sendAck (p type : Nat) (s : State) : State :=
  let e := s.xlPort p
  let c := creditField e
  xlOut p (xlFrame type 0 ((e.expSeq + 4095) % 4096) c.1 [])
    (s.setXlPort p { e with unacked := 0, give := c.2, naked := e.naked || type == 2 })

/-! ## Receive (R378, R379) -/

/-- Writes waiting frames of a VC into descriptors while the port owns one and has a tag. -/
def xlDeliver (p v : Nat) : Nat → State → State
  | 0, s => s
  | n + 1, s =>
    let e := s.xlPort p
    match e.rxOf v with
    | [] => s
    | f :: l =>
      let ring := xlRx p v s
      if !ringFits ring || !portTag (xlRegion p s) s then s
      else
        let i := mapGet zeroNat e.rxIdx v % ringLen ring
        let r := xlRegion p s
        let q := descRead r ring i s
        let s := q.2
        match q.1 with
        | none => s
        | some d =>
          if !dOwn d then s
          else
            let code := if dVer d ≠ 3 then 1 else if dCap d < 256 ∨ dBuf d + dCap d > 0x100000 then 2 else 0
            let adv := fun (s : State) => s.onXl p (fun e => { e with rxIdx := mapSet zeroNat e.rxIdx v ((i + 1) % ringLen ring) })
            if code ≠ 0 then
              let s := adv (descWrite r ring i d (dBack false code 0) none none s)
              xlDeliver p v n (doorbell (xlReg Reg.XL_P_DB p s) r s)
            else
              let s := s.setRmem r (dBuf d) f.payload
              let s := adv (descWrite r ring i d (dBack true (if f.time then 6 else 0) f.payload.length) (some f.user)
                (some f.stamp) s)
              let s := s.onXl p (fun e =>
                let e := e.setRx v l
                if f.time then e else { e with give := mapSet zeroNat e.give v (e.giveOf v + 1) })
              xlDeliver p v n (doorbell (xlReg Reg.XL_P_DB p s) r s)

def xlRxRun (p v : Nat) (s : State) : State := xlDeliver p v (ringLen (xlRx p v s) + 1) s

/-! ## Transmit (R378, R379) -/

/-- Sends frames of VC `v` while it is kicked and holds credit, retry room, a tag and a descriptor. -/
def xlSendVc (p v : Nat) : Nat → State → State
  | 0, s => s
  | n + 1, s =>
    let e := s.xlPort p
    let ring := xlTx p v s
    let i := mapGet zeroNat e.txIdx v % ringLen ring
    if !e.kicked.contains v || !xlUp p s || majorVcs (xlMajor p s) ≤ v || !ringFits ring || e.creditOf v == 0
        || 64 ≤ e.retry.length || e.retry.any (fun f => f.vc == v && f.idx == i) || !portTag (xlRegion p s) s then s
    else
      let r := xlRegion p s
      let q := descRead r ring i s
      let s := q.2
      let owned := match q.1 with | some d => dOwn d | none => false
      if !owned then s.setXlPort p { e with kicked := e.kicked.erase v }
      else
        let d := q.1.getD []
        let t := txBytes r d s
        let s := t.2.onXl p (fun e => { e with txIdx := mapSet zeroNat e.txIdx v ((i + 1) % ringLen ring) })
        let code := match t.1.1 with
          | some c => some c
          | none => if dLen d > majorPayload (xlMajor p s) then some 7 else none
        match code with
        | some c =>
          let s := descWrite r ring i d (dBack (dEop d) c (dLen d)) none none s
          xlSendVc p v n (doorbell (xlReg Reg.XL_P_DB p s) r s)
        | none =>
          let b := xlFrame 0 v e.sendSeq (dWord d 3).toNat t.1.2
          let s := s.onXl p (fun e => { e with
            sendSeq := (e.sendSeq + 1) % 4096
            retry := e.retry ++ [⟨e.sendSeq, v, i, b, s.time.pclk⟩]
            credit := mapSet creditStart e.credit v (e.creditOf v - 1) })
          xlSendVc p v n (xlOut p b s)

/-- Sends what can be sent, VC by VC. (DEDUCED, log 48) -/
def xlSend (p : Nat) (s : State) : State := foldN 4 (fun v s => xlSendVc p v 65 s) s

/-- A frame acknowledged: its descriptor is handed back with CODE 0. -/
def xlReleased (p : Nat) (f : XlTx) (s : State) : State :=
  let r := xlRegion p s
  let ring := xlTx p f.vc s
  let q := descRead r ring f.idx s
  let d := q.1.getD []
  let s := descWrite r ring f.idx d (dBack (dEop d) 0 (dLen d)) none none q.2
  doorbell (xlReg Reg.XL_P_DB p s) r s

/-- An acknowledgement up to SEQ releases frames and returns credits. -/
def xlRelease (p seq credits : Nat) (s : State) : State :=
  let e := s.xlPort p
  let gone := e.retry.takeWhile (fun f => decide ((seq + 4096 - f.seq) % 4096 < 2048))
  let s := s.setXlPort p { e with
    retry := e.retry.drop gone.length
    episodes := if gone.isEmpty then e.episodes else 0
    credit := foldN 4 (fun v m => mapSet creditStart m v (e.creditOf v + credits / 2 ^ (4 * v) % 16)) e.credit }
  gone.foldl (fun s f => xlReleased p f s) s

/-- Every frame not yet acknowledged is sent again, in order. (DEDUCED, log 48) -/
def xlResend (p : Nat) (s : State) : State :=
  let t := (s.xlPort p).retry.foldl (fun s f => xlOut p f.bytes s) s
  t.onXl p (fun e => { e with retry := e.retry.map (fun f => { f with sent := s.time.pclk }) })

/-! ## Training (R380, R382) -/

def lockBits (p : Nat) (s : State) : Nat := bitsOf (xlReg Reg.XL_P_LANESTAT p s) 7 4
def retiredBits (p : Nat) (s : State) : Nat := bitsOf (xlReg Reg.XL_P_LANESTAT p s) 3 0
def setLock (p lock : Nat) (s : State) : State :=
  setXlReg Reg.XL_P_LANESTAT p (setBits (xlReg Reg.XL_P_LANESTAT p s) 7 4 lock) s

def XlPort.lane (e : XlPort) (l : Nat) : XlLane := mapGet (fun _ => laneInit) e.lanes l
def XlPort.setLane (e : XlPort) (l : Nat) (x : XlLane) : XlPort := { e with lanes := mapSet (fun _ => laneInit) e.lanes l x }

/-- Lanes locked and not retired. -/
def usableLanes (p : Nat) (s : State) : Nat := lockBits p s &&& (15 - retiredBits p s)

/-- Training starts: the link is down. A lane that holds symbol lock keeps it, the others are to acquire it.
(DEDUCED, log 48) -/
def trainStart (p : Nat) (s : State) : State :=
  if !xlOn p s then s
  else
    let e := s.xlPort p
    let s := if e.trained then xlCount Reg.XL_P_RETRAIN p s else s
    let s := s.setXlPort p { e with
      trained := true, episodes := 0, began := s.time.pclk, used := []
      lanes := foldN 4 (fun l m => mapSet (fun _ => laneInit) m l { e.lane l with alike := 0, last := none }) e.lanes }
    let v := xlReg Reg.XL_P_STAT p s
    setXlReg Reg.XL_P_STAT p (setBits (setBits (v &&& 0x20FF0003) 30 30 1) 26 24 0) s

/-- Version descriptor that a port sends: interface 2, major 3, and the capabilities offered (R363). -/
def xlVersion (p : Nat) (s : State) : BitVec 64 :=
  BitVec.ofNat 64 (bitsOf (xlReg Reg.XL_P_CFG p s) 1 0 * 2 ^ 32 + 0x00020300)

/-- Lanes in training that lack symbol lock acquire it on the partner's K28.5, each as a free value decides: whether its
K28.5 arrives is not in the state. (DEDUCED, log 48) -/
def lockLanes (p : Nat) (s : State) : State :=
  if lockBits p s = 15 then s
  else { setLock p (lockBits p s ||| (Config.freeWord s.free).toNat % 16) s with free := s.free + 1 }

/-- Each locked lane sends a training frame. -/
def trainSend (p : Nat) (s : State) : State :=
  if !xlTraining p s then s
  else
    let s := lockLanes p s
    { s with out := s.out ++ ((List.range 4).filter (fun l => (lockBits p s).testBit l)).map (fun l =>
      .training p l (usableLanes p s) (xlVersion p s) (bitsOf (xlReg Reg.XL_P_CFG p s) 11 9)) }

/-- Highest of majors 1 to 3 in a mask, 0 for none. -/
def highMajor (m : Nat) : Nat := if m.testBit 2 then 3 else if m.testBit 1 then 2 else if m.testBit 0 then 1 else 0

/-- Capabilities that a major knows. -/
def majorCaps (m : Nat) : Nat := match m with | 2 => 2 | 3 => 3 | _ => 0

/-- Width for a number of lanes. -/
def widthOf (n : Nat) : Nat := if 4 ≤ n then 4 else if 2 ≤ n then 2 else n

/-- The partner's training frame, as the lowest locked lane received it. -/
def peerFrame (p : Nat) (s : State) : Option TrainFrame :=
  ((List.range 4).filter (fun l => (lockBits p s).testBit l)).findSome? (fun l => ((s.xlPort p).lane l).last)

/-- Both sides agree, or find no common major (R380). (DEDUCED, log 48) -/
def trainAgree (p : Nat) (s : State) : State :=
  match peerFrame p s with
  | none => s
  | some f =>
    let s := setXlReg Reg.XL_P_PEER_L p (f.version.truncate 32) (setXlReg Reg.XL_P_PEER_H p ((f.version >>> 32).truncate 32) s)
    let cfg := xlReg Reg.XL_P_CFG p s
    let m := highMajor (bitsOf cfg 11 9 &&& f.majors)
    if m = 0 then setXlReg Reg.XL_P_STAT p 0x20000000 (s.onXl p (fun e => { e with began := s.time.pclk }))
    else
      let lanes := (List.range 4).filter (fun l => (usableLanes p s &&& f.usable).testBit l)
      let w := widthOf lanes.length
      if w = 0 then s
      else
        let caps := bitsOf cfg 1 0 &&& bitsOf f.version 33 32 &&& majorCaps m
        let s := setXlReg Reg.XL_P_STAT p (BitVec.ofNat 32 (2 ^ 31 + w * 2 ^ 24 + m * 2 ^ 16 + caps))
          (s.onXl p (fun e => { e with used := lanes.take w }))
        xlSend p (xlResend p s)

/-- A training frame arrives on a lane, which holds symbol lock by then. While the link is up it shows that the partner
trains, and the port trains too. (DEDUCED, log 48) -/
def trainReceived (p lane : Nat) (f : TrainFrame) (s : State) : State :=
  let s := if xlUp p s then trainStart p s else s
  if !xlTraining p s then s
  else
    let s := setLock p (lockBits p s ||| 2 ^ lane) s
    let s := s.onXl p (fun e =>
      let x := e.lane lane
      e.setLane lane { x with last := some f, alike := if x.last = some f then x.alike + 1 else 1 })
    if (List.range 4).all (fun l => !(lockBits p s).testBit l || decide (2 ≤ ((s.xlPort p).lane l).alike)) then trainAgree p s
    else s

/-- PCLK edges of 1 µs, and whether `n` µs have passed since edge `e`. -/
def edgesPerMicro : Nat := 800
def microsSince (n e : Nat) (s : State) : Bool := decide (e + n * edgesPerMicro ≤ s.time.pclk)

/-- No link within 10 ms of the start: training waits for its retry. -/
def trainTimeout (p : Nat) (s : State) : State :=
  if xlTraining p s && microsSince 10000 (s.xlPort p).began s then
    setXlReg Reg.XL_P_STAT p (Machine.setBit (xlReg Reg.XL_P_STAT p s) 30 false)
      (s.onXl p (fun e => { e with began := s.time.pclk }))
  else s

/-- Training restarts 100 ms after it found no major or no link. -/
def trainRetry (p : Nat) (s : State) : State :=
  if xlUp p s || xlTraining p s || !microsSince 100000 (s.xlPort p).began s then s else trainStart p s

/-- A lane is retired: reported in region 0, and the port retrains without it (R382). -/
def laneRetired (p lane : Nat) (s : State) : State :=
  let s := { s with chip := laneRetire p lane s.chip }
  let s := s.onRegion 0 (fun x R => if R.inReset then R else permanentFault x 5 0 (4 * p + lane) 0 R)
  trainStart p s

/-- Instants of a list within `n` ticks of now. -/
def recent (n : Nat) (now : Ticks) (l : List Ticks) : List Ticks := l.filter (fun t => decide ((now - t).toNat ≤ n))

/-- A code error on a lane, with the loss of its symbol lock or without (R380, R382). -/
def codeError (p lane : Nat) (lost : Bool) (s : State) : State :=
  if !xlOn p s then s
  else
    let now := s.time.gtime
    let up := xlUp p s
    let used := up && (s.xlPort p).used.contains lane
    let s := { s with chip := s.chip.count (regAt Reg.XL_P_LANEERR p lane) }
    let s := s.onXl p (fun e =>
      let x := e.lane lane
      e.setLane lane { x with
        errors := if up then now :: recent (10 * oneSecond) now x.errors else x.errors
        losses := if lost && used then now :: recent oneSecond now x.losses else x.losses })
    let s := if lost then setLock p (lockBits p s &&& (15 - 2 ^ lane)) s else s
    let x := (s.xlPort p).lane lane
    if !(retiredBits p s).testBit lane
        && ((lost && used && decide (8 ≤ (recent oneSecond now x.losses).length))
          || (up && decide (32 ≤ (recent (10 * oneSecond) now x.errors).length))) then laneRetired p lane s
    else if lost && used then trainStart p s
    else s

/-- UNRETIRE returns lanes to use at the next training. (DEDUCED, log 48) -/
def unretire (p : Nat) (lanes : Nat) (s : State) : State :=
  let s := setXlReg Reg.XL_P_LANESTAT p (setBits (xlReg Reg.XL_P_LANESTAT p s) 3 0 (retiredBits p s &&& (15 - lanes))) s
  foldN 4 (fun l s =>
    if lanes.testBit l then s.onXl p (fun e => e.setLane l { e.lane l with losses := [], errors := [] }) else s) s

/-! ## Link layer commands -/

/-- One resend episode; after 8 with no frame released the port retrains (R379). -/
def xlEpisode (p : Nat) (s : State) : State :=
  let e := s.xlPort p
  if e.retry.isEmpty then s
  else
    let s := xlCount Reg.XL_P_RETRY p (xlResend p (s.setXlPort p { e with episodes := e.episodes + 1 }))
    if 8 ≤ e.episodes + 1 then trainStart p s else s

/-- The boot unit takes an image from port 0 (R413). -/
def bootByXesum (s : State) : Bool := s.chip.rel == 6 && s.chip.boot.pins == 2

/-- A data frame for the boot unit: in order, else a source error, which ends the image data. -/
def bootFrame (payload : List Byte) (user : Nat) (s : State) : State :=
  let b := s.chip.boot
  if xlCap 1 0 s && user == b.image.length then
    { s with chip := { s.chip with boot := { b with image := b.image ++ payload, dataAt := s.time.pclk } } }
  else
    { s with chip := { s.chip.setReg Reg.BT_STAT.base (setBits (s.chipReg Reg.BT_STAT.base) 31 28 9) with
      boot := { b with image := [] } } }

/-- A data frame is the next expected, or is discarded with one nak per gap (R379). -/
def xlData (p : Nat) (data : List Byte) (stamp : Ticks) (s : State) : State :=
  let h := leNat (data.take 8)
  let e := s.xlPort p
  if hSeq h ≠ e.expSeq then (if e.naked then s else sendAck p 2 s)
  else
    let v := hVc h
    let payload := (data.drop 8).take (hLen h)
    let s := s.setXlPort p { e with expSeq := (e.expSeq + 1) % 4096, naked := false, unacked := e.unacked + 1 }
    let s :=
      if p = 0 ∧ v = 0 ∧ bootByXesum s then
        bootFrame payload (hUser h) (s.onXl p (fun e => { e with give := mapSet zeroNat e.give v (e.giveOf v + 1) }))
      else
        let s := s.onXl p (fun e => e.setRx v (e.rxOf v ++ [⟨payload, BitVec.ofNat 32 (hUser h), stamp, false⟩]))
        if ((s.xlPort p).rxOf v).length = 1 then xlRxRun p v s else s
    if 8 ≤ (s.xlPort p).unacked then sendAck p 1 s else s

/-- A time frame goes to the VC 0 ring outside the credits (R381). (DEDUCED, log 48) -/
def xlTime (p : Nat) (data : List Byte) (stamp : Ticks) (s : State) : State :=
  let h := leNat (data.take 8)
  let f : XlRx := ⟨(data.drop 8).take (hLen h), BitVec.ofNat 32 (hUser h), stamp, true⟩
  let s := s.onXl p (fun e => e.setRx 0 (e.rxOf 0 ++ [f]))
  if ((s.xlPort p).rxOf 0).length = 1 then xlRxRun p 0 s else s

/-- An ack or a nak releases frames and returns credits. -/
def xlHeard (p h : Nat) (s : State) : State :=
  (xlRelease p (hSeq h) (hUser h) s).onXl p (fun e => { e with heard := s.time.pclk })

/-- A frame arrives on a port, as its used lanes carry it (R376 to R381). (DEDUCED, log 48) -/
def xlReceive (p : Nat) (lanes : List (List LineChar)) (stamp : Ticks) (s : State) : State :=
  if !xlUp p s then s
  else
    match (frameBytes (unstripe lanes)).filter (fun data => frameOk p data s) with
    | none => sendAck p 2 (xlCount Reg.XL_P_CRCERR p s)
    | some data =>
      let h := leNat (data.take 8)
      match hType h with
      | 0 => xlData p data stamp s
      | 1 => xlSend p (xlHeard p h s)
      | 2 => xlSend p (xlEpisode p (xlHeard p h s))
      | _ => xlTime p data stamp s

/-- The ack due within 1 µs of a frame accepted; it also carries credits that were returned since. -/
def ackDue (p : Nat) (s : State) : State :=
  let e := s.xlPort p
  if xlUp p s && (e.unacked != 0 || !e.give.isEmpty) then sendAck p 1 s else s

/-- No ack or nak within 10 µs of sending the oldest frame not acknowledged. (DEDUCED, log 48) -/
def retryTimeout (p : Nat) (s : State) : State :=
  let e := s.xlPort p
  if xlUp p s && (e.retry.take 1).all (fun f => microsSince 10 (max f.sent e.heard) s) then xlEpisode p s else s

/-- XL_Pp_CTL.TSEND: a time frame with the GTIME at which it leaves. -/
def timeSend (p : Nat) (s : State) : State :=
  if xlUp p s && xlCap 0 p s && xlMajor p s == 3 then xlOut p (xlFrame 4 0 0 0 (leBytes 8 s.time.gtime.toNat)) s else s

/-- A write of XL_Pp_KICK. -/
def xlKick (p : Nat) (v : Word) (s : State) : State :=
  if !xlOn p s then s
  else
    let s := foldN 4 (fun k s =>
      if v.getLsbD k then s.onXl p (fun e => { e with kicked := addBit k e.kicked }) else s) s
    let s := xlSend p s
    foldN 4 (fun k s => if v.getLsbD (4 + k) then xlRxRun p k s else s) s

/-! ## Configuration (R383) -/

/-- EN is cleared: descriptors in progress are handed back with CODE 5, the buffers are emptied (R373).
(DEDUCED, log 48) -/
def xlAbort (p : Nat) (s : State) : State :=
  let e := s.xlPort p
  let s := e.retry.foldl (fun s f =>
    let r := xlRegion p s
    let ring := xlTx p f.vc s
    let q := descRead r ring f.idx s
    let d := q.1.getD []
    let s := descWrite r ring f.idx d (dBack (dEop d) 5 0) none none q.2
    doorbell (xlReg Reg.XL_P_DB p s) r s) s
  let s := setXlReg Reg.XL_P_STAT p 0 (setLock p 0 s)
  s.setXlPort p { xlInit with trained := e.trained, lanes := e.lanes }

/-- A write of XL_Pp_CFG. -/
def xlCfgWrite (p : Nat) (v : Word) (s : State) : State :=
  let was := xlOn p s
  let s := if was && !v.getLsbD 31 then xlAbort p s else s
  let s := setXlReg Reg.XL_P_CFG p (maskWrite Reg.XL_P_CFG.mask (xlReg Reg.XL_P_CFG p s) v) s
  if !was && v.getLsbD 31 then trainStart p s else s

/-- A write of XL_Pp_CTL. -/
def xlCtl (p : Nat) (v : Word) (s : State) : State :=
  let s := unretire p (bitsOf v 11 8) s
  let s := if v.getLsbD 2 then timeSend p s else s
  if v.getLsbD 1 then trainStart p s else s

/-- A write to a Xesum register. -/
def xlWrite (a : Nat) (v : Word) (plain : State → State) (s : State) : State :=
  match regIdx Reg.XL_P_CFG a, regIdx Reg.XL_P_CTL a, regIdx Reg.XL_P_KICK a with
  | some (p, _), _, _ => xlCfgWrite p v s
  | _, some (p, _), _ => xlCtl p v s
  | _, _, some (p, _) => xlKick p v s
  | _, _, _ => plain s

end Sys2Proof.Machine
end

