-- ==== Sys2Proof/Machine/ChipAccess.lean ====
section
/-!
DEFINITION. The chip register space: live values and what writes start (R19, R29 to R31, R42 to R51, R206 to R208, R221,
R222, R363 to R365, R442 to R463).
-/

namespace Sys2Proof.Machine

/-! ## Chip-wide events and MSI-X (R206, R221, R222) -/

/-- The arrival that chip-wide channel `c` delivers next: the one accepted first, and its region (R207). -/
def chipWideNext (c : Nat) (s : State) : Option (Nat × Carried) :=
  (List.range 8).foldl (fun best r =>
    match (s.region r).ev.xout.find? (fun e => e.xev == c), best with
    | none, b => b
    | some e, none => some (r, e)
    | some e, some b => if e.edge < b.2.edge then some (r, e) else some b) none

/-- An arrival that chip-wide channel `c` carries is delivered to every region as source 1 + c, with its origin's stamp
(R206). -/
def chipWide (c : Nat) (s : State) : State :=
  match chipWideNext c s with
  | none => s
  | some (r, e) =>
    let s := s.onRegion r (fun _ R => { R with ev := { R.ev with xout := R.ev.xout.eraseP (fun e => e.xev == c) } })
    let s := { s with chip := s.chip.setPair (regAt Reg.CH_XEV_GT_L c 0) (regAt Reg.CH_XEV_GT_H c 0) e.stamp }
    foldN 8 (fun q s => if (s.region q).inReset then s else s.onRegion q (fun _ R => R.raiseAt (1 + c) e.stamp)) s

def msixPending (v : Nat) (h : Chip) : Bool := (h.reg (regAt Reg.CH_MSIX_PBA (v / 32) 0)).getLsbD (v % 32)
def setMsixPending (v : Nat) (b : Bool) (h : Chip) : Chip :=
  let a := regAt Reg.CH_MSIX_PBA (v / 32) 0
  h.setReg a (Machine.setBit (h.reg a) (v % 32) b)

/-- A word of the entry of vector `v`. (PRESUMED, log 5) -/
def msixEntry (v j : Nat) (h : Chip) : Word := h.reg (regAt Reg.CH_MSIX_TAB v j)

/-- The Function Mask or the vector's Mask bit is 1. (PRESUMED, log 5) -/
def msixMasked (v : Nat) (h : Chip) : Bool := h.msixFmask || (msixEntry v 3 h).getLsbD 0

/-- The message of vector `v` leaves. -/
def msixMessage (v : Nat) (s : State) : State :=
  { s with out := s.out ++ [.msix (msixEntry v 1 s.chip ++ msixEntry v 0 s.chip : BitVec 64) (msixEntry v 2 s.chip)] }

/-- A write of CH_MSIXDB. (PRESUMED, log 5) -/
def msixRaise (v : Nat) (s : State) : State :=
  let h := s.chip
  if !h.msixEnable then { s with chip := h.count Reg.CH_MSIXDROP.base }
  else if msixPending v h then { s with chip := h.count Reg.CH_MSIXCOAL.base }
  else if msixMasked v h then { s with chip := setMsixPending v true h }
  else msixMessage v s

/-- A pending vector is sent once its masks are 0. (PRESUMED, log 5) -/
def msixSend (v : Nat) (s : State) : State :=
  if s.chip.msixEnable && msixPending v s.chip && !msixMasked v s.chip then
    { msixMessage v s with chip := setMsixPending v false s.chip }
  else s

/-! ## Host-window negotiation (R364) -/

/-- A write of HW_OFFER. (DEDUCED, log 46) -/
def negotiate (v : Word) (s : State) : State :=
  let h := s.chip.setReg Reg.HW_OFFER.base (v &&& BitVec.ofNat 32 Reg.HW_OFFER.mask)
  let m := highMajor (bitsOf v 3 1)
  let mask : Nat := match m with | 1 => 1 | 2 => 3 | 3 => 7 | _ => 0
  let h := h.setReg Reg.HW_AGREED.base (if m = 0 then setBits (h.reg Reg.HW_AGREED.base) 15 8 0 else BitVec.ofNat 32 (0x10000 + m * 256))
  let h := h.setReg Reg.HW_AGRCAP.base (h.reg Reg.HW_OFFCAP.base &&& BitVec.ofNat 32 mask)
  let h := h.setReg Reg.HW_STAT.base (BitVec.ofNat 32 ((m != 0).toNat + 2 * (m == 0).toNat))
  let db := h.reg Reg.HW_DB.base
  doorbell db (bitsOf db 26 24) { s with chip := h }

/-! ## Resets and watchdogs (R442, R450 to R452, R462) -/

/-- RESET or HOLD of RS_RGr_CTL: HOLD and AUTORUN are kept, either of RESET and HOLD resets the region.
(DEDUCED, log 51) -/
def rgCtlWrite (r : Nat) (v : Word) (s : State) : State :=
  let s := s.setChipReg (regAt Reg.RS_RG_CTL r 0) (v &&& BitVec.ofNat 32 Reg.RS_RG_CTL.mask)
  if v.getLsbD 0 || v.getLsbD 1 then regionResetFor r 3 s else s

/-- A watchdog configuration: EN once 1 stays 1. -/
def wdCfgWrite (d : RegDef) (a : Nat) (v : Word) (h : Chip) : Chip :=
  let w := maskWrite d.mask (h.reg a) v
  h.setReg a (Machine.setBit w 31 (w.getLsbD 31 || (h.reg a).getLsbD 31))

/-- The registers of a watchdog: the chip's, or region `r`'s. -/
structure Watchdog where
  cfg : Nat
  limit : Nat
  cnt : Nat
  warn : Nat
deriving DecidableEq, Repr

def watchdog (region : Option Nat) : Watchdog :=
  match region with
  | none => ⟨Reg.RS_WDCFG.base, Reg.RS_WDTO.base, Reg.RS_WDCNT.base, Reg.RS_WDWARN.base⟩
  | some r => ⟨regAt Reg.RS_RG_WDCFG r 0, regAt Reg.RS_RG_WDTO r 0, regAt Reg.RS_RG_WDCNT r 0,
      regAt Reg.RS_RG_WDWARN r 0⟩

/-- A KCLK edge falls between PCLK edges `p` and `p + 1`, by the nominal frequencies (R23). (DESIGN CHOICE, log 1, 50)
-/
def kclkEdge (p : Nat) : Bool := (p + 1) * 32768 / 800000000 != p * 32768 / 800000000

/-- A command takes the coming count edge of a watchdog. -/
def wdTake (region : Option Nat) (s : State) : State :=
  { s with chip := { s.chip with wdTaken := addBit (region.getD 8) s.chip.wdTaken } }

/-- The coming PCLK edge is a count edge of the watchdog. -/
def wdEdgeComes (region : Option Nat) (s : State) : Bool := region.isSome || kclkEdge s.time.pclk

/-- A kick, at the coming PCLK edge: only the key restarts the count, and it comes before a count at that edge (R450,
R451). -/
def wdKick (region : Option Nat) (v : Word) (s : State) : State :=
  if v = 0xA55A then
    let s := s.setChipReg (watchdog region).cnt 0
    if wdEdgeComes region s then wdTake region s else s
  else s

/-- A write of RS_SWRST. -/
def swChipReset (v : Word) (s : State) : State :=
  if bitsOf v 31 24 = 0xC3 ∧ v.getLsbD 0 then chipReset 0x40 s else s

/-- RS_BKCLR.CLEAR, effective only with its debug permission. -/
def bkClear (h : Chip) : Chip := if (h.reg Reg.BT_DBGPERM.base).getLsbD 3 then backupErase h else h

/-- A write to the reset controller. -/
def rsWrite (a : Nat) (v : Word) (plain : State → State) (s : State) : State :=
  if a = Reg.RS_SWRST.base then swChipReset v s
  else if a = Reg.RS_WDCFG.base then { s with chip := wdCfgWrite Reg.RS_WDCFG a v s.chip }
  else if a = Reg.RS_WDKICK.base then wdKick none v s
  else if a = Reg.RS_BKCLR.base then (if v.getLsbD 0 then { s with chip := bkClear s.chip } else s)
  else
    match regIdx Reg.RS_RG_CTL a, regIdx Reg.RS_RG_WDCFG a, regIdx Reg.RS_RG_WDKICK a with
    | some (r, _), _, _ => rgCtlWrite r v s
    | _, some _, _ => { s with chip := wdCfgWrite Reg.RS_RG_WDCFG a v s.chip }
    | _, _, some (r, _) => wdKick (some r) v s
    | _, _, _ => plain s

/-! ## The register interface -/

/-- A write to the CH unit. -/
def chWrite (a : Nat) (v : Word) (plain : State → State) (s : State) : State :=
  if a = Reg.CH_SNAP.base then (if v.getLsbD 0 then { s with chip := { s.chip with snapReq := s.chip.snapReq + 1 } } else s)
  else if a = Reg.CH_GTSTEP_H.base then gtArm v s
  else plain s

/-- The writable bits of a chip register take the value. -/
def chipPlain (a : Nat) (v : Word) (s : State) : State :=
  match chipReg a with
  | some d => s.setChipReg a (maskWrite d.mask (s.chipReg a) v)
  | none => s

/-- A write to the chip register at offset `a`, which is named. -/
def chipUnitWrite (a : Nat) (v : Word) (s : State) : State :=
  match a / 0x10000 with
  | 0 => chWrite a v (chipPlain a v) s
  | 1 => rsWrite a v (chipPlain a v) s
  | 2 =>
    (match regIdx Reg.CK_RG_PLL a with
    | some (r, _) => pllSet r v s
    | none => chipPlain a v s)
  | 3 => btWrite a v (chipPlain a v) s
  | 4 => if a = Reg.JN_CTL.base then jnCtl v s else chipPlain a v s
  | 5 => if a = Reg.HW_OFFER.base then negotiate v s else chipPlain a v s
  | 6 => enWrite a v (chipPlain a v) s
  | 7 => xlWrite a v (chipPlain a v) s
  | _ => if a = Reg.CH_MSIXDB.base then msixRaise (bitsOf v 5 0) s else chipPlain a v s

/-- The value of the chip register at offset `a`, which is named. -/
def chipUnitRead (a : Nat) (s : State) : Word :=
  match a / 0x10000 with
  | 0 =>
    if a = Reg.CH_GTIME_L.base then s.time.gtime.truncate 32
    else if a = Reg.CH_GTIME_H.base then (s.time.gtime >>> 32).truncate 32
    else if a = Reg.CH_GTSTAT.base then BitVec.ofNat 32 (s.time.step.isSome.toNat + 2 * (anyArmed s).toNat)
    else s.chipReg a
  | 3 => btRead a s.chip
  | 4 => jnRead a s.chip
  | 6 => enRead a s
  | _ => s.chipReg a

/-- A read of the chip register space: none for an address that names no register (R45). -/
def State.readChip (s : State) (a : Nat) : Option Word := if (Machine.chipReg a).isSome then some (chipUnitRead a s) else none

/-- A write to the chip register space: false for an address that names no register. -/
def State.writeChip (s : State) (a : Nat) (v : Word) : Bool × State :=
  if (Machine.chipReg a).isSome then (true, chipUnitWrite a v s) else (false, s)

/-- Reads a register of a region or of the chip. -/
def State.readReg (s : State) (region : Option Nat) (a : Nat) : Option Word × State :=
  match region with
  | some r => s.readRegion r a
  | none => (s.readChip a, s)

/-- Writes a register of a region or of the chip. -/
def State.writeReg (s : State) (host : Bool) (region : Option Nat) (a : Nat) (v : Word) : Bool × State :=
  match region with
  | some r => s.writeRegion host r a v
  | none => s.writeChip a v

end Sys2Proof.Machine
end

