-- ==== Sys2Proof/Machine/CellAlu.lean ====
section
/-!
DEFINITION. Arithmetic, logic, multiply-accumulate, CRC and long-operation instructions (R66 to R76, R114, R116).
-/

namespace Sys2Proof.Machine

/-- What a command answers: the specification gives every one a next state but one. -/
abbrev Result := Host.Outcome State Fault Refusal

/-- A base instruction: the registers it reads or writes, whether it uses ACC, and its own part. -/
structure Op where
  regs : List RegNo
  acc : Bool
  body : State → Did

/-- Cell `c` executes instruction `i`, whose meaning is `o`. -/
def runOp (c : CellId) (i : Instr) (o : Op) (s : State) : Result := .next (runInstr c.val (wordOf i) o.regs o.acc o.body s)

/-! ## Forms -/

/-- An instruction that changes its cell alone. -/
def cellOp (c : CellId) (regs : List RegNo) (acc : Bool) (f : Cell → Cell) : Op := ⟨regs, acc, fun s => .ok (s.onCell c.val f)⟩

/-- g[d] from g[a] and g[b]. -/
def alu3 (c : CellId) (d a b : RegNo) (f : Word → Word → Word) : Op :=
  cellOp c [d, a, b] false (fun k => k.setG d (f (k.g a) (k.g b)))

/-- g[d] from g[a]. -/
def alu2 (c : CellId) (d a : RegNo) (f : Word → Word) : Op := cellOp c [d, a] false (fun k => k.setG d (f (k.g a)))

/-- An instruction that raises a precise fault. -/
def faultOp (e : Exc) : Op := ⟨[], false, fun s => .fault s e⟩

/-! ## Register operations (R66) -/

/-- NOP. -/
def nopOp (c : CellId) : Op := cellOp c [] false id
/-- ADD. -/
def addOp (c : CellId) (d a b : RegNo) : Op := alu3 c d a b (fun x y => x + y)
/-- SUB. -/
def subOp (c : CellId) (d a b : RegNo) : Op := alu3 c d a b (fun x y => x - y)
/-- ADDS. -/
def addsOp (c : CellId) (d a b : RegNo) : Op := alu3 c d a b (fun x y => sat32 (x.toInt + y.toInt))
/-- SUBS. -/
def subsOp (c : CellId) (d a b : RegNo) : Op := alu3 c d a b (fun x y => sat32 (x.toInt - y.toInt))
/-- AND. -/
def andOp (c : CellId) (d a b : RegNo) : Op := alu3 c d a b (fun x y => x &&& y)
/-- OR. -/
def orOp (c : CellId) (d a b : RegNo) : Op := alu3 c d a b (fun x y => x ||| y)
/-- XOR. -/
def xorOp (c : CellId) (d a b : RegNo) : Op := alu3 c d a b (fun x y => x ^^^ y)
/-- ANDN. -/
def andnOp (c : CellId) (d a b : RegNo) : Op := alu3 c d a b (fun x y => x &&& ~~~ y)
/-- SLL. -/
def sllOp (c : CellId) (d a b : RegNo) : Op := alu3 c d a b (fun x y => x <<< shAmt y)
/-- SRL. -/
def srlOp (c : CellId) (d a b : RegNo) : Op := alu3 c d a b (fun x y => x >>> shAmt y)
/-- SRA. -/
def sraOp (c : CellId) (d a b : RegNo) : Op := alu3 c d a b (fun x y => x.sshiftRight (shAmt y))
/-- ROR. -/
def rorOp (c : CellId) (d a b : RegNo) : Op := alu3 c d a b (fun x y => x.rotateRight (shAmt y))
/-- SLT. -/
def sltOp (c : CellId) (d a b : RegNo) : Op := alu3 c d a b (fun x y => ofBool (slt x y))
/-- SLTU. -/
def sltuOp (c : CellId) (d a b : RegNo) : Op := alu3 c d a b (fun x y => ofBool (ult x y))
/-- CLZ. -/
def clzOp (c : CellId) (d a : RegNo) : Op := alu2 c d a (fun x => BitVec.ofNat 32 (leadingZeros x))
/-- POPC. -/
def popcOp (c : CellId) (d a : RegNo) : Op := alu2 c d a (fun x => BitVec.ofNat 32 (popCount x))
/-- BREV: lane code 3 is an illegal opcode. -/
def brevOp (c : CellId) (d a : RegNo) (lanes : Fin 4) : Op :=
  match brevLane lanes.val with
  | some l => alu2 c d a (reverseLanes l)
  | none => faultOp (plainFault 3 4)
/-- PAR. -/
def parOp (c : CellId) (d a : RegNo) (bytes : Bool) : Op := alu2 c d a (parWord bytes)
/-- SEL. -/
def selOp (c : CellId) (d a b cc : RegNo) : Op :=
  cellOp c [d, a, b, cc] false (fun k => k.setG d (if k.g cc ≠ 0 then k.g a else k.g b))
/-- CMOVZ. -/
def cmovzOp (c : CellId) (d a b : RegNo) : Op := cellOp c [d, a, b] false (fun k => if k.g b = 0 then k.setG d (k.g a) else k)
/-- CMOVNZ. -/
def cmovnzOp (c : CellId) (d a b : RegNo) : Op := cellOp c [d, a, b] false (fun k => if k.g b ≠ 0 then k.setG d (k.g a) else k)

/-! ## Immediate operations (R67) -/

/-- ADDI. -/
def addiOp (c : CellId) (d a : RegNo) (imm : BitVec 16) : Op := alu2 c d a (fun x => x + sextImm imm)
/-- ADDSI. -/
def addsiOp (c : CellId) (d a : RegNo) (imm : BitVec 16) : Op := alu2 c d a (fun x => sat32 (x.toInt + imm.toInt))
/-- ANDI. -/
def andiOp (c : CellId) (d a : RegNo) (imm : BitVec 16) : Op := alu2 c d a (fun x => x &&& zextImm imm)
/-- ORI. -/
def oriOp (c : CellId) (d a : RegNo) (imm : BitVec 16) : Op := alu2 c d a (fun x => x ||| zextImm imm)
/-- XORI. -/
def xoriOp (c : CellId) (d a : RegNo) (imm : BitVec 16) : Op := alu2 c d a (fun x => x ^^^ zextImm imm)
/-- LUI. -/
def luiOp (c : CellId) (d : RegNo) (imm : BitVec 16) : Op := cellOp c [d] false (fun k => k.setG d (zextImm imm <<< 16))
/-- SLLI. -/
def slliOp (c : CellId) (d a : RegNo) (imm : BitVec 16) : Op := alu2 c d a (fun x => x <<< (imm.toNat % 32))
/-- SRLI. -/
def srliOp (c : CellId) (d a : RegNo) (imm : BitVec 16) : Op := alu2 c d a (fun x => x >>> (imm.toNat % 32))
/-- SRAI. -/
def sraiOp (c : CellId) (d a : RegNo) (imm : BitVec 16) : Op := alu2 c d a (fun x => x.sshiftRight (imm.toNat % 32))
/-- RORI. -/
def roriOp (c : CellId) (d a : RegNo) (imm : BitVec 16) : Op := alu2 c d a (fun x => x.rotateRight (imm.toNat % 32))
/-- SLTI. -/
def sltiOp (c : CellId) (d a : RegNo) (imm : BitVec 16) : Op := alu2 c d a (fun x => ofBool (slt x (sextImm imm)))
/-- SLTIU. -/
def sltiuOp (c : CellId) (d a : RegNo) (imm : BitVec 16) : Op := alu2 c d a (fun x => ofBool (ult x (zextImm imm)))

/-! ## Multiply and accumulate (R69) -/

/-- Bits 63 to 32 of an exact product. -/
def highWord (p : Int) : Word := BitVec.ofInt 32 (p >>> 32)

/-- MUL. -/
def mulOp (c : CellId) (d a b : RegNo) : Op := alu3 c d a b (fun x y => x * y)
/-- MULH. -/
def mulhOp (c : CellId) (d a b : RegNo) : Op := alu3 c d a b (fun x y => highWord (mulS x y))
/-- MULHU. -/
def mulhuOp (c : CellId) (d a b : RegNo) : Op := alu3 c d a b (fun x y => BitVec.ofNat 32 (x.toNat * y.toNat / 2 ^ 32))
/-- QMUL. -/
def qmulOp (c : CellId) (d a b : RegNo) (rnd : Bool) : Op := alu3 c d a b (qmulOf rnd)
/-- MAC. -/
def macOp (c : CellId) (a b : RegNo) (sub : Bool) : Op :=
  cellOp c [a, b] true (fun k => { k with acc := macOf false sub k.acc (k.g a) (k.g b) })
/-- MACS. -/
def macsOp (c : CellId) (a b : RegNo) (sub : Bool) : Op :=
  cellOp c [a, b] true (fun k => { k with acc := macOf true sub k.acc (k.g a) (k.g b) })
/-- MTAC. -/
def mtacOp (c : CellId) (a b : RegNo) : Op := cellOp c [a, b] true (fun k => { k with acc := (k.g a ++ k.g b : BitVec 64) })
/-- RDAC. -/
def rdacOp (c : CellId) (d : RegNo) (sh : Fin 64) (trunc rnd : Bool) : Op :=
  cellOp c [d] true (fun k => k.setG d (rdacOf sh.val trunc rnd k.acc))

/-! ## Long operations (R70 to R72, R114) -/

/-- The unit has room for one more operation. -/
def Cell.longRoom (k : Cell) : Bool := decide (k.longOps.length < 2)

/-- Issues an operation whose result goes to `dst`. -/
def longIssue (q : LongKind) (dst : Dest) (x y : Word) (k : Cell) : Cell :=
  let r := longResult q x y
  { k.issued with longOps := k.longOps ++ [⟨k.seq, some dst, r.1.zeroExtend 64, r.2⟩] }

/-- A long operation waits in X for the unit. -/
def longOp (c : CellId) (q : LongKind) (d a b : RegNo) (regs : List RegNo) : Op :=
  ⟨regs, false, fun s =>
    if (s.cell c.val).longRoom then .ok (s.onCell c.val (fun k => longIssue q (.gpr d) (k.g a) (k.g b) k)) else .stay s⟩

/-- DIV. -/
def divOp (c : CellId) (d a b : RegNo) : Op := longOp c .div d a b [d, a, b]
/-- DIVU. -/
def divuOp (c : CellId) (d a b : RegNo) : Op := longOp c .divu d a b [d, a, b]
/-- REM. -/
def remOp (c : CellId) (d a b : RegNo) : Op := longOp c .rem d a b [d, a, b]
/-- REMU. -/
def remuOp (c : CellId) (d a b : RegNo) : Op := longOp c .remu d a b [d, a, b]
/-- SQRT. -/
def sqrtOp (c : CellId) (d a : RegNo) (q : Bool) : Op := longOp c (if q then .qsqrt else .sqrt) d a 0 [d, a]

/-- Issues MAC64. ACC is pending until its result is written, so its value now is its value then. -/
def mac64Issue (hi lo b : Word) (k : Cell) : Cell :=
  { k.issued with longOps := k.longOps ++ [⟨k.seq, none, mac64Of k.acc hi lo b, none⟩] }

/-- MAC64: a pair that is not valid is an illegal opcode. -/
def mac64Op (c : CellId) (a b : RegNo) : Op :=
  if mac64Pair a.val then
    ⟨[a, a + 1, b], true, fun s =>
      if (s.cell c.val).longRoom then .ok (s.onCell c.val (fun k => mac64Issue (k.g (a + 1)) (k.g a) (k.g b) k)) else .stay s⟩
  else faultOp (plainFault 3 5)

/-- A value reaches its destination; T and the micro-registers are those of the routine in progress. -/
def putDest (dst : Dest) (v : Word) (k : Cell) : Cell :=
  match dst with
  | .gpr r => k.setG r v
  | .t => { k with micro := k.micro.map (fun m => { m with t := v }) }
  | .m j => { k with micro := k.micro.map (fun m => { m with m := m.m.set j.val v }) }
  | .ah => { k with acc := (v ++ k.acc.truncate 32 : BitVec 64) }
  | .al => { k with acc := ((k.acc >>> 32).truncate 32 ++ v : BitVec 64) }
  | .nowhere => k

/-- The `i`-th operation of the long-operation unit writes its result (R114, R116). -/
def longReturn (i : Nat) (k : Cell) : Cell :=
  match k.longOps[i]? with
  | none => k
  | some o =>
    let k := { k with longOps := k.longOps.eraseIdx i }
    let k := match o.dest with
      | some d => putDest d (o.result.truncate 32) k
      | none => { k with acc := o.result }
    match o.fault with
    | some f => k.addImp ⟨o.seq, 9, f, 0, o.dest, o.dest.isNone⟩
    | none => k

/-! ## CRC (R73, R74) -/

/-- CRCCFG.WIDTH. -/
def crcWidth (k : Cell) : Nat := let w := bitsOf (k.ioReg Reg.CRCCFG.base) 5 0; if w = 0 ∨ w > 32 then 32 else w

/-- One CRC step over the low `n` bits of `x` on state `st`, under CRCPOLY and CRCCFG. -/
def crcOn (k : Cell) (n : Nat) (st x : Word) : Word :=
  let w := crcWidth k
  BitVec.ofNat 32 (crcStep ((k.ioReg Reg.CRCCFG.base).getLsbD 8) w ((k.ioReg Reg.CRCPOLY.base).toNat % 2 ^ w) n st.toNat x)

/-- CRCS: size code 3 is an illegal opcode. -/
def crcsOp (c : CellId) (d a : RegNo) (n : Fin 4) : Op :=
  match crcBits n.val with
  | some b => cellOp c [d, a] false (fun k => k.setG d (crcOn k b (k.g d) (k.g a)))
  | none => faultOp (plainFault 3 4)

/-- Folds bytes in ascending order. -/
def crcBytes (k : Cell) (st : Word) (bs : List Byte) : Word := bs.foldl (fun st b => crcOn k 8 st (b.zeroExtend 32)) st

/-- Progress of CRCB or BLKMOV: source, destination or CRC state, and bytes left. -/
structure Progress where
  a : Nat
  d : Word
  n : Nat
deriving DecidableEq, Repr

/-- Bytes that CRCB takes at once: single ones up to a multiple of 4 and at the end, words between. -/
def crcChunk (a n : Nat) : Nat := if a % 4 = 0 ∧ 4 ≤ n then 4 else 1

/-- CRCB from the progress given. A byte outside DMEM, or one that cannot be read, stops it. (DEDUCED, log 17) -/
def crcRun (c : Nat) : Nat → Progress → State → Progress × Option Exc × State
  | 0, p, s => (p, none, s)
  | f + 1, p, s =>
    if p.n = 0 then (p, none, s)
    else if 0x2000 ≤ p.a then (p, some (accessFault 5 5 (BitVec.ofNat 32 p.a)), s)
    else
      let m := crcChunk p.a p.n
      match s.dmRead c p.a m with
      | (.ok l, s) => crcRun c f ⟨p.a + m, crcBytes (s.cell c) p.d l, p.n - m⟩ s
      | (_, s) => (p, some (accessFault 5 4 (BitVec.ofNat 32 p.a)), s)

/-- The registers take the progress made: d, then a, then b. (DEDUCED, log 17) -/
def putProgress (a b d : RegNo) (p : Progress) (k : Cell) : Cell :=
  ((k.setG d p.d).setG a (BitVec.ofNat 32 p.a)).setG b (BitVec.ofNat 32 p.n)

/-- A block operation that has run to its end, to a safe point or to a fault, with its progress in its registers. -/
def blockEnd (c : Nat) (a b d : RegNo) (r : Progress × Option Exc × State) : Did :=
  let s := r.2.2.onCell c (putProgress a b d r.1)
  match r.2.1 with
  | some e => .fault s e
  | none => if r.1.n = 0 then .ok s else .stay s

/-- Accesses of a block operation before its next safe point: a free number of at most 28, so that it comes within 32
cycles with the 4 of the start (R74, R76). (DEDUCED, log 17) -/
def blockSteps (free : Nat) : Nat := 1 + (Config.freeWord free).toNat % 28

/-- CRCB for at most `n` accesses. (DEDUCED, log 17) -/
def crcbBody (c n : Nat) (a b d : RegNo) (s : State) : Did :=
  if !(s.cell c).longOps.isEmpty then .stay s
  else
    let k := s.cell c
    if k.g b = 0 then .ok s
    else
      match settle c s with
      | none => .stay s
      | some s => blockEnd c a b d (crcRun c n ⟨(k.g a).toNat, k.g d, (k.g b).toNat⟩ s)

/-- CRCB: the command goes on to the instruction's next safe point. -/
def crcbOp (c : CellId) (a b d : RegNo) : Op :=
  ⟨[a, b, d], false, fun s => crcbBody c.val (blockSteps s.free) a b d { s with free := s.free + 1 }⟩

/-! ## Block move (R75, R76) -/

/-- Reads bytes for BLKMOV. -/
def blkRead (c a n : Nat) (s : State) : (List Byte ⊕ Exc) × State :=
  let w : Word := BitVec.ofNat 32 a
  match dataAt c a with
  | .dmem o => match s.dmRead c o n with | (.ok l, s) => (.inl l, s) | (_, s) => (.inr (accessFault 5 4 w), s)
  | .mem r p => match s.readMem r p n with | (.ok l, s) => (.inl l, s) | (_, s) => (.inr (accessFault 5 4 w), s)
  | .mram o => if (s.cell c).sup then let p := s.mramRead o n; (.inl p.1, p.2) else (.inr (accessFault 6 5 w), s)
  | .none => (.inr (accessFault 5 5 w), s)

/-- Writes bytes for BLKMOV. -/
def blkWrite (c a : Nat) (bs : List Byte) (s : State) : Option Exc × State :=
  let w : Word := BitVec.ofNat 32 a
  match dataAt c a with
  | .dmem o =>
    (match s.writeMem (c / 128) (.dmem (c % 128) o) bs with | (.ok _, s) => (none, s) | (_, s) => (some (accessFault 5 4 w), s))
  | .mem r p => match s.writeMem r p bs with | (.ok _, s) => (none, s) | (_, s) => (some (accessFault 5 4 w), s)
  | _ => (some (accessFault 5 5 w), s)

/-- An address is one for which an access takes a tag (R34, R35). -/
def takesTag (c a : Nat) : Bool := match dataAt c a with | .mem _ _ => true | .mram _ => true | _ => false

/-- BLKMOV from the progress given: words where both addresses are multiples of 4, bytes else. It stops where an access
can obtain no tag (R36). (DEDUCED, log 17) -/
def blkRun (c : Nat) : Nat → Progress → State → Progress × Option Exc × State
  | 0, p, s => (p, none, s)
  | f + 1, p, s =>
    if p.n = 0 then (p, none, s)
    else
      let m := if p.a % 4 = 0 ∧ p.d.toNat % 4 = 0 ∧ 4 ≤ p.n then 4 else 1
      if (takesTag c p.a || takesTag c p.d.toNat) && !s.tagFree c then (p, none, s) else
      match blkRead c p.a m s with
      | (.inr e, s) => (p, some e, s)
      | (.inl l, s) =>
        match blkWrite c p.d.toNat l s with
        | (some e, s) => (p, some e, s)
        | (none, s) => blkRun c f ⟨(p.a + m) % 2 ^ 32, p.d + BitVec.ofNat 32 m, p.n - m⟩ s

/-- The ranges overlap so that the copy would read what it has written. -/
def blkOverlap (a d n : Nat) : Bool := decide (a < d ∧ d < a + n)

/-- A store in the buffer goes elsewhere than to DMEM. (DEDUCED, log 17) -/
def awayStores (c : Nat) (k : Cell) : Bool := k.storeBuf.any (fun e => !isLocal c e)

/-- BLKMOV for at most `n` accesses. It waits while a store to elsewhere than DMEM is in the buffer, so that it reads what
the cell has stored. (DEDUCED, log 17) -/
def blkmovBody (c n : Nat) (a b d : RegNo) (s : State) : Did :=
  let k := s.cell c
  if !k.longOps.isEmpty || awayStores c k then .stay s
  else if k.g b = 0 then .ok s
  else if blkOverlap (k.g a).toNat (k.g d).toNat (k.g b).toNat then .fault s (plainFault 9 2)
  else
    match settle c s with
    | none => .stay s
    | some s => blockEnd c a b d (blkRun c n ⟨(k.g a).toNat, k.g d, (k.g b).toNat⟩ s)

/-- BLKMOV: the command goes on to the instruction's next safe point. -/
def blkmovOp (c : CellId) (a b d : RegNo) : Op :=
  ⟨[a, b, d], false, fun s => blkmovBody c.val (blockSteps s.free) a b d { s with free := s.free + 1 }⟩

end Sys2Proof.Machine
end

