-- ==== Sys2Proof/Machine/CellMem.lean ====
section
/-!
DEFINITION. Loads, stores and atomics, the load queue and the store buffer (R11 to R14, R34, R77 to R80, R108 to R113,
R116).
-/

namespace Sys2Proof.Machine

/-- What an access does in A: it is made, it holds, or it faults. -/
inductive Acc where
  | done (s : State)
  | stay (s : State)
  | fault (s : State) (e : Exc)

/-- An access as the whole of an instruction. -/
def Acc.did : Acc → Did
  | .done s => .ok s
  | .stay s => .stay s
  | .fault s e => .fault s e

/-- Forms of a load: size in bytes, and whether it extends the sign (R77). -/
inductive LoadKind where
  | w
  | h
  | hu
  | b
  | bu
deriving DecidableEq, Repr

def LoadKind.size : LoadKind → Nat
  | .w => 4
  | .h => 2
  | .hu => 2
  | .b => 1
  | .bu => 1

/-- The register value that loaded bytes give. -/
def LoadKind.extend (q : LoadKind) (bs : List Byte) : Word :=
  match q with
  | .h => (BitVec.ofNat 16 (leNat bs)).signExtend 32
  | .b => (BitVec.ofNat 8 (leNat bs)).signExtend 32
  | _ => BitVec.ofNat 32 (leNat bs)

/-- The effective address of a load or store (R77). -/
def effAddr (x : Word) (imm : BitVec 16) : Word := x + sextImm imm

/-- The load queue has an entry and the cell a tag for one more access (R108). -/
def loadRoom (c : Nat) (s : State) : Bool := decide ((s.cell c).loadQ.length < 8) && s.tagFree c

/-- A non-local access that has been performed waits for its data to return. -/
def queueLoad (c : Nat) (dst : Dest) (addr : Word) (data : Option Word) (s : State) : State :=
  s.onCell c (fun k => { k.issued with loadQ := k.loadQ ++ [⟨k.seq, dst, data, addr⟩] })

/-! ## Store buffer (R112, R113) -/

/-- The byte ranges [a, a + n) and that of a buffered store overlap, as addresses are written. -/
def overlaps (a n : Nat) (e : StoreEntry) : Bool :=
  decide (a < e.addr.toNat + e.bytes.length ∧ e.addr.toNat < a + n)

/-- A buffered store contains every byte of the range. -/
def contains (a n : Nat) (e : StoreEntry) : Bool :=
  decide (e.addr.toNat ≤ a ∧ a + n ≤ e.addr.toNat + e.bytes.length)

/-- The youngest buffered store that overlaps a range. -/
def youngest (a n : Nat) (k : Cell) : Option StoreEntry := (k.storeBuf.filter (overlaps a n)).getLast?

/-- A load with nothing in its way: DMEM at once, elsewhere through the load queue. (DEDUCED, log 16) -/
def loadAccess (c : Nat) (q : LoadKind) (dst : Dest) (ea : Word) (s : State) : Acc :=
  match dataAt c ea.toNat with
  | .dmem o =>
    (match s.dmRead c o q.size with
    | (.ok l, s) => .done (s.onCell c (putDest dst (q.extend l)))
    | (_, s) => .fault s (accessFault 5 4 ea))
  | .mem r p =>
    if loadRoom c s then
      match s.readMem r p q.size with
      | (.ok l, s) => .done (queueLoad c dst ea (some (q.extend l)) s)
      | (_, s) => .done (queueLoad c dst ea none s)
    else .stay s
  | .mram o =>
    if !(s.cell c).sup then .fault s (accessFault 6 5 ea)
    else if loadRoom c s then
      let p := s.mramRead o q.size
      .done (queueLoad c dst ea (some (q.extend p.1)) p.2)
    else .stay s
  | .none => .fault s (accessFault 5 0 ea)

/-- A store up to place `n` in issue order is in the buffer, or has left it and is not acknowledged. -/
def storesUpTo (n : Nat) (k : Cell) : Bool :=
  k.storeBuf.any (fun e => decide (e.seq ≤ n)) || k.acks.any (fun e => e.kind == .store && decide (e.seq ≤ n))

/-- A load from address `ea` (R77, R78, R113). One that a buffered store covers in part holds until that store and every
older one have left and completed. (DESIGN CHOICE, log 8, 9) -/
def loadGo (c : Nat) (q : LoadKind) (dst : Dest) (ea : Word) (s : State) : Acc :=
  if ea.toNat % q.size ≠ 0 then .fault s (accessFault 4 0 ea)
  else
    match (s.cell c).behind.filter (fun h => h.2 == ea), youngest ea.toNat q.size (s.cell c) with
    | some h, _ =>
      if storesUpTo h.1 (s.cell c) then .stay s
      else loadAccess c q dst ea (s.onCell c (fun k => { k with behind := none }))
    | none, none => loadAccess c q dst ea s
    | none, some e =>
      if contains ea.toNat q.size e then
        .done (s.onCell c (putDest dst (q.extend ((e.bytes.drop (ea.toNat - e.addr.toNat)).take q.size))))
      else .stay (s.onCell c (fun k => { k with behind := some (e.seq, ea) }))

/-- A store of bytes to address `ea` (R77, R78, R112). (DESIGN CHOICE, log 9; DEDUCED, log 16) -/
def storeGo (c : Nat) (bs : List Byte) (ea : Word) (s : State) : Acc :=
  if ea.toNat % bs.length ≠ 0 then .fault s (accessFault 4 0 ea)
  else
    match dataAt c ea.toNat with
    | .none => .fault s (accessFault 5 0 ea)
    | .mram _ => .fault s (accessFault 5 2 ea)
    | _ =>
      if 4 ≤ (s.cell c).storeBuf.length then .stay s
      else .done (s.onCell c (fun k => { k.issued with storeBuf := k.storeBuf ++ [⟨k.seq, ea, bs⟩] }))

/-- An atomic at the bank: what stands at the place becomes `f` of it in one access, so that the word is checked once
(R39, R79, R328). -/
def atomicAt (r : Nat) (p : Place) (f : Word → Word) (s : State) : Option Word × State :=
  match s.readMem r p 4 with
  | (.ok l, s) =>
    let s := s.onRegion r (fun _ R => setEcc (placeCode p + placeOff p / 8) none R)
    let old : Word := BitVec.ofNat 32 (leNat l)
    (match s.writeMem r p (leBytes 4 (f old).toNat) with
    | (.ok _, s) => (some old, s)
    | (_, s) => (none, s))
  | (_, s) => (none, s)

/-- An atomic on address `ea` (R77 to R79). (DESIGN CHOICE, log 8) -/
def atomicGo (c : Nat) (f : Word → Word) (dst : Dest) (ea : Word) (s : State) : Acc :=
  if ea.toNat % 4 ≠ 0 then .fault s (accessFault 4 0 ea)
  else
    match dataAt c ea.toNat with
    | .none => .fault s (accessFault 5 0 ea)
    | .mram _ => .fault s (accessFault 5 2 ea)
    | .dmem _ => .fault s (accessFault 5 3 ea)
    | .mem r p =>
      if !(s.cell c).storeBuf.isEmpty || !loadRoom c s then .stay s
      else
        let q := atomicAt r p f s
        .done (queueLoad c dst ea q.1 q.2)

/-! ## Instructions (R77) -/

/-- A load instruction. -/
def loadOp (c : CellId) (q : LoadKind) (d a : RegNo) (imm : BitVec 16) : Op :=
  ⟨[d, a], false, fun s => (loadGo c.val q (.gpr d) (effAddr ((s.cell c.val).g a) imm) s).did⟩

/-- A store instruction of `n` bytes. -/
def storeOp (c : CellId) (n : Nat) (d a : RegNo) (imm : BitVec 16) : Op :=
  ⟨[d, a], false, fun s =>
    (storeGo c.val (leBytes n ((s.cell c.val).g d).toNat) (effAddr ((s.cell c.val).g a) imm) s).did⟩

/-- LDW. -/
def ldwOp (c : CellId) (d a : RegNo) (imm : BitVec 16) : Op := loadOp c .w d a imm
/-- LDH. -/
def ldhOp (c : CellId) (d a : RegNo) (imm : BitVec 16) : Op := loadOp c .h d a imm
/-- LDHU. -/
def ldhuOp (c : CellId) (d a : RegNo) (imm : BitVec 16) : Op := loadOp c .hu d a imm
/-- LDB. -/
def ldbOp (c : CellId) (d a : RegNo) (imm : BitVec 16) : Op := loadOp c .b d a imm
/-- LDBU. -/
def ldbuOp (c : CellId) (d a : RegNo) (imm : BitVec 16) : Op := loadOp c .bu d a imm
/-- STW. -/
def stwOp (c : CellId) (d a : RegNo) (imm : BitVec 16) : Op := storeOp c 4 d a imm
/-- STH. -/
def sthOp (c : CellId) (d a : RegNo) (imm : BitVec 16) : Op := storeOp c 2 d a imm
/-- STB. -/
def stbOp (c : CellId) (d a : RegNo) (imm : BitVec 16) : Op := storeOp c 1 d a imm
/-- LDA. -/
def ldaOp (c : CellId) (d a b : RegNo) : Op :=
  ⟨[d, a, b], false, fun s =>
    let k := s.cell c.val
    (atomicGo c.val (fun old => old + k.g b) (.gpr d) (k.g a) s).did⟩
/-- SWP. -/
def swpOp (c : CellId) (d a b : RegNo) : Op :=
  ⟨[d, a, b], false, fun s =>
    let k := s.cell c.val
    (atomicGo c.val (fun _ => k.g b) (.gpr d) (k.g a) s).did⟩

/-! ## Returns and acknowledgements -/

/-- The data of the `i`-th entry of the load queue returns; a bus error leaves its destination unwritten and is held
pending (R108, R116). (DESIGN CHOICE, log 8) -/
def loadReturn (i : Nat) (k : Cell) : Cell :=
  match k.loadQ[i]? with
  | none => k
  | some e =>
    let k := { k with loadQ := k.loadQ.eraseIdx i }
    match e.data with
    | some v => putDest e.dest v k
    | none => k.addImp ⟨e.seq, 5, 4, e.addr, some e.dest, false⟩

/-- Place in the list of the `i`-th acknowledgement that satisfies `p`. -/
def ackPlace (p : AckEntry → Bool) : Nat → List AckEntry → Option Nat
  | _, [] => none
  | i, e :: l =>
    if p e then (match i with | 0 => some 0 | j + 1 => (ackPlace p j l).map (· + 1))
    else (ackPlace p i l).map (· + 1)

/-- The target acknowledges the `i`-th write that satisfies `p`; an error is held pending (R34, R115).
(DESIGN CHOICE, log 8) -/
def ackReturn (p : AckEntry → Bool) (i : Nat) (k : Cell) : Cell :=
  match ackPlace p i k.acks with
  | none => k
  | some j =>
    match k.acks[j]? with
    | none => k
    | some e =>
      let k := { k with acks := k.acks.eraseIdx j }
      if e.err then k.addImp ⟨e.seq, 5, 4, e.addr, none, false⟩ else k

/-- A store of the data space is acknowledged. -/
def storeAcked (i : Nat) (k : Cell) : Cell := ackReturn (fun e => e.kind == .store) i k

/-- An OUT or OUTP is acknowledged. -/
def outAcked (i : Nat) (k : Cell) : Cell := ackReturn (fun e => e.kind != .store) i k

end Sys2Proof.Machine
end

