-- ==== Sys2Proof/Machine/CellIo.lean ====
section
/-!
DEFINITION. I/O space of a cell: the map, privilege, own registers, the coefficient file, IN, OUT, OUTP, IWR and IFLUSH
(R15, R16, R45, R55, R56, R81 to R83, R106, R169, R170, R205, R289 to R291).
-/

namespace Sys2Proof.Machine

/-! ## The map (R15) and privilege (R169, R170) -/

/-- Where an I/O address leads. -/
inductive IoAt where
  /-- A register of the cell's own. -/
  | own (o : Nat)
  /-- The register space of a region. -/
  | region (r o : Nat)
  /-- The chip register space. -/
  | chip (o : Nat)
  | none
deriving DecidableEq, Repr

/-- The I/O-space map as cell `c` sees it. -/
def ioAt (c a : Nat) : IoAt :=
  if a < 0x10000 then .own a
  else if 0x100000 ≤ a ∧ a < 0x200000 then .region (c / 128) (a % 0x100000)
  else if 0x400000 ≤ a ∧ a < 0x500000 then .chip (a % 0x100000)
  else if 0x800000 ≤ a ∧ a < 0x1000000 then .region ((a - 0x800000) / 0x100000) (a % 0x100000)
  else .none

/-- CMASK opens the unit of a region address to program level (R170). -/
def unitOpen (k : Cell) (a : Nat) : Bool :=
  let m := k.ioReg Reg.CMASK.base
  let u := a % 0x100000 / 0x10000
  decide (u < 12) && m.getLsbD u && (decide (a < 0x800000) || m.getLsbD 16)

/-- The privilege fault that program level raises at an I/O address: its DETAIL (R181). -/
def ioDenied (k : Cell) (a : Nat) : Option Nat :=
  if k.sup then none
  else if a < 0x100 then some 2
  else if 0x400000 ≤ a ∧ a < 0x500000 then some 3
  else if (0x100000 ≤ a ∧ a < 0x200000) ∨ 0x800000 ≤ a then (if unitOpen k a then none else some 4)
  else none

/-! ## Own registers (R55, R56) -/

/-- The bank that CFCTL selects: 0 for A, 64 for B, as the first word of `Cell.coef`. -/
def activeBank (k : Cell) : Nat := if (k.ioReg Reg.CFCTL.base).getLsbD 0 then 64 else 0

def Cell.coefAt (k : Cell) (i : Nat) : Word := mapGet zeroWord k.coef i

/-- CID of cell `c` (R56). -/
def cellId (c : Nat) : Word := BitVec.ofNat 32 (c % 128 * 2 ^ 16 + c)

/-- A read of the register of cell `c` at offset `o`; none where none is named. -/
def ownRead (c o : Nat) (k : Cell) : Option Word :=
  match regIdx Reg.CFACT o, regIdx Reg.CFIN o, regIdx Reg.CFA o, regIdx Reg.CFB o with
  | some (i, _), _, _, _ => some (k.coefAt (activeBank k + i))
  | _, some (i, _), _, _ => some (k.coefAt (64 - activeBank k + i))
  | _, _, some (i, _), _ => some (k.coefAt i)
  | _, _, _, some (i, _) => some (k.coefAt (64 + i))
  | none, none, none, none =>
    if o = Reg.RSDEPTH.base then some (BitVec.ofNat 32 k.rs.length)
    else if o = Reg.CID.base then some (cellId c)
    else if o = Reg.EPSTAT.base then some (epStat k)
    else if (cellReg o).isSome then some (k.ioReg o)
    else none

/-- A write of CFCTL: CANCEL, then SWAP (R290). -/
def cfctlWrite (swap cancel : Bool) (k : Cell) : Cell :=
  let v := k.ioReg Reg.CFCTL.base
  let v := if cancel then Machine.setBit v 1 false else v
  k.setIo Reg.CFCTL.base (if swap then Machine.setBit v 1 true else v)

/-- A write to CFINi (R289). -/
def cfinWrite (i : Nat) (v : Word) (k : Cell) : Cell :=
  { k with coef := mapSet zeroWord k.coef (64 - activeBank k + i) v }

/-- A write to the register at offset `o`: false where it is a bus error (R45, R289). -/
def ownWrite (o : Nat) (v : Word) (k : Cell) : Bool × Cell :=
  if (regIdx Reg.CFACT o).isSome || (regIdx Reg.CFA o).isSome || (regIdx Reg.CFB o).isSome then (false, k)
  else
    match regIdx Reg.CFIN o, cellReg o with
    | some (i, _), _ => (true, cfinWrite i v k)
    | none, some d =>
      (true, if o = Reg.CFCTL.base then cfctlWrite (v.getLsbD 2) (v.getLsbD 3) k
        else k.setIo o (maskWrite d.mask (k.ioReg o) v))
    | none, none => (false, k)

/-! ## Accesses -/

/-- io_a of R81. -/
def ioAddr (x : Word) (port : BitVec 16) : Nat := (x + zextImm port).toNat % 0x1000000

/-- A register outside the cell is read. (DESIGN CHOICE, log 8) -/
def ioPerform (q : IoAt) (s : State) : Option Word × State :=
  match q with
  | .region r o => s.readRegion r o
  | .chip o => (s.readChip o, s)
  | _ => (none, s)

/-- A register outside the cell is written. -/
def ioStore (q : IoAt) (v : Word) (s : State) : Bool × State :=
  match q with
  | .region r o => s.writeRegion false r o v
  | .chip o => s.writeChip o v
  | _ => (false, s)

/-- The precise fault of an I/O access at address `a`, own registers apart. (DEDUCED, log 16) -/
def ioFault (c a : Nat) (k : Cell) : Option Exc :=
  let w : Word := BitVec.ofNat 32 a
  if a % 4 ≠ 0 then some (accessFault 4 1 w)
  else
    match ioDenied k a with
    | some d => some (accessFault 6 d w)
    | none => if ioAt c a = .none then some (accessFault 5 0 w) else none

/-- An earlier OUT is not acknowledged (R81). -/
def ioHeld (k : Cell) : Bool := k.acks.any (fun e => e.kind == .out)

/-- IN from address `a`. (DESIGN CHOICE, log 9) -/
def inGo (c : Nat) (dst : Dest) (a : Nat) (s : State) : Acc :=
  let k := s.cell c
  let w : Word := BitVec.ofNat 32 a
  if ioHeld k then .stay s
  else
    match ioFault c a k with
    | some e => .fault s e
    | none =>
      match ioAt c a with
      | .own o =>
        (match ownRead c o k with
        | some v => .done (s.onCell c (putDest dst v))
        | none => .fault s (accessFault 5 1 w))
      | q =>
        if loadRoom c s then
          let p := ioPerform q s
          .done (queueLoad c dst w p.1 p.2)
        else .stay s

/-- OUT or OUTP to address `a` as far as it concerns the cell: an own register is written; for another target the
acknowledgement is awaited. (DESIGN CHOICE, log 9) -/
def outGo (c : Nat) (posted : Bool) (a : Nat) (v : Word) (s : State) : Acc :=
  let k := s.cell c
  let w : Word := BitVec.ofNat 32 a
  if ioHeld k then .stay s
  else
    match ioFault c a k with
    | some e => .fault s e
    | none =>
      match ioAt c a with
      | .own o =>
        let p := ownWrite o v k
        if p.1 then .done (s.setCell c p.2) else .fault s (accessFault 5 1 w)
      | _ =>
        if s.tagFree c then
          .done (s.onCell c (fun k =>
            { k.issued with acks := k.acks ++ [⟨k.seq, if posted then .outp else .out, false, w⟩] }))
        else .stay s

/-- The write with issue number `seq` reaches its target, which may answer with a bus error. -/
def outReach (c a seq : Nat) (v : Word) (s : State) : State :=
  match ioAt c a with
  | .own _ => s
  | q =>
    let p := ioStore q v s
    if p.1 then p.2
    else p.2.onCell c (fun k => { k with acks := k.acks.map (fun e =>
        if e.seq = seq then { e with err := true } else e) })

/-- The IMEM address of IWR (R81): none beyond IMEM. -/
def iwrAddr (x : Word) (imm : BitVec 16) : Option Nat :=
  let n := x.toNat + imm.toNat
  if n > 0x1FFF then none else some n

/-- IWR of a word at an IMEM address. It makes no access to I/O space, so neither it nor IFLUSH waits for the
acknowledgement of an OUT. (DEDUCED, log 16) -/
def iwrGo (c : Nat) (addr : Option Nat) (full : Nat) (v : Word) (s : State) : Acc :=
  let w : Word := BitVec.ofNat 32 full
  if !(s.cell c).sup then .fault s (plainFault 6 0)
  else
    match addr with
    | none => .fault s (accessFault 5 0 w)
    | some n =>
      if n % 4 ≠ 0 then .fault s (accessFault 4 0 w)
      else
        match s.writeMem (c / 128) (.imem (c % 128) n) (leBytes 4 v.toNat) with
        | (.ok _, s) => .done s
        | (_, s) => .fault s (accessFault 5 4 w)

/-! ## Instructions (R81) -/

/-- IN. -/
def inOp (c : CellId) (d a : RegNo) (port : BitVec 16) : Op :=
  ⟨[d, a], false, fun s => (inGo c.val (.gpr d) (ioAddr ((s.cell c.val).g a) port) s).did⟩

/-- OUT and OUTP: the write leaves as the instruction completes. -/
def outBody (c : Nat) (posted : Bool) (a : Nat) (v : Word) (s : State) : Did :=
  match outGo c posted a v s with
  | .done s' => .after s' (outReach c a (s.cell c).seq v)
  | .stay s => .stay s
  | .fault s e => .fault s e

/-- OUT. -/
def outOp (c : CellId) (d a : RegNo) (port : BitVec 16) : Op :=
  ⟨[d, a], false, fun s => let k := s.cell c.val; outBody c.val false (ioAddr (k.g a) port) (k.g d) s⟩
/-- OUTP. -/
def outpOp (c : CellId) (d a : RegNo) (port : BitVec 16) : Op :=
  ⟨[d, a], false, fun s => let k := s.cell c.val; outBody c.val true (ioAddr (k.g a) port) (k.g d) s⟩
/-- IWR. -/
def iwrOp (c : CellId) (d a : RegNo) (imm : BitVec 16) : Op :=
  ⟨[d, a], false, fun s =>
    let k := s.cell c.val
    (iwrGo c.val (iwrAddr (k.g a) imm) ((k.g a).toNat + imm.toNat) (k.g d) s).did⟩
/-- IFLUSH: the next word is fetched anew, which every instruction of the model does. -/
def iflushOp (c : CellId) : Op := cellOp c [] false id

end Sys2Proof.Machine
end

