-- ==== Sys2Proof/Machine/CellFlow.lean ====
section
/-!
DEFINITION. Branches, jumps, calls and the return stack (R57 to R59, R62, R84 to R87, R119 to R123).
-/

namespace Sys2Proof.Machine

/-! ## Return stack (R58) -/

/-- A return stack that has been pushed or popped, or the fault that the check raised. -/
inductive Stacked where
  /-- Done; a spill gives the DMEM word it overwrote. -/
  | ok (s : State) (spill : List (Nat × List Byte))
  /-- Popped, with the target. -/
  | popped (s : State) (target : BitVec 13)
  /-- A store that stands before the access waits for a tag. -/
  | stay (s : State)
  | fault (s : State) (e : Exc)

/-- Pushes a return address, spilling the oldest entry where the hardware stack is full. (DEDUCED, log 12) -/
def rsPush (c : Nat) (ret : BitVec 13) (s : State) : Stacked :=
  let k := s.cell c
  if k.rs.length < 16 then .ok (s.onCell c (fun k => { k with rs := ret :: k.rs })) []
  else if k.rsptr + 4 > k.rslimit then .fault s (plainFault 8 1)
  else
    match settle c s with
    | none => .stay s
    | some s =>
    let old := mapRead zeroByte (s.cell c).dmem k.rsptr 4
    let s := s.dmWrite c k.rsptr k.seq (leBytes 4 ((k.rs.getLast?).getD 0).toNat)
    .ok (s.onCell c (fun k' => { k' with rs := ret :: k'.rs.dropLast }.setIo Reg.RSPTR.base (BitVec.ofNat 32 (k.rsptr + 4))))
      [(k.rsptr, old)]

/-- Pops a return address, filling from DMEM where the hardware stack is empty. (DEDUCED, log 12) -/
def rsPop (c : Nat) (s : State) : Stacked :=
  let k := s.cell c
  match k.rs with
  | t :: l => .popped (s.onCell c (fun k => { k with rs := l })) t
  | [] =>
    if k.rsptr ≤ k.rsbase then .fault s (plainFault 8 2)
    else
      match settle c s with
      | none => .stay s
      | some s =>
        match s.dmRead c (k.rsptr - 4) 4 with
        | (.ok l, s) =>
          if leNat l % 4 ≠ 0 then .fault s (plainFault 4 2)
          else .popped (s.onCell c (fun k' => k'.setIo Reg.RSPTR.base (BitVec.ofNat 32 (k.rsptr - 4))))
            (BitVec.ofNat 13 (leNat l))
        | (_, s) => .fault s (accessFault 5 4 (BitVec.ofNat 32 (k.rsptr - 4)))

/-! ## Branches (R84, R85) -/

/-- The target of a B-format branch at `p`. -/
def branchTarget (p : BitVec 13) (off : BitVec 15) : BitVec 13 := p + ((off.signExtend 32) <<< 2 : BitVec 32).truncate 13

/-- A branch to `target`, as the cell stands before it. -/
def slotOf (k : Cell) (word : Word) (target : BitVec 13) (taken cond mis : Bool) (spill : List (Nat × List Byte)) : Slot :=
  ⟨k.pc, word, target, k.rs, k.ioReg Reg.RSPTR.base, spill, taken, cond, mis⟩

/-- The prediction of a branch missed its outcome (R119). -/
def mispredicted (k : Cell) (target : BitVec 13) (taken : Bool) : Bool :=
  match k.predicts k.pc with
  | some t => !(taken && t == target)
  | none => taken

/-- The slot of a compare-and-branch with its outcome. -/
def condSlot (k : Cell) (word : Word) (off : BitVec 15) (taken : Bool) : Slot :=
  let t := branchTarget k.pc off
  slotOf k word (if taken then t else k.pc + 8) taken true (mispredicted k t taken) []

/-- The word in IMEM after the branch must not stand in a delay slot (R87). (DESIGN CHOICE, log 10) -/
def slotClash (k : Cell) : Bool := slotForbidden (opcodeOf (k.imem32 (k.pc + 4).toNat))

/-- A compare-and-branch: annulled is the slot of one that is not taken. A forbidden pair faults whether its slot would
execute or not (R87); a slot that executes is checked as its instruction comes. -/
def condBranch (c : CellId) (word : Word) (regs : List RegNo) (cond : Cell →
    Bool) (annul : Bool) (off : BitVec 15) : Op :=
  ⟨regs, false, fun s =>
    let k := s.cell c.val
    let skip := annul && !cond k
    if skip && slotClash k then .fault s (plainFault 3 2) else .branch s (condSlot k word off (cond k)) skip⟩

/-- A branch on two registers. -/
def branch2 (c : CellId) (i : Instr) (a b : RegNo) (f : Word → Word → Bool) (annul : Bool) (off : BitVec 15) : Op :=
  condBranch c (wordOf i) [a, b] (fun k => f (k.g a) (k.g b)) annul off

/-- A branch on one register. -/
def branch1 (c : CellId) (i : Instr) (a : RegNo) (f : Word → Bool) (annul : Bool) (off : BitVec 15) : Op :=
  condBranch c (wordOf i) [a] (fun k => f (k.g a)) annul off

/-- BEQ. -/
def beqOp (c : CellId) (a b : RegNo) (annul : Bool) (off : BitVec 15) : Op :=
  branch2 c (.beq c a b annul off) a b (fun x y => x == y) annul off
/-- BNE. -/
def bneOp (c : CellId) (a b : RegNo) (annul : Bool) (off : BitVec 15) : Op :=
  branch2 c (.bne c a b annul off) a b (fun x y => x != y) annul off
/-- BLT. -/
def bltOp (c : CellId) (a b : RegNo) (annul : Bool) (off : BitVec 15) : Op :=
  branch2 c (.blt c a b annul off) a b slt annul off
/-- BGE. -/
def bgeOp (c : CellId) (a b : RegNo) (annul : Bool) (off : BitVec 15) : Op :=
  branch2 c (.bge c a b annul off) a b (fun x y => !slt x y) annul off
/-- BLTU. -/
def bltuOp (c : CellId) (a b : RegNo) (annul : Bool) (off : BitVec 15) : Op :=
  branch2 c (.bltu c a b annul off) a b ult annul off
/-- BGEU. -/
def bgeuOp (c : CellId) (a b : RegNo) (annul : Bool) (off : BitVec 15) : Op :=
  branch2 c (.bgeu c a b annul off) a b (fun x y => !ult x y) annul off
/-- BEQZ. -/
def beqzOp (c : CellId) (a : RegNo) (annul : Bool) (off : BitVec 15) : Op :=
  branch1 c (.beqz c a annul off) a (fun x => x == 0) annul off
/-- BNEZ. -/
def bnezOp (c : CellId) (a : RegNo) (annul : Bool) (off : BitVec 15) : Op :=
  branch1 c (.bnez c a annul off) a (fun x => x != 0) annul off
/-- BLTZ. -/
def bltzOp (c : CellId) (a : RegNo) (annul : Bool) (off : BitVec 15) : Op :=
  branch1 c (.bltz c a annul off) a (fun x => slt x 0) annul off
/-- BGEZ. -/
def bgezOp (c : CellId) (a : RegNo) (annul : Bool) (off : BitVec 15) : Op :=
  branch1 c (.bgez c a annul off) a (fun x => !slt x 0) annul off

/-! ## Jumps and calls (R84, R86) -/

/-- A transfer to `target`, taken in any case. -/
def jumpTo (c : Nat) (word : Word) (target : BitVec 13) (s : State) : Did :=
  .branch s (slotOf (s.cell c) word target true false false []) false

/-- A call of `target`: the return address past the delay slot is pushed. -/
def callTo (c : Nat) (word : Word) (target : BitVec 13) (s : State) : Did :=
  let k := s.cell c
  match rsPush c (k.pc + 8) s with
  | .ok s spill => .branch s (slotOf k word target true false false spill) false
  | .popped s _ => .stay s
  | .stay s => .stay s
  | .fault s e => .fault s e

/-- The byte address of a J-format target (R62). -/
def jTarget (target : BitVec 24) : BitVec 13 := BitVec.ofNat 13 (4 * target.toNat)

/-- JMP. -/
def jmpOp (c : CellId) (target : BitVec 24) : Op := ⟨[], false, jumpTo c.val (wordOf (.jmp c target)) (jTarget target)⟩
/-- CALL. -/
def callOp (c : CellId) (target : BitVec 24) : Op := ⟨[], false,
    callTo c.val (wordOf (.call c target)) (jTarget target)⟩
/-- JR: a target that is no word address is a misaligned access. -/
def jrOp (c : CellId) (a : RegNo) : Op :=
  ⟨[a], false, fun s =>
    let x := (s.cell c.val).g a
    if x.toNat % 4 ≠ 0 then .fault s (plainFault 4 2) else jumpTo c.val (wordOf (.jr c a)) (x.truncate 13) s⟩
/-- CALLR. (DEDUCED, log 16) -/
def callrOp (c : CellId) (a : RegNo) : Op :=
  ⟨[a], false, fun s =>
    let x := (s.cell c.val).g a
    if x.toNat % 4 ≠ 0 then .fault s (plainFault 4 2) else callTo c.val (wordOf (.callr c a)) (x.truncate 13) s⟩
/-- RET. -/
def retOp (c : CellId) : Op :=
  ⟨[], false, fun s =>
    let k := s.cell c.val
    match rsPop c.val s with
    | .popped s t => .branch s (slotOf k (wordOf (.ret c)) t true false false []) false
    | .ok s _ => .stay s
    | .stay s => .stay s
    | .fault s e => .fault s e⟩

end Sys2Proof.Machine
end

