-- ==== Sys2Proof/Machine/CellSys.lean ====
section
/-!
DEFINITION. Event, system, privilege and barrier instructions of a cell, and the entry of an interrupt at a safe point
(R88 to R94, R115, R118, R172 to R187, R203, R397, R398).
-/

namespace Sys2Proof.Machine

/-! ## Event ports (R88, R89, R203, R204) -/

/-- The number of a port: its FIRE source and its task input (R192, R200). -/
def portNo (c p : Nat) : Nat := 0x200 + 4 * (c % 128) + p

/-- FIRE: one pulse of the port's source. -/
def portFire (c p : Nat) (s : State) : State := s.onRegion (c / 128) (fun x R => R.raise x (portNo c p))

/-- A cell that holds in WAIT goes on once its port has an event. -/
def wake (k : Cell) : Cell :=
  match k.hold with
  | .wait p =>
    if k.running && k.portPending p.val then holdOver k (portConsume p.val k) else k
  | _ => k

/-- An event reaches port `p` of cell `c` with its stamp (R202, R203). -/
def eventArrive (c p : Nat) (stamp : Ticks) (s : State) : State :=
  let s := (s.awake (c / 128)).onRegion (c / 128) (fun _ R => evCrossed (portNo c p) R)
  s.onCell c (fun k => wake (portArrive p stamp k))

/-- WAIT. -/
def waitOp (c : CellId) (p : Fin 4) : Op :=
  ⟨[], false, fun s =>
    if (s.cell c.val).portPending p.val then .ok (s.onCell c.val (portConsume p.val))
    else .stay (s.onCell c.val (fun k => { k with hold := .wait p }))⟩

/-- FIRE. -/
def fireOp (c : CellId) (p : Fin 4) : Op := ⟨[], false, fun s => .ok (portFire c.val p.val s)⟩

/-- Pending flags of ports 3 to 0. -/
def portFlags (k : Cell) : Word := BitVec.ofNat 32 (foldN 4 (fun p n => n + (k.portPending p).toNat * 2 ^ p) 0)

/-- EVTST. -/
def evtstOp (c : CellId) (d : RegNo) : Op := cellOp c [d] false (fun k => k.setG d (portFlags k))

/-! ## Barriers (R90, R115, R118) -/

/-- No store, load or other non-local operation of the cell is outstanding. -/
def memoryQuiet (k : Cell) : Bool := k.storeBuf.isEmpty && k.loadQ.isEmpty && k.acks.isEmpty

/-- What a barrier of one kind does: it waits, then reports a pending fault of vector `v`, or lets `body` act (R72, R118).
That MBAR waits before it reports is read from LBAR. (DEDUCED, log 14) -/
def barrier (c v : Nat) (clear : Cell → Bool) (body : State → Did) (s : State) : Did :=
  let k := s.cell c
  if !clear k then .stay s
  else
    match k.oldestImp (fun f => f.vector == v) with
    | some f => .fault s ⟨v, f.detail, 0, f.addr, false, some f⟩
    | none => body s

/-- MBAR's condition. -/
def mbarGo (c : Nat) (body : State → Did) (s : State) : Did := barrier c 5 memoryQuiet body s

/-- LBAR's condition. -/
def lbarGo (c : Nat) (body : State → Did) (s : State) : Did := barrier c 9 (fun k => k.longOps.isEmpty) body s

/-- MBAR. -/
def mbarOp (c : CellId) : Op := ⟨[], false, mbarGo c.val .ok⟩
/-- LBAR. -/
def lbarOp (c : CellId) : Op := ⟨[], false, lbarGo c.val .ok⟩

/-! ## Checkpoint (R91, R397, R398) -/

/-- The slot and SEQ that the next record takes, from the newest committed one. -/
def nextSlot : Option (Nat × List Byte) → Nat × Nat
  | none => (0, 1)
  | some (n, rec) => (1 - n, ((wordAt rec 0).toNat + 1) % 2 ^ 32)

/-- Both slots of a mirror lie in block memory. (DEDUCED, log 24) -/
def mirrorOk (b c len : Nat) (R : Region) : Bool := decide (slotAt b c 1 len R + 768 + len ≤ 0x10000)

/-- Offset of the first word of `n` bytes from a place that cannot be read, or of the place itself. -/
def firstBad (p : Place) (n : Nat) (R : Region) : Nat :=
  let o := placeOff p
  match (List.range (wordsTouched o n)).find? (fun j => eccAt R (placeCode p + o / 8 + j) == some .uncorrectable) with
  | some j => max o (8 * (o / 8 + j))
  | none => o

/-- The bus error of a CKPT, with the address of the access that fails (R177): the first outside DMEM or the own block
memory, or that of the word. (DEDUCED, log 24) -/
def ckptFault (detail a : Nat) : Exc := accessFault 5 detail (BitVec.ofNat 32 a)

/-- CKPT once nothing is outstanding. (DEDUCED, log 24) -/
def ckptBody (c : Nat) (s : State) : Did :=
  let k := s.cell c
  let b := c % 128 / 16
  let len := ckLen k
  let base := ckBase (k.ioReg Reg.CKAREA.base)
  if !memoryQuiet k || !k.longOps.isEmpty then .stay s
  else if base + len > 0x2000 then .fault s (ckptFault 5 0x2000)
  else if !mirrorOk b (c % 16) len (s.region (c / 128)) then .fault s (ckptFault 5 0x20000)
  else
    match s.dmRead c base len with
    | (.ok _, s) =>
      let q := newestRecord (s.ctx (c / 128)) b (c % 16) len (s.region (c / 128))
      let s := s.setRegion (c / 128) q.2
      let n := nextSlot q.1
      let o := slotAt b (c % 16) n.1 len (s.region (c / 128))
      let r := ckRecord (s.cell c) n.2 s.time.gtime (k.pc + 4)
      (match s.writeMem (c / 128) (.bmem b o) r with
      | (.ok _, s) => .ok s
      | (_, s) => .fault s (ckptFault 4 (0x10000 + o)))
    | (_, s) => .fault s (ckptFault 4 (firstBad (.dmem (c % 128) base) len (s.region (c / 128))))

/-- CKPT. -/
def ckptOp (c : CellId) : Op := ⟨[], false, ckptBody c.val⟩

/-! ## Gate calls (R172 to R175) -/

/-- A gate-table entry: the words at +0, +4, +8 and +12. -/
structure GateEntry where
  target : Nat
  kinds : Nat
  lens : Nat
  dsp : Nat
deriving DecidableEq, Repr

def GateEntry.valid (e : GateEntry) : Bool := e.target.testBit 31
def GateEntry.supOnly (e : GateEntry) : Bool := e.target.testBit 30
/-- Kind of argument g(i + 1). -/
def GateEntry.kind (e : GateEntry) (i : Nat) : Nat := e.kinds / 4 ^ i % 4
/-- Register with the length of argument g(i + 1). -/
def GateEntry.lenReg (e : GateEntry) (i : Nat) : RegNo := Fin.ofNat 16 (e.lens / 16 ^ i)

/-- A pointer argument. -/
def GateEntry.pointer (e : GateEntry) (i : Nat) : Bool := e.kind i == 2 || e.kind i == 3

def gateEntry (l : List Byte) : GateEntry :=
  ⟨leNat (l.take 4), leNat ((l.drop 4).take 4), leNat ((l.drop 8).take 4), leNat ((l.drop 12).take 4)⟩

/-- Register of argument `i` + 1. -/
def argReg (i : Nat) : RegNo := Fin.ofNat 16 (i + 1)

/-- The argument i + 1 of a program-level caller may be passed. -/
def argOk (e : GateEntry) (k : Cell) (i : Nat) : Bool :=
  let p := (k.g (argReg i)).toNat
  let n := (k.g (e.lenReg i)).toNat
  !e.pointer i || (decide ((k.ioReg Reg.PWINBASE.base).toNat ≤ p ∧ p + n ≤ (k.ioReg Reg.PWINLIMIT.base).toNat)
    && !(e.kind i == 3 && decide (0 < n ∧ p < 0x40800000 ∧ 0x40000000 < p + n)))

/-- The registers a gate call uses. (DEDUCED, log 24) -/
def gateRegs (e : GateEntry) (sup : Bool) : List RegNo :=
  15 :: (List.range 6).flatMap (fun i =>
    if e.kind i = 0 then [argReg i] else if !sup && e.pointer i then [argReg i, e.lenReg i] else [])

/-- Stack top of the service. -/
def gateTop (e : GateEntry) (k : Cell) : Nat := if e.dsp ≠ 0 then e.dsp else (k.g 15).toNat

/-- A gate call whose checks passed. -/
def gateEnter (c n : Nat) (e : GateEntry) (s : State) : Did :=
  let k := s.cell c
  let top := gateTop e k
  let s := s.dmWrite c (top - 16) k.seq
    (words4 [(k.pc + 4).zeroExtend 32, k.cstat, k.g 15, BitVec.ofNat 32 n])
  let s := s.onCell c (fun k' =>
    let k' := foldN 6 (fun i k' => if e.kind i = 0 then k'.setG (argReg i) 0 else k') k'
    ({ k' with shadow := (k.sup, true) :: k'.shadow }.setG 15 (BitVec.ofNat 32 (top - 16))).setCstat
      (setBits (Machine.setBit k.cstat 4 true) 9 8 0))
  .jump s (BitVec.ofNat 13 e.target &&& 0x1FFC)

/-- GATE through a valid entry (R173). (DEDUCED, log 24) -/
def gateCheck (c n : Nat) (e : GateEntry) (s : State) : Did :=
  let k := s.cell c
  if !e.valid then .fault s (plainFault 7 0)
  else if e.supOnly && !k.sup then .fault s (plainFault 7 2)
  else if 8 ≤ k.shadow.length then .fault s (plainFault 7 4)
  else
    withUses c (gateRegs e k.sup) false (fun s =>
      match (if k.sup then none else (List.range 6).find? (fun i => !argOk e k i)) with
      | some i => .fault s ⟨7, 3, i + 1, 0, false, none⟩
      | none =>
        let top := gateTop e k
        if top % 4 ≠ 0 ∨ top < 16 ∨ 0x2000 < top then .fault s (plainFault 8 3) else gateEnter c n e s) s

/-- GATE n. -/
def gateBody (c n : Nat) (s : State) : Did :=
  let a := ((s.cell c).ioReg Reg.GATEBASE.base).toNat + 16 * n
  if n = 0 then .fault s (plainFault 7 0)
  else if a + 16 > 0x2000 then .fault s (plainFault 7 1)
  else
    match settle c s with
    | none => .stay s
    | some s =>
      match s.dmRead c a 16 with
      | (.ok l, s) => gateCheck c n (gateEntry l) s
      | (_, s) => .fault s (accessFault 5 4 (BitVec.ofNat 32 a))

/-- GATE. -/
def gateOp (c : CellId) (n : Byte) : Op := ⟨[], false, gateBody c.val n.toNat⟩

/-- CSTAT from a frame word: reserved bits read zero and ESC is as given. -/
def frameStat (v : Word) (esc : Bool) : Word := Machine.setBit (v &&& BitVec.ofNat 32 Reg.CSTAT.mask) 6 esc

/-- RETS with its frame read. -/
def retsGo (c : Nat) (l : List Byte) (top : Bool) (s : State) : Did :=
  let k := s.cell c
  let stat := wordAt l 4
  if stat.getLsbD 4 && !top then .fault s (plainFault 7 6)
  else
    .jump (s.onCell c (fun k' =>
      ({ k' with shadow := k'.shadow.tail }.setG 15 (wordAt l 8)).setCstat (frameStat stat k.esc)))
      ((wordAt l 0).truncate 13 &&& 0x1FFC)

/-- RETS. -/
def retsBody (c : Nat) (s : State) : Did :=
  let k := s.cell c
  let f := (k.g 15).toNat
  if !k.sup || f % 4 != 0 || decide (f + 16 > 0x2000) then .fault s (plainFault 7 5)
  else
    match k.shadow with
    | (top, true) :: _ =>
      (match settle c s with
      | none => .stay s
      | some s =>
        match s.dmRead c f 16 with
        | (.ok l, s) => retsGo c l top s
        | (_, s) => .fault s (accessFault 5 4 (k.g 15)))
    | _ => .fault s (plainFault 7 5)

/-- RETS. -/
def retsOp (c : CellId) : Op := ⟨[15], false, retsBody c.val⟩

/-! ## Return from an exception (R183) -/

/-- A frame's claim of supervisor level is covered. -/
def claimCovered (k : Cell) : Bool :=
  if k.esc then k.escOrigin else (match k.shadow with | (true, false) :: _ => true | _ => false)

/-- The marker of an unfounded claim, which escalates with DETAIL 3 (R185). -/
def claimFault : Exc := plainFault 6 15

/-- RETE with its frame read. -/
def reteGo (c : Nat) (l : List Byte) (s : State) : Did :=
  let stat := wordAt l 4
  if stat.getLsbD 4 && !claimCovered (s.cell c) then .fault s claimFault
  else
    .jump (s.onCell c (fun k =>
      ({ k with shadow := if k.esc then k.shadow else k.shadow.tail }.setG 15 (wordAt l 0x14)).setCstat
        (frameStat stat false)))
      ((wordAt l 0).truncate 13 &&& 0x1FFC)

/-- RETE. -/
def reteBody (c : Nat) (s : State) : Did :=
  let k := s.cell c
  let f := (k.g 15).toNat
  if !k.sup then .fault s (plainFault 6 0)
  else if f % 4 ≠ 0 ∨ f + 32 > 0x2000 then .fault s (plainFault 8 4)
  else
    match settle c s with
    | none => .stay s
    | some s =>
      match s.dmRead c f 32 with
      | (.ok l, s) => reteGo c l s
      | (_, s) => .fault s (accessFault 5 4 (k.g 15))

/-- RETE. -/
def reteOp (c : CellId) : Op := ⟨[15], false, reteBody c.val⟩

/-! ## Status registers, IDLE and HALT (R90, R92 to R94) -/

/-- MFS. -/
def mfsOp (c : CellId) (d : RegNo) (sr : Fin 64) : Op :=
  ⟨[d], false, fun s =>
    let k := s.cell c.val
    if !k.sup then .fault s (plainFault 6 0)
    else
      match ownRead c.val (4 * sr.val) k with
      | some v => .ok (s.onCell c.val (fun k => k.setG d v))
      | none => .fault s (accessFault 5 1 (BitVec.ofNat 32 (4 * sr.val)))⟩

/-- The status register at an offset has a writable field. -/
def statusWritable (o : Nat) : Bool := match cellReg o with | some d => d.mask != 0 | none => false

/-- MTS: an interrupt that a lowered mask level admits is taken before the next instruction (R92). -/
def mtsOp (c : CellId) (a : RegNo) (sr : Fin 64) : Op :=
  ⟨[a], false, fun s =>
    let k := s.cell c.val
    if !k.sup then .fault s (plainFault 6 0)
    else if statusWritable (4 * sr.val) then
      .after (s.onCell c.val (fun k => (ownWrite (4 * sr.val) (k.g a) k).2))
        (fun s => if (s.cell c.val).ml < k.ml then takeAdmitted c.val s else s)
    else .fault s (accessFault 5 1 (BitVec.ofNat 32 (4 * sr.val)))⟩

/-- HALT: the cell stops once its outstanding operations are complete. -/
def haltOp (c : CellId) : Op :=
  ⟨[], false, fun s =>
    let k := s.cell c.val
    if !k.sup then .fault s (plainFault 6 0)
    else if memoryQuiet k && k.longOps.isEmpty then .ok (s.onCell c.val (fun k => { k with halted := true, byDebug := false }))
    else .stay s⟩

/-- IDLE holds, or completes where an interrupt is admitted, which is then taken at the instruction after it (R93). -/
def idleBody (c : Nat) (s : State) : Did :=
  if (admittedAt c s).isSome then .after s (takeAdmitted c)
  else .stay (s.onCell c (fun k => { k with hold := .idle }))

/-- IDLE. -/
def idleOp (c : CellId) : Op := ⟨[], false, idleBody c.val⟩

/-- Runs IDLE, in place of which no interrupt is taken. (DEDUCED, log 11) -/
def runIdle (c : Nat) (word : Word) (s : State) : State :=
  let k := s.cell c
  if !canExecute k then s else finish c word k (dispatchBase c word (idleBody c) s)

/-! ## Entry of an interrupt at a safe point (R160, R176, R180) -/

/-- The cell is at a safe point: between instructions, in WAIT or IDLE, or at a safe point of a routine, and not
between a branch and its delay slot. (DEDUCED, log 11) -/
def atSafePoint (k : Cell) : Bool :=
  k.running && k.slot.isNone
    && (match k.micro with | some m => m.count == 0 || k.hold != .none | none => true)

/-- EXCEPTION_ENTRY: an admitted interrupt is taken; IDLE completes first. (DEDUCED, log 11) -/
def exceptionEntry (c : Nat) (s : State) : State :=
  let k := s.cell c
  if atSafePoint k && (admittedAt c s).isSome then
    takeAdmitted c (if k.hold = .idle then s.onCell c (fun k => holdOver k k) else s)
  else s

end Sys2Proof.Machine
end

