-- ==== Sys2Proof/Machine/Release.lean ====
section
/-!
DEFINITION. The chip release sequence, watchdogs, power-up sources and the PCLK edge of an idle step (R29, R413, R423,
R442, R446, R451, R452).
-/

namespace Sys2Proof.Machine

/-! ## Chip release (R446) -/

/-- A clock of CK_STAT is good: 1 the fabric, 2 the timebase, 8 + r RCLKr. -/
def clockGoodBit (i : Nat) (s : State) : Bool := (s.chipReg Reg.CK_STAT.base).getLsbD i

/-- The boot unit turns to its source: for an image over Xesum it enables port 0, which trains and offers BOOT (R413).
(DEDUCED, log 43) -/
def sourceOpen (s : State) : State :=
  if s.chip.boot.pins = 2 then xlCfgWrite 0 (xlReg Reg.XL_P_CFG 0 s ||| 0x80000002) s else s

/-- Fuse catch-up: fuses that the mirror requires are blown before an image is read, unless PFW holds (R423). -/
def fuseCatchUp (s : State) : State :=
  let b := s.chip.boot
  if b.mirror ≤ fusesBlown b then sourceOpen { s with chip := { s.chip with rel := 6 } }
  else if jnBit 30 s.chip then s
  else s.onBoot (fun b => { b with blowing := true })

/-- No march test runs in any region. -/
def marchesOver (s : State) : Bool := (List.range 8).all (fun r => (s.region r).banks.march.isNone)

/-- The boot unit starts every loaded cell but the fallow ones as BK_START does (R446, R448). (DEDUCED, log 51) -/
def startCells (s : State) : State :=
  foldN 8 (fun r s =>
    s.onRegion r (fun _ R =>
      foldN 128 (fun i R => if blkBit Reg.BK_FALLOW (i / 16) (i % 16) R then R else startCell i R) R)) s

/-- The sequence advances by the step that can complete now; a step whose clock is not good, or whose work is not
done, waits. Steps 6 to 9 are those of an accepted image. (DESIGN CHOICE, log 2; DEDUCED, log 43) -/
def chipRelease (s : State) : State :=
  let reach (n : Nat) (s : State) : State := { s with chip := { s.chip with rel := n } }
  match s.chip.rel with
  | 0 => reach 1 { s with chip := backupRecord s.chip }
  | 1 => reach 2 { s with chip := setBtField 1 0 s.chip.boot.pins s.chip }
  | 2 => reach 3 s
  | 3 => if clockGoodBit 1 s && clockGoodBit 2 s then reach 4 s else s
  | 4 => if (List.range 8).all (fun r => clockGoodBit (8 + r) s) then reach 5 s else s
  | 5 => if s.chip.replayed then fuseCatchUp s else s
  | 9 => if marchesOver s then reach 10 (startCells s) else s
  | _ => s

/-- The journal is replayed once in a release, after the clocks (R446). -/
def replayStep (s : State) : State := if s.chip.rel = 5 ∧ !s.chip.replayed then jnReplay s else s

/-- A region, or blocks of a released one, leave reset; after a chip-reach reset not before an image is accepted.
(DESIGN CHOICE, log 2) -/
def regionReleaseStep (r : Nat) (s : State) : State := if 9 ≤ s.chip.rel then s.onRegion r regionRelease else s

/-- The chip pins of R453: the boot unit drives the QSPI pins from step 2 where BOOT1 BOOT0 = 00, and UART_TX from step
2; a SerDes transmitter holds electrical idle until its port is enabled. -/
def qspiDriven (h : Chip) : Bool := decide (2 ≤ h.rel ∧ h.boot.pins = 0)
def uartDriven (h : Chip) : Bool := decide (2 ≤ h.rel)
def ethIdle (p : Nat) (s : State) : Bool := !enOn p s
def xlIdle (p : Nat) (s : State) : Bool := !xlOn p s

/-- VBAT below 2.0 V clears the backup domain (R452). -/
def vbatLost (h : Chip) : Chip := { (backupErase h).setReg Reg.RS_BKSEC.base 0 with kclk := 0 }

/-- A critical-state error: which state failed, among the four that DETAIL names, is free (R442, R462).
(DEDUCED, log 51) -/
def criticalError (s : State) : State :=
  let d := (Config.freeWord s.free).toNat % 4
  let s := chipReset (0x10 + 0x100 * 2 ^ d) s
  { s with free := s.free + 1 }

/-! ## Watchdogs (R451) -/

/-- A watchdog counts: EN is 1, and a region's is in L0, L1 or L2 and not in reset. -/
def wdCounts (region : Option Nat) (s : State) : Bool :=
  (s.chipReg (watchdog region).cfg).getLsbD 31
    && match region with
      | none => true
      | some r => !(s.region r).inReset && decide (pmState (s.region r) < 3)

/-- TO, where 0 acts as 1. -/
def wdTimeout (region : Option Nat) (s : State) : Nat := max 1 (s.chipReg (watchdog region).limit).toNat

/-- The count of a warning. -/
def wdWarnAt (region : Option Nat) (s : State) : Nat := 7 * wdTimeout region s / 8

/-- The count that the next count edge reaches. -/
def wdNext (region : Option Nat) (s : State) : Nat := (s.chipReg (watchdog region).cnt).toNat + 1

/-- A watchdog warns. -/
def wdWarn (region : Option Nat) (s : State) : State :=
  let w := watchdog region
  let cfg := s.chipReg w.cfg
  let s := { s with chip := s.chip.count w.warn }
  if cfg.getLsbD 30 then s.post (match region with | none => bitsOf cfg 26 24 | some r => r) (bitsOf cfg 11 0) else s

/-- A watchdog expires: its count returns to 0 and its reset source is asserted. -/
def wdExpire (region : Option Nat) (s : State) : State :=
  let s := s.setChipReg (watchdog region).cnt 0
  match region with
  | none => chipReset 0x08 s
  | some r => regionResetFor r 0 s

/-- A count edge of a watchdog: it counts, warns at 7/8 of the timeout, expires at the timeout or beyond it (R451).
(DEDUCED, log 59) -/
def wdEdge (region : Option Nat) (s : State) : State :=
  let n := wdNext region s
  if wdTimeout region s ≤ n then wdExpire region s
  else
    let s := s.setChipReg (watchdog region).cnt (BitVec.ofNat 32 n)
    if n = wdWarnAt region s then wdWarn region s else s

/-- The watchdog counts at the coming PCLK edge, which no command has taken. -/
def wdComing (region : Option Nat) (s : State) : Bool :=
  wdCounts region s && wdEdgeComes region s && !s.chip.wdTaken.contains (region.getD 8)

/-- The warning of the coming count edge, where that edge reaches it. (DESIGN CHOICE, log 1) -/
def wdWarning (region : Option Nat) (s : State) : State :=
  if wdComing region s && decide (wdNext region s < wdTimeout region s ∧ wdNext region s = wdWarnAt region s) then
    wdEdge region (wdTake region s)
  else s

/-- The expiry of the coming count edge, where that edge reaches the timeout. (DESIGN CHOICE, log 1) -/
def wdExpiry (region : Option Nat) (s : State) : State :=
  if wdComing region s && decide (wdTimeout region s ≤ wdNext region s) then wdEdge region (wdTake region s) else s

/-- A count edge of a watchdog has come, unless a command took it. (DESIGN CHOICE, log 1) -/
def wdTick (region : Option Nat) (s : State) : State :=
  if wdCounts region s && !s.chip.wdTaken.contains (region.getD 8) then wdEdge region s else s

/-! ## The PCLK edge of an idle step -/

/-- A KCLK edge: the chip watchdog and the seconds of the backup domain (R451, R452). (DESIGN CHOICE, log 1, 50) -/
def kclkTick (s : State) : State :=
  let s := wdTick none s
  let h := s.chip
  if h.kclk + 1 < 32768 then { s with chip := { h with kclk := h.kclk + 1 } }
  else { s with chip := { h.setReg Reg.RS_BKSEC.base (h.reg Reg.RS_BKSEC.base + 1) with kclk := 0 } }

/-- GTIME and F advance (R29). (DESIGN CHOICE, log 1) -/
def gtimeTick (s : State) : State := { s with time := s.time.tick (s.chipReg Reg.CH_GTRATE.base).toInt }

/-- Ticks of the PCLK period that ended with the last edge, a step left out. -/
def Ctx.since (x : Ctx) : Nat := match x.time.past with | e :: _ => e.2.toNat | [] => 16

/-- What acts on timers and pairs at a PCLK edge beside their counts: the tasks of the arrivals `acc`, the tramline, and
before them the profile ticks (R194, R282, R294). -/
def edgeTasks (x : Ctx) (acc : List Accepted) (R : Region) : Region :=
  evActs x acc (tramTick x.time.pclk (foldN 8 (pgTickAt x.time.pclk) R))

/-- A PCLK edge in one region, `x` holding the time after it: the arrivals of the edge before are accepted; feedback and
field pins; tasks and the tramline, timers, injection, response capture, converters; the pulses of the edge; a doorbell
request is handed on. (DESIGN CHOICE, log 1) -/
def edgeWork (x : Ctx) (R : Region) : Region :=
  let acc := R.ev.accepted
  let R := pinTick x (fbTick x (evTick x R))
  let R := tmTick x x.since (edgeTasks x acc) R
  let R := rcTick x.time.pclk (injTick x.time.pclk R)
  pmTick (dbHand (evPresent x (adTick x (dmTick (pinOver (fbOver R))))))

/-- A PCLK edge in region `r`, unless it is in reset or off. -/
def regionTick (r : Nat) (s : State) : State :=
  let R := s.region r
  if R.inReset || pmState R == 4 then s else wdTick (some r) (s.onRegion r edgeWork)

/-- The idle step: one PCLK edge, where the timebase runs. What a command of the table stands for is left to it.
(DESIGN CHOICE, log 1, 50) -/
def pclkEdge (s : State) : State :=
  if clockGoodBit 2 s then
    let k := kclkEdge s.time.pclk
    let s := foldN 8 regionTick (gtApply (gtimeTick s))
    let s := if k then kclkTick s else s
    { s with chip := { s.chip with wdTaken := [] } }
  else s

end Sys2Proof.Machine
end

