-- ==== Sys2Proof/Machine/Debug.lean ====
section
/-!
DEFINITION. The debug port (R429).
-/

namespace Sys2Proof.Machine

/-- A permission granted by a debug unlock certificate: 0 cells, 1 register spaces, 2 halting, 3 backup clear. -/
def debugPermits (i : Nat) (s : State) : Bool := (s.chipReg Reg.BT_DBGPERM.base).getLsbD i

/-- What the debug port is answered. -/
def State.answer (s : State) (a : HostAnswer) : State := { s with host := some a }

/-- A permitted access acts; another is answered as unsupported. (DEDUCED, log 49) -/
def debugDo (i : Nat) (f : State → State) (s : State) : State := if debugPermits i s then f s else s.answer .unsupported

/-- The cell can be reached: it is not in reset (R445). (DEDUCED, log 49) -/
def debugCell (c : Nat) (f : State → State) (s : State) : State := if (s.cell c).inReset then s.answer .abort else f s

/-- Halts a running cell. -/
def debugHalt (k : Cell) : Cell := if k.running then { k with halted := true, byDebug := true } else k

/-- A cell that the debug port halted and that can run again. (DEDUCED, log 49) -/
def debugHeld (c : Nat) (s : State) : Bool :=
  let k := s.cell c
  k.byDebug && k.halted && k.reachErr == 0 && !isRetired (c % 128) (s.region (c / 128))
    && sections (c % 128 / 16) (c % 16) (s.region (c / 128)) == 15

/-- Lets a held cell run on, or execute one instruction and its delay slot. One that holds in WAIT consumes an event that
is pending on its port by then (R107). (DEDUCED, log 49) -/
def debugGo (single : Bool) (c : Nat) (s : State) : State :=
  if debugHeld c s then s.onCell c (fun k => wake { k with halted := false, byDebug := single, stepping := single }) else s

/-- One access of the debug port. (DEDUCED, log 49) -/
def jtagAccess (op : JtagOp) (s : State) : State :=
  match op with
  | .idcode => s.answer (.data (words4 [Config.idcode]))
  | .dbgchal => s.answer (.data (words4 ((List.range 12).map (fun w => s.chipReg (regAt Reg.BT_DBGCHAL w 0)))))
  | .dbgcert data =>
    let p := btCertificate data s
    p.2.answer (if p.1 = 0 then .posted else .discarded)
  | .halt c => debugDo 2 (debugCell c.val (fun s => (s.onCell c.val debugHalt).answer .posted)) s
  | .resume c => debugDo 2 (debugCell c.val (fun s => (debugGo false c.val s).answer .posted)) s
  | .single c => debugDo 2 (debugCell c.val (fun s => (debugGo true c.val s).answer .posted)) s
  | .readCell c r => debugDo 0 (debugCell c.val (fun s => s.answer (.data (words4 [(s.cell c.val).g r])))) s
  | .writeCell c r v =>
    debugDo 0 (debugCell c.val (fun s => (s.onCell c.val (fun k => k.setG r v)).answer .posted)) s
  | .readReg region offset =>
    debugDo 1 (fun s =>
      match s.readReg (region.map (fun r => r.val)) offset with
      | (some v, s) => s.answer (.data (words4 [v]))
      | (none, s) => s.answer .abort) s
  | .writeReg region offset v =>
    debugDo 1 (fun s =>
      let p := s.writeReg false (region.map (fun r => r.val)) offset v
      p.2.answer (if p.1 then .posted else .abort)) s

end Sys2Proof.Machine
end

