-- ==== Sys2Proof/Machine/Host.lean ====
section
/-!
DEFINITION. Host requests: BAR0, BAR2 and the MSI-X Message Control word (R20, R21, R221, R354 to R358, R365).
-/

namespace Sys2Proof.Machine

/-- How a request to a register or a memory ends. -/
inductive HostEnd where
  | ok
  /-- Unimplemented, or no whole register. -/
  | unsupported
  /-- Refused by a bank, an ECC error, or a block or region in reset. -/
  | abort
deriving DecidableEq, Repr

/-- The register space and offset of a BAR0 address: none for an unimplemented one (R20, R21). -/
def bar0At (a : Nat) : Option (Option Nat × Nat) :=
  if a < 0x100000 then some (none, a)
  else if 0x800000 ≤ a ∧ a < 0x1000000 then some (some ((a - 0x800000) / 0x100000), a % 0x100000)
  else none

/-- What keeps a request from the register at an address. (DEDUCED, log 46) -/
def bar0Check (a : Nat) (s : State) : HostEnd :=
  match bar0At a with
  | none => .unsupported
  | some (none, o) => if (Machine.chipReg o).isSome then .ok else .unsupported
  | some (some r, o) =>
    let R := s.region r
    if R.inReset || (o / 0x10000 == 0xA && R.blockReset.contains (blockOf o)) then .abort
    else if accessFails o R then .unsupported
    else .ok

/-- Reads `n` registers, lower address first. -/
def bar0Read (a : Nat) : Nat → State → (HostEnd × List Byte) × State
  | 0, s => ((.ok, []), s)
  | n + 1, s =>
    match bar0Check a s, bar0At a with
    | .ok, some (q, o) =>
      let p := s.readReg q o
      let t := bar0Read (a + 4) n p.2
      ((t.1.1, leBytes 4 (p.1.getD 0).toNat ++ t.1.2), t.2)
    | e, _ => ((e, []), s)

/-- Writes registers, lower address first, until one cannot be written. -/
def bar0Write (a : Nat) : List Nat → State → HostEnd × State
  | [], s => (.ok, s)
  | v :: l, s =>
    match bar0Check a s, bar0At a with
    | .ok, some (q, o) => bar0Write (a + 4) l (s.writeReg true q o (BitVec.ofNat 32 v)).2
    | e, _ => (e, s)

/-- Region and place of a BAR2 address. -/
def bar2At (a : Nat) : Option (Nat × Place) :=
  if a < 0x800000 then some (a / 0x100000, .rmem (a % 0x100000))
  else if a < 0x1000000 then
    let o := a - 0x800000
    some (o / 0x80000, .bmem (o % 0x80000 / 0x10000) (o % 0x10000))
  else none

/-- Cuts bytes at the multiples of `g`: the pieces of a span of `n` bytes from `a`. -/
def pieces (g : Nat) : Nat → Nat → Nat → List (Nat × Nat)
  | 0, _, _ => []
  | f + 1, a, n => if n = 0 then [] else
      let k := min n (g - a % g)
      (a, k) :: pieces g f (a + k) (n - k)

/-- Reads the pieces of a span until one fails. (DEDUCED, log 46) -/
def bar2Read : List (Nat × Nat) → State → (HostEnd × List Byte) × State
  | [], s => ((.ok, []), s)
  | (a, n) :: l, s =>
    match bar2At a with
    | none => ((.unsupported, []), s)
    | some (r, p) =>
      match s.readMem r p n with
      | (.ok b, s) => let t := bar2Read l s; ((t.1.1, b ++ t.1.2), t.2)
      | (_, s) => ((.abort, []), s)

/-- Writes each piece within an aligned group of 8 bytes in one access, so that an aligned group of 4 is never split
(R327, R356); pieces that are refused are discarded. (DEDUCED, log 46) -/
def bar2Write (data : List Byte) : List (Nat × Nat) → State → HostEnd × State
  | [], s => (.ok, s)
  | (a, n) :: l, s =>
    match bar2At a with
    | none => (.unsupported, s)
    | some (r, p) =>
      let w := s.writeMem r p (data.take n)
      let t := bar2Write (data.drop n) l w.2
      (match w.1 with | .ok _ => t.1 | _ => .abort, t.2)

/-- Advanced Error Reporting notes an error: bit 20 an Unsupported Request, bit 15 a Completer Abort (R354).
(PRESUMED, log 5) -/
def Chip.noteError (h : Chip) (i : Nat) : Chip := { h with aer := Machine.setBit h.aer i true }

/-- Counts a request that was not performed and answers it (R357). (DEDUCED, log 46) -/
def hostEnd (read : Bool) (e : HostEnd) (data : List Byte) (s : State) : State :=
  match e, read with
  | .ok, true => { s with host := some (.data data) }
  | .ok, false => { s with host := some .posted }
  | .unsupported, true => { s with host := some .unsupported, chip := s.chip.noteError 20 }
  | .unsupported, false => { s with host := some .discarded, chip := (s.chip.count Reg.HW_URDROP.base).noteError 20 }
  | .abort, true => { s with host := some .abort, chip := (s.chip.count Reg.HW_CABORT.base).noteError 15 }
  | .abort, false => { s with host := some .discarded, chip := (s.chip.count Reg.HW_CABORT.base).noteError 15 }

/-- The Message Control word: table size 63 in bits 10 to 0, Function Mask 14, Enable 15. PRESUMED layout of PCI
Express (log entry 5). (PRESUMED, log 5) -/
def msixControl (h : Chip) : Nat := 63 + h.msixFmask.toNat * 2 ^ 14 + h.msixEnable.toNat * 2 ^ 15

/-- The region that a request targets, from whose pool it takes its tag; none for the chip register space (R35). -/
def hostTarget (space : HostSpace) (addr : Nat) : Option Nat :=
  match space with
  | .bar0 => (bar0At addr).bind Prod.fst
  | .bar2 => (bar2At addr).map Prod.fst
  | _ => none

/-- A request obtains its tag: HOSTLIM of its region allows one (R34, R36). (DESIGN CHOICE, log 54) -/
def hostTag (space : HostSpace) (addr : Nat) (s : State) : Bool :=
  match hostTarget space addr with
  | some r => decide (0 < min 256 ((s.region r).field Reg.RG_TAGCFG.base 31 23))
  | none => true

/-- The function serves a request to the space: in D3hot only its configuration space (R354). (PRESUMED, log 5) -/
def hostServes (space : HostSpace) (h : Chip) : Bool :=
  match space with
  | .bar0 => !h.d3
  | .bar2 => !h.d3
  | _ => true

/-- A host read request that holds its tag. (DEDUCED, log 46) -/
def hostReadGo (space : HostSpace) (addr len : Nat) (s : State) : State :=
  if !hostServes space s.chip then hostEnd true .unsupported [] s else
  match space with
  | .bar0 =>
    if addr % 4 = 0 ∧ len % 4 = 0 ∧ 0 < len then
      let p := bar0Read addr (len / 4) s
      hostEnd true p.1.1 p.1.2 p.2
    else hostEnd true .unsupported [] s
  | .bar2 =>
    let p := bar2Read (pieces 8 len addr len) s
    hostEnd true p.1.1 p.1.2 p.2
  | .msixControl => hostEnd true .ok (leBytes 2 (msixControl s.chip)) s
  | .deviceId => hostEnd true .ok (leBytes 2 0x1024) s
  | .classCode => hostEnd true .ok (leBytes 3 0x0B4000) s
  | .powerState => hostEnd true .ok (leBytes 1 (if s.chip.d3 then 3 else 0)) s
  | .errorStatus => hostEnd true .ok (leBytes 4 s.chip.aer.toNat) s

/-- A host write request that holds its tag. (DEDUCED, log 46; the configuration space PRESUMED, log 5) -/
def hostWriteGo (space : HostSpace) (addr : Nat) (data : List Byte) (s : State) : State :=
  if !hostServes space s.chip then hostEnd false .unsupported [] s else
  match space with
  | .bar0 =>
    if addr % 4 = 0 ∧ data.length % 4 = 0 ∧ data ≠ [] then
      let p := bar0Write addr (wordsOf data) s
      hostEnd false p.1 [] p.2
    else hostEnd false .unsupported [] s
  | .bar2 =>
    let p := bar2Write data (pieces 8 data.length addr data.length) s
    hostEnd false p.1 [] p.2
  | .msixControl =>
    let v := leNat (data.take 2)
    hostEnd false .ok [] { s with chip := { s.chip with msixEnable := v.testBit 15, msixFmask := v.testBit 14 } }
  | .deviceId => hostEnd false .ok [] s
  | .classCode => hostEnd false .ok [] s
  | .powerState =>
    let v := leNat (data.take 1) % 4
    hostEnd false .ok [] { s with chip := { s.chip with d3 := if v = 3 then true else if v = 0 then false else s.chip.d3 } }
  | .errorStatus =>
    hostEnd false .ok [] { s with chip := { s.chip with aer := s.chip.aer &&& ~~~ BitVec.ofNat 32 (leNat (data.take 4)) } }

/-- A host read request; one that can obtain no tag waits (R36). -/
def hostRead (space : HostSpace) (addr len : Nat) (s : State) : State :=
  if hostTag space addr s then hostReadGo space addr len s else s

/-- A host write request; one that can obtain no tag waits (R36). -/
def hostWrite (space : HostSpace) (addr : Nat) (data : List Byte) (s : State) : State :=
  if hostTag space addr s then hostWriteGo space addr data s else s

/-- The PCIe link trains or goes down (R365). -/
def pcieLink (width speed : Nat) (s : State) : State :=
  s.setChipReg Reg.HW_LINK.base (if width = 0 then 0 else BitVec.ofNat 32 (width % 16 * 16 + speed % 16))

end Sys2Proof.Machine
end

