-- ==== Sys2Proof/Machine/Flags.lean ====
section
/-!
DEFINITION. The ALU of a microword and its flags (R148, R151). The base instructions keep no flag (R68).
-/

namespace Sys2Proof.Machine

/-- Flags of one ALU operation (R148). -/
structure Flags where
  z : Bool
  n : Bool
  c : Bool
  v : Bool
deriving DecidableEq, Repr

/-- What the ALU gives: a result, whether DST takes it, the flags. -/
structure AluOut where
  value : Word
  write : Bool
  flags : Flags
deriving DecidableEq, Repr

/-- Low bits of an operand, sign-extended, by WIDTH (R151). -/
def aluNarrow (width : Nat) (x : Word) : Word :=
  match width with
  | 1 => (x.truncate 16).signExtend 32
  | 2 => (x.truncate 8).signExtend 32
  | _ => x

/-- Number of bits by WIDTH. -/
def aluBits (width : Nat) : Nat := match width with | 1 => 16 | 2 => 8 | _ => 32

/-- A signed value clamped to `n` bits. -/
def clampBits (n : Nat) (x : Int) : Int := max (-(2 ^ (n - 1))) (min (2 ^ (n - 1) - 1) x)

/-- Sign-extends the low `n` bits of an integer to a word. -/
def wrapBits (n : Nat) (x : Int) : Word := BitVec.ofInt 32 ((BitVec.ofInt n x).toInt)

/-- Zero and sign flags of a result, with carry and overflow. -/
def flagsOf (r : Word) (c v : Bool) : Flags := ⟨r == 0, decide (r.toInt < 0), c, v⟩

/-- A result without carry or overflow. -/
def aluPlain (r : Word) (w : Bool := true) : Option AluOut := some ⟨r, w, flagsOf r false false⟩

/-- The ALU operation `op` on `x` and `y` at WIDTH; `gw` tells whether GW is non-zero. None for a reserved code. ADDS
and SUBS saturate at the width, which is that of their flags. (DEDUCED, log 58) -/
def aluOp (op width : Nat) (gw : Bool) (x y : Word) : Option AluOut :=
  let n := aluBits width
  let a := aluNarrow width x
  let b := aluNarrow width y
  let un (w : Word) : Nat := w.toNat % 2 ^ n
  let addC := decide (un a + un b ≥ 2 ^ n)
  let subC := decide (un a ≥ un b)
  let s := a.toInt + b.toInt
  let d := a.toInt - b.toInt
  let ov (t : Int) : Bool := decide (clampBits n t ≠ t)
  match op with
  | 0 => aluPlain a
  | 1 => aluPlain b
  | 2 => let r := wrapBits n s; some ⟨r, true, flagsOf r addC (ov s)⟩
  | 3 => let r := wrapBits n d; some ⟨r, true, flagsOf r subC (ov d)⟩
  | 4 => let r := wrapBits n (clampBits n s); some ⟨r, true, flagsOf r addC (ov s)⟩
  | 5 => let r := wrapBits n (clampBits n d); some ⟨r, true, flagsOf r subC (ov d)⟩
  | 6 => aluPlain (a &&& b)
  | 7 => aluPlain (a ||| b)
  | 8 => aluPlain (a ^^^ b)
  | 9 => aluPlain (a &&& ~~~ b)
  | 10 => aluPlain (ofBool (slt a b))
  | 11 => aluPlain (ofBool (decide (un a < un b)))
  | 12 => aluPlain (BitVec.ofNat 32 (leadingZeros a))
  | 13 => aluPlain (if gw then a else b)
  | 14 => aluPlain a (b == 0)
  | 15 => aluPlain a (b != 0)
  | 16 => aluPlain (if slt b a then b else a)
  | 17 => aluPlain (if slt a b then b else a)
  | _ => none

end Sys2Proof.Machine
end

