-- ==== Sys2Proof/Machine/Micro.lean ====
section
/-!
DEFINITION. Microwords and the micro-routines of user opcodes (R95 to R98, R140 to R168, R188, R493).
-/

namespace Sys2Proof.Machine

/-! ## The microword (R140) -/

/-- The fields of a microword. -/
structure MicroWord where
  seq : Nat
  naddr : Nat
  cond : Nat
  cpol : Bool
  alu : Nat
  asrc : Nat
  bsrc : Nat
  dst : Nat
  shf : Nat
  amt : Nat
  mul : Nat
  mem : Nat
  iop : Nat
  stk : Nat
  evt : Nat
  spec : Nat
  lng : Nat
  width : Nat
  imm : Word
  safe : Bool
  last : Bool
  priv : Bool
  fetch : Bool
  opr : Nat
  br : Nat
  msel : Nat
  lcl : Bool
  dso : Nat
  /-- AUX [1:0], zero. -/
  low : Nat
deriving DecidableEq, Repr

/-- The fields of the data bits. -/
def microWord (w : BitVec 136) : MicroWord where
  seq := bitsOf w 127 124
  naddr := bitsOf w 123 114
  cond := bitsOf w 113 108
  cpol := w.getLsbD 107
  alu := bitsOf w 106 101
  asrc := bitsOf w 100 96
  bsrc := bitsOf w 95 91
  dst := bitsOf w 90 86
  shf := bitsOf w 85 83
  amt := bitsOf w 82 78
  mul := bitsOf w 77 74
  mem := bitsOf w 73 70
  iop := bitsOf w 69 66
  stk := bitsOf w 65 62
  evt := bitsOf w 61 58
  spec := bitsOf w 57 54
  lng := bitsOf w 53 50
  width := bitsOf w 49 48
  imm := (w >>> 16).truncate 32
  safe := w.getLsbD 15
  last := w.getLsbD 14
  priv := w.getLsbD 13
  fetch := w.getLsbD 12
  opr := bitsOf w 11 10
  br := bitsOf w 9 8
  msel := bitsOf w 7 5
  lcl := w.getLsbD 4
  dso := bitsOf w 3 2
  low := bitsOf w 1 0

/-- SEQ or BR uses the condition. -/
def MicroWord.usesCond (f : MicroWord) : Bool := f.seq == 2 || f.seq == 3 || f.seq == 9 || f.br == 1

/-- The microword writes data that DST names (R150). -/
def MicroWord.dataWrite (f : MicroWord) : Bool :=
  (decide (6 ≤ f.mem) && decide (f.mem ≤ 8)) || (decide (2 ≤ f.iop) && decide (f.iop ≤ 4)) || f.stk == 2

/-- A load or an atomic. -/
def MicroWord.memResult (f : MicroWord) : Bool := f.mem != 0 && !(decide (6 ≤ f.mem) && decide (f.mem ≤ 8))

/-- A multiplier operation that produces a result. -/
def MicroWord.mulResult (f : MicroWord) : Bool := (decide (1 ≤ f.mul) && decide (f.mul ≤ 5)) || f.mul == 11

/-- A long operation whose result goes to DST. -/
def MicroWord.lngResult (f : MicroWord) : Bool := decide (1 ≤ f.lng) && decide (f.lng ≤ 6)

/-- Something other than the ALU writes DST at its own time. -/
def MicroWord.lateResult (f : MicroWord) : Bool := f.memResult || f.iop == 1 || f.stk == 3 || f.lngResult

/-- Non-repeatable operations (R164). -/
def MicroWord.nonRepeatable (f : MicroWord) : Bool :=
  f.mem == 9 || f.mem == 10 || f.iop != 0 || f.stk == 1 || f.stk == 4 || f.stk == 5 || f.br == 3 || f.evt != 0
      || f.lng != 0

/-- Number of conditions that hold. -/
def countTrue (l : List Bool) : Nat := (l.filter id).length

/-- A reserved encoding stands in the microword (R142, R150, R156). -/
def MicroWord.reserved (f : MicroWord) : Bool :=
  decide (11 ≤ f.seq) || (f.usesCond && decide (25 ≤ f.cond ∧ f.cond ≤ 31)) || decide (18 ≤ f.alu)
    || decide (22 ≤ f.asrc) || decide (22 ≤ f.bsrc) || decide (10 ≤ f.dst) || decide (6 ≤ f.shf)
    || (f.shf == 5 && decide (4 ≤ f.amt)) || decide (12 ≤ f.mul) || decide (11 ≤ f.mem) || decide (6 ≤ f.iop)
    || decide (6 ≤ f.stk) || f.evt == 3 || decide (12 ≤ f.evt) || decide (12 ≤ f.spec) || decide (10 ≤ f.lng)
    || f.width == 3 || (f.fetch && f.br == 0) || f.low != 0 || (f.dataWrite && f.dst == 0)

/-- The machine check that a microword raises: its DETAIL (R142, R143, R145, R147, R156, R157, R167). -/
def microCheck (m : Micro) (f : MicroWord) : Option Nat :=
  if f.reserved then some 0
  else if 1 < countTrue [f.memResult, f.iop == 1, f.stk == 3, f.lngResult, f.spec != 0, f.mulResult]
      || 1 < countTrue [f.mem != 0, f.iop != 0, f.stk == 2 || f.stk == 3] then some 1
  else if (f.seq == 6) != f.last then some 2
  else if (f.seq == 4 && decide (4 ≤ m.ustack.length)) || (f.seq == 5 && m.ustack.isEmpty) then some 3
  else if f.seq == 10 && !decide (3 ≤ bitsOf f.imm 7 0 ∧ bitsOf f.imm 7 0 ≤ 9) then some 4
  else if (f.stk == 4 || f.stk == 5) && decide (384 ≤ m.upc.toNat) then some 5
  else none

/-! ## Operands (R148 to R153) -/

/-- General register that the codes GX, GY, GZ, GW name. -/
def gCode (word : Word) : Nat → Option RegNo
  | 1 => some (regField word 20)
  | 2 => some (regField word 16)
  | 3 => some (regField word 12)
  | 4 => some (regField word 0)
  | _ => none

/-- General register of a source code. -/
def srcReg (word : Word) (n : Nat) : Option RegNo := if n = 16 then some 15 else gCode word n

/-- General register of a destination code. -/
def dstReg (word : Word) (n : Nat) : Option RegNo := if n = 5 then some 15 else gCode word n

/-- Value of a source (R149). -/
def microSrc (k : Cell) (m : Micro) (f : MicroWord) (n : Nat) : Word :=
  match srcReg m.word n with
  | some r => k.g r
  | none =>
    match n with
    | 5 => f.imm
    | 6 => sextImm (m.word.truncate 16)
    | 7 => zextImm (m.word.truncate 16)
    | 8 => (m.word.truncate 15).signExtend 32 <<< 2
    | 9 => m.word
    | 10 => k.pc.zeroExtend 32
    | 11 => (k.pc + 8).zeroExtend 32
    | 12 => m.t
    | 13 => m.m.getD f.msel 0
    | 14 => (k.acc >>> 32).truncate 32
    | 15 => k.acc.truncate 32
    | 17 => 0xFFFFFFFF
    | 18 => 4
    | 19 => k.cstat
    | 20 => portFlags k
    | 21 => (k.rs.head?.getD 0).zeroExtend 32
    | _ => 0

/-- Destination of a code (R150). -/
def microDst (word : Word) (f : MicroWord) : Dest :=
  match dstReg word f.dst with
  | some r => .gpr r
  | none =>
    match f.dst with
    | 6 => .t
    | 7 => .m (Fin.ofNat 8 f.msel)
    | 8 => .ah
    | 9 => .al
    | _ => .nowhere

/-- The value that the register of a destination holds. -/
def destValue (k : Cell) (m : Micro) : Dest → Word
  | .gpr r => k.g r
  | .t => m.t
  | .m j => m.m.getD j.val 0
  | .ah => (k.acc >>> 32).truncate 32
  | .al => k.acc.truncate 32
  | .nowhere => 0

/-- A shift of kind 0 SLL, 1 SRL, 2 SRA, 3 ROR. -/
def shiftBy (kind n : Nat) (x : Word) : Word :=
  match kind with
  | 0 => x <<< n
  | 1 => x >>> n
  | 2 => x.sshiftRight n
  | _ => x.rotateRight n

/-- The shifter on the B operand (R152). -/
def microShift (f : MicroWord) (a b : Word) : Word :=
  if f.shf = 0 then b else if f.shf = 5 then shiftBy f.amt (shAmt a) b else shiftBy (f.shf - 1) f.amt b

/-- An input of the condition multiplexer (R148). -/
def microCond (c : Nat) (m : Micro) (n : Nat) (g : Flags) (s : State) : Bool :=
  let k := s.cell c
  match n with
  | 1 => true
  | 2 => g.z
  | 3 => g.n
  | 4 => g.c
  | 5 => g.v
  | 6 => g.n != g.v
  | 7 => !g.c
  | 8 => m.m.getD 7 0 == 0
  | 9 => k.portPending 0
  | 10 => k.portPending 1
  | 11 => k.portPending 2
  | 12 => k.portPending 3
  | 13 => !ioHeld k
  | 14 => k.loadQ.isEmpty
  | 15 => k.storeBuf.isEmpty
  | 16 => k.rs.length == 16
  | 17 => k.rs.isEmpty
  | 18 => s.tagFree c
  | 19 => k.longOps.isEmpty
  | 20 => k.longOps.length == 2
  | 21 => !k.imp.isEmpty
  | 22 => k.sup
  | 23 => (admittedAt c s).isSome
  | 24 => k.portPending (m.word.toNat % 4)
  | _ => decide (32 ≤ n) && m.t.getLsbD (n - 32)

/-! ## Hazards of a microword (R141) -/

/-- General registers that the microword reads or writes. -/
def microRegs (word : Word) (f : MicroWord) : List RegNo :=
  (srcReg word f.asrc).toList ++ (srcReg word f.bsrc).toList ++ (dstReg word f.dst).toList
    ++ (if f.alu = 13 then [regField word 0] else [])
    ++ (if 2 ≤ f.stk ∧ f.stk ≤ 5 then [15] else [])
    ++ (if f.lng = 7 then [regField word 20, regField word 20 + 1] else [])
    ++ (if f.lng = 8 ∨ f.lng = 9 then [regField word 20, regField word 16, regField word 12] else [])

/-- The microword uses ACC. -/
def microAcc (f : MicroWord) : Bool :=
  f.asrc == 14 || f.asrc == 15 || f.bsrc == 14 || f.bsrc == 15 || f.dst == 8 || f.dst == 9
    || (decide (6 ≤ f.mul) && decide (f.mul ≤ 11)) || f.lng == 7

/-- T and the micro-registers that the microword reads or writes. -/
def microLocals (f : MicroWord) : List Dest :=
  (if f.asrc = 12 ∨ f.bsrc = 12 ∨ f.dst = 6 ∨ (f.usesCond ∧ 32 ≤ f.cond) then [.t] else [])
    ++ (if f.asrc = 13 ∨ f.bsrc = 13 ∨ f.dst = 7 then [.m (Fin.ofNat 8 f.msel)] else [])
    ++ (if f.seq = 8 ∨ f.lcl ∨ (f.usesCond ∧ f.cond = 8) then [.m 7] else [])

/-- T or a micro-register is pending. -/
def Cell.localPending (k : Cell) (d : Dest) : Bool :=
  k.loadQ.any (fun e => e.dest == d) || k.longOps.any (fun o => o.dest == some d)

/-- The imprecise fault that the microword's use of a register reports. -/
def microImp (k : Cell) (word : Word) (f : MicroWord) : Option ImpFault :=
  k.oldestImp (fun e => impUse (microRegs word f) (microAcc f) e
    || (match e.dest with | some d => (microLocals f).contains d | none => false))

/-- The microword waits for a register. -/
def microPending (k : Cell) (word : Word) (f : MicroWord) : Bool :=
  (microRegs word f).any k.regPending || (microAcc f && k.accPending) || (microLocals f).any k.localPending

/-! ## Effects of a microword -/

/-- What a microword does in X and A. -/
inductive UOut where
  /-- It has acted; then something happens outside the cell. -/
  | done (s : State) (after : State → State)
  /-- It holds, and nothing has changed. -/
  | hold
  /-- It holds, and its block operation has come further. -/
  | part (s : State)
  | fault (s : State) (e : Exc)

/-- One effect after another. -/
def UOut.bind (u : UOut) (f : State → UOut) : UOut :=
  match u with
  | .done s g =>
    (match f s with
    | .done s h => .done s (fun s => h (g s))
    | .hold => .hold
    | .part s => .part s
    | .fault s e => .fault s e)
  | .hold => .hold
  | .part s => .part s
  | .fault s e => .fault s e

/-- An effect on the cell alone. -/
def UOut.cell (c : Nat) (f : Cell → Cell) (s : State) : UOut := .done (s.onCell c f) id

def Acc.uout : Acc → UOut
  | .done s => .done s id
  | .stay _ => .hold
  | .fault s e => .fault s e

/-- The operands that a microword's effects see. -/
structure MicroArgs where
  a : Word
  b : Word
  /-- ALU result. -/
  r : Word
  /-- Value of the DST register before the microword. -/
  v : Word
  dst : Dest
  /-- ACC and g15 before the microword. -/
  acc : BitVec 64
  sp : Word
deriving DecidableEq, Repr

/-- MEM (R154). -/
def memEffect (c : Nat) (f : MicroWord) (o : MicroArgs) (s : State) : UOut :=
  match f.mem with
  | 0 => .done s id
  | 1 => (loadGo c .w o.dst o.r s).uout
  | 2 => (loadGo c .h o.dst o.r s).uout
  | 3 => (loadGo c .hu o.dst o.r s).uout
  | 4 => (loadGo c .b o.dst o.r s).uout
  | 5 => (loadGo c .bu o.dst o.r s).uout
  | 6 => (storeGo c (leBytes 4 o.v.toNat) o.r s).uout
  | 7 => (storeGo c (leBytes 2 o.v.toNat) o.r s).uout
  | 8 => (storeGo c (leBytes 1 o.v.toNat) o.r s).uout
  | 9 => (atomicGo c (fun old => old + o.b) o.dst o.r s).uout
  | _ => (atomicGo c (fun _ => o.b) o.dst o.r s).uout

/-- IOP (R154): the address is the ALU result [23:0]. -/
def iopEffect (c : Nat) (f : MicroWord) (o : MicroArgs) (s : State) : UOut :=
  let a := o.r.toNat % 0x1000000
  let write (posted : Bool) : UOut :=
    match outGo c posted a o.v s with
    | .done s' => .done s' (outReach c a (s.cell c).seq o.v)
    | .stay _ => .hold
    | .fault s e => .fault s e
  match f.iop with
  | 1 => (inGo c o.dst a s).uout
  | 2 => write false
  | 3 => write true
  | 4 => (iwrGo c (if a > 0x1FFF then none else some a) a o.v s).uout
  | _ => .done s id

/-- DPUSH and DPOP reach a word of DMEM (R57). -/
def stackOk (a : Word) : Bool := decide (a.toNat % 4 = 0 ∧ a.toNat + 4 ≤ 0x2000)

/-- STK without the vendor codes (R154): RPUSH keeps the words it spills for R86. A DPUSH of g15 stores what stood in it
before the microword (R57, R141). (DEDUCED, log 15, 58) -/
def stkEffect (c : Nat) (f : MicroWord) (o : MicroArgs) (s : State) : UOut :=
  let sp := o.sp
  match f.stk with
  | 1 =>
    (match rsPush c (o.a.truncate 13 &&& 0x1FFC) s with
    | .ok s l =>
      UOut.cell c (fun k => { k with micro := k.micro.map (fun m => { m with spill := l ++ m.spill }) }) s
    | .popped _ _ => .hold
    | .stay _ => .hold
    | .fault s e => .fault s e)
  | 2 =>
    if stackOk (sp - 4) then
      (storeGo c (leBytes 4 o.v.toNat) (sp - 4) s).uout.bind (UOut.cell c (fun k => k.setG 15 (sp - 4)))
    else .fault s (plainFault 8 0)
  | 3 =>
    if stackOk sp then
      (loadGo c .w o.dst sp s).uout.bind (UOut.cell c (fun k => if o.dst = .gpr 15 then k else k.setG 15 (sp + 4)))
    else .fault s (plainFault 8 0)
  | _ => .done s id

/-- LNG (R155). -/
def lngEffect (c : Nat) (word : Word) (f : MicroWord) (o : MicroArgs) (s : State) : UOut :=
  let k := s.cell c
  let issue (q : LongKind) : UOut :=
    if k.longRoom then UOut.cell c (longIssue q o.dst o.a o.b) s else .hold
  let block (d : Did) : UOut :=
    match d with
    | .ok s => .done s id
    | .fault s e => .fault s e
    | .stay s => .part (s.onCell c (fun k => { k with micro := k.micro.map (fun m => { m with dirty := true }) }))
    | _ => .hold
  let p := regField word 20
  match f.lng with
  | 0 => .done s id
  | 1 => issue .div
  | 2 => issue .divu
  | 3 => issue .rem
  | 4 => issue .remu
  | 5 => issue .sqrt
  | 6 => issue .qsqrt
  | 7 => if k.longRoom then UOut.cell c (mac64Issue (k.g (p + 1)) (k.g p) o.b) s else .hold
  | 8 => block (crcbBody c 0x2001 p (regField word 16) (regField word 12) s)
  | _ => block (blkmovBody c (k.g (regField word 16)).toNat p (regField word 16) (regField word 12) s)

/-- BR (R156, R157): a later redirect replaces an earlier one. BR = 3 pops the entry that stood before the microword,
also one that pushes (R141). (DEDUCED, log 58) -/
def brEffect (c : Nat) (m : Micro) (f : MicroWord) (o : MicroArgs) (cnd : Bool) (s : State) : UOut :=
  let k := s.cell c
  let put (b : Slot) (skip : Bool) (s : State) : UOut :=
    UOut.cell c (fun k => { k with micro := k.micro.map (fun m' => { m' with
      redirect := some ⟨{ b with rs := m.rs, rsptr := m.rsptr }, f.fetch, skip⟩ }) }) s
  match f.br with
  | 1 => put (condSlot k m.word (m.word.truncate 15) cnd) (m.word.getLsbD 15 && !cnd) s
  | 2 => put (slotOf k m.word (o.r.truncate 13) true false false []) false s
  | 3 =>
    (match rsPop c s with
    | .popped s t => put (slotOf k m.word t true false false []) false s
    | .ok _ _ => .hold
    | .stay _ => .hold
    | .fault s e => .fault s e)
  | _ => .done s id

/-- EVT (R155). -/
def evtEffect (c : Nat) (word : Word) (f : MicroWord) (s : State) : UOut :=
  let consume (p : Nat) : UOut := UOut.cell c (portConsume p) s
  let fire (p : Nat) : UOut := .done (portFire c p s) id
  match f.evt with
  | 0 => .done s id
  | 1 => consume (word.toNat % 4)
  | 2 => fire (word.toNat % 4)
  | n => if n < 8 then consume (n - 4) else fire (n - 8)

/-- SPEC (R155). -/
def specValue (k : Cell) (word : Word) (f : MicroWord) (o : MicroArgs) : Word :=
  match f.spec with
  | 1 => crcOn k 8 o.a o.b
  | 2 => crcOn k 16 o.a o.b
  | 3 => crcOn k 32 o.a o.b
  | 4 => crcOn k ((crcBits (word.toNat % 4)).getD 8) o.a o.b
  | 5 => parWord false o.a
  | 6 => parWord true o.a
  | 7 => reverseLanes 32 o.a
  | 8 => reverseLanes 16 o.a
  | 9 => reverseLanes 8 o.a
  | 10 => reverseLanes ((brevLane (word.toNat % 4)).getD 32) o.a
  | _ => BitVec.ofNat 32 (popCount o.a)

/-- Result of a multiplier operation; RDAC takes its amount and forms from the instruction word (R153). -/
def mulValue (word : Word) (f : MicroWord) (o : MicroArgs) : Word :=
  match f.mul with
  | 1 => o.a * o.b
  | 2 => highWord (mulS o.a o.b)
  | 3 => BitVec.ofNat 32 (o.a.toNat * o.b.toNat / 2 ^ 32)
  | 4 => qmulOf false o.a o.b
  | 5 => qmulOf true o.a o.b
  | _ => rdacOf (bitsOf word 5 0) (word.getLsbD 6) (word.getLsbD 7) o.acc

/-- ACC after a multiplier operation. -/
def mulAcc (f : MicroWord) (o : MicroArgs) : BitVec 64 :=
  match f.mul with
  | 6 => macOf false false o.acc o.a o.b
  | 7 => macOf false true o.acc o.a o.b
  | 8 => macOf true false o.acc o.a o.b
  | 9 => macOf true true o.acc o.a o.b
  | 10 => (o.a ++ o.b : BitVec 64)
  | _ => o.acc

/-- The value that DST takes at once, if any (R143, R150). -/
def microValue (k : Cell) (word : Word) (f : MicroWord) (o : MicroArgs) (write : Bool) : Option Word :=
  if f.dataWrite then none
  else if f.spec ≠ 0 then some (specValue k word f o)
  else if f.mulResult then some (mulValue word f o)
  else if f.lateResult then none
  else if write then some o.r else none

/-- m7 under LCL and LOOP, where DST does not write it (R144, R158). -/
def microM7 (m : Micro) (f : MicroWord) (byDst : Bool) (k : Cell) : Cell :=
  let m7 := m.m.getD 7 0
  if byDst then k
  else if f.lcl then putDest (.m 7) (f.imm &&& 0xFFFF) k
  else if f.seq = 8 ∧ m7 ≠ 0 then putDest (.m 7) (m7 - 1) k
  else k

/-- All effects of a microword but its sequencing; its operands are those before it. A write of AH or AL through DST
prevails over the multiplier's write of ACC. (DEDUCED, log 58) -/
def microEffects (c : Nat) (m : Micro) (f : MicroWord) (o : MicroArgs) (write cnd : Bool) (s : State) : UOut :=
  let v := microValue (s.cell c) m.word f o write
  let byDst := o.dst == .m 7 && (v.isSome || f.lateResult)
  ((((((lngEffect c m.word f o s).bind (memEffect c f o)).bind (iopEffect c f o)).bind (brEffect c m f o cnd)).bind
    (stkEffect c f o)).bind (evtEffect c m.word f)).bind
    (UOut.cell c (fun k =>
      let k := if 6 ≤ f.mul ∧ f.mul ≤ 10 then { k with acc := mulAcc f o } else k
      let k := match v with | some v => putDest o.dst v k | none => k
      microM7 m f byDst k))

/-! ## Sequencing (R144 to R146, R160, R163, R164) -/

/-- The next microword of a word that is not DISPATCH, TRAP or DISPATCH2, and the micro return stack. -/
def microNext (m : Micro) (f : MicroWord) (cnd : Bool) : BitVec 10 × List (BitVec 10) :=
  let n : BitVec 10 := BitVec.ofNat 10 f.naddr
  let one := m.upc + 1
  match f.seq with
  | 1 => (n, m.ustack)
  | 2 => (if cnd then n else one, m.ustack)
  | 3 => (if cnd then one else n, m.ustack)
  | 4 => (n, one :: m.ustack)
  | 5 => (m.ustack.head?.getD 0, m.ustack.tail)
  | 8 =>
    let m7 := m.m.getD 7 0
    (if m7 ≠ 0 ∧ m7 ≠ 1 then n else one, m.ustack)
  | _ => (one, m.ustack)

/-- A segment begins at the routine's present microword, with nothing written (R164). -/
def startSegment (k : Cell) : Cell :=
  { k with micro := k.micro.map (fun m => { m with
      count := 0, dirty := false, segUpc := m.upc, segSeq := k.seq, undo := [], segM := m.m, segT := m.t
      segStack := m.ustack }) }

/-- The registers of the undo record that a microword writes, at once or later (R164). -/
def microWrites (f : MicroWord) (o : MicroArgs) : List Dest :=
  (if f.dataWrite then [] else match o.dst with | .gpr r => [.gpr r] | .ah => [.ah] | .al => [.al] | _ => [])
    ++ (if f.stk = 2 ∨ f.stk = 3 then [.gpr 15] else [])
    ++ (if 6 ≤ f.mul ∧ f.mul ≤ 10 then [.ah, .al] else [])

/-- The undo record takes what registers held in `old`, before the segment's first write to them. -/
def noteWrites (old : Cell) (l : List Dest) (m : Micro) : Micro :=
  { m with undo := l.foldl (fun u d => if u.any (fun e => e.1 == d) then u else (d, destValue old m d) :: u) m.undo }

/-- The routine goes on at a microword; a safe point lies before it where its SAFE bit is 1. -/
def microGo (n : Nat) (f : MicroWord) (next : BitVec 10) (stack : List (BitVec 10)) (k : Cell) : Cell :=
  let k := { k with micro := k.micro.map (fun m => { m with
    upc := next, ustack := stack, count := n, dirty := m.dirty || f.nonRepeatable }) }
  if (microWord (csAt k next.toNat)).safe then startSegment k else k

/-- DISPATCH. -/
def microEnd (k : Cell) : Cell :=
  match k.micro with
  | some m => microEndWith m k.dropMicro k.dropMicro
  | none => k

/-- Whether a command goes on with the next microword, and the state. -/
abbrev UStep := Bool × State

/-- The routine is abandoned for an exception of the macro instruction (R167). (DEDUCED, log 22, 23) -/
def microFault (c : Nat) (word : Word) (e : Exc) (s : State) : UStep := (false, takeFault c e word s)

/-- The cell still carries out its routine, with no safe point reached. -/
def midSegment (k : Cell) : Bool :=
  k.running && (match k.micro with | some m => m.count != 0 | none => false)

/-- The faults of a microword that come before it acts (R146, R147, R155, R156). (DEDUCED, log 23) -/
def microDenied (k : Cell) (m : Micro) (f : MicroWord) (r : Word) : Option Exc :=
  if f.priv && !k.sup then some (plainFault 6 1)
  else if (f.spec == 4 || f.spec == 10) && m.word.toNat % 4 == 3 then some (plainFault 3 4)
  else if f.lng == 7 && !mac64Pair (regField m.word 20).val then some (plainFault 3 5)
  else if f.br == 2 && r.toNat % 4 != 0 then some (plainFault 4 2)
  else none

/-- OPR (R156): the condition of MBAR or LBAR, with the report that those barriers make. (DEDUCED, log 14) -/
def oprGo (c : Nat) (f : MicroWord) (s : State) : UOut :=
  let run (v : Nat) (clear : Cell → Bool) : UOut :=
    match barrier c v clear .ok s with
    | .fault s e => .fault s e
    | .ok s => .done s id
    | _ => .hold
  match f.opr with
  | 1 => run 5 memoryQuiet
  | 2 => run 9 (fun k => k.longOps.isEmpty)
  | _ => .done s id

/-- The set that DISPATCH2 reads. -/
def dispatchSet (k : Cell) (f : MicroWord) : Nat := if f.dso = 0 then k.ds else f.dso

/-- After the effects: the next microword, or the end of the instruction. -/
def microSeq (c n : Nat) (m : Micro) (f : MicroWord) (next : Option (BitVec 10)) (cnd : Bool) (s : State)
    (after : State → State) : UStep :=
  if f.seq = 6 then (false, after (s.onCell c microEnd))
  else
    let p := match next with | some a => (a, m.ustack) | none => microNext m f cnd
    let s := after (s.onCell c (microGo n f p.1 p.2))
    (midSegment (s.cell c), s)

/-- At most one effect of the microword can fault. -/
def oneEffect (f : MicroWord) : Bool := decide (countTrue [f.mem != 0, f.iop != 0, f.stk != 0, f.lng != 0,
    f.br == 3] ≤ 1)

/-- A microword that passed its checks acts; one that faults has no effect, but for the progress of a block operation
and a failure of the cell's own memory. (DEDUCED, log 23) -/
def microExec (c n : Nat) (m : Micro) (f : MicroWord) (o : MicroArgs) (write cnd : Bool) (next : Option (BitVec 10))
    (s : State) : UStep :=
  match (oprGo c f s).bind (microEffects c m f o write cnd) with
  | .hold => (false, s)
  | .part s' => (false, s')
  | .fault s' e => microFault c m.word e (if oneEffect f || (s'.cell c).reachErr != 0 then s' else s)
  | .done s' after =>
    microSeq c n m f next cnd
      (s'.onCell c (fun k => { k with micro := k.micro.map (noteWrites (s.cell c) (microWrites f o)) })) after

/-! ## Vendor entry points (R493) -/

/-- The meaning of a base instruction on cell `c`; none for a command that is none. (DEDUCED, log 20) -/
def baseOp (c : CellId) : Instr → Option Op
  | .nop _ => some (nopOp c)
  | .add _ d a b => some (addOp c d a b)
  | .sub _ d a b => some (subOp c d a b)
  | .adds _ d a b => some (addsOp c d a b)
  | .subs _ d a b => some (subsOp c d a b)
  | .and _ d a b => some (andOp c d a b)
  | .or _ d a b => some (orOp c d a b)
  | .xor _ d a b => some (xorOp c d a b)
  | .andn _ d a b => some (andnOp c d a b)
  | .sll _ d a b => some (sllOp c d a b)
  | .srl _ d a b => some (srlOp c d a b)
  | .sra _ d a b => some (sraOp c d a b)
  | .ror _ d a b => some (rorOp c d a b)
  | .slt _ d a b => some (sltOp c d a b)
  | .sltu _ d a b => some (sltuOp c d a b)
  | .clz _ d a => some (clzOp c d a)
  | .popc _ d a => some (popcOp c d a)
  | .brev _ d a lanes => some (brevOp c d a lanes)
  | .par _ d a bytes => some (parOp c d a bytes)
  | .sel _ d a b cc => some (selOp c d a b cc)
  | .cmovz _ d a b => some (cmovzOp c d a b)
  | .cmovnz _ d a b => some (cmovnzOp c d a b)
  | .addi _ d a imm => some (addiOp c d a imm)
  | .addsi _ d a imm => some (addsiOp c d a imm)
  | .andi _ d a imm => some (andiOp c d a imm)
  | .ori _ d a imm => some (oriOp c d a imm)
  | .xori _ d a imm => some (xoriOp c d a imm)
  | .lui _ d imm => some (luiOp c d imm)
  | .slli _ d a imm => some (slliOp c d a imm)
  | .srli _ d a imm => some (srliOp c d a imm)
  | .srai _ d a imm => some (sraiOp c d a imm)
  | .rori _ d a imm => some (roriOp c d a imm)
  | .slti _ d a imm => some (sltiOp c d a imm)
  | .sltiu _ d a imm => some (sltiuOp c d a imm)
  | .mul _ d a b => some (mulOp c d a b)
  | .mulh _ d a b => some (mulhOp c d a b)
  | .mulhu _ d a b => some (mulhuOp c d a b)
  | .qmul _ d a b rnd => some (qmulOp c d a b rnd)
  | .mac _ a b sub => some (macOp c a b sub)
  | .macs _ a b sub => some (macsOp c a b sub)
  | .mtac _ a b => some (mtacOp c a b)
  | .rdac _ d sh trunc rnd => some (rdacOp c d sh trunc rnd)
  | .div _ d a b => some (divOp c d a b)
  | .divu _ d a b => some (divuOp c d a b)
  | .rem _ d a b => some (remOp c d a b)
  | .remu _ d a b => some (remuOp c d a b)
  | .sqrt _ d a q => some (sqrtOp c d a q)
  | .mac64 _ a b => some (mac64Op c a b)
  | .crcs _ d a n => some (crcsOp c d a n)
  | .crcb _ a b d => some (crcbOp c a b d)
  | .blkmov _ a b d => some (blkmovOp c a b d)
  | .ldw _ d a imm => some (ldwOp c d a imm)
  | .ldh _ d a imm => some (ldhOp c d a imm)
  | .ldhu _ d a imm => some (ldhuOp c d a imm)
  | .ldb _ d a imm => some (ldbOp c d a imm)
  | .ldbu _ d a imm => some (ldbuOp c d a imm)
  | .stw _ d a imm => some (stwOp c d a imm)
  | .sth _ d a imm => some (sthOp c d a imm)
  | .stb _ d a imm => some (stbOp c d a imm)
  | .lda _ d a b => some (ldaOp c d a b)
  | .swp _ d a b => some (swpOp c d a b)
  | .in_ _ d a port => some (inOp c d a port)
  | .out _ d a port => some (outOp c d a port)
  | .outp _ d a port => some (outpOp c d a port)
  | .iwr _ d a imm => some (iwrOp c d a imm)
  | .iflush _ => some (iflushOp c)
  | .beq _ a b annul off => some (beqOp c a b annul off)
  | .bne _ a b annul off => some (bneOp c a b annul off)
  | .blt _ a b annul off => some (bltOp c a b annul off)
  | .bge _ a b annul off => some (bgeOp c a b annul off)
  | .bltu _ a b annul off => some (bltuOp c a b annul off)
  | .bgeu _ a b annul off => some (bgeuOp c a b annul off)
  | .beqz _ a annul off => some (beqzOp c a annul off)
  | .bnez _ a annul off => some (bnezOp c a annul off)
  | .bltz _ a annul off => some (bltzOp c a annul off)
  | .bgez _ a annul off => some (bgezOp c a annul off)
  | .jmp _ target => some (jmpOp c target)
  | .call _ target => some (callOp c target)
  | .jr _ a => some (jrOp c a)
  | .callr _ a => some (callrOp c a)
  | .ret _ => some (retOp c)
  | .wait _ p => some (waitOp c p)
  | .fire _ p => some (fireOp c p)
  | .evtst _ d => some (evtstOp c d)
  | .ckpt _ => some (ckptOp c)
  | .gate _ n => some (gateOp c n)
  | .rets _ => some (retsOp c)
  | .rete _ => some (reteOp c)
  | .mfs _ d sr => some (mfsOp c d sr)
  | .mts _ a sr => some (mtsOp c a sr)
  | .idle _ => some (idleOp c)
  | .halt _ => some (haltOp c)
  | .mbar _ => some (mbarOp c)
  | .lbar _ => some (lbarOp c)
  | _ => none

/-- The base opcode whose valid dispatch entry names a microaddress. (DEDUCED, log 20) -/
def entryOpcode (k : Cell) (a : BitVec 10) : Option Nat :=
  if 384 ≤ a.toNat then none
  else (List.range 0xC0).find? (fun o => dispValid (k.dispatch 0 o) && (k.dispatch 0 o).truncate 10 == a)

/-- Changes the cell in what an instruction leaves. -/
def Did.onCell (c : Nat) (f : Cell → Cell) : Did → Did
  | .ok s => .ok (s.onCell c f)
  | .jump s pc => .jump (s.onCell c f) pc
  | .branch s b annul => .branch (s.onCell c f) b annul
  | .fault s e => .fault s e
  | .after s g => .after (s.onCell c f) g
  | .stay s => .stay s

/-- A branch of a vendor routine is that of the user instruction, undone to where the instruction began. -/
def Did.forUser (m : Micro) : Did → Did
  | .branch s b annul => .branch s { b with word := m.word, rs := m.rs, rsptr := m.rsptr, spill := b.spill
      ++ m.spill } annul
  | d => d

/-- The base instruction of an entry point is carried out from the current instruction word; as it ends, a redirect that
the routine set before takes effect (R157). One that holds is carried out anew. (DEDUCED, log 20) -/
def vendorEnd (c : Nat) (m : Micro) (d : Did) (s : State) : State :=
  let old := (s.cell c).dropMicro
  match d with
  | .ok s => s.onCell c (fun k => microEndWith m old k.dropMicro)
  | .after s f => f (s.onCell c (fun k => microEndWith m old k.dropMicro))
  | .stay s => s
  | .fault s e => takeFault c e m.word s
  | d => finish c m.word old ((d.onCell c Cell.dropMicro).forUser m)

/-- The base instruction of an entry point. (DEDUCED, log 20) -/
def vendorRun (c : CellId) (m : Micro) (op : Nat) (s : State) : State :=
  let i := decodeWord c (BitVec.ofNat 32 (op * 2 ^ 24 + m.word.toNat % 2 ^ 24))
  let d := match baseOp c i with
    | some o => withUses c.val o.regs o.acc o.body s
    | none => .fault s (plainFault 3 0)
  vendorEnd c.val m d s

/-- The vendor-only STK codes in a word below 384: a frame return or the gate-entry checks end the instruction.
(DEDUCED, log 20) -/
def vendorStk (c : Nat) (m : Micro) (f : MicroWord) (s : State) : State :=
  vendorEnd c m (if f.stk = 4 then reteBody c s else gateBody c (m.word.toNat % 256) s) s

/-! ## One microword -/

/-- A microword that is not held by a pending register. -/
def microRun (c n : Nat) (m : Micro) (f : MicroWord) (s : State) : UStep :=
  let k := s.cell c
  let a := microSrc k m f f.asrc
  let b := microShift f a (microSrc k m f f.bsrc)
  match aluOp f.alu f.width (k.g (regField m.word 0) != 0) a b with
  | none => microFault c m.word (plainFault 1 0) s
  | some out =>
    let dst := microDst m.word f
    let o : MicroArgs := ⟨a, b, out.value, destValue k m dst, dst, k.acc, k.g 15⟩
    let cnd := f.usesCond && (microCond c m f.cond out.flags s != f.cpol)
    match microDenied k m f out.value with
    | some e => microFault c m.word e s
    | none =>
      if f.stk = 4 ∨ f.stk = 5 then (false, vendorStk c m f s)
      else if f.seq = 10 then microFault c m.word (plainFault (bitsOf f.imm 7 0) 0) s
      else if f.seq = 7 then
        let e := k.dispatch (dispatchSet k f) (m.word.toNat % 256)
        if dispatchSet k f = 0 then microFault c m.word (plainFault 3 3) s
        else if !dispParityOk e then (false, parityRecover c true (dispatchSet k f) (m.word.toNat % 256) s)
        else if !dispValid e then microFault c m.word (plainFault 3 3) s
        else microExec c n m f o out.write cnd (some (e.truncate 10)) s
      else microExec c n m f o out.write cnd none s

/-- A WAIT microword holds in U: its condition is 0, and none of its other fields acts or is checked (R142, R144). -/
def microHolds (c : Nat) (m : Micro) (f : MicroWord) (s : State) : Bool :=
  let k := s.cell c
  let a := microSrc k m f f.asrc
  f.seq == 9 && !decide (25 ≤ f.cond ∧ f.cond ≤ 31)
    && match aluOp f.alu f.width (k.g (regField m.word 0) != 0) a (microShift f a (microSrc k m f f.bsrc)) with
      | some out => microCond c m f.cond out.flags s == f.cpol
      | none => false

/-! ## Routines -/

/-- The microword at the routine's microaddress is read and executed. (DESIGN CHOICE, log 18) -/
def microStep (c : CellId) (s : State) : UStep :=
  let k := s.cell c.val
  match k.micro with
  | none => (false, s)
  | some m =>
    let n := m.count + 1
    let w := csAt k m.upc.toNat
    if !csParityOk w then (false, parityRecover c.val false 0 m.upc.toNat s)
    else if 256 ≤ n then microFault c.val m.word (plainFault 1 6) s
    else
      match entryOpcode k m.upc with
      | some op => (false, vendorRun c m op s)
      | none =>
        let f := microWord w
        if microHolds c.val m f s then
          (false, if f.safe then s
            else s.onCell c.val (fun k => { k with micro := k.micro.map (fun m => { m with count := n }) }))
        else
          match microCheck m f, microImp k m.word f with
          | some d, _ => microFault c.val m.word (plainFault 1 d) s
          | none, some e => microFault c.val m.word (impReport e) s
          | none, none => if microPending k m.word f then (false, s) else microRun c.val n m f s

/-- Microwords up to the next safe point, a hold, or the end of the instruction. (DESIGN CHOICE, log 18) -/
def microLoop (c : CellId) : Nat → State → State
  | 0, s => s
  | n + 1, s =>
    let p := microStep c s
    if p.1 then microLoop c n p.2 else p.2

/-- A routine at its first microword: m0 to m7 and T are free (R159). (DESIGN CHOICE, log 19) -/
def microBegin (free : Nat) (word : Word) (upc : BitVec 10) (k : Cell) : Cell :=
  let m := (List.range 8).map (fun j => Config.freeWord (free + j))
  let t := Config.freeWord (free + 8)
  let u : Micro := {
    word := word, upc := upc, m := m, t := t, ustack := [], count := 0, redirect := none, dirty := false
    rs := k.rs, rsptr := k.ioReg Reg.RSPTR.base, spill := []
    segUpc := upc, segSeq := k.seq, undo := [], segM := m, segT := t, segStack := [] }
  { k with micro := some u }

/-- Dispatch of a user opcode (R87, R95). (DESIGN CHOICE, log 18) -/
def userDispatch (c : CellId) (word : Word) (s : State) : State :=
  let k := s.cell c.val
  match s.readMem (c.val / 128) (.imem (c.val % 128) k.pc.toNat) 4 with
  | (.ok _, s) =>
    if k.slot.isSome then takeFault c.val (plainFault 3 2) word s
    else if k.ds = 0 then takeFault c.val (plainFault 3 1) word s
    else
      let q := dispatchRead c.val k.ds (opcodeOf word) s
      if !((q.2.cell c.val).running) then q.2
      else if dispValid q.1 then
        let s := { q.2.onCell c.val (microBegin q.2.free word (q.1.truncate 10)) with free := q.2.free + 9 }
        microLoop c 256 s
      else takeFault c.val (plainFault 3 1) word q.2
  | (_, s) => takeFault c.val (plainFault 5 4) word s

/-- USER_OPCODE: the cell dispatches the instruction, or goes on with it up to the routine's next safe point. An
admitted interrupt is taken at a safe point instead. (DESIGN CHOICE, log 18) -/
def userRun (c : CellId) (word : Word) (s : State) : State :=
  let k := s.cell c.val
  if !k.running || k.hold != .none then s
  else
    let taken := if atSafePoint k then admittedAt c.val s else none
    match k.micro, taken with
    | some m, some (level, src) => if m.word = word then takeInterrupt c.val level src k.pc s else s
    | some m, none => if m.word = word then microLoop c 256 s else s
    | none, some (level, src) => takeInterrupt c.val level src k.pc s
    | none, none => userDispatch c word s

/-- SAFE_POINT_WATCHDOG: a WAIT microword without SAFE that holds has reached the limit of R163. (DEDUCED, log 22) -/
def safePointWatchdog (c : Nat) (s : State) : State :=
  let k := s.cell c
  match k.micro with
  | none => s
  | some m =>
    let f := microWord (csAt k m.upc.toNat)
    if k.running && f.seq == 9 && !f.safe && m.count != 0 then takeFault c (plainFault 1 6) m.word s else s

/-- PARITY_RECOVERY: the cell has read a control-store word or dispatch entry whose parity fails (R165).
(DEDUCED, log 21) -/
def parityRecovery (c : Nat) (dt : Bool) (set index : Nat) (s : State) : State :=
  if (s.cell c).running then parityRecover c dt (if dt then set else 0) (if dt then index % 256 else index) s else s

/-! ## Reserved opcodes (R64) -/

/-- A reserved opcode is an illegal opcode. (DESIGN CHOICE, log 53) -/
def reservedOp : Op := ⟨[], false, fun s => .fault s (plainFault 3 0)⟩

end Sys2Proof.Machine
end

