-- ==== Sys2Proof/Machine/Commands.lean ====
section
/-!
DEFINITION. How a command reaches a region, a block or a cell: register accesses, hardware events, reads that answer.
-/

namespace Sys2Proof.Machine

/-- A register access to region `r`: none while the region is in reset (R7); otherwise served in L0 (R460). -/
def regionAccess (r : RegionId) (f : Ctx → Region → Region) (s : State) : State :=
  if (s.region r.val).inReset then s else (s.awake r.val).onRegion r.val f

/-- A write to a register of block `b`, which a reset of the block refuses as well (R7). -/
def blockAccess (r : RegionId) (b : BlockId) (f : Ctx → Region → Region) (s : State) : State :=
  if (s.region r.val).blockReset.contains b.val then s else regionAccess r f s

/-- An event of region `r`'s own hardware: none while it is in reset or off in L4. -/
def regionEvent (r : RegionId) (f : Ctx → Region → Region) (s : State) : State :=
  if (s.region r.val).inReset || pmState (s.region r.val) == 4 then s else s.onRegion r.val f

/-- `n` free values have been taken. (DESIGN CHOICE, log 7) -/
def State.took (n : Nat) (s : State) : State := { s with free := s.free + n }

/-- A read of a region register with its side effects: the value is answered, or the refusal of a region in reset. -/
def regionAnswer (r : RegionId) (f : Ctx → Region → Word × Region) (s : State) : State :=
  if (s.region r.val).inReset then s.answer .abort
  else
    let s := s.awake r.val
    let p := f (s.ctx r.val) (s.region r.val)
    (s.setRegion r.val p.2).answer (.data (words4 [p.1]))

/-- A write of one of a cell's own registers: none while the cell is in reset. -/
def cellAccess (c : CellId) (f : Cell → Cell) (s : State) : State :=
  s.onCell c.val (fun k => if k.inReset then k else f k)

/-- Register `j` of accumulator or tracker configuration: CFG, LEN, OPEN_L, OPEN_H of tracker `t` (R242, R253). -/
def trackerReg (j : Nat) : RegDef :=
  match j with | 0 => Reg.AD_CH_TRK_CFG | 1 => Reg.AD_CH_TRK_LEN | 2 => Reg.AD_CH_TRK_OPEN_L | _ => Reg.AD_CH_TRK_OPEN_H

/-- A write to register `j` of tracker `k` of channel `ch`. -/
def trackerWrite (x : Ctx) (ch k j : Nat) (v : Word) (R : Region) : Region :=
  let plain := plainWrite (regAt (trackerReg j) ch k) v
  if j = 0 then trkCfgWrite (2 * ch + k) plain R else trkMove x (2 * ch + k) (plain R)

/-- A write to a register of sample group `g`: 0 CFG, 1 AT_L, 2 AT_H. -/
def sampleGroupWrite (x : Ctx) (g j : Nat) (v : Word) (R : Region) : Region :=
  match j with
  | 0 => sgCfgWrite x g (plainWrite (regAt Reg.AD_SG_CFG g 0) v) R
  | 1 => sgAtWrite x g (plainWrite (regAt Reg.AD_SG_AT_L g 0) v) R
  | _ => sgAtWrite x g (plainWrite (regAt Reg.AD_SG_AT_H g 0) v) R

/-- A write of a compare register (R264). -/
def compareWrite (x : Ctx) (n : Nat) (b : Bool) (v : Word) (R : Region) : Region :=
  judgeWrite x n (plainWrite (regAt (if b then Reg.TM_CH_CMPB else Reg.TM_CH_CMPA) n 0) v R)

/-- A write of TM_CHn_CAPCFG (R274). -/
def captureCfgWrite (n : Nat) (v : Word) (R : Region) : Region :=
  capCfgWrite n (plainWrite (regAt Reg.TM_CH_CAPCFG n 0) v) R

/-- The level of trip input `i` at which it is asserted, or not. -/
def trpLevelFor (i : Nat) (asserted : Bool) (R : Region) : Bool := asserted == R.bit (regAt Reg.TM_TRP_CFG i 0) 0

/-- The synchronised level of trip input `i` becomes the asserted one, or the other, at the coming PCLK edge (R269,
R271). In a region in reset or in L4 the filtered level takes it, with no edge. -/
def trpInput (r : RegionId) (i : Nat) (asserted : Bool) (s : State) : State :=
  s.onRegion r.val (fun x R =>
    let e := x.time.pclk + 1
    let b := trpLevelFor i asserted R
    let R' := R.setTrpLine i ((R.trpLine i).show b e)
    if R.inReset || pmState R == 4 then R'.setTrpLevel i b else trpDecide x.adv e i R')

/-- A write of LP_PGp_POS, ignored while the generator moves (R298). -/
def profilePosWrite (p : Nat) (hi : Bool) (v : Word) (R : Region) : Region :=
  if pgMoving p R then R else plainWrite (regAt (if hi then Reg.LP_PG_POS_H else Reg.LP_PG_POS_L) p 0) v R

/-- The oldest buffered entry goes to region memory; a bank that refuses it, or a region in reset, loses it (R304,
R332). -/
def rcDrain (x : Ctx) (R : Region) : Region :=
  match R.lp.rcBuf with
  | [] => R
  | e :: l =>
    let a := R.field Reg.LP_RC_BASE.base 15 0 * 16 + 16 * e.index
    let bytes := leBytes 8 e.stamp.toNat ++ leBytes 4 e.v.toNat ++ leBytes 4 e.result.toNat
    (memWrite x (.rmem a) bytes (R.putLp (fun q => { q with rcBuf := l }))).2

/-- The synchronised lines of a feedback unit become `w` at the coming PCLK edge (R308, R309). In a region in reset or
in L4 the filtered levels take them, with no change. -/
def feedbackLines (r : RegionId) (u w : Nat) (s : State) : State :=
  s.onRegion r.val (fun x R =>
    let R' := fbShow (x.time.pclk + 1) u w R
    if R.inReset || pmState R == 4 then R'.setField (fbAt Reg.FB_UN_STAT u) 18 16 w else fbDecideAt x.next u R')

/-- A calibration of slice `j` ends; none while the region is in reset or off. -/
def calibrationEnds (r : RegionId) (j : Nat) (inRange : Bool) (s : State) : State :=
  if (s.region r.val).inReset || pmState (s.region r.val) == 4 then s else calEnds r.val j inRange s

/-- A sample boundary reaches a cell by its task (R290): the region is in L0 first (R460). -/
def boundaryArrive (c : Nat) (s : State) : State :=
  let s := (s.awake (c / 128)).onRegion (c / 128) (fun _ R => evCrossed (0x180 + c % 128) R)
  s.onCell c boundary

/-- The sample boundary of a cell that a takeover restored in block `b`, the lowest of several, reaches it (R399).
(DEDUCED, log 51) -/
def fallowRelease (r : RegionId) (b : Nat) (s : State) : State :=
  match (List.range 16).find? (fun c => ((s.region r.val).cell (16 * b + c)).awaiting) with
  | some c => boundaryArrive (128 * r.val + 16 * b + c) s
  | none => s

/-- The generator presents a post bit to the controller; a post wakes the region (R212, R460). -/
def generatorPost (r : RegionId) (s : State) : State :=
  if (s.region r.val).inReset || (s.region r.val).ev.post.isEmpty then s
  else (s.awake r.val).onRegion r.val (fun _ R => dbAccept R)

/-- A sweep ends; a new mismatch may reset the region (R405, R442). -/
def sweepComplete (r : RegionId) (s : State) : State :=
  if (s.region r.val).inReset then s
  else
    let p := sweepFinish (s.ctx r.val) (s.region r.val)
    let s := s.setRegion r.val p.2
    if p.1 then regionResetFor r.val 1 s else s

/-- Oscillator `k` of a region was counted (R411). (DESIGN CHOICE, log 34) -/
def agingCount (k : Nat) (v : Word) (R : Region) : Region := R.setReg (regAt Reg.TL_AGE k 0) v

/-- A VIO rail changes (R468): also while the region is in reset. -/
def railOf (r : RegionId) (rail : Nat) (good v18 : Bool) (s : State) : State :=
  s.onRegion r.val (fun _ R => railChange rail good v18 R)

/-- The synchronised level of field pin `p` is `b` from PCLK edge `e x` on (R385). In a region in reset or in L4 the
filtered level takes it, with no edge. -/
def pinInput (r : RegionId) (p : Nat) (b : Bool) (e : Ctx → Nat) (s : State) : State :=
  s.onRegion r.val (fun x R =>
    let R' := pinShow (e x) p b R
    if R.inReset || pmState R == 4 then pinLevel p b R' else pinDecide x.next p R')

/-- From the coming edge on. -/
def comingEdge (x : Ctx) : Nat := x.next.time.pclk

/-- From the last edge on whose GTIME is not beyond `stamp`, among those kept. -/
def stampEdge (stamp : Ticks) (x : Ctx) : Nat := comingEdge x - (x.next.edgesBack stamp).getD 0

/-- A write of RS_RGr_CTL.HOLD, which leaves AUTORUN as it is. -/
def regionHold (r : Nat) (hold : Bool) (s : State) : State :=
  rgCtlWrite r (setBit (s.chipReg (regAt Reg.RS_RG_CTL r 0)) 1 hold) s

/-- The JTAG instruction RSTCHIP, where permitted (R442). -/
def rstchipReset (s : State) : State := if debugPermits 1 s then chipReset 0x20 s else s

end Sys2Proof.Machine
end

