-- ==== Sys2Proof/Machine/ArithCommands.lean ====
section
/-!
DEFINITION. Register, immediate, multiply, accumulate, long and CRC instructions (R66 to R76).
-/

namespace Sys2Proof.Machine

/-- NOP (R66). Instruction that performs no operation. -/
def execNop (c : CellId) (s : State) : Result :=
  runOp c (.nop c) (nopOp c) s

/-- ADD (R66). Adds two registers modulo 2^32. -/
def execAdd (c : CellId) (d a b : RegNo) (s : State) : Result :=
  runOp c (.add c d a b) (addOp c d a b) s

/-- SUB (R66). Subtracts two registers modulo 2^32. -/
def execSub (c : CellId) (d a b : RegNo) (s : State) : Result :=
  runOp c (.sub c d a b) (subOp c d a b) s

/-- ADDS (R66). Saturating signed add of two registers. -/
def execAdds (c : CellId) (d a b : RegNo) (s : State) : Result :=
  runOp c (.adds c d a b) (addsOp c d a b) s

/-- SUBS (R66). Saturating signed subtract of two registers. -/
def execSubs (c : CellId) (d a b : RegNo) (s : State) : Result :=
  runOp c (.subs c d a b) (subsOp c d a b) s

/-- AND (R66). Bitwise and of two registers. -/
def execAnd (c : CellId) (d a b : RegNo) (s : State) : Result :=
  runOp c (.and c d a b) (andOp c d a b) s

/-- OR (R66). Bitwise or of two registers. -/
def execOr (c : CellId) (d a b : RegNo) (s : State) : Result :=
  runOp c (.or c d a b) (orOp c d a b) s

/-- XOR (R66). Bitwise exclusive or of two registers. -/
def execXor (c : CellId) (d a b : RegNo) (s : State) : Result :=
  runOp c (.xor c d a b) (xorOp c d a b) s

/-- ANDN (R66). And of a register with the complement of another. -/
def execAndn (c : CellId) (d a b : RegNo) (s : State) : Result :=
  runOp c (.andn c d a b) (andnOp c d a b) s

/-- SLL (R66). Logical shift left by a register amount. -/
def execSll (c : CellId) (d a b : RegNo) (s : State) : Result :=
  runOp c (.sll c d a b) (sllOp c d a b) s

/-- SRL (R66). Logical shift right by a register amount. -/
def execSrl (c : CellId) (d a b : RegNo) (s : State) : Result :=
  runOp c (.srl c d a b) (srlOp c d a b) s

/-- SRA (R66). Arithmetic shift right by a register amount. -/
def execSra (c : CellId) (d a b : RegNo) (s : State) : Result :=
  runOp c (.sra c d a b) (sraOp c d a b) s

/-- ROR (R66). Rotate right by a register amount. -/
def execRor (c : CellId) (d a b : RegNo) (s : State) : Result :=
  runOp c (.ror c d a b) (rorOp c d a b) s

/-- SLT (R66). Signed set-less-than of two registers. -/
def execSlt (c : CellId) (d a b : RegNo) (s : State) : Result :=
  runOp c (.slt c d a b) (sltOp c d a b) s

/-- SLTU (R66). Unsigned set-less-than of two registers. -/
def execSltu (c : CellId) (d a b : RegNo) (s : State) : Result :=
  runOp c (.sltu c d a b) (sltuOp c d a b) s

/-- CLZ (R66). Counts leading zero bits of a register. -/
def execClz (c : CellId) (d a : RegNo) (s : State) : Result :=
  runOp c (.clz c d a) (clzOp c d a) s

/-- POPC (R66). Counts the one bits of a register. -/
def execPopc (c : CellId) (d a : RegNo) (s : State) : Result :=
  runOp c (.popc c d a) (popcOp c d a) s

/-- BREV (R66). Reverses bits within word, halfword or byte lanes. -/
def execBrev (c : CellId) (d a : RegNo) (lanes : Fin 4) (s : State) : Result :=
  runOp c (.brev c d a lanes) (brevOp c d a lanes) s

/-- PAR (R66). Computes word or byte-lane parity. -/
def execPar (c : CellId) (d a : RegNo) (bytes : Bool) (s : State) : Result :=
  runOp c (.par c d a bytes) (parOp c d a bytes) s

/-- SEL (R66). Selects one of two registers by a third. -/
def execSel (c : CellId) (d a b cc : RegNo) (s : State) : Result :=
  runOp c (.sel c d a b cc) (selOp c d a b cc) s

/-- CMOVZ (R66). Conditional move when a register is zero. -/
def execCmovz (c : CellId) (d a b : RegNo) (s : State) : Result :=
  runOp c (.cmovz c d a b) (cmovzOp c d a b) s

/-- CMOVNZ (R66). Conditional move when a register is non-zero. -/
def execCmovnz (c : CellId) (d a b : RegNo) (s : State) : Result :=
  runOp c (.cmovnz c d a b) (cmovnzOp c d a b) s

/-- ADDI (R67). Adds a sign-extended immediate. -/
def execAddi (c : CellId) (d a : RegNo) (imm : BitVec 16) (s : State) : Result :=
  runOp c (.addi c d a imm) (addiOp c d a imm) s

/-- ADDSI (R67). Saturating add of a sign-extended immediate. -/
def execAddsi (c : CellId) (d a : RegNo) (imm : BitVec 16) (s : State) : Result :=
  runOp c (.addsi c d a imm) (addsiOp c d a imm) s

/-- ANDI (R67). And with a zero-extended immediate. -/
def execAndi (c : CellId) (d a : RegNo) (imm : BitVec 16) (s : State) : Result :=
  runOp c (.andi c d a imm) (andiOp c d a imm) s

/-- ORI (R67). Or with a zero-extended immediate. -/
def execOri (c : CellId) (d a : RegNo) (imm : BitVec 16) (s : State) : Result :=
  runOp c (.ori c d a imm) (oriOp c d a imm) s

/-- XORI (R67). Exclusive or with a zero-extended immediate. -/
def execXori (c : CellId) (d a : RegNo) (imm : BitVec 16) (s : State) : Result :=
  runOp c (.xori c d a imm) (xoriOp c d a imm) s

/-- LUI (R67). Loads an immediate into the upper half of a register. -/
def execLui (c : CellId) (d : RegNo) (imm : BitVec 16) (s : State) : Result :=
  runOp c (.lui c d imm) (luiOp c d imm) s

/-- SLLI (R67). Logical shift left by an immediate. -/
def execSlli (c : CellId) (d a : RegNo) (imm : BitVec 16) (s : State) : Result :=
  runOp c (.slli c d a imm) (slliOp c d a imm) s

/-- SRLI (R67). Logical shift right by an immediate. -/
def execSrli (c : CellId) (d a : RegNo) (imm : BitVec 16) (s : State) : Result :=
  runOp c (.srli c d a imm) (srliOp c d a imm) s

/-- SRAI (R67). Arithmetic shift right by an immediate. -/
def execSrai (c : CellId) (d a : RegNo) (imm : BitVec 16) (s : State) : Result :=
  runOp c (.srai c d a imm) (sraiOp c d a imm) s

/-- RORI (R67). Rotate right by an immediate. -/
def execRori (c : CellId) (d a : RegNo) (imm : BitVec 16) (s : State) : Result :=
  runOp c (.rori c d a imm) (roriOp c d a imm) s

/-- SLTI (R67). Signed compare with an immediate. -/
def execSlti (c : CellId) (d a : RegNo) (imm : BitVec 16) (s : State) : Result :=
  runOp c (.slti c d a imm) (sltiOp c d a imm) s

/-- SLTIU (R67). Unsigned compare with an immediate. -/
def execSltiu (c : CellId) (d a : RegNo) (imm : BitVec 16) (s : State) : Result :=
  runOp c (.sltiu c d a imm) (sltiuOp c d a imm) s

/-- MUL (R69). Low 32 bits of a product. -/
def execMul (c : CellId) (d a b : RegNo) (s : State) : Result :=
  runOp c (.mul c d a b) (mulOp c d a b) s

/-- MULH (R69). High 32 bits of a signed product. -/
def execMulh (c : CellId) (d a b : RegNo) (s : State) : Result :=
  runOp c (.mulh c d a b) (mulhOp c d a b) s

/-- MULHU (R69). High 32 bits of an unsigned product. -/
def execMulhu (c : CellId) (d a b : RegNo) (s : State) : Result :=
  runOp c (.mulhu c d a b) (mulhuOp c d a b) s

/-- QMUL (R69). Q1.31 multiply with optional rounding and saturation. -/
def execQmul (c : CellId) (d a b : RegNo) (rnd : Bool) (s : State) : Result :=
  runOp c (.qmul c d a b rnd) (qmulOp c d a b rnd) s

/-- MAC (R69). Adds or subtracts a product into ACC modulo 2^64. -/
def execMac (c : CellId) (a b : RegNo) (sub : Bool) (s : State) : Result :=
  runOp c (.mac c a b sub) (macOp c a b sub) s

/-- MACS (R69). Saturating multiply-accumulate into ACC. -/
def execMacs (c : CellId) (a b : RegNo) (sub : Bool) (s : State) : Result :=
  runOp c (.macs c a b sub) (macsOp c a b sub) s

/-- MTAC (R69). Writes ACC from two registers. -/
def execMtac (c : CellId) (a b : RegNo) (s : State) : Result :=
  runOp c (.mtac c a b) (mtacOp c a b) s

/-- RDAC (R69). Reads ACC shifted, rounded and saturated or truncated. -/
def execRdac (c : CellId) (d : RegNo) (sh : Fin 64) (trunc rnd : Bool) (s : State) : Result :=
  runOp c (.rdac c d sh trunc rnd) (rdacOp c d sh trunc rnd) s

/-- DIV (R70). Issues a signed division to the long-operation unit. -/
def execDiv (c : CellId) (d a b : RegNo) (s : State) : Result :=
  runOp c (.div c d a b) (divOp c d a b) s

/-- DIVU (R70). Issues an unsigned division to the long-operation unit. -/
def execDivu (c : CellId) (d a b : RegNo) (s : State) : Result :=
  runOp c (.divu c d a b) (divuOp c d a b) s

/-- REM (R70). Issues a signed remainder to the long-operation unit. -/
def execRem (c : CellId) (d a b : RegNo) (s : State) : Result :=
  runOp c (.rem c d a b) (remOp c d a b) s

/-- REMU (R70). Issues an unsigned remainder to the long-operation unit. -/
def execRemu (c : CellId) (d a b : RegNo) (s : State) : Result :=
  runOp c (.remu c d a b) (remuOp c d a b) s

/-- SQRT (R70). Issues an integer or Q1.31 square root. -/
def execSqrt (c : CellId) (d a : RegNo) (q : Bool) (s : State) : Result :=
  runOp c (.sqrt c d a q) (sqrtOp c d a q) s

/-- MAC64 (R70). Issues a 64-by-32 multiply-accumulate into ACC. -/
def execMac64 (c : CellId) (a b : RegNo) (s : State) : Result :=
  runOp c (.mac64 c a b) (mac64Op c a b) s

/-- CRCS (R73). One CRC step over 8, 16 or 32 bits of a register. -/
def execCrcs (c : CellId) (d a : RegNo) (n : Fin 4) (s : State) : Result :=
  runOp c (.crcs c d a n) (crcsOp c d a n) s

/-- CRCB (R74). CRC over a DMEM byte range, interruptible at safe points. -/
def execCrcb (c : CellId) (a b d : RegNo) (s : State) : Result :=
  runOp c (.crcb c a b d) (crcbOp c a b d) s

/-- BLKMOV (R75). Copies a byte range in data space, interruptible at safe points. -/
def execBlkmov (c : CellId) (a b d : RegNo) (s : State) : Result :=
  runOp c (.blkmov c a b d) (blkmovOp c a b d) s

end Sys2Proof.Machine
end

