-- ==== Sys2Proof/Machine/BootCommands.lean ====
section
/-!
DEFINITION. Boot unit, keys, debug and journal (R413 to R441).
-/

namespace Sys2Proof.Machine

/-- BOOT_ATTEMPT (R420). The boot unit reads, verifies and places an image. -/
def execBootAttempt (s : State) : Result :=
  .next (bootAttempt s)

/-- HOST_BOOT_BLOCK (R413). A write of BT_HWCNT delivers a host boot block. -/
def execHostBootBlock (v : Word) (s : State) : Result :=
  .next (hostBlock v s)

/-- UART_BOOT_BLOCK (R413). A UART boot block with its CRC is answered with ACK or NAK. -/
def execUartBootBlock (data : List Byte) (s : State) : Result :=
  .next (uartBlock data s)

/-- BOOT_SOURCE_TIMEOUT (R414). A gap over 1 s in boot data is a source error. -/
def execBootSourceTimeout (s : State) : Result :=
  .next (sourceTimeout s)

/-- TRIAL (R421). BT_CTL TRIAL names the other slot for the next boot. -/
def execTrial (s : State) : Result :=
  .next (btCommand btTrial s)

/-- CONFIRM (R421). BT_CTL CONFIRM makes the running slot active. -/
def execConfirm (s : State) : Result :=
  .next (btCommand btConfirm s)

/-- ARBADV (R423). BT_CTL ARBADV commits an anti-rollback record and blows fuses. -/
def execArbadv (s : State) : Result :=
  .next (btCommand btArbadv s)

/-- FUSE_BLOWN (R423). One anti-rollback fuse finishes blowing after 20 µs. -/
def execFuseBlown (s : State) : Result :=
  .next ({ s with chip := fuseBlown s.chip })

/-- ATTEST (R428). BT_CTL ATTEST signs a report with ECDSA and an LMS leaf. -/
def execAttest (s : State) : Result :=
  .next (btCommand btAttest s)

/-- DBGCHAL (R429). BT_CTL DBGCHAL draws a new debug challenge. -/
def execDbgchal (s : State) : Result :=
  .next (btCommand btChallenge s)

/-- UNLOCK (R429). A debug certificate is checked and may grant permissions. -/
def execUnlock (s : State) : Result :=
  .next (btCommand btUnlock s)

/-- PROVISION (R425). BT_CTL PROVISION programs the lowest unprovisioned key slot. -/
def execProvision (s : State) : Result :=
  .next (btCommand btProvision s)

/-- REVOKE (R425). BT_CTL REVOKE revokes lower-numbered provisioned slots. -/
def execRevoke (s : State) : Result :=
  .next (btCommand btRevoke s)

/-- JTAG_DEBUG_ACCESS (R429). An unlocked JTAG port halts, single-steps or reaches cells, blocks and register spaces
under the granted PERMS. -/
def execJtagDebugAccess (op : JtagOp) (s : State) : Result :=
  .next (jtagAccess op s)

/-- JOURNAL_COMMIT (R434). JN_CTL.COMMIT queues a record or is refused. -/
def execJournalCommit (s : State) : Result :=
  .next ({ s with chip := jnCommit s.chip })

/-- RECORD_COMMITTED (R434). A journal record's commit word is written and the directory updated. -/
def execRecordCommitted (s : State) : Result :=
  .next (jnDone s)

/-- FLOG (R437). JN_CTL.FLOG appends a fault-log entry. -/
def execFlog (s : State) : Result :=
  .next (jnFlog s)

/-- GLEAN (R436). Gleaning copies live records out of the oldest segment and frees it. -/
def execGlean (s : State) : Result :=
  .next ({ s with chip := jnGleanCmd s.chip })

/-- JOURNAL_REPLAY (R435). At start-up the journal is replayed and retirements reapplied. -/
def execJournalReplay (s : State) : Result :=
  .next (replayStep s)

/-- PFW_RECOGNISED (R438). PFW held for 1 µs refuses commands and commits boot-unit records. -/
def execPfwRecognised (s : State) : Result :=
  .next (pfwOn s)

/-- PFW_DEASSERT (R438). PFW ends with supplies held and commands resume 1 µs later. -/
def execPfwDeassert (s : State) : Result :=
  .next (pfwOff s)

end Sys2Proof.Machine
end

