-- ==== Sys2Proof/Machine/CellCommands.lean ====
section
/-!
DEFINITION. Commands that execute on a cell, and what its queues, ports and control store do (R60 to R118, R163 to
R165, R203, R289, R290).
-/

namespace Sys2Proof.Machine

/-- LONG_OP_RESULT (R114). A long operation writes its result, reporting any arithmetic fault as pending. -/
def execLongOpResult (c : CellId) (i : Fin 2) (s : State) : Result :=
  .next (s.onCell c.val (longReturn i.val))

/-- LOAD_RETURN (R110). Data of a non-local load, IN or atomic returns and is written, or a bus error is held pending.
-/
def execLoadReturn (c : CellId) (i : Fin 8) (s : State) : Result :=
  .next (s.onCell c.val (loadReturn i.val))

/-- STORE_BUFFER_DRAIN (R112). The oldest store-buffer entry leaves to DMEM or to its non-local path. -/
def execStoreBufferDrain (c : CellId) (s : State) : Result :=
  .next (storeLeave c.val s)

/-- STORE_ACK (R34). A non-local store is acknowledged by its target and its tag returns. -/
def execStoreAck (c : CellId) (i : Nat) (s : State) : Result :=
  .next (s.onCell c.val (storeAcked i))

/-- OUT_ACK (R106). The acknowledgement of an OUT or acceptance of an OUTP returns to the cell. -/
def execOutAck (c : CellId) (i : Nat) (s : State) : Result :=
  .next (s.onCell c.val (outAcked i))

/-- USER_OPCODE (R97). Executes a user micro-routine selected by the active user dispatch set. -/
def execUserOpcode (c : CellId) (op : Fin 64) (fields : BitVec 24) (s : State) : Result :=
  .next (userRun c (wordOf (.userOpcode c op fields)) s)

/-- EXCEPTION_ENTRY (R176). An admitted interrupt is taken at a safe point: drain, frame, shadow push, vector fetch. -/
def execExceptionEntry (c : CellId) (s : State) : Result :=
  .next (exceptionEntry c.val s)

/-- SAFE_POINT_WATCHDOG (R163). 256 microwords without a safe point raise a machine check. -/
def execSafePointWatchdog (c : CellId) (s : State) : Result :=
  .next (safePointWatchdog c.val s)

/-- PARITY_RECOVERY (R165). After segment loads return, a failed control-store word or entry is refetched and the
segment repeated. -/
def execParityRecovery (c : CellId) (dt : Bool) (set : Fin 4) (index : Fin 1024) (s : State) : Result :=
  .next (parityRecovery c.val dt set.val index.val s)

/-- EVENT_PORT_ARRIVAL (R203). An event reaches a cell port and becomes pending or is lost as an overrun. -/
def execEventPortArrival (c : CellId) (p : Fin 4) (stamp : Ticks) (s : State) : Result :=
  .next (eventArrive c.val p.val stamp s)

/-- SAMPLE_BOUNDARY (R290). A sample-boundary task reaches the cell and swaps coefficient banks if pending. -/
def execSampleBoundary (c : CellId) (s : State) : Result :=
  .next (boundaryArrive c.val s)

/-- COEFFICIENT_WRITE (R289). A write through CFIN writes the inactive bank. -/
def execCoefficientWrite (c : CellId) (i : Fin 64) (v : Word) (s : State) : Result :=
  .next (cellAccess c (cfinWrite i.val v) s)

/-- SWAP (R290). A write of CFCTL.SWAP sets PEND. -/
def execSwap (c : CellId) (s : State) : Result :=
  .next (cellAccess c (cfctlWrite true false) s)

/-- CANCEL (R290). A write of CFCTL.CANCEL clears PEND. -/
def execCancel (c : CellId) (s : State) : Result :=
  .next (cellAccess c (cfctlWrite false true) s)

/-- RESERVED_OPCODE (R64). A cell executes a reserved or undefined base opcode, such as 0x00, and raises a precise
illegal-opcode fault. (DESIGN CHOICE, log 53) -/
def execReservedOpcode (c : CellId) (w : Word) (s : State) : Result :=
  if opReserved (opcodeOf w) then .next (runInstr c.val w reservedOp.regs reservedOp.acc reservedOp.body s)
  else .refused .illFormed

end Sys2Proof.Machine
end

