-- ==== Sys2Proof/Machine/ConverterCommands.lean ====
section
/-!
DEFINITION. Conversion: sample groups, samples, accumulators, trackers, probe and calibration (R224 to R253).
-/

namespace Sys2Proof.Machine

/-- TIMED_START (R227). A timed sample group starts when GTIME reaches its instant. -/
def execTimedStart (r : RegionId) (g : Fin 8) (s : State) : Result :=
  .next (regionEvent r (fun x R => sgTimedStart x x.aclkNext g.val R) s)

/-- SAMPLE_GROUP_ARM (R227). A write of AD_SGg_CFG or AT arms the group and judges missed instants. -/
def execSampleGroupArm (r : RegionId) (g : Fin 8) (reg : Fin 3) (v : Word) (s : State) : Result :=
  .next (regionAccess r (fun x R => sampleGroupWrite x g.val reg.val v R) s)

/-- SAMPLE_DELIVERED (R229). A conversion delivers its sample to band unit, accumulators and trackers. -/
def execSampleDelivered (r : RegionId) (n : Fin 17) (v : Int) (s : State) : Result :=
  .next ((regionEvent r (fun x R => if n.val < 16 then deliverSample x n.val v R else deliverDiag x v R) s).took 1)

/-- READ_ACCUMULATOR_RESULT (R236). A read of AD_CHn_RESk returns the result and copies its stamp to LGT. -/
def execReadAccumulatorResult (r : RegionId) (ch : Fin 16) (k : Fin 4) (s : State) : Result :=
  .next (regionAnswer r (fun _ R => accRead (4 * ch.val + k.val) R) s)

/-- ACCUMULATOR_CONFIG_WRITE (R237). A write of AD_CHn_ACCk_CFG restarts the sum at the next ACLK edge. -/
def execAccumulatorConfigWrite (r : RegionId) (ch : Fin 16) (k : Fin 4) (v : Word) (s : State) : Result :=
  .next (regionAccess r (fun _ R => accCfgWrite (4 * ch.val + k.val) (plainWrite (regAt Reg.AD_CH_ACC_CFG ch.val k.val) v) R) s)

/-- ACCUMULATOR_GO (R235). A write of CTL.GO starts or restarts an accumulator sum. -/
def execAccumulatorGo (r : RegionId) (ch : Fin 16) (k : Fin 4) (s : State) : Result :=
  .next (regionAccess r (fun _ R => accGo (4 * ch.val + k.val) R) s)

/-- TRACKER_GO (R239). A write of tracker CTL.GO arms a tick or sample window. -/
def execTrackerGo (r : RegionId) (ch : Fin 16) (k : Fin 2) (s : State) : Result :=
  .next (regionAccess r (fun _ R => trkGo (2 * ch.val + k.val) R) s)

/-- TRACKER_WINDOW_END (R241). A tracker window ends and writes its extremes, count and event. -/
def execTrackerWindowEnd (r : RegionId) (ch : Fin 16) (k : Fin 2) (s : State) : Result :=
  .next (regionEvent r (fun x R => trkEndAt x x.aclkNext (2 * ch.val + k.val) R) s)

/-- TRACKER_CONFIG_WRITE (R242). A write to a running tracker moves or ends its window. -/
def execTrackerConfigWrite (r : RegionId) (ch : Fin 16) (k : Fin 2) (reg : Fin 4) (v : Word) (s : State) : Result :=
  .next (regionAccess r (fun x R => trackerWrite x ch.val k.val reg.val v R) s)

/-- PROBE_WRITE (R245). A write of AD_PROBE connects the probe DAC and starts settling. -/
def execProbeWrite (r : RegionId) (v : Word) (s : State) : Result :=
  .next (regionAccess r (fun x R => probeWrite x (plainWrite Reg.AD_PROBE.base v) R) s)

/-- PROBE_SETTLED (R245). SETTLING falls 1,600 PCLK after the probe write. -/
def execProbeSettled (r : RegionId) (s : State) : Result :=
  .next (regionEvent r (fun x R => probeSettle x R) s)

/-- SPARE_PARK (R246). The named spare is parked once it holds no channel. -/
def execSparePark (r : RegionId) (s : State) : Result :=
  .next (regionEvent r (fun _ R => sparePark R) s)

/-- CALIBRATION_COMPLETE (R247). A slice calibration of 655,360 ACLK ends, in or out of range. -/
def execCalibrationComplete (r : RegionId) (j : Fin 18) (inRange : Bool) (s : State) : Result :=
  .next (calibrationEnds r j.val inRange s)

/-- SHADOW_COMPLETE (R247). 1,024 shadow samples are taken and the offset D is judged. -/
def execShadowComplete (r : RegionId) (j : Fin 18) (d : Int) (s : State) : Result :=
  .next (regionEvent r (fun _ R => shadowDone j.val d R) s)

/-- SHADOW_TIMEOUT (R247). Fewer than 1,024 shadow samples within 1 s abandon the step. -/
def execShadowTimeout (r : RegionId) (j : Fin 18) (s : State) : Result :=
  .next (regionEvent r (fun _ R => shadowLate j.val R) s)

/-- HAND_OVER (R248). At a start of the channel the spare takes over delivery. -/
def execHandOver (r : RegionId) (j : Fin 18) (s : State) : Result :=
  .next (regionEvent r (fun x R => handAt x j.val false R) s)

/-- HAND_BACK (R248). At a start of the channel the working slice resumes delivery. -/
def execHandBack (r : RegionId) (j : Fin 18) (s : State) : Result :=
  .next (regionEvent r (fun x R => handAt x j.val true R) s)

/-- CALIBRATION_ENABLE_WRITE (R249). A write of AD_CALCFG.EN starts or stops the rotation. -/
def execCalibrationEnableWrite (r : RegionId) (v : Word) (s : State) : Result :=
  .next (regionAccess r (fun _ R => calCfgWrite (plainWrite Reg.AD_CALCFG.base v) R) s)

/-- INITCAL_COMPLETE (R252). Post-reset calibration ends, INITCAL falls and the rotation may begin. -/
def execInitcalComplete (r : RegionId) (s : State) : Result :=
  .next (regionEvent r (fun _ R => initCalDone R) s)

end Sys2Proof.Machine
end

