-- ==== Sys2Proof/Machine/EventCommands.lean ====
section
/-!
DEFINITION. Loader, event fabric, interrupt controller, MSI-X, snapshots and GTIME steps (R30, R46 to R49, R137, R198,
R206, R212 to R222).
-/

namespace Sys2Proof.Machine

/-- LOAD_START (R137). BK_LDCTL.GO starts the load engine on a target cell or is refused. -/
def execLoadStart (r : RegionId) (bk : BlockId) (v : Word) (s : State) : Result :=
  .next (blockAccess r bk (fun x R => ldCtlWrite x bk.val v (plainWrite (blk Reg.BK_LDCTL bk.val) v) R) s)

/-- LOAD_COMPLETE (R137). The load engine finishes reading a golden copy and sets or clears section-valid bits. -/
def execLoadComplete (r : RegionId) (bk : BlockId) (s : State) : Result :=
  .next (regionEvent r (fun x R => loadDone x bk.val R) s)

/-- EV_FIRE (R198). A write of EV_FIRE fires an event channel in software. -/
def execEvFire (r : RegionId) (v : Word) (s : State) : Result :=
  .next (regionAccess r (fun x R => evFire x (bitsOf v 7 0) R) s)

/-- CHIP_WIDE_DELIVERY (R206). A chip-wide channel delivers an arrival to every region as a source. -/
def execChipWideDelivery (ch : Fin 16) (s : State) : Result :=
  .next (chipWide ch.val s)

/-- GENERATOR_POST (R212). The interrupt controller accepts one set post bit in round-robin order. -/
def execGeneratorPost (r : RegionId) (s : State) : Result :=
  .next (generatorPost r s)

/-- IC_DOORBELL (R213). A write of IC_DOORBELL posts an interrupt source. -/
def execIcDoorbell (r : RegionId) (v : Word) (s : State) : Result :=
  .next (regionAccess r (fun _ R => icPost (bitsOf v 11 0) R) s)

/-- IC_EOI (R217). A write of IC_EOI completes an active source. -/
def execIcEoi (r : RegionId) (v : Word) (s : State) : Result :=
  .next (regionAccess r (fun _ R => icEoi (bitsOf v 11 0) R) s)

/-- DELIVERY (R214). Once per cycle the controller delivers a pending source to an eligible cell. -/
def execDelivery (r : RegionId) (s : State) : Result :=
  .next (regionEvent r (fun _ R => icCycle R) s)

/-- RECALL (R215). A delivered source whose target became ineligible returns to pending. -/
def execRecallSlot (r : RegionId) (i : Fin 128) (level : Fin 16) (s : State) : Result :=
  .next (regionEvent r (fun _ R => icRecall i.val level.val R) s)

/-- MSIX_DOORBELL (R222). A write of CH_MSIXDB raises, pends, merges or discards an MSI-X vector. -/
def execMsixDoorbell (v : Word) (s : State) : Result :=
  .next (msixRaise (bitsOf v 5 0) s)

/-- MSIX_SEND (R222). A pending MSI-X vector is sent once its masks clear. -/
def execMsixSend (vec : Fin 64) (s : State) : Result :=
  .next (msixSend vec.val s)

/-- RG_SNAP (R46). A write of RG_SNAP.GO requests a region snapshot. -/
def execRgSnap (r : RegionId) (s : State) : Result :=
  .next (regionAccess r (fun _ R => { R with snapReq := R.snapReq + 1 }) s)

/-- CH_SNAP (R49). A write of CH_SNAP.GO requests a chip-wide snapshot. -/
def execChSnap (s : State) : Result :=
  .next { s with chip := { s.chip with snapReq := s.chip.snapReq + 1 } }

/-- SNAPSHOT_EDGE (R47). At the snapshot edge counters are copied to holding registers. -/
def execSnapshotEdge (regions : BitVec 8) (chip : Bool) (s : State) : Result :=
  .next (snapEdge regions chip s)

/-- SNAPSHOT_COMPLETE (R48). All holding registers are valid and BUSY falls. -/
def execSnapshotComplete (regions : BitVec 8) (chip : Bool) (s : State) : Result :=
  .next (snapDone regions chip s)

/-- GTIME_STEP_ARM (R30). A write of CH_GTSTEP_H arms or replaces a pending GTIME step. -/
def execGtimeStepArm (v : Word) (s : State) : Result :=
  .next (gtArm v s)

/-- GTIME_STEP_APPLY (R30). The pending step is added at the first edge with no sample group armed. -/
def execGtimeStepApply (s : State) : Result :=
  .next (gtApply s)

end Sys2Proof.Machine
end

