-- ==== Sys2Proof/Machine/FlowCommands.lean ====
section
/-!
DEFINITION. Branches, jumps, calls, events, gates and system instructions (R84 to R98, R118).
-/

namespace Sys2Proof.Machine

/-- BEQ (R84). Branches when two registers are equal. -/
def execBeq (c : CellId) (a b : RegNo) (annul : Bool) (off : BitVec 15) (s : State) : Result :=
  runOp c (.beq c a b annul off) (beqOp c a b annul off) s

/-- BNE (R84). Branches when two registers differ. -/
def execBne (c : CellId) (a b : RegNo) (annul : Bool) (off : BitVec 15) (s : State) : Result :=
  runOp c (.bne c a b annul off) (bneOp c a b annul off) s

/-- BLT (R84). Branches on signed less-than. -/
def execBlt (c : CellId) (a b : RegNo) (annul : Bool) (off : BitVec 15) (s : State) : Result :=
  runOp c (.blt c a b annul off) (bltOp c a b annul off) s

/-- BGE (R84). Branches on signed greater-or-equal. -/
def execBge (c : CellId) (a b : RegNo) (annul : Bool) (off : BitVec 15) (s : State) : Result :=
  runOp c (.bge c a b annul off) (bgeOp c a b annul off) s

/-- BLTU (R84). Branches on unsigned less-than. -/
def execBltu (c : CellId) (a b : RegNo) (annul : Bool) (off : BitVec 15) (s : State) : Result :=
  runOp c (.bltu c a b annul off) (bltuOp c a b annul off) s

/-- BGEU (R84). Branches on unsigned greater-or-equal. -/
def execBgeu (c : CellId) (a b : RegNo) (annul : Bool) (off : BitVec 15) (s : State) : Result :=
  runOp c (.bgeu c a b annul off) (bgeuOp c a b annul off) s

/-- BEQZ (R84). Branches when a register is zero. -/
def execBeqz (c : CellId) (a : RegNo) (annul : Bool) (off : BitVec 15) (s : State) : Result :=
  runOp c (.beqz c a annul off) (beqzOp c a annul off) s

/-- BNEZ (R84). Branches when a register is non-zero. -/
def execBnez (c : CellId) (a : RegNo) (annul : Bool) (off : BitVec 15) (s : State) : Result :=
  runOp c (.bnez c a annul off) (bnezOp c a annul off) s

/-- BLTZ (R84). Branches when a register is negative. -/
def execBltz (c : CellId) (a : RegNo) (annul : Bool) (off : BitVec 15) (s : State) : Result :=
  runOp c (.bltz c a annul off) (bltzOp c a annul off) s

/-- BGEZ (R84). Branches when a register is not negative. -/
def execBgez (c : CellId) (a : RegNo) (annul : Bool) (off : BitVec 15) (s : State) : Result :=
  runOp c (.bgez c a annul off) (bgezOp c a annul off) s

/-- JMP (R84). Jumps to a J-format target. -/
def execJmp (c : CellId) (target : BitVec 24) (s : State) : Result :=
  runOp c (.jmp c target) (jmpOp c target) s

/-- CALL (R58). Pushes the return address, spilling if needed, and jumps. -/
def execCall (c : CellId) (target : BitVec 24) (s : State) : Result :=
  runOp c (.call c target) (callOp c target) s

/-- JR (R84). Jumps to a register address. -/
def execJr (c : CellId) (a : RegNo) (s : State) : Result :=
  runOp c (.jr c a) (jrOp c a) s

/-- CALLR (R58). Pushes the return address and jumps to a register address. -/
def execCallr (c : CellId) (a : RegNo) (s : State) : Result :=
  runOp c (.callr c a) (callrOp c a) s

/-- RET (R58). Returns through the return stack, filling from DMEM if empty. -/
def execRet (c : CellId) (s : State) : Result :=
  runOp c (.ret c) (retOp c) s

/-- WAIT (R89). Holds until an event is pending on a port and consumes it. -/
def execWait (c : CellId) (p : Fin 4) (s : State) : Result :=
  runOp c (.wait c p) (waitOp c p) s

/-- FIRE (R88). Emits a pulse on a cell event port's output. -/
def execFire (c : CellId) (p : Fin 4) (s : State) : Result :=
  runOp c (.fire c p) (fireOp c p) s

/-- EVTST (R88). Reads the pending flags of the event ports. -/
def execEvtst (c : CellId) (d : RegNo) (s : State) : Result :=
  runOp c (.evtst c d) (evtstOp c d) s

/-- CKPT (R397). Writes a checkpoint record to the older mirror slot, committing it last. -/
def execCkpt (c : CellId) (s : State) : Result :=
  runOp c (.ckpt c) (ckptOp c) s

/-- GATE (R173). Supervisor call through a checked gate-table entry. -/
def execGate (c : CellId) (n : Byte) (s : State) : Result :=
  runOp c (.gate c n) (gateOp c n) s

/-- RETS (R175). Returns from a gate call against the origin shadow. -/
def execRets (c : CellId) (s : State) : Result :=
  runOp c (.rets c) (retsOp c) s

/-- RETE (R183). Returns from an exception after checking the frame's privilege claim. -/
def execRete (c : CellId) (s : State) : Result :=
  runOp c (.rete c) (reteOp c) s

/-- MFS (R90). Reads a status register at supervisor level. -/
def execMfs (c : CellId) (d : RegNo) (sr : Fin 64) (s : State) : Result :=
  runOp c (.mfs c d sr) (mfsOp c d sr) s

/-- MTS (R92). Writes a status register, serialising. -/
def execMts (c : CellId) (a : RegNo) (sr : Fin 64) (s : State) : Result :=
  runOp c (.mts c a sr) (mtsOp c a sr) s

/-- IDLE (R93). Holds until an admitted interrupt is delivered. -/
def execIdle (c : CellId) (s : State) : Result :=
  .next (runIdle c.val (wordOf (.idle c)) s)

/-- HALT (R94). Stops the cell after outstanding operations complete. -/
def execHalt (c : CellId) (s : State) : Result :=
  runOp c (.halt c) (haltOp c) s

/-- MBAR (R98). Waits for all non-local operations and reports pending bus errors precisely. -/
def execMbar (c : CellId) (s : State) : Result :=
  runOp c (.mbar c) (mbarOp c) s

/-- LBAR (R118). Waits for the long-operation unit and reports pending arithmetic faults precisely. -/
def execLbar (c : CellId) (s : State) : Result :=
  runOp c (.lbar c) (lbarOp c) s

end Sys2Proof.Machine
end

