-- ==== Sys2Proof/Machine/LinkCommands.lean ====
section
/-!
DEFINITION. Host window, Ethernet, Xesum link and field pins (R354 to R388).
-/

namespace Sys2Proof.Machine

/-- HOST_READ (R356). A host read request is served or answered with an error. -/
def execHostRead (space : HostSpace) (addr len : Nat) (s : State) : Result :=
  .next (hostRead space addr len s)

/-- HOST_WRITE (R356). A host write request is performed or discarded. -/
def execHostWrite (space : HostSpace) (addr : Nat) (data : List Byte) (s : State) : Result :=
  .next (hostWrite space addr data s)

/-- NEGOTIATE (R364). A write of HW_OFFER negotiates the host-window version. -/
def execNegotiate (v : Word) (s : State) : Result :=
  .next (negotiate v s)

/-- FRAME_RECEIVED (R367). An Ethernet frame is filtered, checked and written to receive descriptors. -/
def execFrameReceived (p : Fin 2) (data : List Byte) (line : Bool) (stamp : Ticks) (s : State) : Result :=
  .next (frameReceived p.val data line stamp s)

/-- RX_DESCRIPTOR_RETRY (R367). Every 1 µs a waiting port reads the next receive descriptor again. -/
def execRxDescriptorRetry (p : Fin 2) (s : State) : Result :=
  .next (ethKickRx p.val s)

/-- KICK_RX (R367). A write of EN_Pp_KICK.RX rereads the receive descriptor. -/
def execKickRx (p : Fin 2) (s : State) : Result :=
  .next (ethKickRx p.val s)

/-- KICK_TX (R369). A write of EN_Pp_KICK.TX walks the transmit ring. -/
def execKickTx (p : Fin 2) (s : State) : Result :=
  .next (ethKickTx p.val s)

/-- FRAME_LAUNCH (R371). A fetched frame leaves at its launch time or as soon as it can. -/
def execFrameLaunch (p : Fin 2) (s : State) : Result :=
  .next (frameLaunch p.val s)

/-- TRANSMIT_COMPLETE (R369). The last bit of a frame leaves and its descriptors are handed back. -/
def execTransmitComplete (p : Fin 2) (stamp : Ticks) (s : State) : Result :=
  .next (transmitDone p.val stamp s)

/-- PORT_RECONFIGURE (R373). Clearing EN or changing MODE, REGION or rings aborts descriptors and empties FIFOs. -/
def execPortReconfigure (p : Fin 2) (reg : Fin 3) (v : Word) (s : State) : Result :=
  .next (portReconfigure p.val reg.val v s)

/-- ETHERNET_LINK_CHANGE (R374). An Ethernet port's link comes up or goes down, or its auto-negotiation completes,
changing EN_Pp_STAT.LINK and ANDONE. -/
def execEthernetLinkChange (p : Fin 2) (link done : Bool) (s : State) : Result :=
  .next (ethLink p.val link done s)

/-- DATA_FRAME (R378). A received Xesum data frame is accepted in sequence or discarded. -/
def execDataFrame (p : Fin 4) (lanes : List (List LineChar)) (stamp : Ticks) (s : State) : Result :=
  .next (xlReceive p.val lanes stamp s)

/-- ACK_FRAME (R379). A received ack releases retry-buffer frames and returns credits. -/
def execAckFrame (p : Fin 4) (lanes : List (List LineChar)) (s : State) : Result :=
  .next (xlReceive p.val lanes s.time.gtime s)

/-- NAK_FRAME (R379). A received nak releases frames and starts a resend. -/
def execNakFrame (p : Fin 4) (lanes : List (List LineChar)) (s : State) : Result :=
  .next (xlReceive p.val lanes s.time.gtime s)

/-- TIME_FRAME_RECEIVED (R381). A received Xesum time frame is delivered into the VC 0 receive ring outside the
credits, with CODE 6 and its arrival stamp. -/
def execTimeFrameReceived (p : Fin 4) (lanes : List (List LineChar)) (stamp : Ticks) (s : State) : Result :=
  .next (xlReceive p.val lanes stamp s)

/-- ACK_SEND (R379). An ack is sent within 1 µs or after 8 accepted frames. -/
def execAckSend (p : Fin 4) (s : State) : Result :=
  .next (ackDue p.val s)

/-- RETRY_TIMEOUT (R379). No ack within 10 µs resends every unacknowledged frame. -/
def execRetryTimeout (p : Fin 4) (s : State) : Result :=
  .next (retryTimeout p.val s)

/-- CODE_ERROR (R380). A code error on a lane is counted and may cost symbol lock. -/
def execCodeError (p lane : Fin 4) (lockLost : Bool) (s : State) : Result :=
  .next (codeError p.val lane.val lockLost s)

/-- TRAINING_START (R380). Enable, RETRAIN, lock loss or partner training starts training. -/
def execTrainingStart (p : Fin 4) (s : State) : Result :=
  .next (trainStart p.val s)

/-- TRAINING_FRAME_SEND (R380). Every 10 µs each locked lane sends a training frame. -/
def execTrainingFrameSend (p : Fin 4) (s : State) : Result :=
  .next (trainSend p.val s)

/-- TRAINING_FRAME_RECEIVED (R380). Matching training frames agree major, capabilities and width. -/
def execTrainingFrameReceived (p lane : Fin 4) (usable : BitVec 4) (version : BitVec 64) (majors : BitVec 3) (s : State) : Result :=
  .next (trainReceived p.val lane.val ⟨usable.toNat, version, majors.toNat⟩ s)

/-- TRAINING_TIMEOUT (R380). No link up within 10 ms schedules a retry. -/
def execTrainingTimeout (p : Fin 4) (s : State) : Result :=
  .next (trainTimeout p.val s)

/-- TRAINING_RETRY (R380). Training restarts after 100 ms. -/
def execTrainingRetry (p : Fin 4) (s : State) : Result :=
  .next (trainRetry p.val s)

/-- TSEND (R381). A write of XL_Pp_CTL.TSEND sends a time frame. -/
def execTsend (p : Fin 4) (s : State) : Result :=
  .next (timeSend p.val s)

/-- UNRETIRE (R382). A write of UNRETIRE returns a lane to use at the next training. -/
def execUnretire (p : Fin 4) (lanes : BitVec 4) (s : State) : Result :=
  .next (unretire p.val lanes.toNat s)

/-- XESUM_KICK (R383). A write of XL_Pp_KICK makes a VC ring be walked. -/
def execXesumKick (p : Fin 4) (v : Word) (s : State) : Result :=
  .next (xlKick p.val v s)

/-- PCIE_LINK_CHANGE (R365). The PCIe link trains or goes down, changing HW_LINK width and speed. -/
def execPcieLinkChange (width : BitVec 5) (speed : BitVec 4) (s : State) : Result :=
  .next (pcieLink width.toNat speed.toNat s)

/-- TIMED_QUEUE_PUSH (R386). A write of FP_Pp_TQACT pushes a timed action. -/
def execTimedQueuePush (r : RegionId) (p : Fin 32) (v : Word) (s : State) : Result :=
  .next (regionAccess r (fun _ R => tqPush p.val v R) s)

/-- TIMED_ACTION (R386). The head entry acts when GTIME reaches its time. -/
def execTimedAction (r : RegionId) (p : Fin 32) (s : State) : Result :=
  .next (regionEvent r (fun x R => tqHead x.next p.val R) s)

/-- FIELD_PIN_CAPTURE (R387). A qualifying field-pin edge enters the capture FIFO. -/
def execFieldPinCapture (r : RegionId) (p : Fin 32) (rising : Bool) (stamp : Ticks) (s : State) : Result :=
  .next (pinInput r p.val rising (stampEdge stamp) s)

/-- FIELD_PIN_CAP_READ (R387). A read of FP_Pp_CAP_L removes the oldest capture. -/
def execFieldPinCapRead (r : RegionId) (p : Fin 32) (s : State) : Result :=
  .next (regionAnswer r (fun _ R => pinCapRead p.val R) s)

/-- FIELD_PIN_INPUT_CHANGE (R385). A field pin's filtered input level changes without a qualifying edge and FP_IN
follows it. -/
def execFieldPinInputChange (r : RegionId) (p : Fin 32) (level : Bool) (s : State) : Result :=
  .next (pinInput r p.val level comingEdge s)

/-- VIO_RAIL_CHANGE (R468). A VIO rail leaves or re-enters its range, or changes level, making its PW and FP pins
high-impedance and changing the level that FP_BANK reports. -/
def execVioRailChange (r : RegionId) (rail : Fin 3) (good v18 : Bool) (s : State) : Result :=
  .next (railOf r rail.val good v18 s)

end Sys2Proof.Machine
end

