-- ==== Sys2Proof/Machine/LoopCommands.lean ====
section
/-!
DEFINITION. Loop engine and position feedback: profiles, injection, response capture, feedback units (R293 to R325).
-/

namespace Sys2Proof.Machine

/-- PROFILE_START (R294). GO or task 0x010+p latches the target and sets MOVING. -/
def execProfileStart (r : RegionId) (p : Fin 8) (s : State) : Result :=
  .next (regionAccess r (fun x R => pgStart x.time.pclk p.val R) s)

/-- PROFILE_TICK (R295). A profile tick updates POS, VEL and ACC within limits. -/
def execProfileTick (r : RegionId) (p : Fin 8) (s : State) : Result :=
  .next (regionEvent r (fun x R => pgTickAt (x.time.pclk + 1) p.val R) s)

/-- PROFILE_ABORT (R298). A write of ABORT stops the generator. -/
def execProfileAbort (r : RegionId) (p : Fin 8) (s : State) : Result :=
  .next (regionAccess r (fun _ R => pgAbort p.val R) s)

/-- PROFILE_POS_WRITE (R298). A write of POS sets the set-point while stopped. -/
def execProfilePosWrite (r : RegionId) (p : Fin 8) (hi : Bool) (v : Word) (s : State) : Result :=
  .next (regionAccess r (fun _ R => profilePosWrite p.val hi v R) s)

/-- PROFILE_PERIOD_WRITE (R293). A write of PER during motion reschedules the next tick. -/
def execProfilePeriodWrite (r : RegionId) (p : Fin 8) (v : Word) (s : State) : Result :=
  .next (regionAccess r (fun _ R => plainWrite (regAt Reg.LP_PG_TICK p.val 0) v R) s)

/-- INJECTION_GO (R299). A write of LP_INJ_CTL.GO initialises and starts an injection run. -/
def execInjectionGo (r : RegionId) (s : State) : Result :=
  .next (regionAccess r (fun x R => injGo (x.time.pclk + 1) R) s)

/-- INJECTION_STOP (R301). A write of STOP sets v to 0 and ends the run. -/
def execInjectionStop (r : RegionId) (s : State) : Result :=
  .next (regionAccess r (fun _ R => injStop R) s)

/-- INJECTION_STEP (R299). At a step edge the unit computes a new v and presents its event. -/
def execInjectionStep (r : RegionId) (s : State) : Result :=
  .next (regionEvent r (fun x R => injStepAt (x.time.pclk + 1) R) s)

/-- CAPTURE_ENTRY_WRITE (R304). A buffered capture entry is written to region memory in an idle bank cycle. -/
def execCaptureEntryWrite (r : RegionId) (s : State) : Result :=
  .next (regionEvent r (rcDrain) s)

/-- RING_RESET (R304). A write of LP_RC_CTL.RESET sets WPTR to 0. -/
def execRingReset (r : RegionId) (s : State) : Result :=
  .next (regionAccess r (fun _ R => rcReset R) s)

/-- FEEDBACK_CHANGE (R309). A change of filtered feedback lines is decoded as valid, illegal or resynchronisation. -/
def execFeedbackChange (r : RegionId) (u : Fin 8) (lines : BitVec 3) (s : State) : Result :=
  .next (feedbackLines r u.val lines.toNat s)

/-- FEEDBACK_TIMEOUT (R315). AGE reaches TIMEOUT and the timing history restarts. -/
def execFeedbackTimeout (r : RegionId) (u : Fin 8) (s : State) : Result :=
  .next (regionEvent r (fun x R => fbTimeout x.next u.val R) s)

/-- FEEDBACK_POS_WRITE (R318). A write of POS loads the position. -/
def execFeedbackPosWrite (r : RegionId) (u : Fin 8) (hi : Bool) (v : Word) (s : State) : Result :=
  .next (regionAccess r (fun _ R => fbPosWrite u.val hi v R) s)

/-- FEEDBACK_CMP_WRITE (R321). A write of CMP sets BEHIND. -/
def execFeedbackCmpWrite (r : RegionId) (u : Fin 8) (v : Word) (s : State) : Result :=
  .next (regionAccess r (fun _ R => fbCmpWrite u.val v R) s)

/-- FEEDBACK_CONFIG_WRITE (R315). A write of FB_UNu_CFG resets decoding state and history. -/
def execFeedbackConfigWrite (r : RegionId) (u : Fin 8) (v : Word) (s : State) : Result :=
  .next (regionAccess r (fun _ R => fbCfgWrite u.val (plainWrite (fbAt Reg.FB_UN_CFG u.val) v) R) s)

end Sys2Proof.Machine
end

