-- ==== Sys2Proof/Machine/MemCommands.lean ====
section
/-!
DEFINITION. Loads, stores, atomics and I/O instructions (R77 to R83).
-/

namespace Sys2Proof.Machine

/-- LDW (R77). Loads a 32-bit word. -/
def execLdw (c : CellId) (d a : RegNo) (imm : BitVec 16) (s : State) : Result :=
  runOp c (.ldw c d a imm) (ldwOp c d a imm) s

/-- LDH (R77). Loads a sign-extended halfword. -/
def execLdh (c : CellId) (d a : RegNo) (imm : BitVec 16) (s : State) : Result :=
  runOp c (.ldh c d a imm) (ldhOp c d a imm) s

/-- LDHU (R77). Loads a zero-extended halfword. -/
def execLdhu (c : CellId) (d a : RegNo) (imm : BitVec 16) (s : State) : Result :=
  runOp c (.ldhu c d a imm) (ldhuOp c d a imm) s

/-- LDB (R77). Loads a sign-extended byte. -/
def execLdb (c : CellId) (d a : RegNo) (imm : BitVec 16) (s : State) : Result :=
  runOp c (.ldb c d a imm) (ldbOp c d a imm) s

/-- LDBU (R77). Loads a zero-extended byte. -/
def execLdbu (c : CellId) (d a : RegNo) (imm : BitVec 16) (s : State) : Result :=
  runOp c (.ldbu c d a imm) (ldbuOp c d a imm) s

/-- STW (R77). Stores a 32-bit word through the store buffer. -/
def execStw (c : CellId) (d a : RegNo) (imm : BitVec 16) (s : State) : Result :=
  runOp c (.stw c d a imm) (stwOp c d a imm) s

/-- STH (R77). Stores a halfword through the store buffer. -/
def execSth (c : CellId) (d a : RegNo) (imm : BitVec 16) (s : State) : Result :=
  runOp c (.sth c d a imm) (sthOp c d a imm) s

/-- STB (R77). Stores a byte through the store buffer. -/
def execStb (c : CellId) (d a : RegNo) (imm : BitVec 16) (s : State) : Result :=
  runOp c (.stb c d a imm) (stbOp c d a imm) s

/-- LDA (R77). Atomic add at the bank returning the old value. -/
def execLda (c : CellId) (d a b : RegNo) (s : State) : Result :=
  runOp c (.lda c d a b) (ldaOp c d a b) s

/-- SWP (R77). Atomic swap at the bank returning the old value. -/
def execSwp (c : CellId) (d a b : RegNo) (s : State) : Result :=
  runOp c (.swp c d a b) (swpOp c d a b) s

/-- IN (R81). Reads an I/O-space register. -/
def execIn (c : CellId) (d a : RegNo) (port : BitVec 16) (s : State) : Result :=
  runOp c (.in_ c d a port) (inOp c d a port) s

/-- OUT (R81). Writes an I/O-space register, holding later I/O until acknowledged. -/
def execOut (c : CellId) (d a : RegNo) (port : BitVec 16) (s : State) : Result :=
  runOp c (.out c d a port) (outOp c d a port) s

/-- OUTP (R81). Posts an I/O-space register write. -/
def execOutp (c : CellId) (d a : RegNo) (port : BitVec 16) (s : State) : Result :=
  runOp c (.outp c d a port) (outpOp c d a port) s

/-- IWR (R81). Writes an IMEM word and refills the pipeline. -/
def execIwr (c : CellId) (d a : RegNo) (imm : BitVec 16) (s : State) : Result :=
  runOp c (.iwr c d a imm) (iwrOp c d a imm) s

/-- IFLUSH (R81). Discards the prefetch queue and refetches. -/
def execIflush (c : CellId) (s : State) : Result :=
  runOp c (.iflush c) (iflushOp c) s

end Sys2Proof.Machine
end

