-- ==== Sys2Proof/Machine/MemoryCommands.lean ====
section
/-!
DEFINITION. Memory banks, harrow, march tests and DMA (R328 to R353).
-/

namespace Sys2Proof.Machine

/-- ECC_REWRITE (R328). A corrected word is rewritten in the bank's next idle cycle. -/
def execEccRewrite (r : RegionId) (loc : Word) (s : State) : Result :=
  .next (regionEvent r (fun _ R => eccRewrite loc.toNat R) s)

/-- BANK_POWER_WRITE (R332). A write of MB_BANKb_PWR.STATE starts a bank power transition. -/
def execBankPowerWrite (r : RegionId) (b : Fin 80) (host : Bool) (v : Word) (s : State) : Result :=
  .next (regionAccess r (fun _ R => bankPowerWrite b.val host v R) s)

/-- BANK_POWER_DONE (R332). A bank power transition completes, possibly starting the next. -/
def execBankPowerDone (r : RegionId) (b : Fin 80) (s : State) : Result :=
  .next (regionEvent r (fun _ R => bankPowerDone b.val R) s)

/-- HARROW_ACCESS (R334). The harrow reads and scrubs the next row at its scheduled instant. -/
def execHarrowAccess (r : RegionId) (n : Nat) (s : State) : Result :=
  .next (regionEvent r (fun x R => harrowAccess x n R) s)

/-- HARROW_PERIOD_WRITE (R340). A write of MB_HRW_CFG.PER starts a new pass. -/
def execHarrowPeriodWrite (r : RegionId) (v : Word) (s : State) : Result :=
  .next (regionAccess r (fun _ R => harrowCfg (plainWrite Reg.MB_HRW_CFG.base v) R) s)

/-- MARCH_GO (R339). A write of MB_MT_CTL.GO starts a march test of the masked banks. -/
def execMarchGo (r : RegionId) (s : State) : Result :=
  .next (regionAccess r (fun _ R => marchGo R) s)

/-- MARCH_ABORT (R339). A write of ABORT ends the march test after the current row or segment. -/
def execMarchAbort (r : RegionId) (s : State) : Result :=
  .next ((regionAccess r (fun x R => marchAbort x R) s).took abortFree)

/-- MARCH_BANK_COMPLETE (R339). The march test of one bank ends and failures are recorded. -/
def execMarchBankComplete (r : RegionId) (failed : Bool) (element : Fin 8) (row : BitVec 11) (s : State) : Result :=
  .next (regionEvent r (fun x R => marchBankDone x failed element.val row.toNat R) s)

/-- DMA_GO (R349). A write of DM_CHc_CTL.GO fetches a descriptor and runs the chain. -/
def execDmaGo (r : RegionId) (ch : Fin 16) (s : State) : Result :=
  .next (regionAccess r (fun _ R => dmaStart ch.val R) s)

/-- DMA_ABORT (R351). A write of ABORT stops a channel after issued bursts complete. -/
def execDmaAbort (r : RegionId) (ch : Fin 16) (s : State) : Result :=
  .next (regionAccess r (fun _ R => dmaStop ch.val R) s)

/-- DESCRIPTOR_FETCH (R343). A descriptor is read and checked, or its fetch fails. -/
def execDescriptorFetch (r : RegionId) (ch : Fin 16) (s : State) : Result :=
  .next (dmaFetch r.val ch.val s)

/-- BURST_START (R342). The read engine issues a burst once tag, buffer and request allow. -/
def execBurstStart (r : RegionId) (ch : Fin 16) (s : State) : Result :=
  .next (dmaBurst r.val ch.val s)

/-- BURST_COMPLETE (R342). The last write of a burst is acknowledged and its tag returns. -/
def execBurstComplete (r : RegionId) (ch : Fin 16) (s : State) : Result :=
  .next (dmaBurstDone r.val ch.val s)

/-- DESCRIPTOR_COMPLETE (R349). A descriptor's status is written, its event presented and the chain continued. -/
def execDescriptorComplete (r : RegionId) (ch : Fin 16) (s : State) : Result :=
  .next (dmaDone r.val ch.val s)

end Sys2Proof.Machine
end

