-- ==== Sys2Proof/Machine/ResetCommands.lean ====
section
/-!
DEFINITION. Resets, clocks, release, watchdogs, power states and registers without a row of their own (R6, R42, R442 to
R465).
-/

namespace Sys2Proof.Machine

/-- POWER_ON_RESET (R442). A supply below its power-on threshold asserts chip reset. -/
def execPowerOnReset (s : State) : Result :=
  .next (chipReset 0x01 s)

/-- BROWN_OUT (R442). A supply below its brown-out threshold for 1 µs asserts chip reset. -/
def execBrownOut (s : State) : Result :=
  .next (chipReset 0x02 s)

/-- NRESET (R442). NRESET low asserts chip reset. -/
def execNreset (s : State) : Result :=
  .next (chipReset 0x04 s)

/-- CHIP_WATCHDOG_EXPIRY (R451). RS_WDCNT reaches its timeout and resets the chip. -/
def execChipWatchdogExpiry (s : State) : Result :=
  .next (wdExpiry none s)

/-- CRITICAL_STATE_ERROR (R442). A parity error in critical state resets the chip. -/
def execCriticalStateError (s : State) : Result :=
  .next (criticalError s)

/-- CHIP_CLOCK_LOSS (R442). Loss of fabric, timebase or XCLK asserts chip reset. -/
def execChipClockLoss (s : State) : Result :=
  .next (chipReset 0x80 s)

/-- RSTCHIP (R442). The JTAG RSTCHIP instruction resets the chip when permitted. -/
def execRstchip (s : State) : Result :=
  .next (rstchipReset s)

/-- SOFTWARE_CHIP_RESET (R442). A keyed write of RS_SWRST resets the chip. -/
def execSoftwareChipReset (v : Word) (s : State) : Result :=
  .next (swChipReset v s)

/-- REGION_WATCHDOG_EXPIRY (R451). A region watchdog reaches its timeout and resets the region. -/
def execRegionWatchdogExpiry (r : RegionId) (s : State) : Result :=
  .next (wdExpiry (some r.val) s)

/-- WATCHDOG_WARNING (R451). A watchdog reaches 7/8 of its timeout and warns. -/
def execWatchdogWarning (region : Option RegionId) (s : State) : Result :=
  .next (wdWarning (region.map (fun r => r.val)) s)

/-- WATCHDOG_KICK (R451). A write of 0xA55A to a kick register restarts the count. -/
def execWatchdogKick (region : Option RegionId) (v : Word) (s : State) : Result :=
  .next (wdKick (region.map (fun r => r.val)) v s)

/-- RCLK_LOCK_LOSS (R442). A region PLL out of lock holds the region in reset. -/
def execRclkLockLoss (r : RegionId) (s : State) : Result :=
  .next (rclkLost r.val s)

/-- REGION_RESET (R442). A write of RS_RGr_CTL.RESET pulses a region reset. -/
def execRegionReset (r : RegionId) (s : State) : Result :=
  .next (regionResetFor r.val 3 s)

/-- REGION_HOLD (R442). A write of RS_RGr_CTL.HOLD holds or frees a region reset. -/
def execRegionHold (r : RegionId) (hold : Bool) (s : State) : Result :=
  .next (regionHold r.val hold s)

/-- ARBITER_PARITY (R6). A block-arbiter parity error resets the block. -/
def execArbiterParity (r : RegionId) (bk : BlockId) (s : State) : Result :=
  .next (s.onRegion r.val (fun x R => blockAssert x bk.val 1 R))

/-- BLOCK_RESET (R442). A write of BK_SWRST.BLOCK resets the block. -/
def execBlockReset (r : RegionId) (bk : BlockId) (v : Word) (s : State) : Result :=
  .next (blockAccess r bk (fun x R => swrstWrite x bk.val v R) s)

/-- CELL_RESET (R442). A write of BK_SWRST.CELLS resets cells, released halted. -/
def execCellReset (r : RegionId) (bk : BlockId) (v : Word) (s : State) : Result :=
  .next (blockAccess r bk (fun x R => swrstWrite x bk.val v R) s)

/-- BK_START (R448). A write of BK_START resets and starts eligible cells at vector 0. -/
def execBkStart (r : RegionId) (bk : BlockId) (v : Word) (s : State) : Result :=
  .next (blockAccess r bk (fun _ R => bkStart bk.val v R) s)

/-- CLOCK_GOOD (R445). A PLL delivers 256 cycles after lock and its clock becomes good. -/
def execClockGood (k : Fin 10) (s : State) : Result :=
  .next ({ s with chip := clockIsGood k.val s.chip })

/-- CHIP_RELEASE (R446). The chip release sequence advances to its next step. -/
def execChipRelease (s : State) : Result :=
  .next (chipRelease s)

/-- REGION_RELEASE (R447). A region, then its blocks and cells, leave reset. -/
def execRegionRelease (r : RegionId) (s : State) : Result :=
  .next (regionReleaseStep r.val s)

/-- PLL_WRITE (R457). A write of CK_RGr_PLL relocks the PLL or is refused. -/
def execPllWrite (r : RegionId) (v : Word) (s : State) : Result :=
  .next (pllSet r.val v s)

/-- OE_COMMIT (R454). PM_OECTL.COMMIT copies PM_OESTAGE to PM_OE unless mismatched. -/
def execOeCommit (r : RegionId) (s : State) : Result :=
  .next (regionAccess r (fun _ R => oeCommit R) s)

/-- POWER_STATE_ENTRY (R459). A quiet region enters the deepest admitted power state after 1 µs. -/
def execPowerStateEntry (r : RegionId) (s : State) : Result :=
  .next (regionEvent r (fun _ R => powerEnter R) s)

/-- WAKE (R460). An event, post or access returns the region to L0. -/
def execWake (r : RegionId) (s : State) : Result :=
  .next (s.awake r.val)

/-- L4_RETURN (R461). A region returning from L4 is released and its cells reloaded. -/
def execL4Return (r : RegionId) (s : State) : Result :=
  .next (if pmState (s.region r.val) = 4 then s.awake r.val else s)

/-- BACKUP_CLEAR (R452). RS_BKCLR.CLEAR clears the backup domain when permitted. -/
def execBackupClear (s : State) : Result :=
  .next ({ s with chip := bkClear s.chip })

/-- VBAT_LOSS (R452). VBAT below 2.0 V clears the backup domain. -/
def execVbatLoss (s : State) : Result :=
  .next ({ s with chip := vbatLost s.chip })

/-- REGISTER_WRITE (R42). A write to a register without a row of its own takes effect at the next unit edge. -/
def execRegisterWrite (region : Option RegionId) (offset : Nat) (v : Word) (s : State) : Result :=
  .next ((s.writeReg false (region.map (fun r => r.val)) offset v).2)

end Sys2Proof.Machine
end

