-- ==== Sys2Proof/Machine/ServiceCommands.lean ====
section
/-!
DEFINITION. Fault tolerance, configuration check, telemetry and lifetime (R392 to R412).
-/

namespace Sys2Proof.Machine

/-- TAKEOVER (R399). A cell-reach error retires the cell and starts takeover. -/
def execTakeover (r : RegionId) (bk : BlockId) (s : State) : Result :=
  .next (regionEvent r (fun x R => takeUp x bk.val R) s)

/-- TAKEOVER_RESTORE (R399). After the fallow load, the checkpoint is restored and bindings rewritten. -/
def execTakeoverRestore (r : RegionId) (bk : BlockId) (s : State) : Result :=
  .next (regionEvent r (fun x R => tkRestore x bk.val R) s)

/-- FALLOW_RELEASE (R399). The fallow cell runs at its next sample boundary. -/
def execFallowRelease (r : RegionId) (bk : BlockId) (s : State) : Result :=
  .next (fallowRelease r bk.val s)

/-- BK_RETIRE (R403). A write of BK_RETIRE retires a cell. -/
def execBkRetire (r : RegionId) (bk : BlockId) (v : Word) (s : State) : Result :=
  .next (blockAccess r bk (fun x R => retireWrite x bk.val v R) s)

/-- TL_SWFAULT (R393). A write of TL_SWFAULT queues a software fault record. -/
def execTlSwfault (r : RegionId) (v : Word) (s : State) : Result :=
  .next (regionAccess r (fun x R => swFault x v R) s)

/-- FAULT_RECORD_WRITE (R393). A queued fault record is written to the telemetry ring. -/
def execFaultRecordWrite (r : RegionId) (s : State) : Result :=
  .next (regionEvent r (fun x R => faultWrite x R) s)

/-- TELEMETRY_RECORD (R408). Every 1 ms block tally and region records are written or dropped. -/
def execTelemetryRecord (r : RegionId) (s : State) : Result :=
  .next ((regionEvent r (fun x R => tlMilli x R) s).took tlFreeCount)

/-- SWEEP_START (R405). Every 64 µs a configuration-check sweep begins. -/
def execSweepStart (r : RegionId) (s : State) : Result :=
  .next (regionEvent r (fun _ R => sweepBegin R) s)

/-- SWEEP_COMPLETE (R405). A sweep ends and compares its result with the reference. -/
def execSweepComplete (r : RegionId) (s : State) : Result :=
  .next (sweepComplete r s)

/-- CALC (R406). A write of CF_CTL.CALC computes the check value. -/
def execCheckCalc (r : RegionId) (s : State) : Result :=
  .next (regionAccess r (fun _ R => calcStart R) s)

/-- CALC_COMPLETE (R406). A CALC finishes and CALCBUSY falls. -/
def execCalcComplete (r : RegionId) (s : State) : Result :=
  .next (regionEvent r (fun _ R => calcFinish R) s)

/-- COMMIT_REFERENCE (R406). A write of CF_CTL.COMMIT copies CF_REF to CF_COMMITTED. -/
def execCommitReference (r : RegionId) (s : State) : Result :=
  .next (regionAccess r (fun _ R => refCommit R) s)

/-- AGING_MEASURE (R411). Every millisecond each aging oscillator is counted. -/
def execAgingMeasure (r : RegionId) (k : Fin 4) (v : Word) (s : State) : Result :=
  .next (regionEvent r (fun _ R => agingCount k.val v R) s)

/-- LIFETIME_ACCUMULATE (R412). Every minute the lifetime counters accumulate. -/
def execLifetimeAccumulate (s : State) : Result :=
  .next (lifeMinute s)

/-- LIFETIME_COMMIT (R412). Every 10 minutes the lifetime counters are committed to MRAM. -/
def execLifetimeCommit (s : State) : Result :=
  .next ({ s with chip := lifeSave s.chip })

end Sys2Proof.Machine
end

