-- ==== Sys2Proof/Machine/TimerCommands.lean ====
section
/-!
DEFINITION. Timers, compares, complementary pairs, trips, deadlines and captures (R254 to R278).
-/

namespace Sys2Proof.Machine

/-- TIMER_START (R255). A start command or task loads PHASE and INIT and runs the channel. -/
def execTimerStart (r : RegionId) (n : Fin 64) (s : State) : Result :=
  .next (regionAccess r (fun x R => tmCommand x.adv n.val reqStart R) s)

/-- TIMER_STOP (R255). A stop command or task holds the counter. -/
def execTimerStop (r : RegionId) (n : Fin 64) (s : State) : Result :=
  .next (regionAccess r (fun x R => tmCommand x.adv n.val reqStop R) s)

/-- TIMER_RELOAD (R255). A reload command or task loads PHASE. -/
def execTimerReload (r : RegionId) (n : Fin 64) (s : State) : Result :=
  .next (regionAccess r (fun x R => tmCommand x.adv n.val reqReload R) s)

/-- TIMER_FORCE (R262). A force command or task applies the force action. -/
def execTimerForce (r : RegionId) (n : Fin 64) (s : State) : Result :=
  .next (regionAccess r (fun x R => tmCommand x.adv n.val reqForce R) s)

/-- COUNTER_WRITE (R255). A write of TM_CHn_CNT loads the counter and restarts the prescaler. -/
def execCounterWrite (r : RegionId) (n : Fin 64) (v : Word) (s : State) : Result :=
  .next (regionAccess r (fun x R => tmCommand x.adv n.val (reqWrite v) R) s)

/-- GROUP_START (R256). A write of TM_GSTARTw starts the selected channels at one edge. -/
def execGroupStart (r : RegionId) (w : Fin 2) (v : Word) (s : State) : Result :=
  .next (regionAccess r (fun x R => groupAct w.val v (fun n => tmCommand x.adv n reqStart) R) s)

/-- GROUP_STOP (R256). A write of TM_GSTOPw stops the selected channels at one edge. -/
def execGroupStop (r : RegionId) (w : Fin 2) (v : Word) (s : State) : Result :=
  .next (regionAccess r (fun x R => groupAct w.val v (fun n => tmCommand x.adv n reqStop) R) s)

/-- WRAP_EDGE (R254). The counter reaches RELOAD and takes 0, with wrap action, event and linked carry. -/
def execWrapEdge (r : RegionId) (n : Fin 64) (s : State) : Result :=
  .next (regionEvent r (fun x R => wrapOf x.adv n.val R) s)

/-- COMPARE_MATCH (R261). The counter takes a compare value, presenting the event and applying the action. -/
def execCompareMatch (r : RegionId) (n : Fin 64) (b : Bool) (s : State) : Result :=
  .next (regionEvent r (fun x R => compareHit x.adv n.val b R) s)

/-- COMPARE_WRITE (R264). A live compare write changes the comparator with no shadow. -/
def execCompareWrite (r : RegionId) (n : Fin 64) (b : Bool) (v : Word) (s : State) : Result :=
  .next (regionAccess r (fun x R => compareWrite x n.val b v R) s)

/-- DEAD_TIME_EXPIRY (R268). A complementary output turns on after its dead time if the reference still selects it. -/
def execDeadTimeExpiry (r : RegionId) (k : Fin 24) (s : State) : Result :=
  .next (regionEvent r (fun x R => deadTimeOver x.adv k.val R) s)

/-- TRIP_INPUT_ASSERTED (R269). A filtered trip input becomes asserted and trips the pairs that name it. -/
def execTripInputAsserted (r : RegionId) (i : Fin 4) (s : State) : Result :=
  .next (trpInput r i.val true s)

/-- TRIP_INPUT_DEASSERTED (R271). A trip input ends, releasing unlatched pairs. -/
def execTripInputDeasserted (r : RegionId) (i : Fin 4) (s : State) : Result :=
  .next (trpInput r i.val false s)

/-- PAIR_TRIP (R270). A write of TM_PAIRk_CTL.TRIP trips the pair. -/
def execPairTrip (r : RegionId) (k : Fin 24) (s : State) : Result :=
  .next (regionAccess r (fun _ R => tripPair k.val 8 true R) s)

/-- PAIR_REARM (R271). A write of REARM leaves the tripped state if no TRP cause is asserted. -/
def execPairRearm (r : RegionId) (k : Fin 24) (s : State) : Result :=
  .next (regionAccess r (fun x R => rearmPair x.adv k.val R) s)

/-- DEADLINE_MISS (R273). A deadline window closes without an on-time compare write. -/
def execDeadlineMiss (r : RegionId) (k : Fin 24) (s : State) : Result :=
  .next (regionEvent r (fun x R => windowEnd x.gtNext k.val R) s)

/-- CAPTURE_EDGE (R275). A qualifying edge on a capture input is captured into the FIFO. -/
def execCaptureEdge (r : RegionId) (n : Fin 64) (rising : Bool) (stamp : Ticks) (s : State) : Result :=
  .next (regionEvent r (fun x R => captureShow x n.val rising stamp R) s)

/-- CAPTURE_CONFIG_WRITE (R274). A write of CAPCFG resets the filter and prescaler. -/
def execCaptureConfigWrite (r : RegionId) (n : Fin 64) (v : Word) (s : State) : Result :=
  .next (regionAccess r (fun _ R => captureCfgWrite n.val v R) s)

/-- CAPTURE_READ (R276). A read of TM_CHn_CAP removes the oldest entry and loads its stamp. -/
def execCaptureRead (r : RegionId) (n : Fin 64) (s : State) : Result :=
  .next (regionAnswer r (fun _ R => readCap n.val R) s)

end Sys2Proof.Machine
end

