-- ==== Sys2Proof/Machine/Dispatch.lean ====
section
/-!
DEFINITION. The meaning of each command, by its constructor.
-/

namespace Sys2Proof.Machine

def exec (i : Instr) (s : State) : Host.Outcome State Fault Refusal :=
  match i with
  | .nop c => Sys2Proof.Machine.execNop c s
  | .add c d a b => Sys2Proof.Machine.execAdd c d a b s
  | .sub c d a b => Sys2Proof.Machine.execSub c d a b s
  | .adds c d a b => Sys2Proof.Machine.execAdds c d a b s
  | .subs c d a b => Sys2Proof.Machine.execSubs c d a b s
  | .and c d a b => Sys2Proof.Machine.execAnd c d a b s
  | .or c d a b => Sys2Proof.Machine.execOr c d a b s
  | .xor c d a b => Sys2Proof.Machine.execXor c d a b s
  | .andn c d a b => Sys2Proof.Machine.execAndn c d a b s
  | .sll c d a b => Sys2Proof.Machine.execSll c d a b s
  | .srl c d a b => Sys2Proof.Machine.execSrl c d a b s
  | .sra c d a b => Sys2Proof.Machine.execSra c d a b s
  | .ror c d a b => Sys2Proof.Machine.execRor c d a b s
  | .slt c d a b => Sys2Proof.Machine.execSlt c d a b s
  | .sltu c d a b => Sys2Proof.Machine.execSltu c d a b s
  | .clz c d a => Sys2Proof.Machine.execClz c d a s
  | .popc c d a => Sys2Proof.Machine.execPopc c d a s
  | .brev c d a lanes => Sys2Proof.Machine.execBrev c d a lanes s
  | .par c d a bytes => Sys2Proof.Machine.execPar c d a bytes s
  | .sel c d a b cc => Sys2Proof.Machine.execSel c d a b cc s
  | .cmovz c d a b => Sys2Proof.Machine.execCmovz c d a b s
  | .cmovnz c d a b => Sys2Proof.Machine.execCmovnz c d a b s
  | .addi c d a imm => Sys2Proof.Machine.execAddi c d a imm s
  | .addsi c d a imm => Sys2Proof.Machine.execAddsi c d a imm s
  | .andi c d a imm => Sys2Proof.Machine.execAndi c d a imm s
  | .ori c d a imm => Sys2Proof.Machine.execOri c d a imm s
  | .xori c d a imm => Sys2Proof.Machine.execXori c d a imm s
  | .lui c d imm => Sys2Proof.Machine.execLui c d imm s
  | .slli c d a imm => Sys2Proof.Machine.execSlli c d a imm s
  | .srli c d a imm => Sys2Proof.Machine.execSrli c d a imm s
  | .srai c d a imm => Sys2Proof.Machine.execSrai c d a imm s
  | .rori c d a imm => Sys2Proof.Machine.execRori c d a imm s
  | .slti c d a imm => Sys2Proof.Machine.execSlti c d a imm s
  | .sltiu c d a imm => Sys2Proof.Machine.execSltiu c d a imm s
  | .mul c d a b => Sys2Proof.Machine.execMul c d a b s
  | .mulh c d a b => Sys2Proof.Machine.execMulh c d a b s
  | .mulhu c d a b => Sys2Proof.Machine.execMulhu c d a b s
  | .qmul c d a b rnd => Sys2Proof.Machine.execQmul c d a b rnd s
  | .mac c a b sub => Sys2Proof.Machine.execMac c a b sub s
  | .macs c a b sub => Sys2Proof.Machine.execMacs c a b sub s
  | .mtac c a b => Sys2Proof.Machine.execMtac c a b s
  | .rdac c d sh trunc rnd => Sys2Proof.Machine.execRdac c d sh trunc rnd s
  | .div c d a b => Sys2Proof.Machine.execDiv c d a b s
  | .divu c d a b => Sys2Proof.Machine.execDivu c d a b s
  | .rem c d a b => Sys2Proof.Machine.execRem c d a b s
  | .remu c d a b => Sys2Proof.Machine.execRemu c d a b s
  | .sqrt c d a q => Sys2Proof.Machine.execSqrt c d a q s
  | .mac64 c a b => Sys2Proof.Machine.execMac64 c a b s
  | .longOpResult c ix => Sys2Proof.Machine.execLongOpResult c ix s
  | .crcs c d a n => Sys2Proof.Machine.execCrcs c d a n s
  | .crcb c a b d => Sys2Proof.Machine.execCrcb c a b d s
  | .blkmov c a b d => Sys2Proof.Machine.execBlkmov c a b d s
  | .ldw c d a imm => Sys2Proof.Machine.execLdw c d a imm s
  | .ldh c d a imm => Sys2Proof.Machine.execLdh c d a imm s
  | .ldhu c d a imm => Sys2Proof.Machine.execLdhu c d a imm s
  | .ldb c d a imm => Sys2Proof.Machine.execLdb c d a imm s
  | .ldbu c d a imm => Sys2Proof.Machine.execLdbu c d a imm s
  | .stw c d a imm => Sys2Proof.Machine.execStw c d a imm s
  | .sth c d a imm => Sys2Proof.Machine.execSth c d a imm s
  | .stb c d a imm => Sys2Proof.Machine.execStb c d a imm s
  | .lda c d a b => Sys2Proof.Machine.execLda c d a b s
  | .swp c d a b => Sys2Proof.Machine.execSwp c d a b s
  | .loadReturn c ix => Sys2Proof.Machine.execLoadReturn c ix s
  | .storeBufferDrain c => Sys2Proof.Machine.execStoreBufferDrain c s
  | .storeAck c ix => Sys2Proof.Machine.execStoreAck c ix s
  | .in_ c d a port => Sys2Proof.Machine.execIn c d a port s
  | .out c d a port => Sys2Proof.Machine.execOut c d a port s
  | .outp c d a port => Sys2Proof.Machine.execOutp c d a port s
  | .outAck c ix => Sys2Proof.Machine.execOutAck c ix s
  | .iwr c d a imm => Sys2Proof.Machine.execIwr c d a imm s
  | .iflush c => Sys2Proof.Machine.execIflush c s
  | .beq c a b annul off => Sys2Proof.Machine.execBeq c a b annul off s
  | .bne c a b annul off => Sys2Proof.Machine.execBne c a b annul off s
  | .blt c a b annul off => Sys2Proof.Machine.execBlt c a b annul off s
  | .bge c a b annul off => Sys2Proof.Machine.execBge c a b annul off s
  | .bltu c a b annul off => Sys2Proof.Machine.execBltu c a b annul off s
  | .bgeu c a b annul off => Sys2Proof.Machine.execBgeu c a b annul off s
  | .beqz c a annul off => Sys2Proof.Machine.execBeqz c a annul off s
  | .bnez c a annul off => Sys2Proof.Machine.execBnez c a annul off s
  | .bltz c a annul off => Sys2Proof.Machine.execBltz c a annul off s
  | .bgez c a annul off => Sys2Proof.Machine.execBgez c a annul off s
  | .jmp c target => Sys2Proof.Machine.execJmp c target s
  | .call c target => Sys2Proof.Machine.execCall c target s
  | .jr c a => Sys2Proof.Machine.execJr c a s
  | .callr c a => Sys2Proof.Machine.execCallr c a s
  | .ret c => Sys2Proof.Machine.execRet c s
  | .wait c p => Sys2Proof.Machine.execWait c p s
  | .fire c p => Sys2Proof.Machine.execFire c p s
  | .evtst c d => Sys2Proof.Machine.execEvtst c d s
  | .ckpt c => Sys2Proof.Machine.execCkpt c s
  | .gate c n => Sys2Proof.Machine.execGate c n s
  | .rets c => Sys2Proof.Machine.execRets c s
  | .rete c => Sys2Proof.Machine.execRete c s
  | .mfs c d sr => Sys2Proof.Machine.execMfs c d sr s
  | .mts c a sr => Sys2Proof.Machine.execMts c a sr s
  | .idle c => Sys2Proof.Machine.execIdle c s
  | .halt c => Sys2Proof.Machine.execHalt c s
  | .mbar c => Sys2Proof.Machine.execMbar c s
  | .lbar c => Sys2Proof.Machine.execLbar c s
  | .userOpcode c op fields => Sys2Proof.Machine.execUserOpcode c op fields s
  | .exceptionEntry c => Sys2Proof.Machine.execExceptionEntry c s
  | .safePointWatchdog c => Sys2Proof.Machine.execSafePointWatchdog c s
  | .parityRecovery c dt set index => Sys2Proof.Machine.execParityRecovery c dt set index s
  | .loadStart r bk v => Sys2Proof.Machine.execLoadStart r bk v s
  | .loadComplete r bk => Sys2Proof.Machine.execLoadComplete r bk s
  | .evFire r v => Sys2Proof.Machine.execEvFire r v s
  | .eventPortArrival c p stamp => Sys2Proof.Machine.execEventPortArrival c p stamp s
  | .chipWideDelivery ch => Sys2Proof.Machine.execChipWideDelivery ch s
  | .generatorPost r => Sys2Proof.Machine.execGeneratorPost r s
  | .icDoorbell r v => Sys2Proof.Machine.execIcDoorbell r v s
  | .icEoi r v => Sys2Proof.Machine.execIcEoi r v s
  | .delivery r => Sys2Proof.Machine.execDelivery r s
  | .recallSlot r ix level => Sys2Proof.Machine.execRecallSlot r ix level s
  | .msixDoorbell v => Sys2Proof.Machine.execMsixDoorbell v s
  | .msixSend vec => Sys2Proof.Machine.execMsixSend vec s
  | .rgSnap r => Sys2Proof.Machine.execRgSnap r s
  | .chSnap => Sys2Proof.Machine.execChSnap s
  | .snapshotEdge regions chip => Sys2Proof.Machine.execSnapshotEdge regions chip s
  | .snapshotComplete regions chip => Sys2Proof.Machine.execSnapshotComplete regions chip s
  | .gtimeStepArm v => Sys2Proof.Machine.execGtimeStepArm v s
  | .gtimeStepApply => Sys2Proof.Machine.execGtimeStepApply s
  | .timedStart r g => Sys2Proof.Machine.execTimedStart r g s
  | .sampleGroupArm r g reg v => Sys2Proof.Machine.execSampleGroupArm r g reg v s
  | .sampleDelivered r n code => Sys2Proof.Machine.execSampleDelivered r n code s
  | .readAccumulatorResult r ch k => Sys2Proof.Machine.execReadAccumulatorResult r ch k s
  | .accumulatorConfigWrite r ch k v => Sys2Proof.Machine.execAccumulatorConfigWrite r ch k v s
  | .accumulatorGo r ch k => Sys2Proof.Machine.execAccumulatorGo r ch k s
  | .trackerGo r ch k => Sys2Proof.Machine.execTrackerGo r ch k s
  | .trackerWindowEnd r ch k => Sys2Proof.Machine.execTrackerWindowEnd r ch k s
  | .trackerConfigWrite r ch k reg v => Sys2Proof.Machine.execTrackerConfigWrite r ch k reg v s
  | .probeWrite r v => Sys2Proof.Machine.execProbeWrite r v s
  | .probeSettled r => Sys2Proof.Machine.execProbeSettled r s
  | .sparePark r => Sys2Proof.Machine.execSparePark r s
  | .calibrationComplete r j inRange => Sys2Proof.Machine.execCalibrationComplete r j inRange s
  | .shadowComplete r j d => Sys2Proof.Machine.execShadowComplete r j d s
  | .shadowTimeout r j => Sys2Proof.Machine.execShadowTimeout r j s
  | .handOver r j => Sys2Proof.Machine.execHandOver r j s
  | .handBack r j => Sys2Proof.Machine.execHandBack r j s
  | .calibrationEnableWrite r v => Sys2Proof.Machine.execCalibrationEnableWrite r v s
  | .initcalComplete r => Sys2Proof.Machine.execInitcalComplete r s
  | .timerStart r n => Sys2Proof.Machine.execTimerStart r n s
  | .timerStop r n => Sys2Proof.Machine.execTimerStop r n s
  | .timerReload r n => Sys2Proof.Machine.execTimerReload r n s
  | .timerForce r n => Sys2Proof.Machine.execTimerForce r n s
  | .counterWrite r n v => Sys2Proof.Machine.execCounterWrite r n v s
  | .groupStart r w v => Sys2Proof.Machine.execGroupStart r w v s
  | .groupStop r w v => Sys2Proof.Machine.execGroupStop r w v s
  | .wrapEdge r n => Sys2Proof.Machine.execWrapEdge r n s
  | .compareMatch r n b => Sys2Proof.Machine.execCompareMatch r n b s
  | .compareWrite r n b v => Sys2Proof.Machine.execCompareWrite r n b v s
  | .deadTimeExpiry r k => Sys2Proof.Machine.execDeadTimeExpiry r k s
  | .tripInputAsserted r ix => Sys2Proof.Machine.execTripInputAsserted r ix s
  | .tripInputDeasserted r ix => Sys2Proof.Machine.execTripInputDeasserted r ix s
  | .pairTrip r k => Sys2Proof.Machine.execPairTrip r k s
  | .pairRearm r k => Sys2Proof.Machine.execPairRearm r k s
  | .deadlineMiss r k => Sys2Proof.Machine.execDeadlineMiss r k s
  | .captureEdge r n rising stamp => Sys2Proof.Machine.execCaptureEdge r n rising stamp s
  | .captureConfigWrite r n v => Sys2Proof.Machine.execCaptureConfigWrite r n v s
  | .captureRead r n => Sys2Proof.Machine.execCaptureRead r n s
  | .sampleBoundary c => Sys2Proof.Machine.execSampleBoundary c s
  | .coefficientWrite c ix v => Sys2Proof.Machine.execCoefficientWrite c ix v s
  | .swap c => Sys2Proof.Machine.execSwap c s
  | .cancel c => Sys2Proof.Machine.execCancel c s
  | .profileStart r p => Sys2Proof.Machine.execProfileStart r p s
  | .profileTick r p => Sys2Proof.Machine.execProfileTick r p s
  | .profileAbort r p => Sys2Proof.Machine.execProfileAbort r p s
  | .profilePosWrite r p hi v => Sys2Proof.Machine.execProfilePosWrite r p hi v s
  | .profilePeriodWrite r p v => Sys2Proof.Machine.execProfilePeriodWrite r p v s
  | .injectionGo r => Sys2Proof.Machine.execInjectionGo r s
  | .injectionStop r => Sys2Proof.Machine.execInjectionStop r s
  | .injectionStep r => Sys2Proof.Machine.execInjectionStep r s
  | .captureEntryWrite r => Sys2Proof.Machine.execCaptureEntryWrite r s
  | .ringReset r => Sys2Proof.Machine.execRingReset r s
  | .feedbackChange r u lines => Sys2Proof.Machine.execFeedbackChange r u lines s
  | .feedbackTimeout r u => Sys2Proof.Machine.execFeedbackTimeout r u s
  | .feedbackPosWrite r u hi v => Sys2Proof.Machine.execFeedbackPosWrite r u hi v s
  | .feedbackCmpWrite r u v => Sys2Proof.Machine.execFeedbackCmpWrite r u v s
  | .feedbackConfigWrite r u v => Sys2Proof.Machine.execFeedbackConfigWrite r u v s
  | .eccRewrite r loc => Sys2Proof.Machine.execEccRewrite r loc s
  | .bankPowerWrite r b host v => Sys2Proof.Machine.execBankPowerWrite r b host v s
  | .bankPowerDone r b => Sys2Proof.Machine.execBankPowerDone r b s
  | .harrowAccess r n => Sys2Proof.Machine.execHarrowAccess r n s
  | .harrowPeriodWrite r v => Sys2Proof.Machine.execHarrowPeriodWrite r v s
  | .marchGo r => Sys2Proof.Machine.execMarchGo r s
  | .marchAbort r => Sys2Proof.Machine.execMarchAbort r s
  | .marchBankComplete r failed element row => Sys2Proof.Machine.execMarchBankComplete r failed element row s
  | .dmaGo r ch => Sys2Proof.Machine.execDmaGo r ch s
  | .dmaAbort r ch => Sys2Proof.Machine.execDmaAbort r ch s
  | .descriptorFetch r ch => Sys2Proof.Machine.execDescriptorFetch r ch s
  | .burstStart r ch => Sys2Proof.Machine.execBurstStart r ch s
  | .burstComplete r ch => Sys2Proof.Machine.execBurstComplete r ch s
  | .descriptorComplete r ch => Sys2Proof.Machine.execDescriptorComplete r ch s
  | .hostRead space addr len => Sys2Proof.Machine.execHostRead space addr len s
  | .hostWrite space addr data => Sys2Proof.Machine.execHostWrite space addr data s
  | .negotiate v => Sys2Proof.Machine.execNegotiate v s
  | .frameReceived p data crcOk stamp => Sys2Proof.Machine.execFrameReceived p data crcOk stamp s
  | .rxDescriptorRetry p => Sys2Proof.Machine.execRxDescriptorRetry p s
  | .kickRx p => Sys2Proof.Machine.execKickRx p s
  | .kickTx p => Sys2Proof.Machine.execKickTx p s
  | .frameLaunch p => Sys2Proof.Machine.execFrameLaunch p s
  | .transmitComplete p stamp => Sys2Proof.Machine.execTransmitComplete p stamp s
  | .portReconfigure p reg v => Sys2Proof.Machine.execPortReconfigure p reg v s
  | .dataFrame p data stamp => Sys2Proof.Machine.execDataFrame p data stamp s
  | .ackFrame p data => Sys2Proof.Machine.execAckFrame p data s
  | .nakFrame p data => Sys2Proof.Machine.execNakFrame p data s
  | .ackSend p => Sys2Proof.Machine.execAckSend p s
  | .retryTimeout p => Sys2Proof.Machine.execRetryTimeout p s
  | .codeError p lane lockLost => Sys2Proof.Machine.execCodeError p lane lockLost s
  | .trainingStart p => Sys2Proof.Machine.execTrainingStart p s
  | .trainingFrameSend p => Sys2Proof.Machine.execTrainingFrameSend p s
  | .trainingFrameReceived p lane usable version majors => Sys2Proof.Machine.execTrainingFrameReceived p lane usable version majors s
  | .trainingTimeout p => Sys2Proof.Machine.execTrainingTimeout p s
  | .trainingRetry p => Sys2Proof.Machine.execTrainingRetry p s
  | .tsend p => Sys2Proof.Machine.execTsend p s
  | .unretire p lanes => Sys2Proof.Machine.execUnretire p lanes s
  | .xesumKick p v => Sys2Proof.Machine.execXesumKick p v s
  | .timedQueuePush r p v => Sys2Proof.Machine.execTimedQueuePush r p v s
  | .timedAction r p => Sys2Proof.Machine.execTimedAction r p s
  | .fieldPinCapture r p rising stamp => Sys2Proof.Machine.execFieldPinCapture r p rising stamp s
  | .fieldPinCapRead r p => Sys2Proof.Machine.execFieldPinCapRead r p s
  | .takeover r bk => Sys2Proof.Machine.execTakeover r bk s
  | .takeoverRestore r bk => Sys2Proof.Machine.execTakeoverRestore r bk s
  | .fallowRelease r bk => Sys2Proof.Machine.execFallowRelease r bk s
  | .bkRetire r bk v => Sys2Proof.Machine.execBkRetire r bk v s
  | .tlSwfault r v => Sys2Proof.Machine.execTlSwfault r v s
  | .faultRecordWrite r => Sys2Proof.Machine.execFaultRecordWrite r s
  | .telemetryRecord r => Sys2Proof.Machine.execTelemetryRecord r s
  | .sweepStart r => Sys2Proof.Machine.execSweepStart r s
  | .sweepComplete r => Sys2Proof.Machine.execSweepComplete r s
  | .checkCalc r => Sys2Proof.Machine.execCheckCalc r s
  | .calcComplete r => Sys2Proof.Machine.execCalcComplete r s
  | .commitReference r => Sys2Proof.Machine.execCommitReference r s
  | .agingMeasure r k v => Sys2Proof.Machine.execAgingMeasure r k v s
  | .lifetimeAccumulate => Sys2Proof.Machine.execLifetimeAccumulate s
  | .lifetimeCommit => Sys2Proof.Machine.execLifetimeCommit s
  | .bootAttempt => Sys2Proof.Machine.execBootAttempt s
  | .hostBootBlock v => Sys2Proof.Machine.execHostBootBlock v s
  | .uartBootBlock data => Sys2Proof.Machine.execUartBootBlock data s
  | .bootSourceTimeout => Sys2Proof.Machine.execBootSourceTimeout s
  | .trial => Sys2Proof.Machine.execTrial s
  | .confirm => Sys2Proof.Machine.execConfirm s
  | .arbadv => Sys2Proof.Machine.execArbadv s
  | .fuseBlown => Sys2Proof.Machine.execFuseBlown s
  | .attest => Sys2Proof.Machine.execAttest s
  | .dbgchal => Sys2Proof.Machine.execDbgchal s
  | .unlock => Sys2Proof.Machine.execUnlock s
  | .provision => Sys2Proof.Machine.execProvision s
  | .revoke => Sys2Proof.Machine.execRevoke s
  | .journalCommit => Sys2Proof.Machine.execJournalCommit s
  | .recordCommitted => Sys2Proof.Machine.execRecordCommitted s
  | .flog => Sys2Proof.Machine.execFlog s
  | .glean => Sys2Proof.Machine.execGlean s
  | .journalReplay => Sys2Proof.Machine.execJournalReplay s
  | .pfwRecognised => Sys2Proof.Machine.execPfwRecognised s
  | .pfwDeassert => Sys2Proof.Machine.execPfwDeassert s
  | .powerOnReset => Sys2Proof.Machine.execPowerOnReset s
  | .brownOut => Sys2Proof.Machine.execBrownOut s
  | .nreset => Sys2Proof.Machine.execNreset s
  | .chipWatchdogExpiry => Sys2Proof.Machine.execChipWatchdogExpiry s
  | .criticalStateError => Sys2Proof.Machine.execCriticalStateError s
  | .chipClockLoss => Sys2Proof.Machine.execChipClockLoss s
  | .rstchip => Sys2Proof.Machine.execRstchip s
  | .softwareChipReset v => Sys2Proof.Machine.execSoftwareChipReset v s
  | .regionWatchdogExpiry r => Sys2Proof.Machine.execRegionWatchdogExpiry r s
  | .watchdogWarning region => Sys2Proof.Machine.execWatchdogWarning region s
  | .watchdogKick region v => Sys2Proof.Machine.execWatchdogKick region v s
  | .rclkLockLoss r => Sys2Proof.Machine.execRclkLockLoss r s
  | .regionReset r => Sys2Proof.Machine.execRegionReset r s
  | .regionHold r hold => Sys2Proof.Machine.execRegionHold r hold s
  | .arbiterParity r bk => Sys2Proof.Machine.execArbiterParity r bk s
  | .blockReset r bk v => Sys2Proof.Machine.execBlockReset r bk v s
  | .cellReset r bk v => Sys2Proof.Machine.execCellReset r bk v s
  | .bkStart r bk v => Sys2Proof.Machine.execBkStart r bk v s
  | .clockGood k => Sys2Proof.Machine.execClockGood k s
  | .chipRelease => Sys2Proof.Machine.execChipRelease s
  | .regionRelease r => Sys2Proof.Machine.execRegionRelease r s
  | .pllWrite r v => Sys2Proof.Machine.execPllWrite r v s
  | .oeCommit r => Sys2Proof.Machine.execOeCommit r s
  | .powerStateEntry r => Sys2Proof.Machine.execPowerStateEntry r s
  | .wake r => Sys2Proof.Machine.execWake r s
  | .l4Return r => Sys2Proof.Machine.execL4Return r s
  | .backupClear => Sys2Proof.Machine.execBackupClear s
  | .vbatLoss => Sys2Proof.Machine.execVbatLoss s
  | .registerWrite region offset v => Sys2Proof.Machine.execRegisterWrite region offset v s
  | .reservedOpcode c w => Sys2Proof.Machine.execReservedOpcode c w s
  | .ethernetLinkChange p link done => Sys2Proof.Machine.execEthernetLinkChange p link done s
  | .pcieLinkChange width speed => Sys2Proof.Machine.execPcieLinkChange width speed s
  | .timeFrameReceived p data stamp => Sys2Proof.Machine.execTimeFrameReceived p data stamp s
  | .vioRailChange r rail good v18 => Sys2Proof.Machine.execVioRailChange r rail good v18 s
  | .fieldPinInputChange r p level => Sys2Proof.Machine.execFieldPinInputChange r p level s
  | .jtagDebugAccess op => Sys2Proof.Machine.execJtagDebugAccess op s

end Sys2Proof.Machine
end

