-- ==== Sys2Proof/Machine/Step.lean ====
section
/-!
DEFINITION. One step: the command at the front of the queue, or one PCLK edge where none waits.
-/

namespace Sys2Proof.Machine

/-- A step takes the command at the front of the queue; an idle step is one PCLK edge. (DESIGN CHOICE, log 1) -/
def step (s : State) : Host.Outcome State Fault Refusal :=
  match s.pending with
  | [] => .next (pclkEdge s)
  | c :: rest => exec c { s with pending := rest }

/-- The table of commands gives no row any bits, so no word spells a command and the queue stays as it is.
(DESIGN CHOICE, log 2) -/
def State.withFetchWord (s : State) (nbits w : Nat) : State :=
  match decodeTableWord nbits w with
  | some c => { s with pending := c :: s.pending }
  | none => s

end Sys2Proof.Machine
end

