-- ==== Sys2Proof/WellFormed.lean ====
section
/-!
DEFINITION. Which commands are well formed: operands that the row of the table can have. Operands whose type already
says so need no check.
-/

namespace Sys2Proof

/-- A register access of the debug port names a word of a register space. -/
def JtagOp.WellFormed : JtagOp → Prop
  | .idcode | .dbgchal | .dbgcert _ | .halt _ | .resume _ | .single _ | .readCell _ _ | .writeCell _ _ _ => True
  | .readReg _ offset => offset < 0x100000 ∧ offset % 4 = 0
  | .writeReg _ offset _ => offset < 0x100000 ∧ offset % 4 = 0

/-- The same as a decision. -/
def JtagOp.wellFormed : JtagOp → Bool
  | .idcode | .dbgchal | .dbgcert _ | .halt _ | .resume _ | .single _ | .readCell _ _ | .writeCell _ _ _ => true
  | .readReg _ offset => decide (offset < 0x100000) && offset % 4 == 0
  | .writeReg _ offset _ => decide (offset < 0x100000) && offset % 4 == 0

/-- What a command of the table can be asked (R64, R336, R354, R413). -/
def Instr.WellFormed : Instr → Prop
  | .nop _ => True
  | .add _ _ _ _ => True
  | .sub _ _ _ _ => True
  | .adds _ _ _ _ => True
  | .subs _ _ _ _ => True
  | .and _ _ _ _ => True
  | .or _ _ _ _ => True
  | .xor _ _ _ _ => True
  | .andn _ _ _ _ => True
  | .sll _ _ _ _ => True
  | .srl _ _ _ _ => True
  | .sra _ _ _ _ => True
  | .ror _ _ _ _ => True
  | .slt _ _ _ _ => True
  | .sltu _ _ _ _ => True
  | .clz _ _ _ => True
  | .popc _ _ _ => True
  | .brev _ _ _ _ => True
  | .par _ _ _ _ => True
  | .sel _ _ _ _ _ => True
  | .cmovz _ _ _ _ => True
  | .cmovnz _ _ _ _ => True
  | .addi _ _ _ _ => True
  | .addsi _ _ _ _ => True
  | .andi _ _ _ _ => True
  | .ori _ _ _ _ => True
  | .xori _ _ _ _ => True
  | .lui _ _ _ => True
  | .slli _ _ _ _ => True
  | .srli _ _ _ _ => True
  | .srai _ _ _ _ => True
  | .rori _ _ _ _ => True
  | .slti _ _ _ _ => True
  | .sltiu _ _ _ _ => True
  | .mul _ _ _ _ => True
  | .mulh _ _ _ _ => True
  | .mulhu _ _ _ _ => True
  | .qmul _ _ _ _ _ => True
  | .mac _ _ _ _ => True
  | .macs _ _ _ _ => True
  | .mtac _ _ _ => True
  | .rdac _ _ _ _ _ => True
  | .div _ _ _ _ => True
  | .divu _ _ _ _ => True
  | .rem _ _ _ _ => True
  | .remu _ _ _ _ => True
  | .sqrt _ _ _ _ => True
  | .mac64 _ _ _ => True
  | .longOpResult _ _ => True
  | .crcs _ _ _ _ => True
  | .crcb _ _ _ _ => True
  | .blkmov _ _ _ _ => True
  | .ldw _ _ _ _ => True
  | .ldh _ _ _ _ => True
  | .ldhu _ _ _ _ => True
  | .ldb _ _ _ _ => True
  | .ldbu _ _ _ _ => True
  | .stw _ _ _ _ => True
  | .sth _ _ _ _ => True
  | .stb _ _ _ _ => True
  | .lda _ _ _ _ => True
  | .swp _ _ _ _ => True
  | .loadReturn _ _ => True
  | .storeBufferDrain _ => True
  | .storeAck _ _ => True
  | .in_ _ _ _ _ => True
  | .out _ _ _ _ => True
  | .outp _ _ _ _ => True
  | .outAck _ _ => True
  | .iwr _ _ _ _ => True
  | .iflush _ => True
  | .beq _ _ _ _ _ => True
  | .bne _ _ _ _ _ => True
  | .blt _ _ _ _ _ => True
  | .bge _ _ _ _ _ => True
  | .bltu _ _ _ _ _ => True
  | .bgeu _ _ _ _ _ => True
  | .beqz _ _ _ _ => True
  | .bnez _ _ _ _ => True
  | .bltz _ _ _ _ => True
  | .bgez _ _ _ _ => True
  | .jmp _ _ => True
  | .call _ _ => True
  | .jr _ _ => True
  | .callr _ _ => True
  | .ret _ => True
  | .wait _ _ => True
  | .fire _ _ => True
  | .evtst _ _ => True
  | .ckpt _ => True
  | .gate _ _ => True
  | .rets _ => True
  | .rete _ => True
  | .mfs _ _ _ => True
  | .mts _ _ _ => True
  | .idle _ => True
  | .halt _ => True
  | .mbar _ => True
  | .lbar _ => True
  | .userOpcode _ _ _ => True
  | .exceptionEntry _ => True
  | .safePointWatchdog _ => True
  | .parityRecovery _ _ _ _ => True
  | .loadStart _ _ _ => True
  | .loadComplete _ _ => True
  | .evFire _ _ => True
  | .eventPortArrival _ _ _ => True
  | .chipWideDelivery _ => True
  | .generatorPost _ => True
  | .icDoorbell _ _ => True
  | .icEoi _ _ => True
  | .delivery _ => True
  | .recallSlot _ _ _ => True
  | .msixDoorbell _ => True
  | .msixSend _ => True
  | .rgSnap _ => True
  | .chSnap => True
  | .snapshotEdge _ _ => True
  | .snapshotComplete _ _ => True
  | .gtimeStepArm _ => True
  | .gtimeStepApply => True
  | .timedStart _ _ => True
  | .sampleGroupArm _ _ _ _ => True
  | .sampleDelivered _ _ _ => True
  | .readAccumulatorResult _ _ _ => True
  | .accumulatorConfigWrite _ _ _ _ => True
  | .accumulatorGo _ _ _ => True
  | .trackerGo _ _ _ => True
  | .trackerWindowEnd _ _ _ => True
  | .trackerConfigWrite _ _ _ _ _ => True
  | .probeWrite _ _ => True
  | .probeSettled _ => True
  | .sparePark _ => True
  | .calibrationComplete _ _ _ => True
  | .shadowComplete _ _ _ => True
  | .shadowTimeout _ _ => True
  | .handOver _ _ => True
  | .handBack _ _ => True
  | .calibrationEnableWrite _ _ => True
  | .initcalComplete _ => True
  | .timerStart _ _ => True
  | .timerStop _ _ => True
  | .timerReload _ _ => True
  | .timerForce _ _ => True
  | .counterWrite _ _ _ => True
  | .groupStart _ _ _ => True
  | .groupStop _ _ _ => True
  | .wrapEdge _ _ => True
  | .compareMatch _ _ _ => True
  | .compareWrite _ _ _ _ => True
  | .deadTimeExpiry _ _ => True
  | .tripInputAsserted _ _ => True
  | .tripInputDeasserted _ _ => True
  | .pairTrip _ _ => True
  | .pairRearm _ _ => True
  | .deadlineMiss _ _ => True
  | .captureEdge _ _ _ _ => True
  | .captureConfigWrite _ _ _ => True
  | .captureRead _ _ => True
  | .sampleBoundary _ => True
  | .coefficientWrite _ _ _ => True
  | .swap _ => True
  | .cancel _ => True
  | .profileStart _ _ => True
  | .profileTick _ _ => True
  | .profileAbort _ _ => True
  | .profilePosWrite _ _ _ _ => True
  | .profilePeriodWrite _ _ _ => True
  | .injectionGo _ => True
  | .injectionStop _ => True
  | .injectionStep _ => True
  | .captureEntryWrite _ => True
  | .ringReset _ => True
  | .feedbackChange _ _ _ => True
  | .feedbackTimeout _ _ => True
  | .feedbackPosWrite _ _ _ _ => True
  | .feedbackCmpWrite _ _ _ => True
  | .feedbackConfigWrite _ _ _ => True
  | .eccRewrite _ _ => True
  | .bankPowerWrite _ _ _ _ => True
  | .bankPowerDone _ _ => True
  | .harrowAccess _ n => n < 360448
  | .harrowPeriodWrite _ _ => True
  | .marchGo _ => True
  | .marchAbort _ => True
  | .marchBankComplete _ _ element _ => element.val < 6
  | .dmaGo _ _ => True
  | .dmaAbort _ _ => True
  | .descriptorFetch _ _ => True
  | .burstStart _ _ => True
  | .burstComplete _ _ => True
  | .descriptorComplete _ _ => True
  | .hostRead _ _ len => 1 ≤ len ∧ len ≤ 512
  | .hostWrite _ _ data => 1 ≤ data.length ∧ data.length ≤ 256
  | .negotiate _ => True
  | .frameReceived _ _ _ _ => True
  | .rxDescriptorRetry _ => True
  | .kickRx _ => True
  | .kickTx _ => True
  | .frameLaunch _ => True
  | .transmitComplete _ _ => True
  | .portReconfigure _ _ _ => True
  | .dataFrame _ _ _ => True
  | .ackFrame _ _ => True
  | .nakFrame _ _ => True
  | .ackSend _ => True
  | .retryTimeout _ => True
  | .codeError _ _ _ => True
  | .trainingStart _ => True
  | .trainingFrameSend _ => True
  | .trainingFrameReceived _ _ _ _ _ => True
  | .trainingTimeout _ => True
  | .trainingRetry _ => True
  | .tsend _ => True
  | .unretire _ _ => True
  | .xesumKick _ _ => True
  | .timedQueuePush _ _ _ => True
  | .timedAction _ _ => True
  | .fieldPinCapture _ _ _ _ => True
  | .fieldPinCapRead _ _ => True
  | .takeover _ _ => True
  | .takeoverRestore _ _ => True
  | .fallowRelease _ _ => True
  | .bkRetire _ _ _ => True
  | .tlSwfault _ _ => True
  | .faultRecordWrite _ => True
  | .telemetryRecord _ => True
  | .sweepStart _ => True
  | .sweepComplete _ => True
  | .checkCalc _ => True
  | .calcComplete _ => True
  | .commitReference _ => True
  | .agingMeasure _ _ _ => True
  | .lifetimeAccumulate => True
  | .lifetimeCommit => True
  | .bootAttempt => True
  | .hostBootBlock _ => True
  | .uartBootBlock data => 5 ≤ data.length ∧ data.length ≤ 1028
  | .bootSourceTimeout => True
  | .trial => True
  | .confirm => True
  | .arbadv => True
  | .fuseBlown => True
  | .attest => True
  | .dbgchal => True
  | .unlock => True
  | .provision => True
  | .revoke => True
  | .journalCommit => True
  | .recordCommitted => True
  | .flog => True
  | .glean => True
  | .journalReplay => True
  | .pfwRecognised => True
  | .pfwDeassert => True
  | .powerOnReset => True
  | .brownOut => True
  | .nreset => True
  | .chipWatchdogExpiry => True
  | .criticalStateError => True
  | .chipClockLoss => True
  | .rstchip => True
  | .softwareChipReset _ => True
  | .regionWatchdogExpiry _ => True
  | .watchdogWarning _ => True
  | .watchdogKick _ _ => True
  | .rclkLockLoss _ => True
  | .regionReset _ => True
  | .regionHold _ _ => True
  | .arbiterParity _ _ => True
  | .blockReset _ _ _ => True
  | .cellReset _ _ _ => True
  | .bkStart _ _ _ => True
  | .clockGood _ => True
  | .chipRelease => True
  | .regionRelease _ => True
  | .pllWrite _ _ => True
  | .oeCommit _ => True
  | .powerStateEntry _ => True
  | .wake _ => True
  | .l4Return _ => True
  | .backupClear => True
  | .vbatLoss => True
  | .registerWrite _ offset _ => offset < 0x100000 ∧ offset % 4 = 0
  | .reservedOpcode _ w => opReserved (w.toNat / 2 ^ 24) = true
  | .ethernetLinkChange _ _ _ => True
  | .pcieLinkChange _ _ => True
  | .timeFrameReceived _ _ _ => True
  | .vioRailChange _ _ _ _ => True
  | .fieldPinInputChange _ _ _ => True
  | .jtagDebugAccess op => op.WellFormed

/-- The same as a decision. -/
def Instr.wellFormed : Instr → Bool
  | .nop _ => true
  | .add _ _ _ _ => true
  | .sub _ _ _ _ => true
  | .adds _ _ _ _ => true
  | .subs _ _ _ _ => true
  | .and _ _ _ _ => true
  | .or _ _ _ _ => true
  | .xor _ _ _ _ => true
  | .andn _ _ _ _ => true
  | .sll _ _ _ _ => true
  | .srl _ _ _ _ => true
  | .sra _ _ _ _ => true
  | .ror _ _ _ _ => true
  | .slt _ _ _ _ => true
  | .sltu _ _ _ _ => true
  | .clz _ _ _ => true
  | .popc _ _ _ => true
  | .brev _ _ _ _ => true
  | .par _ _ _ _ => true
  | .sel _ _ _ _ _ => true
  | .cmovz _ _ _ _ => true
  | .cmovnz _ _ _ _ => true
  | .addi _ _ _ _ => true
  | .addsi _ _ _ _ => true
  | .andi _ _ _ _ => true
  | .ori _ _ _ _ => true
  | .xori _ _ _ _ => true
  | .lui _ _ _ => true
  | .slli _ _ _ _ => true
  | .srli _ _ _ _ => true
  | .srai _ _ _ _ => true
  | .rori _ _ _ _ => true
  | .slti _ _ _ _ => true
  | .sltiu _ _ _ _ => true
  | .mul _ _ _ _ => true
  | .mulh _ _ _ _ => true
  | .mulhu _ _ _ _ => true
  | .qmul _ _ _ _ _ => true
  | .mac _ _ _ _ => true
  | .macs _ _ _ _ => true
  | .mtac _ _ _ => true
  | .rdac _ _ _ _ _ => true
  | .div _ _ _ _ => true
  | .divu _ _ _ _ => true
  | .rem _ _ _ _ => true
  | .remu _ _ _ _ => true
  | .sqrt _ _ _ _ => true
  | .mac64 _ _ _ => true
  | .longOpResult _ _ => true
  | .crcs _ _ _ _ => true
  | .crcb _ _ _ _ => true
  | .blkmov _ _ _ _ => true
  | .ldw _ _ _ _ => true
  | .ldh _ _ _ _ => true
  | .ldhu _ _ _ _ => true
  | .ldb _ _ _ _ => true
  | .ldbu _ _ _ _ => true
  | .stw _ _ _ _ => true
  | .sth _ _ _ _ => true
  | .stb _ _ _ _ => true
  | .lda _ _ _ _ => true
  | .swp _ _ _ _ => true
  | .loadReturn _ _ => true
  | .storeBufferDrain _ => true
  | .storeAck _ _ => true
  | .in_ _ _ _ _ => true
  | .out _ _ _ _ => true
  | .outp _ _ _ _ => true
  | .outAck _ _ => true
  | .iwr _ _ _ _ => true
  | .iflush _ => true
  | .beq _ _ _ _ _ => true
  | .bne _ _ _ _ _ => true
  | .blt _ _ _ _ _ => true
  | .bge _ _ _ _ _ => true
  | .bltu _ _ _ _ _ => true
  | .bgeu _ _ _ _ _ => true
  | .beqz _ _ _ _ => true
  | .bnez _ _ _ _ => true
  | .bltz _ _ _ _ => true
  | .bgez _ _ _ _ => true
  | .jmp _ _ => true
  | .call _ _ => true
  | .jr _ _ => true
  | .callr _ _ => true
  | .ret _ => true
  | .wait _ _ => true
  | .fire _ _ => true
  | .evtst _ _ => true
  | .ckpt _ => true
  | .gate _ _ => true
  | .rets _ => true
  | .rete _ => true
  | .mfs _ _ _ => true
  | .mts _ _ _ => true
  | .idle _ => true
  | .halt _ => true
  | .mbar _ => true
  | .lbar _ => true
  | .userOpcode _ _ _ => true
  | .exceptionEntry _ => true
  | .safePointWatchdog _ => true
  | .parityRecovery _ _ _ _ => true
  | .loadStart _ _ _ => true
  | .loadComplete _ _ => true
  | .evFire _ _ => true
  | .eventPortArrival _ _ _ => true
  | .chipWideDelivery _ => true
  | .generatorPost _ => true
  | .icDoorbell _ _ => true
  | .icEoi _ _ => true
  | .delivery _ => true
  | .recallSlot _ _ _ => true
  | .msixDoorbell _ => true
  | .msixSend _ => true
  | .rgSnap _ => true
  | .chSnap => true
  | .snapshotEdge _ _ => true
  | .snapshotComplete _ _ => true
  | .gtimeStepArm _ => true
  | .gtimeStepApply => true
  | .timedStart _ _ => true
  | .sampleGroupArm _ _ _ _ => true
  | .sampleDelivered _ _ _ => true
  | .readAccumulatorResult _ _ _ => true
  | .accumulatorConfigWrite _ _ _ _ => true
  | .accumulatorGo _ _ _ => true
  | .trackerGo _ _ _ => true
  | .trackerWindowEnd _ _ _ => true
  | .trackerConfigWrite _ _ _ _ _ => true
  | .probeWrite _ _ => true
  | .probeSettled _ => true
  | .sparePark _ => true
  | .calibrationComplete _ _ _ => true
  | .shadowComplete _ _ _ => true
  | .shadowTimeout _ _ => true
  | .handOver _ _ => true
  | .handBack _ _ => true
  | .calibrationEnableWrite _ _ => true
  | .initcalComplete _ => true
  | .timerStart _ _ => true
  | .timerStop _ _ => true
  | .timerReload _ _ => true
  | .timerForce _ _ => true
  | .counterWrite _ _ _ => true
  | .groupStart _ _ _ => true
  | .groupStop _ _ _ => true
  | .wrapEdge _ _ => true
  | .compareMatch _ _ _ => true
  | .compareWrite _ _ _ _ => true
  | .deadTimeExpiry _ _ => true
  | .tripInputAsserted _ _ => true
  | .tripInputDeasserted _ _ => true
  | .pairTrip _ _ => true
  | .pairRearm _ _ => true
  | .deadlineMiss _ _ => true
  | .captureEdge _ _ _ _ => true
  | .captureConfigWrite _ _ _ => true
  | .captureRead _ _ => true
  | .sampleBoundary _ => true
  | .coefficientWrite _ _ _ => true
  | .swap _ => true
  | .cancel _ => true
  | .profileStart _ _ => true
  | .profileTick _ _ => true
  | .profileAbort _ _ => true
  | .profilePosWrite _ _ _ _ => true
  | .profilePeriodWrite _ _ _ => true
  | .injectionGo _ => true
  | .injectionStop _ => true
  | .injectionStep _ => true
  | .captureEntryWrite _ => true
  | .ringReset _ => true
  | .feedbackChange _ _ _ => true
  | .feedbackTimeout _ _ => true
  | .feedbackPosWrite _ _ _ _ => true
  | .feedbackCmpWrite _ _ _ => true
  | .feedbackConfigWrite _ _ _ => true
  | .eccRewrite _ _ => true
  | .bankPowerWrite _ _ _ _ => true
  | .bankPowerDone _ _ => true
  | .harrowAccess _ n => decide (n < 360448)
  | .harrowPeriodWrite _ _ => true
  | .marchGo _ => true
  | .marchAbort _ => true
  | .marchBankComplete _ _ element _ => decide (element.val < 6)
  | .dmaGo _ _ => true
  | .dmaAbort _ _ => true
  | .descriptorFetch _ _ => true
  | .burstStart _ _ => true
  | .burstComplete _ _ => true
  | .descriptorComplete _ _ => true
  | .hostRead _ _ len => decide (1 ≤ len) && decide (len ≤ 512)
  | .hostWrite _ _ data => decide (1 ≤ data.length) && decide (data.length ≤ 256)
  | .negotiate _ => true
  | .frameReceived _ _ _ _ => true
  | .rxDescriptorRetry _ => true
  | .kickRx _ => true
  | .kickTx _ => true
  | .frameLaunch _ => true
  | .transmitComplete _ _ => true
  | .portReconfigure _ _ _ => true
  | .dataFrame _ _ _ => true
  | .ackFrame _ _ => true
  | .nakFrame _ _ => true
  | .ackSend _ => true
  | .retryTimeout _ => true
  | .codeError _ _ _ => true
  | .trainingStart _ => true
  | .trainingFrameSend _ => true
  | .trainingFrameReceived _ _ _ _ _ => true
  | .trainingTimeout _ => true
  | .trainingRetry _ => true
  | .tsend _ => true
  | .unretire _ _ => true
  | .xesumKick _ _ => true
  | .timedQueuePush _ _ _ => true
  | .timedAction _ _ => true
  | .fieldPinCapture _ _ _ _ => true
  | .fieldPinCapRead _ _ => true
  | .takeover _ _ => true
  | .takeoverRestore _ _ => true
  | .fallowRelease _ _ => true
  | .bkRetire _ _ _ => true
  | .tlSwfault _ _ => true
  | .faultRecordWrite _ => true
  | .telemetryRecord _ => true
  | .sweepStart _ => true
  | .sweepComplete _ => true
  | .checkCalc _ => true
  | .calcComplete _ => true
  | .commitReference _ => true
  | .agingMeasure _ _ _ => true
  | .lifetimeAccumulate => true
  | .lifetimeCommit => true
  | .bootAttempt => true
  | .hostBootBlock _ => true
  | .uartBootBlock data => decide (5 ≤ data.length) && decide (data.length ≤ 1028)
  | .bootSourceTimeout => true
  | .trial => true
  | .confirm => true
  | .arbadv => true
  | .fuseBlown => true
  | .attest => true
  | .dbgchal => true
  | .unlock => true
  | .provision => true
  | .revoke => true
  | .journalCommit => true
  | .recordCommitted => true
  | .flog => true
  | .glean => true
  | .journalReplay => true
  | .pfwRecognised => true
  | .pfwDeassert => true
  | .powerOnReset => true
  | .brownOut => true
  | .nreset => true
  | .chipWatchdogExpiry => true
  | .criticalStateError => true
  | .chipClockLoss => true
  | .rstchip => true
  | .softwareChipReset _ => true
  | .regionWatchdogExpiry _ => true
  | .watchdogWarning _ => true
  | .watchdogKick _ _ => true
  | .rclkLockLoss _ => true
  | .regionReset _ => true
  | .regionHold _ _ => true
  | .arbiterParity _ _ => true
  | .blockReset _ _ _ => true
  | .cellReset _ _ _ => true
  | .bkStart _ _ _ => true
  | .clockGood _ => true
  | .chipRelease => true
  | .regionRelease _ => true
  | .pllWrite _ _ => true
  | .oeCommit _ => true
  | .powerStateEntry _ => true
  | .wake _ => true
  | .l4Return _ => true
  | .backupClear => true
  | .vbatLoss => true
  | .registerWrite _ offset _ => decide (offset < 0x100000) && offset % 4 == 0
  | .reservedOpcode _ w => opReserved (w.toNat / 2 ^ 24)
  | .ethernetLinkChange _ _ _ => true
  | .pcieLinkChange _ _ => true
  | .timeFrameReceived _ _ _ => true
  | .vioRailChange _ _ _ _ => true
  | .fieldPinInputChange _ _ _ => true
  | .jtagDebugAccess op => op.wellFormed

end Sys2Proof
end

