-- ==== Sys2Proof/Safety.lean ====
section
/-!
DEFINITION. What counts as a safe run, and the terms in which claims about commands are stated: how a command completes,
when a unit is ready for it, and what it leaves alone.
-/

namespace Sys2Proof.Machine

/-! ## Completion -/

/-- The command completes, in a next state that satisfies `P`. -/
def Completes (i : Instr) (s : State) (P : State → Prop) : Prop := ∃ t, exec i s = .next t ∧ P t

/-- The command is answered by a next state. -/
def Runs (i : Instr) (s : State) : Prop := Completes i s (fun _ => True)

/-! ## What a command leaves alone -/

/-- Nothing outside region `r` differs. -/
def OnlyRegion (r : Nat) (s t : State) : Prop :=
  t = { s with regions := t.regions } ∧ ∀ q, q ≠ r → t.region q = s.region q

/-- Nothing outside cell `c` differs. -/
def OnlyCell (c : Nat) (s t : State) : Prop :=
  OnlyRegion (c / 128) s t ∧ t.region (c / 128) = { s.region (c / 128) with cells := (t.region (c / 128)).cells }
    ∧ ∀ i, i ≠ c % 128 → (t.region (c / 128)).cell i = (s.region (c / 128)).cell i

/-- Nothing but the chip level differs. -/
def OnlyChip (s t : State) : Prop := t = { s with chip := t.chip }

/-- Every register of a region but those of a list reads as before. -/
def RegsBut (l : List Nat) (R R' : Region) : Prop := ∀ a, a ∉ l → R'.reg a = R.reg a

/-- Every chip register but those of a list reads as before. -/
def ChipRegsBut (l : List Nat) (h h' : Chip) : Prop := ∀ a, a ∉ l → h'.reg a = h.reg a

/-- What a command leaves alone that changes, in region `r`, the registers `l` and what `but` blanks out: everything
outside the region, and all else in it. -/
structure RegionBut (but : Region → Region) (l : List Nat) (r : Nat) (s t : State) : Prop where
  only : OnlyRegion r s t
  rest : but { t.region r with regs := [] } = but { s.region r with regs := [] }
  regs : RegsBut l (s.region r) (t.region r)

/-- A command that changes nothing but registers `l` of region `r`. -/
abbrev RegionRegs (l : List Nat) (r : Nat) (s t : State) : Prop := RegionBut id l r s t

/-- What a command leaves alone that changes, at the chip level, the registers `l` and what `but` blanks out. -/
structure ChipBut (but : Chip → Chip) (l : List Nat) (s t : State) : Prop where
  only : OnlyChip s t
  rest : but { t.chip with regs := [] } = but { s.chip with regs := [] }
  regs : ChipRegsBut l s.chip t.chip

/-- A command that changes nothing but chip registers `l`. -/
abbrev ChipRegs (l : List Nat) (s t : State) : Prop := ChipBut id l s t

/-! ## Regions -/

/-- Region `r` is out of reset and in L0 (R7, R460). -/
def Live (r : Nat) (s : State) : Prop := (s.region r).inReset = false ∧ pmState (s.region r) = 0

/-- Region `r` is live; no word of its memories holds a check-bit error, and none that was found waits for its second
sight (R330); regions are listed in canonical form. -/
def Steady (r : Nat) (s : State) : Prop :=
  Live r s ∧ ((s.region r).banks.ecc = [] ∧ (s.region r).banks.dbeFresh = true)
    ∧ mapWf (fun _ => regionInit) s.regions = true

/-! ## Cells -/

/-- The part of a cell that only instructions with an effect beyond registers, ACC and PC change: what an instruction
of the plain kind, and the counting of its retirement, may change is left out. -/
def Cell.fixed (k : Cell) : Cell :=
  { k with gpr := [], acc := 0, pc := 0, io := [], pred := [], slot := none, halted := false, stepping := false }

/-- The performance counters that retirement counts in (R128). -/
def retireCounters : List Nat := [Reg.PFRET_L.base, Reg.PFRET_H.base, Reg.PFBRTKN.base, Reg.PFBRMIS.base]

/-- Every cell register but those of a list, and but the retirement counters, reads as before. -/
def IoBut (l : List Nat) (k k' : Cell) : Prop := ∀ a, a ∉ retireCounters → a ∉ l → k'.ioReg a = k.ioReg a

/-- Every general register reads as before, but `d`, which reads `v`; g0 reads zero (R52). -/
def Writes (d : RegNo) (v : Word) (k k' : Cell) : Prop := ∀ q, k'.g q = if q = d ∧ q ≠ 0 then v else k.g q

/-- Every general register reads as before. -/
def SameRegs (k k' : Cell) : Prop := ∀ q, k'.g q = k.g q

/-- Execution goes on behind the instruction: at PC + 4, or at the target of the branch in whose delay slot it stands
(R61, R85). -/
def Follows (k k' : Cell) : Prop :=
  k'.pc = (match k.slot with | none => k.pc + 4 | some b => b.target) ∧ k'.slot = none

/-- What an instruction leaves alone that changes, in its cell, general registers, ACC, the cell registers `l` and what
`but` blanks out: everything outside cell `c`, and all else in it apart from PC, the retirement counters and the
predictor. Execution goes on behind it, and a cell that does not single-step does not halt. -/
structure PlainBut (but : Cell → Cell) (l : List Nat) (c : Nat) (s t : State) : Prop where
  only : OnlyCell c s t
  fixed : (but (t.cell c)).fixed = (but (s.cell c)).fixed
  io : IoBut l (s.cell c) (t.cell c)
  next : Follows (s.cell c) (t.cell c)
  goesOn : (s.cell c).stepping = false → (t.cell c).halted = (s.cell c).halted

/-- An instruction that changes nothing but general registers and ACC. -/
abbrev Plain (c : Nat) (s t : State) : Prop := PlainBut id [] c s t

/-- The banks that hold `n` bytes from a place are in service, and region `r` is steady. -/
def Served (r : Nat) (p : Place) (n : Nat) (s : State) : Prop :=
  Steady r s ∧ placeInReset p (s.region r) = false ∧ ∀ b ∈ placeBanks p n, bankServes b (s.region r) = true

/-- The byte at a place. -/
def byteAt (p : Place) (R : Region) : Byte := (rawRead p 1 R).headD 0

/-- The place lies in its memory. -/
def Place.inside (p : Place) : Prop :=
  match p with
  | .rmem o => o < 0x100000
  | .bmem b o => b < 8 ∧ o < 0x10000
  | .dmem i o => i < 128 ∧ o < 0x2000
  | .imem i o => i < 128 ∧ o < 0x2000

/-- Region memory after a store of bytes at a place: they stand there, and every other byte of the region's memories is
as before. -/
def Stored (p : Place) (bs : List Byte) (R R' : Region) : Prop :=
  (∀ j, j < bs.length → byteAt (p.plus j) R' = bs.getD j 0)
    ∧ ∀ q : Place, q.inside → (∀ j, j < bs.length → q ≠ p.plus j) → byteAt q R' = byteAt q R

/-- Cell `c` is ready to execute a base instruction that uses `regs`, and ACC where `acc`: it runs, holds in nothing and
has no routine in progress; no interrupt is admitted; the instruction may stand where it stands; its dispatch entry is
valid with even parity; none of its registers is pending or holds an imprecise fault; its region is steady. -/
structure Ready (c : CellId) (op : Nat) (regs : List RegNo) (acc : Bool) (s : State) : Prop where
  steady : Steady (c.val / 128) s
  runs : canExecute (s.cell c.val) = true
  quiet : admittedAt c.val s = none
  place : (s.cell c.val).slot = none ∨ slotForbidden op = false
  parity : dispParityOk ((s.cell c.val).dispatch 0 op) = true
  valid : dispValid ((s.cell c.val).dispatch 0 op) = true
  noFault : (s.cell c.val).oldestImp (impUse regs acc) = none
  regsFree : regs.any (s.cell c.val).regPending = false
  accFree : (acc && (s.cell c.val).accPending) = false

end Sys2Proof.Machine
end

