-- ==== Sys2Proof/Certificates/Slice0/Obligations.lean ====
section
/-!
DEFINITION. The statements for the provers, with the tables and terms in which they are written.
-/

section

open Sys2Proof Sys2Proof.Machine

/-! ## Arithmetic instructions -/

namespace Sys2Proof.Machine

/-- A register instruction as its table row gives it: the cell, the opcode, the registers it uses, whether it uses ACC,
the register it writes and the value written. -/
structure RegForm where
  c : CellId
  op : Nat
  uses : List RegNo
  acc : Bool
  d : RegNo
  value : Cell → Word

/-- A value clamped to the signed range of `n` bits. -/
def clampTo (n : Nat) (x : Int) : Int := max (-(2 ^ (n - 1))) (min (2 ^ (n - 1) - 1) x)

/-- Number of 1 bits among the `n` bits from bit `lo`. -/
def onesFrom (x : Word) (lo n : Nat) : Nat := ((List.range n).map (fun i => (x.getLsbD (lo + i)).toNat)).sum

/-- One where a condition holds, else zero. -/
def flagWord (p : Prop) [Decidable p] : Word := if p then 1 else 0

/-- The register operations of R66. -/
def registerOperation : Instr → Option RegForm
  | .nop c => some ⟨c, 0x01, [], false, 0, fun _ => 0⟩
  | .add c d a b => some ⟨c, 0x02, [d, a, b], false, d, fun k => k.g a + k.g b⟩
  | .sub c d a b => some ⟨c, 0x03, [d, a, b], false, d, fun k => k.g a - k.g b⟩
  | .adds c d a b => some ⟨c, 0x04, [d, a, b], false, d, fun k =>
      BitVec.ofInt 32 (clampTo 32 ((k.g a).toInt + (k.g b).toInt))⟩
  | .subs c d a b => some ⟨c, 0x05, [d, a, b], false, d, fun k =>
      BitVec.ofInt 32 (clampTo 32 ((k.g a).toInt - (k.g b).toInt))⟩
  | .and c d a b => some ⟨c, 0x06, [d, a, b], false, d, fun k => k.g a &&& k.g b⟩
  | .or c d a b => some ⟨c, 0x07, [d, a, b], false, d, fun k => k.g a ||| k.g b⟩
  | .xor c d a b => some ⟨c, 0x08, [d, a, b], false, d, fun k => k.g a ^^^ k.g b⟩
  | .andn c d a b => some ⟨c, 0x09, [d, a, b], false, d, fun k => k.g a &&& ~~~ k.g b⟩
  | .sll c d a b => some ⟨c, 0x0A, [d, a, b], false, d, fun k =>
      BitVec.ofNat 32 ((k.g a).toNat * 2 ^ ((k.g b).toNat % 32))⟩
  | .srl c d a b => some ⟨c, 0x0B, [d, a, b], false, d, fun k =>
      BitVec.ofNat 32 ((k.g a).toNat / 2 ^ ((k.g b).toNat % 32))⟩
  | .sra c d a b => some ⟨c, 0x0C, [d, a, b], false, d, fun k =>
      BitVec.ofInt 32 ((k.g a).toInt / 2 ^ ((k.g b).toNat % 32))⟩
  | .ror c d a b => some ⟨c, 0x0D, [d, a, b], false, d, fun k => (k.g a).rotateRight ((k.g b).toNat % 32)⟩
  | .slt c d a b => some ⟨c, 0x0E, [d, a, b], false, d, fun k => flagWord ((k.g a).toInt < (k.g b).toInt)⟩
  | .sltu c d a b => some ⟨c, 0x0F, [d, a, b], false, d, fun k => flagWord ((k.g a).toNat < (k.g b).toNat)⟩
  | .clz c d a => some ⟨c, 0x18, [d, a], false, d,
      fun k => if k.g a = 0 then 32 else BitVec.ofNat 32 (31 - (k.g a).toNat.log2)⟩
  | .popc c d a => some ⟨c, 0x19, [d, a], false, d, fun k => BitVec.ofNat 32 (onesFrom (k.g a) 0 32)⟩
  | .brev c d a lanes =>
    (match lanes.val with
    | 0 => some ⟨c, 0x1A, [d, a], false, d, fun k => (k.g a).reverse⟩
    | 1 => some ⟨c, 0x1A, [d, a], false, d, fun k =>
        (((k.g a).extractLsb' 16 16).reverse ++ ((k.g a).extractLsb' 0 16).reverse : BitVec 32)⟩
    | 2 => some ⟨c, 0x1A, [d, a], false, d, fun k =>
        (((k.g a).extractLsb' 24 8).reverse ++ ((k.g a).extractLsb' 16 8).reverse ++ ((k.g a).extractLsb' 8 8).reverse
          ++ ((k.g a).extractLsb' 0 8).reverse : BitVec 32)⟩
    | _ => none)
  | .par c d a bytes => some ⟨c, 0x1B, [d, a], false, d, fun k =>
      if bytes then BitVec.ofNat 32 (((List.range 4).map (fun j => onesFrom (k.g a) (8 * j) 8 % 2 * 2 ^ j)).sum)
      else BitVec.ofNat 32 (onesFrom (k.g a) 0 32 % 2)⟩
  | .sel c d a b cc => some ⟨c, 0x1D, [d, a, b, cc], false, d, fun k => if k.g cc ≠ 0 then k.g a else k.g b⟩
  | .cmovz c d a b => some ⟨c, 0x1E, [d, a, b], false, d, fun k => if k.g b = 0 then k.g a else k.g d⟩
  | .cmovnz c d a b => some ⟨c, 0x1F, [d, a, b], false, d, fun k => if k.g b ≠ 0 then k.g a else k.g d⟩
  | _ => none

/-- The immediate operations of R67, with IFLUSH of R81, which changes no register. -/
def immediateOperation : Instr → Option RegForm
  | .addi c d a imm => some ⟨c, 0x20, [d, a], false, d, fun k => k.g a + imm.signExtend 32⟩
  | .addsi c d a imm => some ⟨c, 0x21, [d, a], false, d, fun k =>
      BitVec.ofInt 32 (clampTo 32 ((k.g a).toInt + imm.toInt))⟩
  | .andi c d a imm => some ⟨c, 0x22, [d, a], false, d, fun k => k.g a &&& imm.zeroExtend 32⟩
  | .ori c d a imm => some ⟨c, 0x23, [d, a], false, d, fun k => k.g a ||| imm.zeroExtend 32⟩
  | .xori c d a imm => some ⟨c, 0x24, [d, a], false, d, fun k => k.g a ^^^ imm.zeroExtend 32⟩
  | .lui c d imm => some ⟨c, 0x25, [d], false, d, fun _ => (imm ++ (0 : BitVec 16) : BitVec 32)⟩
  | .slli c d a imm => some ⟨c, 0x26, [d, a], false, d, fun k => BitVec.ofNat 32 ((k.g a).toNat * 2 ^ (imm.toNat % 32))⟩
  | .srli c d a imm => some ⟨c, 0x27, [d, a], false, d, fun k => BitVec.ofNat 32 ((k.g a).toNat / 2 ^ (imm.toNat % 32))⟩
  | .srai c d a imm => some ⟨c, 0x28, [d, a], false, d, fun k => BitVec.ofInt 32 ((k.g a).toInt / 2 ^ (imm.toNat % 32))⟩
  | .rori c d a imm => some ⟨c, 0x29, [d, a], false, d, fun k => (k.g a).rotateRight (imm.toNat % 32)⟩
  | .slti c d a imm => some ⟨c, 0x2A, [d, a], false, d, fun k => flagWord ((k.g a).toInt < imm.toInt)⟩
  | .sltiu c d a imm => some ⟨c, 0x2B, [d, a], false, d, fun k => flagWord ((k.g a).toNat < imm.toNat)⟩
  | .iflush c => some ⟨c, 0x55, [], false, 0, fun _ => 0⟩
  | _ => none

/-- The operations of R69 and R73 that write a general register. -/
def productOperation : Instr → Option RegForm
  | .mul c d a b => some ⟨c, 0x10, [d, a, b], false, d, fun k => BitVec.ofNat 32 ((k.g a).toNat * (k.g b).toNat)⟩
  | .mulh c d a b => some ⟨c, 0x11, [d, a, b], false, d, fun k =>
      BitVec.ofInt 32 ((k.g a).toInt * (k.g b).toInt / 2 ^ 32)⟩
  | .mulhu c d a b => some ⟨c, 0x12, [d, a, b], false, d, fun k =>
      BitVec.ofNat 32 ((k.g a).toNat * (k.g b).toNat / 2 ^ 32)⟩
  | .qmul c d a b rnd => some ⟨c, 0x13, [d, a, b], false, d, fun k =>
      BitVec.ofInt 32 (clampTo 32 (((k.g a).toInt * (k.g b).toInt + if rnd then 2 ^ 30 else 0) / 2 ^ 31))⟩
  | .rdac c d sh trunc rnd => some ⟨c, 0x17, [d], true, d, fun k =>
      let v := (k.acc.toInt + if rnd ∧ 0 < sh.val then 2 ^ (sh.val - 1) else 0) / 2 ^ sh.val
      BitVec.ofInt 32 (if trunc then v else clampTo 32 v)⟩
  | .crcs c d a n =>
    if n.val = 3 then none else some ⟨c, 0x1C, [d, a], false, d, fun k => crcOn k (8 * 2 ^ n.val) (k.g d) (k.g a)⟩
  | _ => none

/-- The operations of R69 that write ACC: the cell, the opcode, the registers used, and the value of ACC. -/
def accOperation : Instr → Option (CellId × Nat × List RegNo × (Cell → BitVec 64))
  | .mac c a b sub => some (c, 0x14, [a, b], fun k =>
      let p := (k.g a).toInt * (k.g b).toInt
      BitVec.ofInt 64 (k.acc.toInt + if sub then -p else p))
  | .macs c a b sub => some (c, 0x15, [a, b], fun k =>
      let p := (k.g a).toInt * (k.g b).toInt
      BitVec.ofInt 64 (clampTo 64 (k.acc.toInt + if sub then -p else p)))
  | .mtac c a b => some (c, 0x16, [a, b], fun k => (k.g a ++ k.g b : BitVec 64))
  | _ => none

/-- What a table of register instructions says: each completes on a ready cell and writes its value to its destination
(nothing, where that is g0); every other register, ACC, every cell register but the retirement counters, memory and all
outside the cell are as before. -/
def TableHolds (table : Instr → Option RegForm) : Prop :=
  ∀ (i : Instr) (f : RegForm) (s : State), table i = some f → Ready f.c f.op f.uses f.acc s →
    Completes i s (fun t => Plain f.c s t ∧ (t.cell f.c).acc = (s.cell f.c).acc
      ∧ Writes f.d (f.value (s.cell f.c)) (s.cell f.c) (t.cell f.c))

end Sys2Proof.Machine

/-- R66: the register operations.

R67: the immediate operations; R81: IFLUSH.

R69, R73: products, RDAC and CRC steps.

R69: MAC, MACS and MTAC write ACC and no general register.
Choices of the model: that the command gives the instruction (log 10). -/
def Obligations.ArithmeticOperations : Prop :=
  (TableHolds registerOperation)
  ∧ (TableHolds immediateOperation)
  ∧ (TableHolds productOperation)
  ∧ (∀ (i : Instr) (c : CellId) (op : Nat) (uses : List RegNo) (value : Cell → BitVec 64) (s : State),
      accOperation i = some (c, op, uses, value) → Ready c op uses true s →
      Completes i s (fun t => Plain c s t ∧ SameRegs (s.cell c) (t.cell c) ∧ (t.cell c).acc = value (s.cell c)))

namespace Sys2Proof.Machine

/-- A root `r` is the floor of the square root of `n`. -/
def IsRoot (n r : Nat) : Prop := r * r ≤ n ∧ n < (r + 1) * (r + 1)

/-- The result and fault DETAIL of a long operation on register values (R70, R71). -/
def longSays (i : Instr) (x y : Word) (v : Word) (fault : Option Nat) : Prop :=
  match i with
  | .div _ _ _ _ =>
    if y = 0 then v = (if 0 ≤ x.toInt then 0x7FFFFFFF else 0x80000000) ∧ fault = some 0
    else if x = 0x80000000 ∧ y = 0xFFFFFFFF then v = 0x7FFFFFFF ∧ fault = none
    else v = BitVec.ofInt 32 (x.toInt.tdiv y.toInt) ∧ fault = none
  | .divu _ _ _ _ =>
    if y = 0 then v = 0xFFFFFFFF ∧ fault = some 0 else v.toNat = x.toNat / y.toNat ∧ fault = none
  | .rem _ _ _ _ =>
    if y = 0 then v = x ∧ fault = some 0 else v.toInt = x.toInt.tmod y.toInt ∧ fault = none
  | .remu _ _ _ _ =>
    if y = 0 then v = x ∧ fault = some 0 else v.toNat = x.toNat % y.toNat ∧ fault = none
  | .sqrt _ _ _ q =>
    if q then
      if x.toInt < 0 then v = 0 ∧ fault = some 1 else IsRoot (x.toNat * 2 ^ 31) v.toNat ∧ fault = none
    else IsRoot x.toNat v.toNat ∧ fault = none
  | _ => False

/-- A long operation other than MAC64: cell, opcode, registers used, destination and operand registers. -/
def longForm : Instr → Option (CellId × Nat × List RegNo × RegNo × RegNo × RegNo)
  | .div c d a b => some (c, 0x30, [d, a, b], d, a, b)
  | .divu c d a b => some (c, 0x31, [d, a, b], d, a, b)
  | .rem c d a b => some (c, 0x32, [d, a, b], d, a, b)
  | .remu c d a b => some (c, 0x33, [d, a, b], d, a, b)
  | .sqrt c d a _ => some (c, 0x34, [d, a], d, a, a)
  | _ => none

/-- The issue of a long operation changes the unit's queue and the cell's place in issue order, no register and not
ACC. -/
def Issues (c : Nat) (s t : State) : Prop :=
  PlainBut (fun k => { k with longOps := [], seq := 0 }) [] c s t ∧ SameRegs (s.cell c) (t.cell c)
    ∧ (t.cell c).acc = (s.cell c).acc

end Sys2Proof.Machine

/-- R70 to R72: DIV, DIVU, REM, REMU and SQRT, issued to a unit with room, go on and leave their result to come.

R70, R114: MAC64 on a valid pair is issued; its result reaches ACC by LONG_OP_RESULT, as that of any operation
reaches its destination, with its arithmetic fault held pending.
Choices of the model: that the command gives the instruction (log 10), which imprecise fault a report names (log 14). -/
def Obligations.LongOperations : Prop :=
  (∀ (i : Instr) (c : CellId) (op : Nat) (uses : List RegNo) (d a b : RegNo) (s : State),
      longForm i = some (c, op, uses, d, a, b) → Ready c op uses false s → (s.cell c).longOps.length < 2 →
      Completes i s (fun t => Issues c s t ∧
        ∃ v fault, longSays i ((s.cell c).g a) ((s.cell c).g b) v fault ∧
          (t.cell c).longOps = (s.cell c).longOps ++ [⟨(s.cell c).seq, some (.gpr d), v.zeroExtend 64, fault⟩]))
  ∧ ((∀ (c : CellId) (a b : RegNo) (s : State), a.val % 2 = 0 → a ≠ 0 → a.val ≤ 12 →
      Ready c 0x35 [a, a + 1, b] true s → (s.cell c).longOps.length < 2 →
      Completes (.mac64 c a b) s (fun t => Issues c s t ∧ (t.cell c).longOps = (s.cell c).longOps ++
        [⟨(s.cell c).seq, none, BitVec.ofInt 64 (clampTo 64 ((s.cell c).acc.toInt
          + ((s.cell c).g (a + 1) ++ (s.cell c).g a : BitVec 64).toInt * ((s.cell c).g b).toInt / 2 ^ 31)), none⟩]))
    ∧ (∀ (c : CellId) (j : Fin 2) (s : State) (o : LongOp), (s.cell c).longOps[j.val]? = some o →
      Completes (.longOpResult c j) s (fun t => OnlyCell c s t
        ∧ t.cell c = { (match o.dest with
              | some d => putDest d (o.result.truncate 32) (s.cell c)
              | none => { s.cell c with acc := o.result }) with
            longOps := (s.cell c).longOps.eraseIdx j.val
            imp := (s.cell c).imp
              ++ (match o.fault with | some f => [⟨o.seq, 9, f, 0, o.dest, o.dest.isNone⟩] | none => []) }
        ∧ ∀ r, o.dest = some (.gpr r) → Writes r (o.result.truncate 32) (s.cell c) (t.cell c))))

/-! ## Loads, stores and atomics -/

namespace Sys2Proof.Machine

/-- A load as its table row gives it: cell, opcode, destination and base registers, offset, size, and what its bytes
give. -/
structure LoadForm where
  c : CellId
  op : Nat
  d : RegNo
  a : RegNo
  imm : BitVec 16
  size : Nat
  value : List Byte → Word

/-- The loads of R77. -/
def loadForm : Instr → Option LoadForm
  | .ldw c d a imm => some ⟨c, 0x40, d, a, imm, 4, fun l => BitVec.ofNat 32 (leNat l)⟩
  | .ldh c d a imm => some ⟨c, 0x41, d, a, imm, 2, fun l => (BitVec.ofNat 16 (leNat l)).signExtend 32⟩
  | .ldhu c d a imm => some ⟨c, 0x42, d, a, imm, 2, fun l => BitVec.ofNat 32 (leNat l)⟩
  | .ldb c d a imm => some ⟨c, 0x43, d, a, imm, 1, fun l => (BitVec.ofNat 8 (leNat l)).signExtend 32⟩
  | .ldbu c d a imm => some ⟨c, 0x44, d, a, imm, 1, fun l => BitVec.ofNat 32 (leNat l)⟩
  | _ => none

/-- The effective address of a format I access (R77). -/
def eaOf (k : Cell) (a : RegNo) (imm : BitVec 16) : Word := k.g a + imm.signExtend 32

/-- A ready cell issues load `f` from the aligned address `ea`. -/
def LoadStands (f : LoadForm) (ea : Word) (s : State) : Prop :=
  ea = eaOf (s.cell f.c) f.a f.imm ∧ ea.toNat % f.size = 0 ∧ Ready f.c f.op [f.d, f.a] false s

/-- The store that a load from this address was found to overlap in part. -/
def heldBehind (ea : Word) (k : Cell) : Option (Nat × Word) := k.behind.filter (fun h => h.2 == ea)

/-- A load reads memory: no buffered store overlaps it, or the store that it overlapped in part, and every older one,
has left the buffer and completed (R113). -/
def ReadsMemory (f : LoadForm) (ea : Word) (k : Cell) : Prop :=
  (∀ h ∈ heldBehind ea k, k.storeBuf.all (fun e => decide (h.1 < e.seq)) = true
      ∧ k.acks.all (fun e => decide (e.kind = .store → h.1 < e.seq)) = true)
    ∧ (heldBehind ea k = none → k.storeBuf.all (fun e => !overlaps ea.toNat f.size e) = true)

/-- What a load that goes on leaves of the note of the store it waited for. -/
def clearBehind (ea : Word) (k : Cell) : Option (Nat × Word) := k.behind.filter (fun h => h.2 != ea)

/-- R34: the cell has a private tag left, and R108 an entry of its load queue. -/
def HasRoom (k : Cell) : Prop := k.tags < 32 ∧ k.loadQ.length < 8

/-- A non-local access has been performed and waits in the load queue: no register, no memory is changed by the wait.
`behind` is what stands of the note of a store it waited for. -/
def Waits (c : Nat) (dst : Dest) (ea : Word) (data : Option Word) (behind : Option (Nat × Word)) (s t : State) : Prop :=
  PlainBut (fun k => { k with loadQ := [], seq := 0, behind := none }) [] c s t ∧ SameRegs (s.cell c) (t.cell c)
    ∧ (t.cell c).behind = behind
    ∧ (t.cell c).acc = (s.cell c).acc ∧ (t.cell c).loadQ = (s.cell c).loadQ ++ [⟨(s.cell c).seq, dst, data, ea⟩]

end Sys2Proof.Machine

/-- R77: a load from DMEM that no buffered store overlaps reads its bytes; R113: one of which the youngest overlapping
store holds every byte takes them from that store. Either writes its destination at once and changes no memory. One that
the youngest overlapping store covers in part holds, and reads memory once that store and every older one have
completed.

R77, R80: a load from block or region memory in service reads it and leaves its value to come; R110: it is written
when it returns; R116: the data of a bus error is not written, and the fault is held pending.
Choices of the model: when an access is performed (log 8), that the command gives the instruction (log 10). -/
def Obligations.Loads : Prop :=
  (∀ (i : Instr) (f : LoadForm) (ea : Word) (s : State), loadForm i = some f → LoadStands f ea s →
      (ea.toNat < 0x2000 → ReadsMemory f ea (s.cell f.c) →
        Completes i s (fun t => PlainBut (fun k => { k with behind := none }) [] f.c s t
          ∧ (t.cell f.c).behind = clearBehind ea (s.cell f.c) ∧ (t.cell f.c).acc = (s.cell f.c).acc
          ∧ Writes f.d (f.value (mapRead zeroByte (s.cell f.c).dmem ea.toNat f.size)) (s.cell f.c) (t.cell f.c)))
      ∧ (∀ e, heldBehind ea (s.cell f.c) = none → youngest ea.toNat f.size (s.cell f.c) = some e →
        (e.addr.toNat ≤ ea.toNat ∧ ea.toNat + f.size ≤ e.addr.toNat + e.bytes.length →
          Completes i s (fun t => Plain f.c s t ∧ (t.cell f.c).acc = (s.cell f.c).acc
            ∧ Writes f.d (f.value ((e.bytes.drop (ea.toNat - e.addr.toNat)).take f.size)) (s.cell f.c) (t.cell f.c)))
        ∧ (¬ (e.addr.toNat ≤ ea.toNat ∧ ea.toNat + f.size ≤ e.addr.toNat + e.bytes.length) →
          Completes i s (fun t => OnlyCell f.c s t ∧ t.cell f.c = { s.cell f.c with behind := some (e.seq, ea) })))
      ∧ (∀ h, heldBehind ea (s.cell f.c) = some h →
        ((∃ e ∈ (s.cell f.c).storeBuf, e.seq ≤ h.1) ∨ ∃ e ∈ (s.cell f.c).acks, e.kind = .store ∧ e.seq ≤ h.1) →
        Completes i s (fun t => OnlyCell f.c s t ∧ t.cell f.c = s.cell f.c)))
  ∧ ((∀ (i : Instr) (f : LoadForm) (ea : Word) (r : Nat) (p : Place) (s : State), loadForm i = some f → LoadStands f ea s →
      dataAt f.c ea.toNat = .mem r p → Served r p f.size s → HasRoom (s.cell f.c) → ReadsMemory f ea (s.cell f.c) →
      Completes i s (Waits f.c (.gpr f.d) ea (some (f.value (rawRead p f.size (s.region r))))
        (clearBehind ea (s.cell f.c)) s))
    ∧ (∀ (c : CellId) (j : Fin 8) (s : State) (e : LoadEntry), (s.cell c).loadQ[j.val]? = some e →
      (∀ v, e.data = some v → Completes (.loadReturn c j) s (fun t => OnlyCell c s t
        ∧ t.cell c = { putDest e.dest v (s.cell c) with loadQ := (s.cell c).loadQ.eraseIdx j.val }
        ∧ ∀ r, e.dest = .gpr r → Writes r v (s.cell c) (t.cell c)))
      ∧ (e.data = none → Completes (.loadReturn c j) s (fun t => OnlyCell c s t
        ∧ t.cell c = { s.cell c with
            loadQ := (s.cell c).loadQ.eraseIdx j.val
            imp := (s.cell c).imp ++ [⟨e.seq, 5, 4, e.addr, some e.dest, false⟩] }))))

namespace Sys2Proof.Machine

/-- The stores of R77: cell, opcode, source and base registers, offset and size. -/
def storeForm : Instr → Option (CellId × Nat × RegNo × RegNo × BitVec 16 × Nat)
  | .stw c d a imm => some (c, 0x48, d, a, imm, 4)
  | .sth c d a imm => some (c, 0x49, d, a, imm, 2)
  | .stb c d a imm => some (c, 0x4A, d, a, imm, 1)
  | _ => none

/-- A buffered store as a store instruction leaves it: 1, 2 or 4 bytes at an aligned address. -/
def EntryOk (e : StoreEntry) : Prop :=
  (e.bytes.length = 1 ∨ e.bytes.length = 2 ∨ e.bytes.length = 4) ∧ e.addr.toNat % e.bytes.length = 0

end Sys2Proof.Machine

/-- R112: a store enters the buffer behind the older ones, with the low bytes of its register; no memory changes yet.

R112: the oldest entry leaves. A DMEM entry writes its bytes and no other byte; an entry for block or region memory
in service writes its bytes there and no other byte of that region, and awaits its acknowledgement; R34: which returns
the tag, R115: and holds the bus error pending, if it is one.

R77, R79: LDA and SWP at a word of block or region memory in service, with no store in the buffer: the sum, or the
register, is stored at the word and at no other byte, and the old word is to come in the destination.
Choices of the model: when an access is performed (log 8), that the command gives the instruction (log 10). -/
def Obligations.StoresAndAtomics : Prop :=
  (∀ (i : Instr) (c : CellId) (op : Nat) (d a : RegNo) (imm : BitVec 16) (n : Nat) (ea : Word) (s : State),
      storeForm i = some (c, op, d, a, imm, n) → ea = eaOf (s.cell c) a imm → ea.toNat % n = 0 →
      Ready c op [d, a] false s → (s.cell c).storeBuf.length < 4 →
      ((∃ o, dataAt c ea.toNat = .dmem o) ∨ ∃ r p, dataAt c ea.toNat = .mem r p) →
      Completes i s (fun t => PlainBut (fun k => { k with storeBuf := [], seq := 0 }) [] c s t
        ∧ SameRegs (s.cell c) (t.cell c) ∧ (t.cell c).acc = (s.cell c).acc
        ∧ (t.cell c).storeBuf = (s.cell c).storeBuf ++
          [⟨(s.cell c).seq, ea, (List.range n).map (fun j => ((s.cell c).g d).extractLsb' (8 * j) 8)⟩]))
  ∧ ((∀ (c : CellId) (e : StoreEntry) (l : List StoreEntry) (s : State), (s.cell c).storeBuf = e :: l → EntryOk e →
      e.addr.toNat < 0x2000 → Steady (c / 128) s →
      Completes (.storeBufferDrain c) s (fun t => OnlyCell c s t
        ∧ ({ t.cell c with dmem := [] } : Cell) = { s.cell c with storeBuf := l, dmem := [] }
        ∧ (∀ j, j < e.bytes.length → mapGet zeroByte (t.cell c).dmem (e.addr.toNat + j) = e.bytes.getD j 0)
        ∧ ∀ o, (o < e.addr.toNat ∨ e.addr.toNat + e.bytes.length ≤ o) →
          mapGet zeroByte (t.cell c).dmem o = mapGet zeroByte (s.cell c).dmem o))
    ∧ (∀ (c : CellId) (e : StoreEntry) (l : List StoreEntry) (r : Nat) (p : Place) (s : State),
      (s.cell c).storeBuf = e :: l → EntryOk e → dataAt c e.addr.toNat = .mem r p → Served r p e.bytes.length s →
          (s.cell c).tags < 32 →
      Completes (.storeBufferDrain c) s (fun t => Stored p e.bytes (s.region r) (t.region r)
        ∧ (∀ q a, (t.region q).reg a = (s.region q).reg a) ∧ t = { s with regions := t.regions } ∧ (∀ q, q ≠ r →
            q ≠ c / 128 → t.region q = s.region q)
        ∧ t.cell c = { s.cell c with storeBuf := l, acks := (s.cell c).acks ++ [⟨e.seq, .store, false, e.addr⟩] }
        ∧ ∀ q, q ≠ c.val → t.cell q = s.cell q))
    ∧ (∀ (c : CellId) (i j : Nat) (e : AckEntry) (s : State),
      ackPlace (fun e => e.kind == .store) i (s.cell c).acks = some j → (s.cell c).acks[j]? = some e →
      Completes (.storeAck c i) s (fun t => OnlyCell c s t ∧ t.cell c = { s.cell c with
        acks := (s.cell c).acks.eraseIdx j
        imp := (s.cell c).imp ++ (if e.err then [⟨e.seq, 5, 4, e.addr, none, false⟩] else []) })))
  ∧ (∀ (c : CellId) (d a b : RegNo) (swap : Bool) (r : Nat) (p : Place) (s : State),
      Ready c (if swap then 0x4D else 0x4C) [d, a, b] false s → ((s.cell c).g a).toNat % 4 = 0 →
      dataAt c ((s.cell c).g a).toNat = .mem r p → Served r p 4 s → HasRoom (s.cell c) → (s.cell c).storeBuf = [] →
      Completes (if swap then .swp c d a b else .lda c d a b) s (fun t =>
        let old : Word := BitVec.ofNat 32 (leNat (rawRead p 4 (s.region r)))
        let new : Word := if swap then (s.cell c).g b else old + (s.cell c).g b
        Stored p ((List.range 4).map (fun j => new.extractLsb' (8 * j) 8)) (s.region r) (t.region r)
          ∧ (∀ q a, (t.region q).reg a = (s.region q).reg a) ∧ t = { s with regions := t.regions } ∧ (∀ q, q ≠ r →
              q ≠ c / 128 → t.region q = s.region q)
          ∧ (∀ q, q ≠ c.val → t.cell q = s.cell q)
          ∧ ({ t.cell c with loadQ := [], seq := 0 } : Cell).fixed = ({ s.cell c with loadQ := [], seq := 0 } : Cell).fixed
          ∧ SameRegs (s.cell c) (t.cell c) ∧ (t.cell c).acc = (s.cell c).acc ∧ IoBut [] (s.cell c) (t.cell c)
          ∧ Follows (s.cell c) (t.cell c)
          ∧ (t.cell c).loadQ = (s.cell c).loadQ ++ [⟨(s.cell c).seq, .gpr d, some old, (s.cell c).g a⟩]))

/-! ## I/O space -/

namespace Sys2Proof.Machine

/-- I/O address of a format P access (R81). -/
def ioAddrOf (k : Cell) (a : RegNo) (port : BitVec 16) : Nat := ((k.g a).toNat + port.toNat) % 2 ^ 32 % 2 ^ 24

/-- A ready cell issues an I/O access to the aligned address `ad`, which its level may access and which no earlier OUT
holds (R81, R169, R170). -/
def IoStands (c : CellId) (op : Nat) (d a : RegNo) (port : BitVec 16) (ad : Nat) (s : State) : Prop :=
  Ready c op [d, a] false s ∧ ad = ioAddrOf (s.cell c) a port ∧ ad % 4 = 0 ∧ ioDenied (s.cell c) ad = none
    ∧ ioHeld (s.cell c) = false

end Sys2Proof.Machine

/-- R82: IN of one of the cell's own registers gives its value at once; OUT and OUTP to one change its writable bits
and no other register of the cell.

R81, R82: IN from a register of a region or of the chip reads it and leaves its value, or the bus error, to come;
OUT and OUTP write it as a write of the register does, and await its acknowledgement; R106: OUT_ACK returns it.

R81: IWR at supervisor level writes a word of the cell's IMEM and no other byte of it.
Choices of the model: when an access is performed (log 8), that the command gives the instruction (log 10), the order
of checks (log 16). -/
def Obligations.RegisterInputOutput : Prop :=
  ((∀ (c : CellId) (d a : RegNo) (port : BitVec 16) (ad : Nat) (v : Word) (s : State),
      IoStands c 0x50 d a port ad s → ad < 0x10000 → ownRead c ad (s.cell c) = some v →
      Completes (.in_ c d a port) s (fun t => Plain c s t ∧ (t.cell c).acc = (s.cell c).acc
          ∧ Writes d v (s.cell c) (t.cell c)))
    ∧ (∀ (c : CellId) (d a : RegNo) (port : BitVec 16) (posted : Bool) (ad : Nat) (def_ : RegDef) (s : State),
      IoStands c (if posted then 0x52 else 0x51) d a port ad s → ad < 0x10000 → cellReg ad = some def_ →
      ad ∉ retireCounters → ad ≠ Reg.CFCTL.base → regIdx Reg.CFACT ad = none → regIdx Reg.CFIN ad = none →
      regIdx Reg.CFA ad = none → regIdx Reg.CFB ad = none →
      Completes (if posted then .outp c d a port else .out c d a port) s (fun t => PlainBut id [ad] c s t
        ∧ SameRegs (s.cell c) (t.cell c) ∧ (t.cell c).acc = (s.cell c).acc
        ∧ ∀ j, j < 32 → ((t.cell c).ioReg ad).getLsbD j =
            if def_.mask.testBit j then ((s.cell c).g d).getLsbD j else ((s.cell c).ioReg ad).getLsbD j)))
  ∧ ((∀ (c : CellId) (d a : RegNo) (port : BitVec 16) (ad : Nat) (s : State), IoStands c 0x50 d a port ad s →
      HasRoom (s.cell c) → 0x10000 ≤ ad → ioAt c ad ≠ .none → (ioPerform (ioAt c ad) s).2.cell c = s.cell c →
      Completes (.in_ c d a port) s
        (Waits c (.gpr d) (BitVec.ofNat 32 ad) (ioPerform (ioAt c ad) s).1 (s.cell c).behind (ioPerform (ioAt c ad) s).2))
    ∧ (∀ (c : CellId) (d a : RegNo) (port : BitVec 16) (posted : Bool) (ad : Nat) (s : State),
      IoStands c (if posted then 0x52 else 0x51) d a port ad s → 0x10000 ≤ ad → ioAt c ad ≠ .none → (s.cell c).tags < 32 →
      Completes (if posted then .outp c d a port else .out c d a port) s (fun t => ∃ u,
        PlainBut (fun k => { k with acks := [], seq := 0 }) [] c s u ∧ SameRegs (s.cell c) (u.cell c)
          ∧ (u.cell c).acc = (s.cell c).acc
          ∧ (u.cell c).acks = (s.cell c).acks
              ++ [⟨(s.cell c).seq, if posted then .outp else .out, false, BitVec.ofNat 32 ad⟩]
          ∧ t = outReach c ad (s.cell c).seq ((s.cell c).g d) u
          ∧ ((ioStore (ioAt c ad) ((s.cell c).g d) u).1 = true → t = (ioStore (ioAt c ad) ((s.cell c).g d) u).2)))
    ∧ (∀ (c : CellId) (i j : Nat) (e : AckEntry) (s : State),
      ackPlace (fun e => e.kind != .store) i (s.cell c).acks = some j → (s.cell c).acks[j]? = some e →
      Completes (.outAck c i) s (fun t => OnlyCell c s t ∧ t.cell c = { s.cell c with
        acks := (s.cell c).acks.eraseIdx j
        imp := (s.cell c).imp ++ (if e.err then [⟨e.seq, 5, 4, e.addr, none, false⟩] else []) })))
  ∧ (∀ (c : CellId) (d a : RegNo) (imm : BitVec 16) (n : Nat) (s : State), Ready c 0x54 [d, a] false s →
      (s.cell c).sup = true → n = ((s.cell c).g a).toNat + imm.toNat → n ≤ 0x1FFF → n % 4 = 0 →
      Completes (.iwr c d a imm) s (fun t => PlainBut (fun k => { k with imem := [] }) [] c s t
        ∧ SameRegs (s.cell c) (t.cell c) ∧ (t.cell c).acc = (s.cell c).acc
        ∧ (∀ j, j < 4 → mapGet zeroByte (t.cell c).imem (n + j) = ((s.cell c).g d).extractLsb' (8 * j) 8)
        ∧ ∀ o, (o < n ∨ n + 4 ≤ o) → mapGet zeroByte (t.cell c).imem o = mapGet zeroByte (s.cell c).imem o))

/-! ## Branches, jumps and calls -/

namespace Sys2Proof.Machine

/-- What a transfer leaves: PC at its delay slot, whose successor is `target`; in the cell it changes, beside PC, what
`but` blanks out and the cell registers `l`. -/
def Transfers (but : Cell → Cell) (l : List Nat) (c : Nat) (target : BitVec 13) (s t : State) : Prop :=
  OnlyCell c s t ∧ (but (t.cell c)).fixed = (but (s.cell c)).fixed ∧ SameRegs (s.cell c) (t.cell c)
    ∧ (t.cell c).acc = (s.cell c).acc ∧ IoBut l (s.cell c) (t.cell c) ∧ (t.cell c).halted = (s.cell c).halted
    ∧ (t.cell c).pc = (s.cell c).pc + 4
    ∧ ∃ b, (t.cell c).slot = some b ∧ b.branch = (s.cell c).pc ∧ b.target = target

/-- A compare-and-branch as its table row gives it. -/
structure BranchForm where
  c : CellId
  op : Nat
  uses : List RegNo
  annul : Bool
  off : BitVec 15
  holds : Cell → Prop

/-- The compare-and-branch instructions of R84. -/
def branchForm : Instr → Option BranchForm
  | .beq c a b n off => some ⟨c, 0x60, [a, b], n, off, fun k => k.g a = k.g b⟩
  | .bne c a b n off => some ⟨c, 0x61, [a, b], n, off, fun k => k.g a ≠ k.g b⟩
  | .blt c a b n off => some ⟨c, 0x62, [a, b], n, off, fun k => (k.g a).toInt < (k.g b).toInt⟩
  | .bge c a b n off => some ⟨c, 0x63, [a, b], n, off, fun k => (k.g b).toInt ≤ (k.g a).toInt⟩
  | .bltu c a b n off => some ⟨c, 0x64, [a, b], n, off, fun k => (k.g a).toNat < (k.g b).toNat⟩
  | .bgeu c a b n off => some ⟨c, 0x65, [a, b], n, off, fun k => (k.g b).toNat ≤ (k.g a).toNat⟩
  | .beqz c a n off => some ⟨c, 0x66, [a], n, off, fun k => k.g a = 0⟩
  | .bnez c a n off => some ⟨c, 0x67, [a], n, off, fun k => k.g a ≠ 0⟩
  | .bltz c a n off => some ⟨c, 0x68, [a], n, off, fun k => (k.g a).toInt < 0⟩
  | .bgez c a n off => some ⟨c, 0x69, [a], n, off, fun k => 0 ≤ (k.g a).toInt⟩
  | _ => none

/-- A call as its table row gives it: cell, opcode, registers used, and the target where it is a word address. -/
def callForm (i : Instr) (k : Cell) : Option (CellId × Nat × List RegNo × BitVec 13) :=
  match i with
  | .call c target => some (c, 0x71, [], BitVec.ofNat 13 (4 * target.toNat))
  | .callr c a => if (k.g a).toNat % 4 = 0 then some (c, 0x73, [a], (k.g a).truncate 13) else none
  | _ => none

/-- A word of a cell's DMEM reads `v`, and every byte outside it is as before. -/
def DmemWord (a : Nat) (v : Word) (k k' : Cell) : Prop :=
  (∀ j, j < 4 → mapGet zeroByte k'.dmem (a + j) = v.extractLsb' (8 * j) 8)
    ∧ ∀ o, (o < a ∨ a + 4 ≤ o) → mapGet zeroByte k'.dmem o = mapGet zeroByte k.dmem o

end Sys2Proof.Machine

/-- R84, R85: a branch whose condition holds is followed by its delay slot and then by its target; one whose condition
fails is followed by its delay slot and the word after that, or, where it annuls the slot and the word there may stand
in
one, by that word at once.

R62, R84: JMP goes to four times its operand, JR to the word address in its register.

R58: a call pushes the address past its delay slot; with 16 entries held, the oldest is spilled to DMEM at RSPTR,
which moves on by 4. A return pops the newest entry; with none held, it fills from the word below RSPTR.
Choices of the model: that the command gives the instruction (log 10). -/
def Obligations.ControlFlow : Prop :=
  (∀ (i : Instr) (f : BranchForm) (s : State), branchForm i = some f → Ready f.c f.op f.uses false s →
      (f.holds (s.cell f.c) → Completes i s
        (Transfers id [] f.c (BitVec.ofInt 13 (((s.cell f.c).pc.toNat : Int) + 4 * f.off.toInt)) s))
      ∧ (¬ f.holds (s.cell f.c) → f.annul = false → Completes i s (Transfers id [] f.c ((s.cell f.c).pc + 8) s))
      ∧ (¬ f.holds (s.cell f.c) → f.annul = true → slotClash (s.cell f.c) = false → Completes i s (fun t =>
          OnlyCell f.c s t ∧ (t.cell f.c).fixed = (s.cell f.c).fixed ∧ SameRegs (s.cell f.c) (t.cell f.c)
            ∧ (t.cell f.c).acc = (s.cell f.c).acc ∧ IoBut [] (s.cell f.c) (t.cell f.c)
            ∧ (t.cell f.c).pc = (s.cell f.c).pc + 8 ∧ (t.cell f.c).slot = none
            ∧ ((s.cell f.c).stepping = false → (t.cell f.c).halted = (s.cell f.c).halted))))
  ∧ ((∀ (c : CellId) (target : BitVec 24) (s : State), Ready c 0x70 [] false s →
      Completes (.jmp c target) s (Transfers id [] c (BitVec.ofNat 13 (4 * target.toNat)) s))
    ∧ (∀ (c : CellId) (a : RegNo) (s : State), Ready c 0x72 [a] false s → ((s.cell c).g a).toNat % 4 = 0 →
      Completes (.jr c a) s (Transfers id [] c (((s.cell c).g a).truncate 13) s)))
  ∧ ((∀ (i : Instr) (c : CellId) (op : Nat) (uses : List RegNo) (target : BitVec 13) (s : State),
      callForm i (s.cell c) = some (c, op, uses, target) → Ready c op uses false s →
      ((s.cell c).rs.length < 16 → Completes i s (fun t =>
        Transfers (fun k => { k with rs := [] }) [] c target s t ∧ (t.cell c).rs = ((s.cell c).pc + 8) :: (s.cell c).rs))
      ∧ (∀ last, (s.cell c).rs.length = 16 → (s.cell c).rs.getLast? = some last →
          (s.cell c).rsptr + 4 ≤ (s.cell c).rslimit →
        (s.cell c).storeBuf = [] → Completes i s (fun t =>
          Transfers (fun k => { k with rs := [], dmem := [] }) [Reg.RSPTR.base] c target s t
            ∧ (t.cell c).rs = ((s.cell c).pc + 8) :: (s.cell c).rs.dropLast
            ∧ (t.cell c).ioReg Reg.RSPTR.base = BitVec.ofNat 32 ((s.cell c).rsptr + 4)
            ∧ DmemWord (s.cell c).rsptr (last.zeroExtend 32) (s.cell c) (t.cell c))))
    ∧ (∀ (c : CellId) (s : State), Ready c 0x74 [] false s →
      (∀ target l, (s.cell c).rs = target :: l → Completes (.ret c) s (fun t =>
        Transfers (fun k => { k with rs := [] }) [] c target s t ∧ (t.cell c).rs = l))
      ∧ ((s.cell c).rs = [] → (s.cell c).rsbase < (s.cell c).rsptr → 4 ≤ (s.cell c).rsptr → (s.cell c).storeBuf = [] →
        leNat (mapRead zeroByte (s.cell c).dmem ((s.cell c).rsptr - 4) 4) % 4 = 0 →
        Completes (.ret c) s (fun t =>
          Transfers id [Reg.RSPTR.base] c (BitVec.ofNat 13 (leNat (mapRead zeroByte (s.cell c).dmem ((s.cell c).rsptr - 4) 4))) s t
            ∧ (t.cell c).ioReg Reg.RSPTR.base = BitVec.ofNat 32 ((s.cell c).rsptr - 4)))))

/-! ## Event ports -/

/-- R88, R89, R204: FIRE presents one pulse of its port, stamped with GTIME; EVTST reads the pending flags; WAIT on a
port with an event consumes it and keeps its stamp in EPGT, and without one holds at the instruction.

R202, R203: an event that reaches a port of a cell out of reset becomes pending with its stamp, or, where one is
pending, is lost and counted to at most 65,535; a cell that holds in WAIT on the port consumes it and goes on.
Choices of the model: that the command gives the instruction (log 10), that the command is the event, where one is due
(log 32). -/
def Obligations.EventPorts : Prop :=
  ((∀ (c : CellId) (p : Fin 4) (s : State), Ready c 0x81 [] false s → Completes (.fire c p) s (fun t =>
      (t.region (c / 128)).ev = { (s.region (c / 128)).ev with
          fabric := (s.region (c / 128)).ev.fabric ++ [⟨0x200 + 4 * (c.val % 128) + p.val, s.time.gtime⟩] }
        ∧ t = { s with regions := t.regions } ∧ (∀ q, q ≠ c / 128 → t.region q = s.region q)
        ∧ t.region (c / 128) = { s.region (c / 128) with ev := (t.region (c / 128)).ev, cells := (t.region (c / 128)).cells }
        ∧ (∀ q, q ≠ c.val → t.cell q = s.cell q) ∧ (t.cell c).fixed = (s.cell c).fixed ∧ SameRegs (s.cell c) (t.cell c)
        ∧ (t.cell c).acc = (s.cell c).acc ∧ IoBut [] (s.cell c) (t.cell c) ∧ Follows (s.cell c) (t.cell c)))
    ∧ (∀ (c : CellId) (d : RegNo) (s : State), Ready c 0x82 [d] false s → Completes (.evtst c d) s (fun t =>
      Plain c s t ∧ (t.cell c).acc = (s.cell c).acc
        ∧ Writes d (BitVec.ofNat 32 (((s.cell c).portPending 0).toNat + 2 * ((s.cell c).portPending 1).toNat
            + 4 * ((s.cell c).portPending 2).toNat + 8 * ((s.cell c).portPending 3).toNat)) (s.cell c) (t.cell c)))
    ∧ (∀ (c : CellId) (p : Fin 4) (s : State), Ready c 0x80 [] false s →
      (∀ stamp : Ticks, mapGet noneAt (s.cell c).ports p.val = some stamp → Completes (.wait c p) s (fun t =>
        PlainBut (fun k => { k with ports := [] }) [regAt Reg.EPGT_L p 0, regAt Reg.EPGT_H p 0] c s t
          ∧ SameRegs (s.cell c) (t.cell c) ∧ (t.cell c).acc = (s.cell c).acc
          ∧ (∀ q, mapGet noneAt (t.cell c).ports q = if q = p.val then none else mapGet noneAt (s.cell c).ports q)
          ∧ ((t.cell c).ioReg (regAt Reg.EPGT_H p 0) ++ (t.cell c).ioReg (regAt Reg.EPGT_L p 0) : BitVec 64) = stamp))
      ∧ (mapGet noneAt (s.cell c).ports p.val = none → Completes (.wait c p) s (fun t =>
          OnlyCell c s t ∧ t.cell c = { s.cell c with hold := .wait p }))))
  ∧ (∀ (c : CellId) (p : Fin 4) (stamp : Ticks) (s : State), Live (c / 128) s → (s.cell c).inReset = false →
      ((∀ old : Ticks, mapGet noneAt (s.cell c).ports p.val = some old →
        (∀ w, (s.cell c).hold = .wait w → mapGet noneAt (s.cell c).ports w.val = none) →
        Completes (.eventPortArrival c p stamp) s (fun t =>
          OnlyRegion (c / 128) s t ∧ (∀ q, q ≠ c.val → t.cell q = s.cell q)
              ∧ RegsBut [] (s.region (c / 128)) (t.region (c / 128))
            ∧ t.cell c = (s.cell c).setIo (regAt Reg.EPOVR p 0)
                (BitVec.ofNat 32 (min 0xFFFF (((s.cell c).ioReg (regAt Reg.EPOVR p 0)).toNat + 1)))))
      ∧ (mapGet noneAt (s.cell c).ports p.val = none →
        (∀ w, (s.cell c).hold = .wait w → w ≠ p ∧ mapGet noneAt (s.cell c).ports w.val = none) →
        Completes (.eventPortArrival c p stamp) s (fun t =>
          OnlyRegion (c / 128) s t ∧ (∀ q, q ≠ c.val → t.cell q = s.cell q)
              ∧ RegsBut [] (s.region (c / 128)) (t.region (c / 128))
            ∧ ({ t.cell c with ports := [] } : Cell) = { s.cell c with ports := [] }
            ∧ ∀ q, mapGet noneAt (t.cell c).ports q = if q = p.val then some stamp else mapGet noneAt (s.cell c).ports q))
      ∧ (mapGet noneAt (s.cell c).ports p.val = none → (s.cell c).hold = .wait p → (s.cell c).running = true →
        (s.cell c).micro = none → (s.cell c).swapDue = false →
        Completes (.eventPortArrival c p stamp) s (fun t =>
          OnlyRegion (c / 128) s t ∧ (∀ q, q ≠ c.val → t.cell q = s.cell q)
              ∧ RegsBut [] (s.region (c / 128)) (t.region (c / 128))
            ∧ (t.cell c).hold = .none ∧ Follows (s.cell c) (t.cell c) ∧ SameRegs (s.cell c) (t.cell c)
            ∧ (∀ q, mapGet noneAt (t.cell c).ports q = mapGet noneAt (s.cell c).ports q)
            ∧ ((t.cell c).ioReg (regAt Reg.EPGT_H p 0) ++ (t.cell c).ioReg (regAt Reg.EPGT_L p 0) : BitVec 64) = stamp))))

/-! ## Exceptions -/

namespace Sys2Proof.Machine

/-- Stack top that an exception entry uses: g15 at supervisor level, the exception stack top of gate entry 0 else (R172,
R176). -/
def stackTop (k : Cell) : Nat :=
  if k.sup then (k.g 15).toNat else leNat (mapRead zeroByte k.dmem ((k.ioReg Reg.GATEBASE.base).toNat + 12) 4)

/-- The cell may enter an exception that does not escalate: its store buffer is empty, no imprecise fault is pending,
the frame fits, the origin shadow has room, and it is not in the escalation state (R185, R186). -/
def MayEnter (k : Cell) : Prop :=
  k.storeBuf = [] ∧ k.imp = [] ∧ k.esc = false ∧ k.shadow.length < 8 ∧ k.swapDue = false
    ∧ stackTop k % 4 = 0 ∧ 32 ≤ stackTop k ∧ stackTop k ≤ 0x2000

/-- What an exception entry leaves of the cell (R176 to R178, R182): the frame below `top`, g15 and CSTAT, the vector in
PC, the origin on the shadow. -/
structure Entered (c top : Nat) (fpc : BitVec 13) (cause addr instr : Word) (vector ml : Nat) (fh : Bool) (s t : State) :
    Prop where
  frame : mapRead zeroByte (t.cell c).dmem (top - 32) 32 =
    words4 [fpc.zeroExtend 32, (s.cell c).cstat, cause, addr, instr, (s.cell c).g 15, s.time.gtime.truncate 32, 0]
  memory : ∀ o, (o < top - 32 ∨ top ≤ o) → mapGet zeroByte (t.cell c).dmem o = mapGet zeroByte (s.cell c).dmem o
  stack : (t.cell c).g 15 = BitVec.ofNat 32 (top - 32)
  regs : ∀ q, q ≠ 15 → (t.cell c).g q = (s.cell c).g q
  acc : (t.cell c).acc = (s.cell c).acc
  level : (t.cell c).sup = true ∧ (t.cell c).ml = ml ∧ (t.cell c).fh = fh ∧ (t.cell c).ds = 0
  status : ∀ j, j = 6 ∨ j = 7 ∨ 10 ≤ j → (t.cell c).cstat.getLsbD j = (s.cell c).cstat.getLsbD j
  pc : (t.cell c).pc = BitVec.ofNat 13 (16 * vector)
  idle : (t.cell c).slot = none ∧ (t.cell c).hold = .none ∧ (t.cell c).micro = none
  origin : (t.cell c).shadow = ((s.cell c).sup, false) :: (s.cell c).shadow
  io : IoBut [Reg.CSTAT.base] (s.cell c) (t.cell c)
  runs : (t.cell c).halted = (s.cell c).halted
  rest : ({ t.cell c with dmem := [], shadow := [], micro := none, hold := .none, loadQ := [], longOps := [], behind := none } :
      Cell).fixed
    = ({ s.cell c with dmem := [], shadow := [], micro := none, hold := .none, loadQ := [], longOps := [], behind := none } :
      Cell).fixed

/-- A fault outside a delay slot has been taken: detail and address in the frame, FH set, ML as it was (R178, R181). -/
def FaultTaken (c : CellId) (i : Instr) (vector detail : Nat) (addr : Word) (s t : State) : Prop :=
  OnlyCell c s t ∧ Entered c (stackTop (s.cell c)) (s.cell c).pc (BitVec.ofNat 32 (detail * 2 ^ 8 + vector)) addr (wordOf i)
    vector (s.cell c).ml true s t

/-- A form that raises a precise fault: cell, opcode, registers used, ACC use, vector, DETAIL and fault address. -/
structure FaultForm where
  c : CellId
  op : Nat
  uses : List RegNo
  acc : Bool
  vector : Nat
  detail : Nat
  addr : Word

/-- Forms of instructions that fault, by their tables (R66, R70, R73, R77 to R79, R81, R84, R173, R175, R181, R183):
illegal fields, misaligned and unmapped accesses, supervisor instructions at program level, gate 0. -/
def faultForm (k : Cell) : Instr → Option FaultForm
  | .brev c _ _ lanes => if lanes.val = 3 then some ⟨c, 0x1A, [], false, 3, 4, 0⟩ else none
  | .crcs c _ _ n => if n.val = 3 then some ⟨c, 0x1C, [], false, 3, 4, 0⟩ else none
  | .mac64 c a _ => if a.val % 2 = 1 ∨ a = 0 ∨ 12 < a.val then some ⟨c, 0x35, [], false, 3, 5, 0⟩ else none
  | .ldw c d a imm =>
    let ea := eaOf k a imm
    if ea.toNat % 4 ≠ 0 then some ⟨c, 0x40, [d, a], false, 4, 0, ea⟩ else none
  | .ldh c d a imm =>
    let ea := eaOf k a imm
    if ea.toNat % 2 ≠ 0 then some ⟨c, 0x41, [d, a], false, 4, 0, ea⟩ else none
  | .stw c d a imm =>
    let ea := eaOf k a imm
    if ea.toNat % 4 ≠ 0 then some ⟨c, 0x48, [d, a], false, 4, 0, ea⟩
    else if 0x80000000 ≤ ea.toNat then some ⟨c, 0x48, [d, a], false, 5, 0, ea⟩
    else if 0x40000000 ≤ ea.toNat ∧ ea.toNat < 0x40800000 then some ⟨c, 0x48, [d, a], false, 5, 2, ea⟩ else none
  | .lda c d a b =>
    if (k.g a).toNat % 4 ≠ 0 then some ⟨c, 0x4C, [d, a, b], false, 4, 0, k.g a⟩
    else if (k.g a).toNat < 0x2000 then some ⟨c, 0x4C, [d, a, b], false, 5, 3, k.g a⟩ else none
  | .jr c a => if (k.g a).toNat % 4 ≠ 0 then some ⟨c, 0x72, [a], false, 4, 2, 0⟩ else none
  | .ret c => if k.rs = [] ∧ k.rsptr ≤ k.rsbase then some ⟨c, 0x74, [], false, 8, 2, 0⟩ else none
  | .gate c n => if n = 0 then some ⟨c, 0x91, [], false, 7, 0, 0⟩ else none
  | .rets c => if k.sup then none else some ⟨c, 0x92, [15], false, 7, 5, 0⟩
  | .rete c => if k.sup then none else some ⟨c, 0x93, [15], false, 6, 0, 0⟩
  | .mfs c d _ => if k.sup then none else some ⟨c, 0x94, [d], false, 6, 0, 0⟩
  | .mts c a _ => if k.sup then none else some ⟨c, 0x95, [a], false, 6, 0, 0⟩
  | .halt c => if k.sup then none else some ⟨c, 0x97, [], false, 6, 0, 0⟩
  | .iwr c d a _ => if k.sup then none else some ⟨c, 0x54, [d, a], false, 6, 0, 0⟩
  | .reservedOpcode c w => if opReserved (opcodeOf w) then some ⟨c, opcodeOf w, [], false, 3, 0, 0⟩ else none
  | _ => none

end Sys2Proof.Machine

/-- R63, R64, R176 to R182: a ready cell outside a delay slot, below ML 15 and with FH clear, that executes a faulting
form takes the fault at its vector; the instruction has no other effect. Choices of the model: that the command gives
the instruction (log 10), the order of checks (log 16). -/
def Obligations.PreciseFaults : Prop :=
  ∀ (i : Instr) (f : FaultForm) (s : State), faultForm (s.cell f.c) i = some f → Ready f.c f.op f.uses f.acc s →
    (s.cell f.c).slot = none → MayEnter (s.cell f.c) → (s.cell f.c).ml ≠ 15 → (s.cell f.c).fh = false →
    Completes i s (FaultTaken f.c i f.vector f.detail f.addr s)

/-- R176 to R180, R216: an admitted interrupt is taken at a safe point, an IDLE first completing; its frame holds the
source and the level, which becomes the mask level; the source is active and its slot free again.
Choices of the model: that an interrupt comes in place of the instruction (log 11), how an entry meets buffered stores
(log 15). -/
def Obligations.InterruptEntry : Prop :=
  ∀ (c : CellId) (level src : Nat) (s : State), Steady (c / 128) s → MayEnter (s.cell c) →
    atSafePoint (s.cell c) = true → admittedAt c s = some (level, src) → level ≤ 15 → src < 0x1000 →
    ((s.cell c).hold = .idle → (s.cell c).stepping = false) →
    Completes (.exceptionEntry c) s (fun t =>
      Entered c (stackTop (s.cell c)) (if (s.cell c).hold = .idle then (s.cell c).pc + 4 else (s.cell c).pc)
        (BitVec.ofNat 32 (src * 2 ^ 16 + 16 + level)) 0 0 (16 + level) level false s t
      ∧ t = { s with regions := t.regions } ∧ (∀ q, q ≠ c.val → t.cell q = s.cell q)
      ∧ RegsBut [regAt Reg.IC_ACT (src / 32) 0, regAt Reg.IC_HELD (c % 128) 0] (s.region (c / 128)) (t.region (c / 128))
      ∧ icActive src (t.region (c / 128)) = true ∧ icSlot (c % 128) level (t.region (c / 128)) = none
      ∧ (t.region (c / 128)).bit (regAt Reg.IC_HELD (c % 128) 0) level = false)

namespace Sys2Proof.Machine

/-- What a return or a gate call leaves alone: ACC, every cell register but CSTAT, and all of the cell that is neither a
general register, PC, DMEM nor the origin shadow. -/
def ReturnFrame (c : Nat) (s t : State) : Prop :=
  OnlyCell c s t ∧ (t.cell c).acc = (s.cell c).acc ∧ IoBut [Reg.CSTAT.base] (s.cell c) (t.cell c)
      ∧ (t.cell c).slot = none
    ∧ ({ t.cell c with dmem := [], shadow := [] } : Cell).fixed = ({ s.cell c with dmem := [], shadow := [] } : Cell).fixed

/-- CSTAT takes a frame's word, its ESC bit as given; the bits that do not exist read zero (R56). -/
def StatusFrom (v : Word) (esc : Bool) (k : Cell) : Prop :=
  ∀ j, j < 32 → k.cstat.getLsbD j = if j = 6 then esc else decide (j < 10) && v.getLsbD j

/-- Before the next instruction an interrupt that is now admitted is taken: what follows `u` is what EXCEPTION_ENTRY
makes of it, and `u` itself where none is admitted (R92, R175, R183). -/
def ThenInterrupt (c : CellId) (u t : State) : Prop :=
  exec (.exceptionEntry c) u = .next t ∧ (admittedAt c u = none → t = u)

end Sys2Proof.Machine

/-- R183: RETE at supervisor level, from a frame in DMEM whose claim is covered, restores PC, g15 and CSTAT, leaves the
escalation state and pops the origin shadow outside it; no other register and no memory changes. An interrupt that the
restored mask level admits is taken before the next instruction, as EXCEPTION_ENTRY takes it.

R175: RETS at supervisor level, from a frame in DMEM with a gate record on top of the shadow that covers the frame's
claim, restores PC, g15 and CSTAT but its ESC field, and pops the record. An interrupt that the restored mask level
admits
is then taken.
Choices of the model: that the command gives the instruction (log 10), how an entry meets buffered stores (log 15). -/
def Obligations.Returns : Prop :=
  (∀ (c : CellId) (f : Nat) (s : State), Ready c 0x93 [15] false s → (s.cell c).sup = true →
      f = ((s.cell c).g 15).toNat → f % 4 = 0 → f + 32 ≤ 0x2000 → (s.cell c).storeBuf = [] →
      ((wordAt (mapRead zeroByte (s.cell c).dmem f 32) 4).getLsbD 4 = true → claimCovered (s.cell c) = true) →
      Completes (.rete c) s (fun t => ∃ u, ReturnFrame c s u
        ∧ (u.cell c).dmem = (s.cell c).dmem
        ∧ (u.cell c).pc = ((wordAt (mapRead zeroByte (s.cell c).dmem f 32) 0).truncate 13 &&& 0x1FFC)
        ∧ Writes 15 (wordAt (mapRead zeroByte (s.cell c).dmem f 32) 0x14) (s.cell c) (u.cell c)
        ∧ StatusFrom (wordAt (mapRead zeroByte (s.cell c).dmem f 32) 4) false (u.cell c)
        ∧ (u.cell c).shadow = (if (s.cell c).esc then (s.cell c).shadow else (s.cell c).shadow.tail)
        ∧ ThenInterrupt c u t))
  ∧ (∀ (c : CellId) (f : Nat) (top : Bool) (l : List (Bool × Bool)) (s : State), Ready c 0x92 [15] false s →
      (s.cell c).sup = true → f = ((s.cell c).g 15).toNat → f % 4 = 0 → f + 16 ≤ 0x2000 → (s.cell c).storeBuf = [] →
      (s.cell c).shadow = (top, true) :: l →
      ((wordAt (mapRead zeroByte (s.cell c).dmem f 16) 4).getLsbD 4 = true → top = true) →
      Completes (.rets c) s (fun t => ∃ u, ReturnFrame c s u
        ∧ (u.cell c).dmem = (s.cell c).dmem
        ∧ (u.cell c).pc = ((wordAt (mapRead zeroByte (s.cell c).dmem f 16) 0).truncate 13 &&& 0x1FFC)
        ∧ Writes 15 (wordAt (mapRead zeroByte (s.cell c).dmem f 16) 8) (s.cell c) (u.cell c)
        ∧ StatusFrom (wordAt (mapRead zeroByte (s.cell c).dmem f 16) 4) (s.cell c).esc (u.cell c)
        ∧ (u.cell c).shadow = l ∧ ThenInterrupt c u t))

/-- R172 to R174: GATE n through a valid entry whose checks pass writes the gate frame, clears the arguments of kind 0,
pushes the caller's level, moves g15 below the frame, and goes to the service at supervisor level with DS 0.
Choices of the model: that the command gives the instruction (log 10), when CKPT waits and faults (log 24). -/
def Obligations.GateCall : Prop :=
  ∀ (c : CellId) (n : Byte) (a : Nat) (e : GateEntry) (s : State), Ready c 0x91 [] false s → n ≠ 0 →
    a = ((s.cell c).ioReg Reg.GATEBASE.base).toNat + 16 * n.toNat → a + 16 ≤ 0x2000 →
    e = gateEntry (mapRead zeroByte (s.cell c).dmem a 16) → e.valid = true →
    (e.supOnly = true → (s.cell c).sup = true) → (s.cell c).shadow.length < 8 →
    (s.cell c).storeBuf = [] → (s.cell c).loadQ = [] → (s.cell c).longOps = [] → (s.cell c).imp = [] →
    ((s.cell c).sup = false → ∀ j, j < 6 → argOk e (s.cell c) j = true) →
    gateTop e (s.cell c) % 4 = 0 → 16 ≤ gateTop e (s.cell c) → gateTop e (s.cell c) ≤ 0x2000 →
    Completes (.gate c n) s (fun t => ReturnFrame c s t
      ∧ mapRead zeroByte (t.cell c).dmem (gateTop e (s.cell c) - 16) 16 =
          words4 [((s.cell c).pc + 4).zeroExtend 32, (s.cell c).cstat, (s.cell c).g 15, n.zeroExtend 32]
      ∧ (∀ o, (o < gateTop e (s.cell c) - 16 ∨ gateTop e (s.cell c) ≤ o) →
          mapGet zeroByte (t.cell c).dmem o = mapGet zeroByte (s.cell c).dmem o)
      ∧ (t.cell c).pc = BitVec.ofNat 13 (e.target / 4 * 4)
      ∧ (∀ q : RegNo, (t.cell c).g q = if q = 15 then BitVec.ofNat 32 (gateTop e (s.cell c) - 16)
          else if 1 ≤ q.val ∧ q.val ≤ 6 ∧ e.kind (q.val - 1) = 0 then 0 else (s.cell c).g q)
      ∧ (∀ j, j < 32 → (t.cell c).cstat.getLsbD j =
          if j = 4 then true else if j = 8 ∨ j = 9 then false else (s.cell c).cstat.getLsbD j)
      ∧ (t.cell c).shadow = ((s.cell c).sup, true) :: (s.cell c).shadow)

/-! ## Status registers, holds and barriers -/

/-- R90, R92: MFS reads a status register and MTS writes the writable bits of one, at supervisor level; where it lowers
the mask level, an interrupt that is then admitted is taken before the next instruction.

R93, R94, R98, R118: IDLE with no interrupt admitted holds where it stands; HALT at supervisor level stops the cell
once nothing is outstanding; MBAR and LBAR hold while operations of their kind are outstanding, and then complete; a bus
error pending at MBAR, an arithmetic fault at LBAR, is then taken there as a precise fault and no longer pending.
Choices of the model: that a stalled instruction is given again (log 9), that the command gives the instruction (log
10), which imprecise fault a report names (log 14). -/
def Obligations.StatusAndHolds : Prop :=
  ((∀ (c : CellId) (d : RegNo) (sr : Fin 64) (v : Word) (s : State), Ready c 0x94 [d] false s → (s.cell c).sup = true →
      ownRead c (4 * sr.val) (s.cell c) = some v →
      Completes (.mfs c d sr) s (fun t => Plain c s t ∧ (t.cell c).acc = (s.cell c).acc
          ∧ Writes d v (s.cell c) (t.cell c)))
    ∧ (∀ (c : CellId) (a : RegNo) (sr : Fin 64) (r : RegDef) (s : State), Ready c 0x95 [a] false s →
        (s.cell c).sup = true →
      cellReg (4 * sr.val) = some r → r.mask ≠ 0 → 4 * sr.val ∉ retireCounters →
      Completes (.mts c a sr) s (fun t => ∃ u, PlainBut id [4 * sr.val] c s u ∧ SameRegs (s.cell c) (u.cell c)
        ∧ (u.cell c).acc = (s.cell c).acc
        ∧ (∀ j, j < 32 → ((u.cell c).ioReg (4 * sr.val)).getLsbD j =
            if r.mask.testBit j then ((s.cell c).g a).getLsbD j else ((s.cell c).ioReg (4 * sr.val)).getLsbD j)
        ∧ (if (u.cell c).ml < (s.cell c).ml then ThenInterrupt c u t else t = u))))
  ∧ ((∀ (c : CellId) (s : State), Ready c 0x96 [] false s →
      Completes (.idle c) s (fun t => OnlyCell c s t ∧ t.cell c = { s.cell c with hold := .idle }))
    ∧ (∀ (c : CellId) (s : State), Ready c 0x97 [] false s → (s.cell c).sup = true → memoryQuiet (s.cell c) = true →
      (s.cell c).longOps = [] → Completes (.halt c) s (fun t => OnlyCell c s t ∧ (t.cell c).halted = true
        ∧ ({ t.cell c with byDebug := false } : Cell).fixed = ({ s.cell c with byDebug := false } : Cell).fixed
        ∧ SameRegs (s.cell c) (t.cell c) ∧ (t.cell c).acc = (s.cell c).acc ∧ IoBut [] (s.cell c) (t.cell c)))
    ∧ (∀ (c : CellId) (long : Bool) (s : State), Ready c (if long then 0x99 else 0x98) [] false s →
      (s.cell c).imp.all (fun f => f.vector != (if long then 9 else 5)) = true →
      (if long then (s.cell c).longOps = [] else memoryQuiet (s.cell c) = true) →
      Completes (if long then .lbar c else .mbar c) s (fun t => Plain c s t ∧ SameRegs (s.cell c) (t.cell c)
        ∧ (t.cell c).acc = (s.cell c).acc))
    ∧ (∀ (c : CellId) (long : Bool) (s : State), Ready c (if long then 0x99 else 0x98) [] false s →
      (if long then (s.cell c).longOps ≠ [] else memoryQuiet (s.cell c) = false) →
      Completes (if long then .lbar c else .mbar c) s (fun t => OnlyCell c s t ∧ t.cell c = s.cell c))
    ∧ (∀ (c : CellId) (long : Bool) (f : ImpFault) (s : State), Ready c (if long then 0x99 else 0x98) [] false s →
      (if long then (s.cell c).longOps = [] else (s.cell c).loadQ = [] ∧ (s.cell c).acks = []) →
      (s.cell c).imp = [f] → f.vector = (if long then 9 else 5) → (s.cell c).slot = none →
      MayEnter { s.cell c with imp := [] } → (s.cell c).ml ≠ 15 → (s.cell c).fh = false →
      Completes (if long then .lbar c else .mbar c) s (fun t =>
        FaultTaken c (if long then .lbar c else .mbar c) f.vector f.detail f.addr (s.onCell c (fun k =>
            { k with imp := [] })) t)))

/-! ## Checkpoint -/

/-! ## Microcode -/

namespace Sys2Proof.Machine

/-- Data bits of the one-word routine g[z] ← g[x] + g[y]: SEQ DISPATCH, ALU ADD, ASRC GX, BSRC GY, DST GZ, LAST. -/
def addRoutine : Nat := 6 * 2 ^ 124 + 2 * 2 ^ 101 + 1 * 2 ^ 96 + 2 * 2 ^ 91 + 3 * 2 ^ 86 + 2 ^ 14

end Sys2Proof.Machine

/-- R95, R97: a user opcode runs the routine that the entry of the active user set names; here a routine of one
microword, which adds two of the registers the instruction names, with the frame of a base instruction (the
micro-registers
of a routine start free, R159).

R163, R167: a WAIT microword without SAFE that still holds at the limit raises a machine check, whose frame names
the
macro instruction. R165, R166: a control-store word whose parity fails is refetched from the golden copy, counted and
recorded; the same word failing again within a second of GTIME halts the cell with a cell-reach error.
Choices of the model: how far one command runs a routine (log 18), that the micro-registers start free (log 19), what
a vendor word does (log 20), what a failed refetch leads to (log 21), the frame word of a safe-point machine check
(log 22), corner orders of one microword (log 58). -/
def Obligations.Microcode : Prop :=
  (∀ (c : CellId) (op : Fin 64) (x y z : RegNo) (fn : BitVec 12) (upc : Fin 1024) (s : State), Steady (c / 128) s →
      (s.cell c).running = true → (s.cell c).hold = .none → (s.cell c).micro = none → (s.cell c).slot = none →
      admittedAt c s = none → (s.cell c).ds ≠ 0 → (s.cell c).swapDue = false → (s.cell c).loadQ = [] →
      (s.cell c).longOps = [] → (s.cell c).imp = [] → 384 ≤ upc.val →
      (s.cell c).dispatch (s.cell c).ds (0xC0 + op.val) = dispEntry true upc.val →
      csAt (s.cell c) upc.val = csWord addRoutine →
      Completes (.userOpcode c op (BitVec.ofNat 24 (x.val * 2 ^ 20 + y.val * 2 ^ 16 + z.val * 2 ^ 12 + fn.toNat))) s (fun t =>
        OnlyCell c { s with free := t.free } t ∧ (t.cell c).fixed = (s.cell c).fixed
          ∧ Writes z ((s.cell c).g x + (s.cell c).g y) (s.cell c) (t.cell c) ∧ (t.cell c).acc = (s.cell c).acc
          ∧ IoBut [] (s.cell c) (t.cell c) ∧ Follows (s.cell c) (t.cell c)))
  ∧ ((∀ (c : CellId) (m : Micro) (s : State), Steady (c / 128) s → (s.cell c).running = true → (s.cell c).slot = none →
      (s.cell c).micro = some m → (microWord (csAt (s.cell c) m.upc.toNat)).seq = 9 →
      (microWord (csAt (s.cell c) m.upc.toNat)).safe = false → m.count ≠ 0 → MayEnter (s.cell c) → (s.cell c).ml ≠ 15 →
      (s.cell c).fh = false → Completes (.safePointWatchdog c) s (fun t => OnlyCell c s t
        ∧ Entered c (stackTop (s.cell c)) (s.cell c).pc (BitVec.ofNat 32 0x601) 0 m.word 1 (s.cell c).ml true s t))
    ∧ (∀ (c : CellId) (b index : Nat) (set : Fin 4) (w : Fin 1024) (s : State), index = w.val → b = c % 128 / 16 →
      Served (c / 128) (.rmem (goldOf c s + 0x1000 + 16 * index)) 16 s →
      (s.cell c).running = true → (s.cell c).micro = none → (s.cell c).lastPar = none →
      Completes (.parityRecovery c false set w) s (fun t =>
        t = { s with regions := t.regions } ∧ (∀ q, q ≠ c / 128 → t.region q = s.region q) ∧ (∀ q, q ≠ c.val →
            t.cell q = s.cell q)
          ∧ (∀ j, csAt (t.cell c) j = if j = index then
              csWord (leNat (rawRead (.rmem (goldOf c s + 0x1000 + 16 * index)) 16 (s.region (c / 128)))) else csAt (s.cell c) j)
          ∧ ({ t.cell c with cstore := [], lastPar := none } : Cell) = { s.cell c with cstore := [], lastPar := none }
          ∧ (t.region (c / 128)).reg (blk Reg.BK_CSPAR_CNT b) =
              satAdd 0xFFFF ((s.region (c / 128)).reg (blk Reg.BK_CSPAR_CNT b)) 1
          ∧ (t.region (c / 128)).reg (blk Reg.BK_CSPAR_LAST b) = BitVec.ofNat 32 (c % 16 * 2 ^ 12 + index)
          ∧ RegsBut [blk Reg.BK_CSPAR_CNT b, blk Reg.BK_CSPAR_LAST b, regAt Reg.TL_B_RUN b 9]
              (s.region (c / 128)) (t.region (c / 128))))
    ∧ (∀ (c : CellId) (set : Fin 4) (w : Fin 1024) (last : Ticks) (s : State), (s.cell c).running = true →
      (s.cell c).micro = none → (s.cell c).lastPar = some (false, w.val, last) →
          (s.time.gtime - last).toNat < 12800000000 →
      Completes (.parityRecovery c false set w) s (fun t => OnlyCell c s t ∧ (t.cell c).halted = true
        ∧ (t.cell c).reachErr = (if (s.cell c).reachErr = 0 then 2 else (s.cell c).reachErr))))

/-! ## Block operations -/

namespace Sys2Proof.Machine

/-- What a block operation leaves alone that has come `j` of its `n` bytes further, and the place where execution goes
on: behind it at its end, at it else, to go on from the progress its registers hold (R76). -/
def BlockFrame (but : Cell → Cell) (c j n : Nat) (s t : State) : Prop :=
  OnlyCell c { s with free := t.free } t ∧ (but (t.cell c)).fixed = (but (s.cell c)).fixed
      ∧ IoBut [] (s.cell c) (t.cell c)
    ∧ (t.cell c).acc = (s.cell c).acc ∧ j ≤ n ∧ j ≤ 112 ∧ (0 < n → 0 < j) ∧ (n = 1 → j = 1)
    ∧ (if j = n then Follows (s.cell c) (t.cell c) else (t.cell c).pc = (s.cell c).pc
        ∧ (t.cell c).slot = (s.cell c).slot)
    ∧ ((s.cell c).stepping = false → (t.cell c).halted = (s.cell c).halted)

end Sys2Proof.Machine

/-- R397, R398: CKPT, with nothing outstanding and its mirror in block memory in service, writes one record, with SEQ
one
above that of the newest committed one, to the other slot, and no other byte; the record holds its length, the registers
and the resume PC.

R74: CRCB over bytes of DMEM folds them in ascending order. R75: BLKMOV within DMEM, where the destination does not
lie in the source, copies the bytes in ascending order and writes no others. R76: either goes on to a safe point,
within 28
accesses, where its registers hold its progress: the addresses reached, the bytes left and the CRC state; from there it
goes on until no byte is left.
Choices of the model: that the command gives the instruction (log 10), the order of register writes and the chunks
(log 17), when CKPT waits and faults (log 24). -/
def Obligations.CheckpointAndBlocks : Prop :=
  (∀ (c : CellId) (b len : Nat) (n : Nat × Nat) (s : State), Ready c 0x90 [] false s → memoryQuiet (s.cell c) = true →
      (s.cell c).longOps = [] → b = c % 128 / 16 → len = ckLen (s.cell c) →
      ckBase ((s.cell c).ioReg Reg.CKAREA.base) + len ≤ 0x2000 → mirrorOk b (c % 16) len (s.region (c / 128)) = true →
      (s.region (c / 128)).blockReset.contains b = false → (∀ j, j < 8 →
          bankServes (16 + 8 * b + j) (s.region (c / 128)) = true) →
      n = nextSlot (newestRecord (s.ctx (c / 128)) b (c % 16) len (s.region (c / 128))).1 →
      Completes (.ckpt c) s (fun t => ∃ rec : List Byte,
        Stored (.bmem b (slotAt b (c % 16) n.1 len (s.region (c / 128)))) rec (s.region (c / 128)) (t.region (c / 128))
          ∧ rec.length = 768 + len ∧ wordAt rec 0 = BitVec.ofNat 32 n.2 ∧ wordAt rec 4 = BitVec.ofNat 32 (768 + len)
          ∧ (∀ j : Fin 15, wordAt rec (0x10 + 4 * j.val) = (s.cell c).g (Fin.ofNat 16 (j.val + 1)))
          ∧ wordAt rec 0x4C = ((s.cell c).pc + 4).zeroExtend 32 ∧ wordAt rec 0xFC = ~~~ BitVec.ofNat 32 n.2
          ∧ t = { s with regions := t.regions } ∧ (∀ q, q ≠ c / 128 → t.region q = s.region q)
          ∧ RegsBut [] (s.region (c / 128)) (t.region (c / 128)) ∧ (∀ q, q ≠ c.val → t.cell q = s.cell q)
          ∧ (t.cell c).fixed = (s.cell c).fixed ∧ SameRegs (s.cell c) (t.cell c) ∧ (t.cell c).acc = (s.cell c).acc
          ∧ IoBut [] (s.cell c) (t.cell c) ∧ Follows (s.cell c) (t.cell c)))
  ∧ ((∀ (c : CellId) (a b d : RegNo) (p n : Nat) (s : State), Ready c 0x36 [a, b, d] false s → a ≠ b → a ≠ d → b ≠ d →
      p = ((s.cell c).g a).toNat → n = ((s.cell c).g b).toNat → p + n ≤ 0x2000 → (s.cell c).longOps = [] →
      (s.cell c).storeBuf = [] →
      Completes (.crcb c a b d) s (fun t => ∃ j, BlockFrame id c j n s t
        ∧ ∀ q, (t.cell c).g q = if q = 0 then 0 else if q = a then BitVec.ofNat 32 (p + j)
            else if q = b then BitVec.ofNat 32 (n - j)
            else if q = d then (mapRead zeroByte (s.cell c).dmem p j).foldl
              (fun st x => crcOn (s.cell c) 8 st (x.zeroExtend 32)) ((s.cell c).g d)
            else (s.cell c).g q))
    ∧ (∀ (c : CellId) (a b d : RegNo) (p q n : Nat) (s : State), Ready c 0x37 [a, b, d] false s → a ≠ b → a ≠ d → b ≠ d →
      p = ((s.cell c).g a).toNat → q = ((s.cell c).g d).toNat → n = ((s.cell c).g b).toNat →
      p + n ≤ 0x2000 → q + n ≤ 0x2000 → (q ≤ p ∨ p + n ≤ q) → (s.cell c).longOps = [] → (s.cell c).storeBuf = [] →
      Completes (.blkmov c a b d) s (fun t => ∃ j, BlockFrame (fun k => { k with dmem := [] }) c j n s t
        ∧ (∀ o, mapGet zeroByte (t.cell c).dmem o = if q ≤ o ∧ o < q + j then mapGet zeroByte (s.cell c).dmem (p + (o - q))
            else mapGet zeroByte (s.cell c).dmem o)
        ∧ ∀ g, (t.cell c).g g = if g = 0 then 0 else if g = a then BitVec.ofNat 32 (p + j)
            else if g = b then BitVec.ofNat 32 (n - j) else if g = d then BitVec.ofNat 32 (q + j) else (s.cell c).g g)))

/-! ## Coefficient banks -/

/-- R289, R290: a write through CFIN reaches the inactive bank at once; SWAP sets PEND and CANCEL clears it; a sample
boundary between instructions with PEND set exchanges the banks, clears PEND and counts the swap, and without PEND
changes nothing of the cell. Choices of the model: that the command is the event, where one is due (log 32). -/
def Obligations.CoefficientBanks : Prop :=
  ∀ (c : CellId) (s : State), (s.cell c).inReset = false →
    (∀ (i : Fin 64) (v : Word), Completes (.coefficientWrite c i v) s (fun t => OnlyCell c s t
      ∧ ({ t.cell c with coef := [] } : Cell) = { s.cell c with coef := [] }
      ∧ ∀ j, (t.cell c).coefAt j =
          if j = (if ((s.cell c).ioReg Reg.CFCTL.base).getLsbD 0 then i.val else 64 + i.val) then v else (s.cell c).coefAt j))
    ∧ Completes (.swap c) s (fun t => OnlyCell c s t
        ∧ t.cell c = (s.cell c).setIo Reg.CFCTL.base ((s.cell c).ioReg Reg.CFCTL.base ||| 2))
    ∧ Completes (.cancel c) s (fun t => OnlyCell c s t
        ∧ t.cell c = (s.cell c).setIo Reg.CFCTL.base ((s.cell c).ioReg Reg.CFCTL.base &&& ~~~ 2))
    ∧ (Live (c / 128) s → (s.cell c).awaiting = false → (s.cell c).micro = none →
        Completes (.sampleBoundary c) s (fun t =>
          OnlyRegion (c / 128) s t ∧ RegsBut [] (s.region (c / 128)) (t.region (c / 128)) ∧ (∀ q, q ≠ c.val →
              t.cell q = s.cell q)
            ∧ t.cell c = if ((s.cell c).ioReg Reg.CFCTL.base).getLsbD 1 then
                ((s.cell c).setIo Reg.CFCTL.base (((s.cell c).ioReg Reg.CFCTL.base &&& ~~~ 2) ^^^ 1)).setIo Reg.CFSWAPS.base
                  (satAdd 0xFFFF ((s.cell c).ioReg Reg.CFSWAPS.base) 1)
              else s.cell c))

/-! ## The load engine -/

namespace Sys2Proof.Machine

/-- The header of a golden copy is in order (R135, R137). -/
def HeaderGood (base : Nat) (R : Region) : Prop :=
  leNat (rawRead (.rmem base) 4 R) = 0x4D594743 ∧ leNat (rawRead (.rmem (base + 4)) 1 R) = 1
    ∧ leNat (rawRead (.rmem (base + 8)) 4 R) = 0x7000 ∧ base + 0x7000 ≤ 0x100000

end Sys2Proof.Machine

/-- R137, R139: a software start of the idle engine on a stopped cell with a good golden copy, the base section not
selected, makes it busy; on a running cell it is refused with result 3, with the base section selected with result 4,
and counted. A load whose body, in the copy named at its start, has the header's CRC ends with result 0 and marks its
sections valid; with another CRC it ends with result 1, clears them and is counted. Choices of the model: that a load
ends in one step (log 55). -/
def Obligations.LoadEngine : Prop :=
  (∀ (r : RegionId) (bk : BlockId) (v : Word) (x base : Nat) (s : State), Live r s →
    (s.region r).blockReset.contains bk.val = false → v.getLsbD 0 = true → x = bitsOf v 7 4 →
    ((s.region r).reg (blk Reg.BK_LDSTAT bk)).getLsbD 0 = false →
    (((s.region r).cell (16 * bk.val + x)).running = true → Completes (.loadStart r bk v) s (fun t => OnlyRegion r s t
      ∧ (t.region r).reg (blk Reg.BK_LDSTAT bk) = BitVec.ofNat 32 (16 * x + 6)
      ∧ (t.region r).reg (blk Reg.BK_LDFAIL bk) = satAdd 0xFFFF ((s.region r).reg (blk Reg.BK_LDFAIL bk)) 1
      ∧ RegsBut [blk Reg.BK_LDCTL bk, blk Reg.BK_LDSTAT bk, blk Reg.BK_LDFAIL bk] (s.region r) (t.region r)
      ∧ (t.region r).cells = (s.region r).cells))
    ∧ (((s.region r).cell (16 * bk.val + x)).running = false → v.getLsbD 11 = true →
      Completes (.loadStart r bk v) s (fun t => OnlyRegion r s t
        ∧ (t.region r).reg (blk Reg.BK_LDSTAT bk) = BitVec.ofNat 32 (16 * x + 8)
        ∧ (t.region r).reg (blk Reg.BK_LDFAIL bk) = satAdd 0xFFFF ((s.region r).reg (blk Reg.BK_LDFAIL bk)) 1
        ∧ RegsBut [blk Reg.BK_LDCTL bk, blk Reg.BK_LDSTAT bk, blk Reg.BK_LDFAIL bk] (s.region r) (t.region r)
        ∧ (t.region r).cells = (s.region r).cells))
    ∧ (((s.region r).cell (16 * bk.val + x)).running = false → v.getLsbD 11 = false →
      base = goldBase bk.val x (s.region r) → Served r (.rmem base) 64 s → HeaderGood base (s.region r) →
      Completes (.loadStart r bk v) s (fun t => OnlyRegion r s t
        ∧ (t.region r).reg (blk Reg.BK_LDSTAT bk) = BitVec.ofNat 32 (16 * x + 1)
        ∧ mapGet noneAt (t.region r).load bk.val = some
            ⟨x, bitsOf v 11 8, true, base, BitVec.ofNat 32 (leNat (rawRead (.rmem (base + 12)) 4 (s.region r))), false⟩
        ∧ RegsBut [blk Reg.BK_LDCTL bk, blk Reg.BK_LDSTAT bk] (s.region r) (t.region r)
        ∧ (t.region r).cells = (s.region r).cells)))
  ∧ (∀ (r : RegionId) (bk : BlockId) (l : Load) (base : Nat) (body : List Byte) (s : State), Steady r s →
    mapGet noneAt (s.region r).load bk.val = some l → base = l.base → l.bad = false →
    base + 0x7000 ≤ 0x100000 → (∀ b, b < 16 → bankServes b (s.region r) = true) →
    ((s.region r).takeover bk.val).phase ≠ .load →
    body = rawRead (.rmem (base + 0x40)) 0x800 (s.region r) ++ rawRead (.rmem (base + 0x1000)) 0x6000 (s.region r) →
    (crc32c body = l.crc →
      Completes (.loadComplete r bk) s (fun t => OnlyRegion r s t
        ∧ (t.region r).reg (blk Reg.BK_LDSTAT bk) = BitVec.ofNat 32 (16 * l.cell)
        ∧ mapGet noneAt (t.region r).load bk.val = none
        ∧ (t.region r).cell (16 * bk.val + l.cell) = loadSections l.sections body ((s.region r).cell (16 * bk.val + l.cell))
        ∧ (∀ q, q ≠ 16 * bk.val + l.cell → (t.region r).cell q = (s.region r).cell q)
        ∧ RegsBut [blk Reg.BK_LDSTAT bk, (sectAt bk l.cell).1] (s.region r) (t.region r)
        ∧ (t.region r).reg (sectAt bk l.cell).1 = (setSections bk l.cell
            (sections bk l.cell (s.region r) ||| sectMask l.sections) (s.region r)).reg (sectAt bk l.cell).1))
    ∧ (crc32c body ≠ l.crc →
      Completes (.loadComplete r bk) s (fun t => OnlyRegion r s t
        ∧ (t.region r).reg (blk Reg.BK_LDSTAT bk) = BitVec.ofNat 32 (16 * l.cell + 2)
        ∧ (t.region r).reg (blk Reg.BK_LDFAIL bk) = satAdd 0xFFFF ((s.region r).reg (blk Reg.BK_LDFAIL bk)) 1
        ∧ (∀ q, q ≠ 16 * bk.val + l.cell → (t.region r).cell q = (s.region r).cell q)
        ∧ RegsBut [blk Reg.BK_LDSTAT bk, blk Reg.BK_LDFAIL bk, (sectAt bk l.cell).1] (s.region r) (t.region r)
        ∧ (t.region r).reg (sectAt bk l.cell).1 = (setSections bk l.cell
            (sections bk l.cell (s.region r) &&& (15 - sectMask l.sections)) (s.region r)).reg (sectAt bk l.cell).1)))

/-! ## Events -/

namespace Sys2Proof.Machine

/-- What a channel's arrival leaves alone. -/
def Region.noArrivals (R : Region) : Region :=
  { R with regs := [], ev := { R.ev with fabric := [], accepted := [], lastAcc := [], xout := [] } }

end Sys2Proof.Machine

/-- R198: a write of EV_FIRE fires its channel at the present edge, with GTIME as its stamp. R193, R195, R206: at the
next
edge a fire of a disabled channel is lost; an enabled channel accepts it, or drops it and counts the drop where its
minimum interval has not passed. An accepted one sets LASTGT and leaves on the chip-wide channels that carry it. R194,
R196, R197, R212: at the edge after, it sends one trigger to each task of the fork list as it then stands, here tasks of
cells, and sets its request bit where the channel asks for a doorbell; triggers of two channels for one task at one edge
become one, with the lesser stamp, and are counted.

R206, R207: of the arrivals that left their origins on a chip-wide channel, the one accepted first is delivered to
every region that is not in reset, as that channel's source, with its stamp, which the channel's registers show.
Choices of the model: that the command is the event, where one is due (log 32), the edge at which a command acts (log
57). -/
def Obligations.EventChannels : Prop :=
  ((∀ (r : RegionId) (n : Fin 256) (v : Word) (s : State), Live r s → bitsOf v 7 0 = n.val →
      Completes (.evFire r v) s (fun t => RegionBut (fun Q => { Q with ev := { Q.ev with fabric := [] } }) [] r s t
        ∧ (t.region r).ev.fabric = (s.region r).ev.fabric ++ [⟨0x400 + n.val, s.time.gtime⟩]))
    ∧ (∀ (x : Ctx) (n : Fin 256) (st : Ticks) (R R' : Region), mapWf regionDefault R.regs = true → R' = evTick x R →
      R.ev.fabric = [⟨0x400 + n.val, st⟩] →
      R'.noArrivals = R.noArrivals ∧ R'.ev.fabric = []
      ∧ (R.bit (regAt Reg.EV_CH_CFG n 0) 31 = false →
          RegsBut [] R R' ∧ R'.ev.accepted = [] ∧ R'.ev.lastAcc = R.ev.lastAcc ∧ R'.ev.xout = R.ev.xout)
      ∧ (R.bit (regAt Reg.EV_CH_CFG n 0) 31 = true → evAccepts (x.time.pclk - 1) n R = false →
          RegsBut [regAt Reg.EV_CH_DROP n 0] R R' ∧ R'.ev.accepted = [] ∧ R'.ev.lastAcc = R.ev.lastAcc
              ∧ R'.ev.xout = R.ev.xout
          ∧ R'.reg (regAt Reg.EV_CH_DROP n 0) = satAdd 0xFFFF (R.reg (regAt Reg.EV_CH_DROP n 0)) 1)
      ∧ (R.bit (regAt Reg.EV_CH_CFG n 0) 31 = true → evAccepts (x.time.pclk - 1) n R = true →
          RegsBut [regAt Reg.EV_CH_LASTGT n 0] R R'
          ∧ R'.reg (regAt Reg.EV_CH_LASTGT n 0) = st.truncate 32
          ∧ (∀ j, mapGet noneAt R'.ev.lastAcc j = if j = n.val then some (x.time.pclk - 1) else mapGet noneAt R.ev.lastAcc j)
          ∧ R'.ev.xout = R.ev.xout ++ (xevOf x n).map (fun c => ⟨c, st, x.time.pclk⟩)
          ∧ R'.ev.accepted = [⟨n, st, if R.bit (regAt Reg.EV_CH_CFG n 0) 30 then some (evSrc n R) else none⟩]))
    ∧ (∀ (x : Ctx) (n : Fin 256) (st : Ticks) (db : Option Nat) (R : Region),
      (∀ q, db = some q → R.ev.req.contains q = false) → (∀ k ∈ evForks n R, 0x180 ≤ k) →
      evActs x [⟨n, st, db⟩] R = { R with ev := { R.ev with
        crossing := R.ev.crossing ++ (evForks n R).map (fun k => ⟨k, st⟩)
        req := match db with | some q => addBit q R.ev.req | none => R.ev.req } })
    ∧ (∀ (x : Ctx) (n m : Fin 256) (st su : Ticks) (k : Nat) (R : Region), evForks n R = [k] → evForks m R = [k] →
        0x180 ≤ k →
      evActs x [⟨n, st, none⟩, ⟨m, su, none⟩] R = { (R.count (regAt Reg.EV_TK k 0)) with ev := { R.ev with
        crossing := R.ev.crossing ++ [⟨k, if su.toNat < st.toNat then su else st⟩] } }))
  ∧ (∀ (ch : Fin 16) (o : Nat) (e : Carried) (s : State), o < 8 →
      (s.region o).ev.xout.find? (fun e => e.xev == ch.val) = some e →
      (∀ q d, q < 8 → (s.region q).ev.xout.find? (fun e => e.xev == ch.val) = some d → e.edge < d.edge ∨ (e.edge = d.edge
          ∧ o ≤ q)) →
      Completes (.chipWideDelivery ch) s (fun t =>
        ChipRegs [regAt Reg.CH_XEV_GT_L ch 0, regAt Reg.CH_XEV_GT_H ch 0] { s with regions := t.regions } t
          ∧ t.chipReg (regAt Reg.CH_XEV_GT_L ch 0) = e.stamp.truncate 32
          ∧ t.chipReg (regAt Reg.CH_XEV_GT_H ch 0) = (e.stamp >>> 32).truncate 32
          ∧ ∀ q, ({ t.region q with ev := { (t.region q).ev with fabric := [], xout := [] } } : Region)
                = { s.region q with ev := { (s.region q).ev with fabric := [], xout := [] } }
            ∧ (t.region q).ev.xout = (if q = o then (s.region o).ev.xout.eraseP (fun e =>
                e.xev == ch.val) else (s.region q).ev.xout)
            ∧ (t.region q).ev.fabric = (s.region q).ev.fabric
                ++ if q < 8 ∧ (s.region q).inReset = false then [⟨1 + ch.val, e.stamp⟩] else []))

/-! ## Interrupts -/

namespace Sys2Proof.Machine

/-- What a post of source `q` does (R213): a source of priority 0 is discarded; one that pends or is delivered is
merged; any other one pends. -/
def Posted (q : Nat) (R R' : Region) : Prop :=
  if icPrio q R = 0 then
    R'.reg Reg.IC_DISCARD.base = satAdd 0xFFFF (R.reg Reg.IC_DISCARD.base) 1 ∧ RegsBut [Reg.IC_DISCARD.base] R R'
  else if icPending q R || icDelivered q R then
    R'.reg Reg.IC_COAL.base = satAdd 0xFFFF (R.reg Reg.IC_COAL.base) 1 ∧ RegsBut [Reg.IC_COAL.base] R R'
  else RegsBut [regAt Reg.IC_PEND (q / 32) 0] R R' ∧ ∀ j, icPending j R' = (decide (j = q) || icPending j R)

end Sys2Proof.Machine

/-- R217: a write of q to IC_EOI completes source q. Where q is active its active state ends: a message source that is
pending stays pending, and a level source becomes pending when its line is asserted. Where q is not active the write has
no effect but that IC_EOIBAD counts it. A write from a cell, `false`, or from the host, `true`, does the same. -/
def Obligations.EndOfInterrupt : Prop :=
  ∀ (r : RegionId) (v : Word) (q : Nat) (R : Region) (s : State), Live r s → R = s.region r → q = bitsOf v 11 0 →
    (icActive q R = false → Completes (.icEoi r v) s (fun t => RegionRegs [Reg.IC_EOIBAD.base] r s t
        ∧ (t.region r).reg Reg.IC_EOIBAD.base = satAdd 0xFFFF (R.reg Reg.IC_EOIBAD.base) 1))
    ∧ (icActive q R = true → Completes (.icEoi r v) s (fun t =>
        RegionRegs [regAt Reg.IC_ACT (q / 32) 0, regAt Reg.IC_PEND (q / 32) 0] r s t
        ∧ (∀ j, j < 4096 → icActive j (t.region r) = (!decide (j = q) && icActive j R))
        ∧ ∀ j, j < 4096 → icPending j (t.region r) = (decide (j = q) && icLevel q R && icLine q R || icPending j R)))
    ∧ ∀ host : Bool, Completes (.icEoi r v) s (fun t =>
        ((s.writeReg host (some r.val) Reg.IC_EOI.base v).2).region r = t.region r)

/-- R212, R213: a doorbell posts its source; the generator hands the controller the first post bit from where its round
robin stands, clears it and goes on behind it.

R214: of the pending sources that are neither active nor delivered and have an eligible cell, the one of greatest
priority, then least number, is delivered to the first eligible cell from its pointer: it occupies the slot of its
priority, pends no more, and its cell and pointer are kept. R215: a delivered source whose cell is no longer a target of
that priority returns to pending.
Choices of the model: that the command is the event, where one is due (log 32). -/
def Obligations.InterruptDelivery : Prop :=
  (∀ (r : RegionId) (v : Word) (R : Region) (s : State), Live r s → R = s.region r →
      Completes (.icDoorbell r v) s (fun t => OnlyRegion r s t
        ∧ t.region r = { R with regs := (t.region r).regs } ∧ Posted (bitsOf v 11 0) R (t.region r))
      ∧ ∀ (p : Nat) (rest : List Nat), R.ev.post.filter (fun k => R.ev.postPtr ≤ k) ++ R.ev.post = p :: rest →
        Completes (.generatorPost r) s (fun t => OnlyRegion r s t
          ∧ t.region r = { R with
              regs := (t.region r).regs
              ev := { R.ev with post := R.ev.post.filter (fun k => k != p), postPtr := (p + 1) % 1024 } }
          ∧ Posted p R (t.region r)))
  ∧ (∀ (r : RegionId) (R : Region) (s : State), Live r s → R = s.region r → mapWf regionDefault R.regs = true →
      (∀ (q p i d : Nat), q < 4096 → p = icPrio q R → i = (R.field (icCfg q) 22 16 + d) % 128 → d < 128 →
        icPending q R = true → icActive q R = false → icDelivered q R = false → icEligible i q p R = true →
        (∀ e, e < d → icEligible ((R.field (icCfg q) 22 16 + e) % 128) q p R = false) →
        (∀ j k, j < 4096 → k < 128 → icPending j R = true → icActive j R = false → icDelivered j R = false →
          icEligible k j (icPrio j R) R = true → icPrio j R < p ∨ (icPrio j R = p ∧ q ≤ j)) →
        Completes (.delivery r) s (fun t =>
          RegionBut (fun Q => { Q with ev := { Q.ev with slots := [] } })
            [regAt Reg.IC_PEND (q / 32) 0, regAt Reg.IC_HELD i 0, icCfg q] r s t
          ∧ (∀ j, j < 4096 → icPending j (t.region r) = (!decide (j = q) && icPending j R))
          ∧ (∀ k, mapGet noneAt (t.region r).ev.slots k = if k = 16 * i + p then some q else mapGet noneAt R.ev.slots k)
          ∧ (t.region r).reg (regAt Reg.IC_HELD i 0) = setBit (R.reg (regAt Reg.IC_HELD i 0)) p true
          ∧ (t.region r).reg (icCfg q) = setBits (setBits (R.reg (icCfg q)) 31 25 i) 22 16 ((i + 1) % 128)))
      ∧ (∀ (i : Fin 128) (p : Fin 16) (q : Nat), q < 4096 → icSlot i p R = some q → icTarget i q p R = false →
        Completes (.recallSlot r i p) s (fun t =>
          RegionBut (fun Q => { Q with ev := { Q.ev with slots := [] } })
            [regAt Reg.IC_PEND (q / 32) 0, regAt Reg.IC_HELD i 0] r s t
          ∧ (∀ j, j < 4096 → icPending j (t.region r) = (decide (j = q) || icPending j R))
          ∧ (∀ k, mapGet noneAt (t.region r).ev.slots k = if k = 16 * i.val + p.val then none else mapGet noneAt R.ev.slots k)
          ∧ (t.region r).reg (regAt Reg.IC_HELD i 0) = setBit (R.reg (regAt Reg.IC_HELD i 0)) p false)))

/-- R222: a write of CH_MSIXDB is dropped and counted without MSI-X enabled, merged and counted where the vector pends,
left pending where it is masked, and otherwise sent; a pending vector is sent once its masks are 0.
Choices of the model: the MSI-X layout (log 5). -/
def Obligations.MessageInterrupts : Prop :=
  ∀ (vec : Fin 64) (v : Word) (m : Out) (s : State), bitsOf v 5 0 = vec.val →
    m = .msix (msixEntry vec 1 s.chip ++ msixEntry vec 0 s.chip : BitVec 64) (msixEntry vec 2 s.chip) →
    (s.chip.msixEnable = false → Completes (.msixDoorbell v) s (fun t => ChipRegs [Reg.CH_MSIXDROP.base] s t
      ∧ t.chipReg Reg.CH_MSIXDROP.base = satAdd 0xFFFF (s.chipReg Reg.CH_MSIXDROP.base) 1))
    ∧ (s.chip.msixEnable = true → msixPending vec s.chip = true →
      Completes (.msixDoorbell v) s (fun t => ChipRegs [Reg.CH_MSIXCOAL.base] s t
        ∧ t.chipReg Reg.CH_MSIXCOAL.base = satAdd 0xFFFF (s.chipReg Reg.CH_MSIXCOAL.base) 1))
    ∧ (s.chip.msixEnable = true → msixPending vec s.chip = false → msixMasked vec s.chip = true →
      Completes (.msixDoorbell v) s (fun t => ChipRegs [regAt Reg.CH_MSIX_PBA (vec / 32) 0] s t
        ∧ ∀ j, msixPending j t.chip = (decide (j = vec.val) || msixPending j s.chip)))
    ∧ (s.chip.msixEnable = true → msixPending vec s.chip = false → msixMasked vec s.chip = false →
      Completes (.msixDoorbell v) s (fun t => t = { s with out := s.out ++ [m] }))
    ∧ (s.chip.msixEnable = true → msixPending vec s.chip = true → msixMasked vec s.chip = false →
      Completes (.msixSend vec) s (fun t => ChipRegs [regAt Reg.CH_MSIX_PBA (vec / 32) 0] { s with out := s.out ++ [m] } t
        ∧ ∀ j, msixPending j t.chip = (!decide (j = vec.val) && msixPending j s.chip)))

/-! ## Snapshots and GTIME -/

namespace Sys2Proof.Machine

/-- A holding register of a region and the counter that it copies (R47), timers apart. -/
def SnapPair (lo hi : Nat) : Prop :=
  (∃ u : Fin 8, hi = regAt Reg.FB_UN_SNAP_L u 0 ∧ lo = regAt Reg.FB_UN_POS_L u 0)
    ∨ (∃ u : Fin 8, fbWide u = true ∧ hi = regAt Reg.FB_UN_SNAP_H u 0 ∧ lo = regAt Reg.FB_UN_POS_H u 0)
    ∨ (∃ (c : Fin 16) (k : Fin 4), hi = regAt Reg.AD_CH_ACC_SNAPCNT c k ∧ lo = regAt Reg.AD_CH_ACC_SCOUNT c k)
    ∨ (hi = Reg.AD_DIAG_SNAPCNT.base ∧ lo = Reg.AD_DIAG_SCOUNT.base)
    ∨ ∃ (b : Fin 8) (w : Fin 11), hi = regAt Reg.TL_B_SNAP b w ∧ lo = regAt Reg.TL_B_RUN b w

/-- A region after a snapshot that it takes, for its own command or, `chip`, for the chip's (R47, R258). -/
def SnapTaken (chip : Bool) (gt : Ticks) (R R' : Region) : Prop :=
  (∀ lo hi, SnapPair lo hi → R'.reg hi = R.reg lo)
    ∧ (∀ n : Fin 64, (R.linked n && R.tmRun n) = false → R'.reg (regAt Reg.TM_CH_SNAP n 0) = R.reg (regAt Reg.TM_CH_CNT n 0))
    ∧ (∀ n : Fin 64, R.linked n = true → R.tmRun n = true → R.countDue n = false → R'.reg (regAt Reg.TM_CH_SNAP n 0) =
        if R.tm.carryNext.contains n.val then (nextCount n R).1 else R.reg (regAt Reg.TM_CH_CNT n 0))
    ∧ R'.reg Reg.RG_SNAPSTAT.base = BitVec.ofNat 32 (1 + 2 * chip.toNat)
    ∧ R'.pairVal Reg.RG_SNAPGT_L.base Reg.RG_SNAPGT_H.base = gt
    ∧ ∀ a, (∀ lo, ¬ SnapPair lo a) → (∀ n : Fin 64, a ≠ regAt Reg.TM_CH_SNAP n 0) →
      a ∉ [Reg.RG_SNAPSTAT.base, Reg.RG_SNAPGT_L.base, Reg.RG_SNAPGT_H.base] → R'.reg a = R.reg a

end Sys2Proof.Machine

/-- R46 to R49: GO asks for a snapshot; at its edge a region that is not busy copies every counter to its holding
register, keeps GTIME and is busy, with CHIP where the command was the chip's; one that is busy counts every command as
dropped, and so does the chip. At completion BUSY falls.

R30: a write of CH_GTSTEP_H arms the step of both registers in place of one that waits; the step is added to GTIME,
and is over, where no sample group is armed, and waits where one is.
Choices of the model: that the command is the event, where one is due (log 32), the edge at which a command acts (log
57). -/
def Obligations.SnapshotsAndTimeSteps : Prop :=
  ((∀ (r : RegionId) (s : State), Live r s → Completes (.rgSnap r) s (fun t =>
        OnlyRegion r s t ∧ t.region r = { s.region r with snapReq := (s.region r).snapReq + 1 }))
    ∧ (∀ s : State, Completes .chSnap s (fun t => t = { s with chip := { s.chip with snapReq := s.chip.snapReq + 1 } }))
    ∧ (∀ (m : BitVec 8) (chip busy : Bool) (n : Nat) (s : State), n = (if chip then s.chip.snapReq else 0) →
        busy = (s.chipReg Reg.CH_SNAPSTAT.base).getLsbD 0 →
        Completes (.snapshotEdge m chip) s (fun t =>
          ChipBut (fun h => { h with snapReq := 0 })
            (if n = 0 then [] else if busy then [Reg.CH_SNAP_DROP.base]
              else [Reg.CH_SNAPSTAT.base, Reg.CH_SNAPGT_L.base, Reg.CH_SNAPGT_H.base]) { s with regions := t.regions } t
          ∧ t.chip.snapReq = (if chip then 0 else s.chip.snapReq)
          ∧ (n ≠ 0 → busy = true → t.chipReg Reg.CH_SNAP_DROP.base = satAdd 0xFFFF (s.chipReg Reg.CH_SNAP_DROP.base) n)
          ∧ (n ≠ 0 → busy = false → t.chipReg Reg.CH_SNAPSTAT.base = 1
            ∧ t.chipReg Reg.CH_SNAPGT_H.base ++ t.chipReg Reg.CH_SNAPGT_L.base = s.time.gtime)
          ∧ ∀ (r : RegionId) (own wide : Nat), own = (if m.getLsbD r then (s.region r).snapReq else 0) →
            wide = (if busy then 0 else n) →
            ({ t.region r with regs := [], snapReq := 0 } : Region) = { s.region r with regs := [], snapReq := 0 }
            ∧ (t.region r).snapReq = (if m.getLsbD r then 0 else (s.region r).snapReq)
            ∧ (own + wide = 0 ∨ (s.region r).inReset = true → RegsBut [] (s.region r) (t.region r))
            ∧ (own + wide ≠ 0 → (s.region r).inReset = false → (s.region r).bit Reg.RG_SNAPSTAT.base 0 = true →
              RegsBut [Reg.RG_SNAP_DROP.base] (s.region r) (t.region r)
                ∧ (t.region r).reg Reg.RG_SNAP_DROP.base = satAdd 0xFFFF ((s.region r).reg Reg.RG_SNAP_DROP.base) (own + wide))
            ∧ (own + wide ≠ 0 → (s.region r).inReset = false → (s.region r).bit Reg.RG_SNAPSTAT.base 0 = false →
              SnapTaken (wide != 0) s.time.gtime (s.region r) (t.region r))))
    ∧ (∀ (m : BitVec 8) (chip : Bool) (s : State), Completes (.snapshotComplete m chip) s (fun t =>
        ChipRegs [Reg.CH_SNAPSTAT.base] { s with regions := t.regions } t
          ∧ t.chipReg Reg.CH_SNAPSTAT.base = (if chip then 0 else s.chipReg Reg.CH_SNAPSTAT.base)
          ∧ ∀ r : RegionId, ({ t.region r with regs := [] } : Region) = { s.region r with regs := [] }
            ∧ RegsBut [Reg.RG_SNAPSTAT.base] (s.region r) (t.region r)
            ∧ (t.region r).reg Reg.RG_SNAPSTAT.base =
              if m.getLsbD r then setBit ((s.region r).reg Reg.RG_SNAPSTAT.base) 0 false
              else (s.region r).reg Reg.RG_SNAPSTAT.base)))
  ∧ ((∀ (v : Word) (s : State), Completes (.gtimeStepArm v) s (fun t =>
        t = { s with time := t.time, chip := t.chip } ∧ ChipRegs [Reg.CH_GTSTEP_H.base] { s with time := t.time } t
          ∧ t.chipReg Reg.CH_GTSTEP_H.base = v
          ∧ t.time = { s.time with step := some (v ++ s.chipReg Reg.CH_GTSTEP_L.base : BitVec 64) }))
    ∧ (∀ (d : Ticks) (s : State), s.time.step = some d →
        ((∀ (r : RegionId) (g : Fin 8), sgArmed g (s.region r) = false) → Completes .gtimeStepApply s (fun t =>
          t = { s with time := { s.time with gtime := s.time.gtime + d, step := none } }))
        ∧ ((∃ (r : RegionId) (g : Fin 8), sgArmed g (s.region r) = true) → Completes .gtimeStepApply s (fun t => t = s))))

/-! ## Conversion -/

namespace Sys2Proof.Machine

/-- Sample group `g` is judged at instant `t` (R227): an instant to come is waited for; one already past is counted as
missed, and a series goes on at its first instant still to come. -/
def GroupJudged (x : Ctx) (g : Nat) (t : Ticks) (R R' : Region) : Prop :=
  ((x.gtAclk x.aclk).toNat < t.toNat → sgWait g R' = .at t
    ∧ R'.reg (regAt Reg.AD_SG_MISS g 0) = R.reg (regAt Reg.AD_SG_MISS g 0))
  ∧ (t.toNat ≤ (x.gtAclk x.aclk).toNat →
    R'.reg (regAt Reg.AD_SG_MISS g 0) = satAdd 0xFFFF (R.reg (regAt Reg.AD_SG_MISS g 0)) 1
      ∧ (sgPer g R = 0 → sgWait g R' = .idle)
      ∧ (sgPer g R ≠ 0 → ∃ k, sgWait g R' = .at (BitVec.ofNat 64 (t.toNat + (k + 1) * (sgPer g R * 40)))
          ∧ t.toNat + k * (sgPer g R * 40) ≤ (x.gtAclk x.aclk).toNat
          ∧ (x.gtAclk x.aclk).toNat < t.toNat + (k + 1) * (sgPer g R * 40)))

/-- Register `j` of sample group `g`, as SAMPLE_GROUP_ARM numbers them: CFG, AT_L, AT_H. -/
def groupReg (g j : Nat) : Nat :=
  regAt (match j with | 0 => Reg.AD_SG_CFG | 1 => Reg.AD_SG_AT_L | _ => Reg.AD_SG_AT_H) g 0

/-- Pair `k` watches sample group `g` (R273). -/
def watches (k g : Nat) (R : Region) : Bool :=
  R.field (regAt Reg.TM_PAIR_DL k 0) 31 30 != 0 && R.field (regAt Reg.TM_PAIR_DL k 0) 26 24 == g

/-- A conversion that a start of group `g` at ACLK edge `m` begins, or joins, on channel `ch` (R228, R229, R231). -/
def convStarted (g m ch : Nat) (R : Region) : List Conv :=
  if (R.conv ch).any (fun c => c.edge == m) then
    (R.conv ch).map (fun c => if c.edge = m then { c with groups := c.groups ||| 2 ^ g } else c)
  else R.conv ch ++ [⟨2 ^ g, m, (sliceOf ch R).getD ch, none, none, false⟩]

/-- Accumulator `a` takes a sample of these groups (R233, R235). -/
def takes (a groups : Nat) (R : Region) : Bool :=
  accTaking a R && (a == 64 || bitsOf (R.reg (accBase a)) 19 12 == 0
      || bitsOf (R.reg (accBase a)) 19 12 &&& groups != 0)

/-- The next sample completes the sum of accumulator `a`. -/
def fills (a : Nat) (R : Region) : Bool :=
  bitsOf (R.reg (accStatAt a)) 7 0 + 1 == 2 ^ (bitsOf (R.reg (accBase a)) 2 0 + 1)

/-- What a sample of code `code` does to accumulator `a` (R233 to R235, R238): one that takes no sample, or none of
these groups, keeps its sum; another adds it and counts; the N-th sample of a sum gives the result and its stamp, and a
new sum begins, or a one-shot accumulator stops. -/
def Accumulated (a : Nat) (code : Int) (groups : Nat) (stamp : Ticks) (R R' : Region) : Prop :=
  if takes a groups R then
    R'.reg (accBase a + 0x14) = R.reg (accBase a + 0x14) + 1
      ∧ if fills a R then
          accSum a R' = 0 ∧ R'.reg (accRes a) = accResult (R.reg (accBase a)) (accSum a R + code)
            ∧ mapGet (fun _ => 0) R'.adc.resStamp a = stamp ∧ bitsOf (R'.reg (accStatAt a)) 7 0 = 0
            ∧ R'.bit (accStatAt a) 17 = true ∧ accRun a R' = (accRun a R && accMode a R != 1)
        else accSum a R' = accSum a R + code ∧ R'.reg (accRes a) = R.reg (accRes a)
          ∧ R'.reg (accStatAt a) = setBits (R.reg (accStatAt a)) 7 0 (bitsOf (R.reg (accStatAt a)) 7 0 + 1)
          ∧ mapGet (fun _ => 0) R'.adc.resStamp a = mapGet (fun _ => 0) R.adc.resStamp a
  else accSum a R' = accSum a R ∧ (∀ o ∈ [accStatAt a, accRes a, accBase a + 0x14], R'.reg o = R.reg o)
    ∧ mapGet (fun _ => 0) R'.adc.resStamp a = mapGet (fun _ => 0) R.adc.resStamp a

/-- Registers of accumulator `a` that a sample may change. -/
def accRegs (a : Nat) : List Nat := [accStatAt a, accRes a, accBase a + 0x14]

/-- A region without what a sample may change beside registers. -/
def Region.noSample (Q : Region) : Region :=
  { Q with
    adc := { Q.adc with conv := [], sum := [], resStamp := [], trk := [], diagEdge := none }
    ev := { Q.ev with sched := [] }, lp := { Q.lp with rcReady := [], exits := [] } }

/-- The exit, if any, that a sample makes at its band unit, 0 above, 1 below, and the zone it falls in (R279, R280). -/
def bandJudged (n : Nat) (code : Int) (R : Region) : Nat × Option Nat :=
  let cfg := R.reg (regAt Reg.LP_BAND_CFG n 0)
  let z := bandZone (bandCenter n R) (R.field (regAt Reg.LP_BAND_LIM n 0) 14 0) code
  (z, if cfg.getLsbD 31 ∧ z ≠ 0 ∧ (cfg.getLsbD 30 ∨ (R.reg (regAt Reg.LP_BAND_STAT n 0)).toNat ≠ z) then some (z - 1) else none)

/-- What a sample does to tracker `k` (R233, R239, R240): within its window it joins the extremes; beyond it, it is kept
for the windows that follow where they repeat. -/
def TrackerTook (k : Nat) (code : Int) (st : Ticks) (m groups : Nat) (R R' : Region) : Prop :=
  let q := R.tracker k
  let o := (trkOpen k R).toNat
  let gm := R.field (trkBase k) 19 12
  if q.armed = true ∧ (gm = 0 ∨ gm &&& groups ≠ 0) then
    (trkMode k R = 1 → st.toNat < o → R'.tracker k = q)
    ∧ ((trkMode k R = 1 ∧ o ≤ st.toNat ∧ st.toNat < o + trkLen k R) ∨ (trkMode k R = 2
        ∧ q.cur.cnt < max 2 (trkLen k R)) →
        R'.tracker k = { q with cur :=
          if q.cur.cnt = 0 then ⟨1, code, code, st, m⟩ else ⟨q.cur.cnt + 1, min q.cur.min code, max q.cur.max code, st,
              m⟩ })
    ∧ ((trkMode k R = 1 ∧ o + trkLen k R ≤ st.toNat) ∨ (trkMode k R = 2 ∧ max 2 (trkLen k R) ≤ q.cur.cnt) →
        R'.tracker k = if trkRepeat k R then { q with later := q.later ++ [⟨code, st, m⟩] } else q)
  else R'.tracker k = q

end Sys2Proof.Machine

/-- R227: a write of CFG or AT that leaves a group timed and armed, other than one of CFG that finds it so, judges its
instant; any other such write of CFG leaves nothing to wait for. R225, R228, R229, R231: a timed start that is due puts
every channel of the group in conversion and waits for the next instant of its series; during initial calibration, or
with
a channel of the group converting since less than 16 ACLK, it is refused and counted. R230, R273: three ACLK edges on,
the
aperture stamp is taken and shown, and the deadline windows that watch the group close and open.

R224, R229, R232, R233, R248: the oldest conversion of a channel, once it is over, delivers its sample: the value
with the correction of its slice, rounded and clipped to 16 bits. It goes to its band unit, whose exit goes to the event
fabric and the tramline (R279, R280, R282), to its accumulators and to its trackers. R243, R244: a channel that the
probe
drove converts the probe's value. R246: a sample of the parked spare reaches the diagnostic accumulator. Where the
value of
a sample is unspecified it is a free value (R245).
Choices of the model: that the command is the event, where one is due (log 32), the free sample (log 33), the edge at
which a command acts (log 57). -/
def Obligations.Sampling : Prop :=
  (∀ (r : RegionId) (g : Fin 8) (R : Region) (s : State), Live r s → R = s.region r →
      (∀ (j : Fin 3) (v : Word) (R1 : Region), R1 = plainWrite (groupReg g j) v R →
        Completes (.sampleGroupArm r g j v) s (fun t =>
          RegionBut (fun Q => { Q with adc := { Q.adc with wait := [] } }) [groupReg g j, regAt Reg.AD_SG_MISS g 0] r s t
          ∧ (t.region r).reg (groupReg g j) = R1.reg (groupReg g j)
          ∧ (∀ h, h ≠ g.val → sgWait h (t.region r) = sgWait h R)
          ∧ (sgArmed g R1 = true → sgTimed g R1 = true → (j = 0 → (sgArmed g R && sgTimed g R) = false) →
              GroupJudged (s.ctx r) g (sgAt g R1) R1 (t.region r))
          ∧ (j = 0 → (sgArmed g R && sgTimed g R && sgArmed g R1 && sgTimed g R1) = true →
              sgWait g (t.region r) = sgWait g R
                ∧ (t.region r).reg (regAt Reg.AD_SG_MISS g 0) = R.reg (regAt Reg.AD_SG_MISS g 0))
          ∧ ((sgArmed g R1 && sgTimed g R1) = false →
              sgWait g (t.region r) = (if j = 0 then .idle else sgWait g R)
                ∧ (t.region r).reg (regAt Reg.AD_SG_MISS g 0) = R.reg (regAt Reg.AD_SG_MISS g 0))))
      ∧ (sgDue (s.ctx r) (s.ctx r).aclkNext g R = none → Completes (.timedStart r g) s (fun t => RegionRegs [] r s t))
      ∧ (∀ m : Nat, sgDue (s.ctx r) (s.ctx r).aclkNext g R = some m →
        (initCal R = true ∨ sgBusy g m R = true → Completes (.timedStart r g) s (fun t =>
          RegionBut (fun Q => { Q with adc := { Q.adc with wait := [] } }) [regAt Reg.AD_SG_OVR g 0] r s t
            ∧ (t.region r).reg (regAt Reg.AD_SG_OVR g 0) = satAdd 0xFFFF (R.reg (regAt Reg.AD_SG_OVR g 0)) 1
            ∧ ∀ h, sgWait h (t.region r) = if h = g.val then (if sgPer g R = 0 then .idle else .edge (m + sgPer g R))
                else sgWait h R))
        ∧ (initCal R = false → sgBusy g m R = false →
          (∀ q, q < 2 → (R.calStep q).phase ≠ .handOver ∧ (R.calStep q).phase ≠ .handBack) →
          Completes (.timedStart r g) s (fun t =>
            RegionBut (fun Q => { Q with adc := { Q.adc with wait := [], conv := [], opens := [] } }) [] r s t
            ∧ (t.region r).adc.opens = R.adc.opens ++ [(g.val, m)]
            ∧ (∀ ch, (t.region r).conv ch = if ch < 16 ∧ R.bit (sgCfg g) ch = true then convStarted g m ch R else R.conv ch)
            ∧ ∀ h, sgWait h (t.region r) = if h = g.val then (if sgPer g R = 0 then .idle else .edge (m + sgPer g R))
                else sgWait h R)))
      ∧ (∀ (x : Ctx) (m : Nat) (st : Ticks) (R' : Region), st = x.gtAclk (m + 3) → R' = sgAperture x g m R →
        (∀ k, k < 24 → watches k g R = true → (R.pair k).window = none ∨ (R.pair k).onTime = true) →
        R'.pairVal (regAt Reg.AD_SG_GT_L g 0) (regAt Reg.AD_SG_GT_H g 0) = st
          ∧ RegsBut [regAt Reg.AD_SG_GT_L g 0, regAt Reg.AD_SG_GT_H g 0] R R'
          ∧ ({ R' with regs := [], adc := { R'.adc with conv := [] }, tm := { R'.tm with pair := [] } } : Region)
            = { R with regs := [], adc := { R.adc with conv := [] }, tm := { R.tm with pair := [] } }
          ∧ (∀ ch, ch < 16 → (∀ c ∈ R.conv ch, c.edge = m → c.stamp = none) → R'.conv ch = (R.conv ch).map (fun c =>
              if c.edge = m then { c with
                stamp := some st, probe := if probed ch R then some (probeCode R) else none
                free := sampleFree ch x.time.pclk st R } else c))
          ∧ ∀ k, R'.pair k = if k < 24 ∧ watches k g R = true then { R.pair k with window := some st, onTime := false }
              else R.pair k))
  ∧ (∀ (r : RegionId) (v w code : Int) (R : Region) (s : State), Live r s → R = s.region r →
      (∀ (n : Fin 17) (c : Conv) (l : List Conv) (st : Ticks) (m : Nat) (z : Nat × Option Nat), n.val < 16 →
          R.conv n = c :: l →
        c.stamp = some st → c.edge + 16 ≤ (s.ctx r).aclkNext → m = c.edge + 17 →
        (c.probe ≠ none → R.bit Reg.AD_CFG.base 0 = false) →
        w = (if c.free then Config.freeSample s.free
          else (v + R.corr c.slice + (match c.probe with | some p => (p * 98304 + 50) / 100 | none => 0) + 32) / 64) →
        code = clipCode w → z = bandJudged n code R →
        Completes (.sampleDelivered r n v) s (fun t =>
          RegionBut Region.noSample (regAt Reg.AD_CH_CLIP n 0 :: regAt Reg.LP_BAND_STAT n 0 :: regAt Reg.LP_BAND_XCNT n 0
            :: (List.range 4).flatMap (fun k => accRegs (4 * n + k))) r { s with free := s.free + 1 } t
          ∧ (∀ ch, (t.region r).conv ch = if ch = n.val then l else R.conv ch)
          ∧ (t.region r).reg (regAt Reg.AD_CH_CLIP n 0) = (if code = w then R.reg (regAt Reg.AD_CH_CLIP n 0)
              else satAdd 0xFFFF (R.reg (regAt Reg.AD_CH_CLIP n 0)) 1)
          ∧ (t.region r).reg (regAt Reg.LP_BAND_STAT n 0) = (if R.bit (regAt Reg.LP_BAND_CFG n 0) 31 then BitVec.ofNat 32 z.1
              else R.reg (regAt Reg.LP_BAND_STAT n 0))
          ∧ (t.region r).reg (regAt Reg.LP_BAND_XCNT n 0) = (match z.2 with
              | some 0 => setBits (R.reg (regAt Reg.LP_BAND_XCNT n 0)) 31 16 (R.field (regAt Reg.LP_BAND_XCNT n 0) 31 16 + 1)
              | some _ => setBits (R.reg (regAt Reg.LP_BAND_XCNT n 0)) 15 0 (R.field (regAt Reg.LP_BAND_XCNT n 0) 15 0 + 1)
              | none => R.reg (regAt Reg.LP_BAND_XCNT n 0))
          ∧ (t.region r).lp.exits = R.lp.exits ++ z.2.toList.map (fun d => (aclkEdge m, 2 * n.val + d))
          ∧ (∀ k, k < 4 → Accumulated (4 * n + k) code c.groups st R (t.region r))
          ∧ (t.region r).ev.sched = R.ev.sched ++ z.2.toList.map (fun d => (aclkEdge m, 0x070 + 2 * n.val + d))
              ++ ((List.range 4).filter (fun k => takes (4 * n + k) c.groups R && fills (4 * n + k) R)).map (fun k =>
                (aclkEdge m, 0x030 + (4 * n.val + k)))
          ∧ (∀ k, k < 2 → TrackerTook (2 * n + k) code st m c.groups R (t.region r))
          ∧ (∀ k, k ≠ 2 * n.val → k ≠ 2 * n.val + 1 → (t.region r).tracker k = R.tracker k)
          ∧ ∀ a, (∀ k, k < 4 → a ≠ 4 * n.val + k) → accSum a (t.region r) = accSum a R))
      ∧ (∀ n : Fin 17, n.val < 16 → (∀ c l, R.conv n = c :: l → c.stamp = none ∨ (s.ctx r).aclkNext < c.edge + 16) →
        Completes (.sampleDelivered r n v) s (fun t => RegionRegs [] r { s with free := s.free + 1 } t))
      ∧ (∀ (m : Nat) (st : Ticks) (ready : Bool), m = (s.ctx r).aclkNext → st = (s.ctx r).gtAclk (m - 13) →
        R.bit Reg.AD_CFG.base 0 = false →
        ready = (R.field Reg.AD_PROBE.base 31 30 == 2 && sliceState (16 + R.field Reg.AD_PROBE.base 20 20) R == 4
          && R.adc.diagEdge.all (fun e => decide (e + 16 ≤ m))) →
        w = (if sampleFree 16 (5 * (m - 13) / 2) st R then Config.freeSample s.free
          else (v + R.corr (16 + R.field Reg.AD_PROBE.base 20 20) + (probeCode R * 98304 + 50) / 100 + 32) / 64) →
        code = clipCode w →
        Completes (.sampleDelivered r 16 v) s (fun t =>
          RegionBut Region.noSample (accRegs 64) r { s with free := s.free + 1 } t
          ∧ (if ready then Accumulated 64 code 0 st R (t.region r) ∧ (t.region r).ev = R.ev ∧ (t.region r).lp = R.lp
              ∧ (t.region r).adc.diagEdge = some m
            else RegionRegs [] r { s with free := s.free + 1 } t))))

namespace Sys2Proof.Machine

/-- What the end of tracker `k`'s window does (R241): the extremes, or the pair that says there are none with fewer than
two samples, the count, END and the event; a repeating tracker goes on with the next window. -/
def WindowEnded (m k : Nat) (R R' : Region) : Prop :=
  let b := trkBase k
  let w := (R.tracker k).cur
  let close := trkOpen k R + BitVec.ofNat 64 (trkLen k R)
  R'.reg (b + 0x18) = (if 2 ≤ w.cnt then (BitVec.ofInt 16 w.max ++ BitVec.ofInt 16 w.min : BitVec 32) else 0x80007FFF)
    ∧ R'.reg (b + 0x1C) = BitVec.ofNat 32 w.cnt ∧ R'.bit (b + 8) 2 = decide (2 ≤ w.cnt)
    ∧ R'.pairVal (b + 0x20) (b + 0x24) = (if trkMode k R = 1 then close else w.last)
    ∧ R'.tracker k = (R.tracker k).later.foldl (trkTake k R') ⟨trkRepeat k R, windowInit, []⟩
    ∧ R'.pairVal (b + 0x10) (b + 0x14) = (if trkMode k R = 1 ∧ trkRepeat k R = true then close else trkOpen k R)
    ∧ R'.ev.sched = R.ev.sched ++ [(aclkEdge m, 0x090 + k)]

/-- Registers that the end of a window may change. -/
def windowRegs (k : Nat) : List Nat := [8, 0x10, 0x14, 0x18, 0x1C, 0x20, 0x24].map (fun j => trkBase k + j)

/-- A region without its trackers and pulses. -/
def Region.noTracker (Q : Region) : Region :=
  { Q with adc := { Q.adc with trk := [] }, ev := { Q.ev with sched := [] } }

/-- The ACLK edge to which the event of tracker `k`'s window end belongs: `m`, or that of the last sample (R240). -/
def windowEdge (m k : Nat) (R : Region) : Nat := if trkMode k R = 2 then (R.tracker k).cur.edge else m

end Sys2Proof.Machine

/-- R235 to R237: reading a result answers it and copies its stamp; a write of a configuration restarts the sum, and
only a one-shot accumulator that stays one keeps its run; GO restarts the sum of an accumulator that is on. R239 to
R242: GO arms a window afresh; the end of a window, when it has come, gives its result; a write that changes MODE or
REPEAT ends the window without one, and one that moves the window into the past ends it. Choices of the model: that the
command is the event, where one is due (log 32), the edge at which a command acts (log 57). -/
def Obligations.AccumulatorsAndTrackers : Prop :=
  ∀ (r : RegionId) (ch : Fin 16) (R : Region) (s : State), Live r s → R = s.region r →
    (∀ (k : Fin 4) (a : Nat), a = 4 * ch.val + k.val →
      Completes (.readAccumulatorResult r ch k) s (fun t =>
        RegionRegs [accBase a + 0xC, accBase a + 0x10] r { s with host := t.host } t
          ∧ t.host = some (.data (words4 [R.reg (accRes a)]))
          ∧ (t.region r).pairVal (accBase a + 0xC) (accBase a + 0x10) = mapGet (fun _ => 0) R.adc.resStamp a)
      ∧ (∀ (v : Word) (m : Nat), m = bitsOf v 31 30 → Completes (.accumulatorConfigWrite r ch k v) s (fun t =>
          RegionBut (fun Q => { Q with adc := { Q.adc with sum := [] } }) [accBase a, accStatAt a] r s t
          ∧ (t.region r).reg (accBase a) = maskWrite Reg.AD_CH_ACC_CFG.mask (R.reg (accBase a)) v
          ∧ (∀ j, accSum j (t.region r) = if j = a then 0 else accSum j R)
          ∧ bitsOf ((t.region r).reg (accStatAt a)) 7 0 = 0
          ∧ accRun a (t.region r) = (m == 2 || (m == 1 && accMode a R == 1 && accRun a R))
          ∧ (t.region r).bit (accStatAt a) 17 = R.bit (accStatAt a) 17))
      ∧ Completes (.accumulatorGo r ch k) s (fun t =>
          RegionBut (fun Q => { Q with adc := { Q.adc with sum := [] } }) [accStatAt a] r s t
          ∧ (∀ j, accSum j (t.region r) = if j = a ∧ (accMode a R = 1 ∨ accMode a R = 2) then 0 else accSum j R)
          ∧ (t.region r).reg (accStatAt a) = (if accMode a R = 1 ∨ accMode a R = 2 then
              setBit (setBits (R.reg (accStatAt a)) 7 0 0) 16 true else R.reg (accStatAt a))))
    ∧ (∀ (k : Fin 2) (q : Nat), q = 2 * ch.val + k.val →
      Completes (.trackerGo r ch k) s (fun t => RegionBut Region.noTracker [] r s t ∧ (t.region r).ev = R.ev
        ∧ ∀ j, (t.region r).tracker j = if j = q ∧ (trkMode q R = 1 ∨ trkMode q R = 2) then
            ⟨true, windowInit, []⟩ else R.tracker j)
      ∧ (trkPast (s.ctx r) (s.ctx r).aclkNext q R = false → Completes (.trackerWindowEnd r ch k) s (fun t =>
          RegionRegs [] r s t))
      ∧ (trkPast (s.ctx r) (s.ctx r).aclkNext q R = true → Completes (.trackerWindowEnd r ch k) s (fun t =>
          RegionBut Region.noTracker (windowRegs q) r s t
          ∧ WindowEnded (windowEdge (s.ctx r).aclkNext q R) q R (t.region r) ∧ ∀ j, j ≠ q →
              (t.region r).tracker j = R.tracker j))
      ∧ (∀ (v : Word) (R1 : Region), R1 = plainWrite (trkBase q) v R →
        Completes (.trackerConfigWrite r ch k 0 v) s (fun t => RegionBut Region.noTracker [trkBase q] r s t
          ∧ (t.region r).reg (trkBase q) = R1.reg (trkBase q) ∧ (t.region r).ev = R.ev
          ∧ ∀ j, (t.region r).tracker j = if j = q ∧ (trkMode q R1 ≠ trkMode q R ∨ trkRepeat q R1 ≠ trkRepeat q R) then
              trackerInit else R.tracker j))
      ∧ (∀ (j : Fin 4) (v : Word) (a : Nat) (R1 : Region), j ≠ 0 → a = regAt (trackerReg j) ch k →
          R1 = plainWrite a v R →
        (trkPast (s.ctx r) (s.ctx r).aclk q R1 = false → Completes (.trackerConfigWrite r ch k j v) s (fun t =>
          RegionRegs [a] r s t ∧ (t.region r).reg a = R1.reg a))
        ∧ (trkPast (s.ctx r) (s.ctx r).aclk q R1 = true → Completes (.trackerConfigWrite r ch k j v) s (fun t =>
          RegionBut Region.noTracker (a :: windowRegs q) r s t
              ∧ WindowEnded (windowEdge (s.ctx r).aclk q R1) q R1 (t.region r)
            ∧ ∀ j, j ≠ q → (t.region r).tracker j = R.tracker j))))

/-! ## Calibration and probe -/

namespace Sys2Proof.Machine

/-- A region without its calibration steps. -/
def Region.noCal (Q : Region) : Region := { Q with adc := { Q.adc with cal := [], corr := [], rotating := false, initDone := [] } }

/-- A rotation starts (R247): every available spare that is not parked calibrates itself; the others stay as they are.
-/
def RotationStarted (R R' : Region) : Prop :=
  (∀ q, q < 2 → R'.calStep q = (if spareRotates q R then ⟨.self, 0, 16 + q⟩ else R.calStep q)
      ∧ R'.reg (sliceAt (16 + q)) = if spareRotates q R then setBits (setBits (R.reg (sliceAt (16 + q))) 30 28 1) 20 16 0x1F
          else R.reg (sliceAt (16 + q)))
    ∧ R'.bit Reg.AD_STAT.base 2 = R'.adc.rotating
    ∧ R'.adc.rotating = (spareRotates 0 R || spareRotates 1 R || (R.calStep 0).phase != .idle
        || (R.calStep 1).phase != .idle)
    ∧ R'.adc.corr = R.adc.corr

/-- Registers that a rotation writes. -/
def calRegs : List Nat := [Reg.AD_STAT.base, Reg.AD_CALSTAT.base, sliceAt 16, sliceAt 17]

/-- Spare 16 + `q` has no step left, and the rotation ends if the other spare has none either (R249). -/
def StepsOver (q : Nat) (R R' : Region) : Prop :=
  R'.calStep q = calInit ∧ R'.calStep (1 - q) = (if (R.calStep (1 - q)).phase = .done then calInit else R.calStep (1 - q))
    ∧ R'.adc.rotating = ((R.calStep (1 - q)).phase != .idle && (R.calStep (1 - q)).phase != .done)
    ∧ R'.bit Reg.AD_STAT.base 2 = R'.adc.rotating ∧ R'.adc.corr = R.adc.corr

/-- Spare 16 + `q` stops: no slice is left to it. -/
def SpareStopped (q : Nat) (R R' : Region) : Prop :=
  StepsOver q R R' ∧ R'.reg (sliceAt (16 + q)) = setBits (setBits (R.reg (sliceAt (16 + q))) 30 28 5) 20 16 0x1F

/-- Spare 16 + `q` goes nowhere after this step: it is available, is not to be parked, and EN is 0. -/
def Stops (q : Nat) (R : Region) : Prop :=
  spareAvail q R = true ∧ R.bit Reg.AD_CALCFG.base 0 = false
    ∧ (R.bit Reg.AD_PROBESTAT.base 1 = false ∨ R.field Reg.AD_PROBE.base 20 20 ≠ q)

end Sys2Proof.Machine

/-- R247 to R252: the steps of background calibration. A slice in range goes on to shadow back, its former correction
over; one that the calibration after reset finds out of range a second time in a row is retired as a permanent fault; a
slice that no step calibrates is left alone; a shadowing difference within 32 LSB is corrected and leads to hand-over or
hand-back, a greater one is counted and sends the spare to calibrate itself; a shadow that takes too long is counted and
left; hand-over and hand-back, at a start of the channel, move its delivery; with EN = 0 a spare stops at the end of its
step. EN written 1 with no rotation running, and the end of initial calibration with EN = 1, start one. CALDEG reads 1
while no spare is available.

R244 to R246: a write of AD_PROBE connects the probe to a channel under TARGET 1 and disconnects it otherwise; a
change starts settling, which lasts 1,600 PCLK; a spare that TARGET 2 names waits until it holds no channel, and is then
parked and connected, at once where it calibrates nothing; one that is named no longer leaves its place.
Choices of the model: that the command is the event, where one is due (log 32), the free sample (log 33), the edge at
which a command acts (log 57), single readings (log 59). -/
def Obligations.CalibrationAndProbe : Prop :=
  (∀ (r : RegionId) (R : Region) (s : State), Live r s → R = s.region r →
      (∀ (j : Fin 18) (q : Nat), q < 2 → calOf j R = some q → (R.calStep q).phase = .cal → sliceRetired j R = false →
        Completes (.calibrationComplete r j true) s (fun t => RegionBut Region.noCal [Reg.AD_CALSTAT.base,
            sliceAt j] r s t
          ∧ sliceState j (t.region r) = 3 ∧ (t.region r).bit (sliceAt j) 8 = false
          ∧ (t.region r).field (sliceAt j) 20 16 = (R.calStep q).ch % 32
          ∧ (∀ k, (t.region r).corr k = if k = j.val then 0 else R.corr k) ∧ (t.region r).adc.rotating = R.adc.rotating
          ∧ (t.region r).adc.initDone = R.adc.initDone
          ∧ ∀ p, (t.region r).calStep p = if p = q then ⟨.shadowBack, (R.calStep q).ch, j⟩ else R.calStep p))
      ∧ (∀ (j : Fin 18) (inRange : Bool), calOf j R = none → initCal R = false ∨ sliceRetired j R = true
          ∨ j.val ∈ R.adc.initDone →
        Completes (.calibrationComplete r j inRange) s (fun t => RegionRegs [] r s t))
      ∧ (∀ j : Fin 18, calOf j R = none → initCal R = true → sliceRetired j R = false → j.val ∉ R.adc.initDone →
        R.faultQ.length < 16 →
        Completes (.calibrationComplete r j false) s (fun t =>
          RegionBut (fun Q => { Q.noCal with faultQ := [] }) [sliceAt j, Reg.TL_PFCNT.base] r { s with chip := t.chip } t
          ∧ (t.region r).field (sliceAt j) 7 0 = min 255 (R.field (sliceAt j) 7 0 + 1)
          ∧ (t.region r).adc.initDone = R.adc.initDone ++ [j.val]
          ∧ (R.bit (sliceAt j) 8 = false → (t.region r).bit (sliceAt j) 8 = true ∧ (t.region r).faultQ = R.faultQ
              ∧ (t.region r).reg Reg.TL_PFCNT.base = R.reg Reg.TL_PFCNT.base ∧ t.chip = s.chip)
          ∧ (R.bit (sliceAt j) 8 = true → sliceRetired j (t.region r) = true ∧ sliceState j (t.region r) = 6
              ∧ (t.region r).faultQ = R.faultQ ++ [⟨4, 0, j, 0, s.time.gtime⟩]
              ∧ (t.region r).reg Reg.TL_PFCNT.base = satAdd 0xFFFF (R.reg Reg.TL_PFCNT.base) 1)))
      ∧ (∀ (j : Fin 18) (q : Nat) (d : Int), q < 2 → j.val = 16 + q → (R.calStep q).phase = .shadow →
        (∀ p, p < q → (R.calStep p).phase = .shadowBack → (R.calStep p).slice ≠ j.val) →
        (d.natAbs ≤ 32 * 64 → Completes (.shadowComplete r j d) s (fun t =>
            RegionBut Region.noCal [Reg.AD_CALSTAT.base] r s t
          ∧ (∀ k, (t.region r).corr k = if k = j.val then -d else R.corr k) ∧ (t.region r).adc.rotating = R.adc.rotating
          ∧ (t.region r).adc.initDone = R.adc.initDone
          ∧ ∀ p, (t.region r).calStep p = if p = q then ⟨.handOver, (R.calStep q).ch,
              (R.calStep q).slice⟩ else R.calStep p))
        ∧ (32 * 64 < d.natAbs → Completes (.shadowComplete r j d) s (fun t =>
          RegionBut Region.noCal [Reg.AD_CALSTAT.base, Reg.AD_CALFAIL.base, sliceAt j] r s t
          ∧ (t.region r).reg Reg.AD_CALFAIL.base = satAdd 0xFFFF (R.reg Reg.AD_CALFAIL.base) 1
          ∧ (t.region r).reg (sliceAt j) = setBits (setBits (R.reg (sliceAt j)) 30 28 1) 20 16 0x1F
          ∧ (t.region r).adc.corr = R.adc.corr ∧ (t.region r).adc.rotating = R.adc.rotating
          ∧ ∀ p, (t.region r).calStep p = if p = q then ⟨.self, (R.calStep q).ch + 1, j⟩ else R.calStep p))
        ∧ (Stops q R → Completes (.shadowTimeout r j) s (fun t =>
          RegionBut Region.noCal [Reg.AD_STAT.base, Reg.AD_CALSTAT.base, Reg.AD_CALFAIL.base, sliceAt j] r s t
          ∧ (t.region r).reg Reg.AD_CALFAIL.base = satAdd 0xFFFF (R.reg Reg.AD_CALFAIL.base) 1
          ∧ SpareStopped q R (t.region r))))
      ∧ (∀ (j : Fin 18) (q : Nat), q < 2 → j.val = 16 + q → chStarts (s.ctx r) (R.calStep q).ch R = false →
        Completes (.handOver r j) s (fun t => RegionRegs [] r s t) ∧ Completes (.handBack r j) s (fun t =>
            RegionRegs [] r s t))
      ∧ (∀ (j k : Fin 18) (q : Nat), q < 2 → j.val = 16 + q → (R.calStep q).slice = k.val → k.val < 16 →
        chStarts (s.ctx r) (R.calStep q).ch R = true →
        ((R.calStep q).phase = .handOver → Completes (.handOver r j) s (fun t =>
          RegionBut Region.noCal [Reg.AD_CALSTAT.base, sliceAt j, sliceAt k] r s t
          ∧ (t.region r).reg (sliceAt j) = setBits (setBits (R.reg (sliceAt j)) 30 28 0) 20 16 (R.calStep q).ch
          ∧ (t.region r).reg (sliceAt k) = setBits (setBits (R.reg (sliceAt k)) 30 28 2) 20 16 0x1F
          ∧ (t.region r).adc.corr = R.adc.corr ∧ (t.region r).adc.rotating = R.adc.rotating
          ∧ ∀ p, (t.region r).calStep p = if p = q then ⟨.cal, (R.calStep q).ch, k⟩ else R.calStep p))
        ∧ ((R.calStep q).phase = .handBack → Stops q R →
          Completes (.handBack r j) s (fun t =>
            RegionBut Region.noCal [Reg.AD_STAT.base, Reg.AD_CALSTAT.base, sliceAt j, sliceAt k] r s t
            ∧ (t.region r).reg (sliceAt k) = setBits (setBits (R.reg (sliceAt k)) 30 28 0) 20 16 (R.calStep q).ch
            ∧ SpareStopped q R (t.region r))))
      ∧ (∀ v : Word, Completes (.calibrationEnableWrite r v) s (fun t =>
          RegionBut Region.noCal (Reg.AD_CALCFG.base :: calRegs) r s t
          ∧ (t.region r).reg Reg.AD_CALCFG.base = maskWrite Reg.AD_CALCFG.mask (R.reg Reg.AD_CALCFG.base) v
          ∧ if v.getLsbD 0 = true ∧ R.adc.rotating = false ∧ initCal R = false then RotationStarted R (t.region r)
            else RegionRegs [Reg.AD_CALCFG.base] r s t))
      ∧ Completes (.initcalComplete r) s (fun t => RegionBut Region.noCal calRegs r s t ∧ initCal (t.region r) = false
          ∧ if initCal R = true ∧ R.bit Reg.AD_CALCFG.base 0 = true then RotationStarted R (t.region r)
            else RegsBut [Reg.AD_STAT.base] R (t.region r)
              ∧ (t.region r).adc = (if initCal R then { R.adc with initDone := [] } else R.adc))
      ∧ (s.readRegion r Reg.AD_STAT.base).1
          = some (setBit (R.reg Reg.AD_STAT.base) 1 (!spareAvail 0 R && !spareAvail 1 R)))
  ∧ (∀ (r : RegionId) (R : Region) (s : State), Live r s → R = s.region r →
      (∀ (v old new : Word) (R1 : Region), R1 = plainWrite Reg.AD_PROBE.base v R → old = R.reg Reg.AD_PROBE.base →
        new = R1.reg Reg.AD_PROBE.base →
        ((∀ q, q < 2 → sliceState (16 + q) R ≠ 4) →
          (bitsOf new 31 30 = 2 → (R.calStep (bitsOf new 20 20)).phase ≠ .idle
              ∧ (R.calStep (bitsOf new 20 20)).phase ≠ .done) →
          Completes (.probeWrite r v) s (fun t =>
            RegionBut (fun Q => { Q with adc := { Q.adc with probeAt := [] } })
              [Reg.AD_PROBE.base, Reg.AD_PROBESTAT.base, Reg.AD_STAT.base] r s t
            ∧ (t.region r).reg Reg.AD_PROBE.base = maskWrite Reg.AD_PROBE.mask old v
            ∧ (t.region r).bit Reg.AD_PROBESTAT.base 2 = (bitsOf new 31 30 == 1)
            ∧ (t.region r).bit Reg.AD_STAT.base 3 = (bitsOf new 31 30 == 1)
            ∧ (t.region r).bit Reg.AD_PROBESTAT.base 1 = (bitsOf new 31 30 == 2)
            ∧ if bitsOf old 11 0 ≠ bitsOf new 11 0 ∨ bitsOf old 31 30 ≠ bitsOf new 31 30
                  ∨ (bitsOf old 19 16 ≠ bitsOf new 19 16 ∧ bitsOf new 31 30 = 1) then
                (t.region r).bit Reg.AD_PROBESTAT.base 0 = true ∧ (t.region r).adc.probeAt =
                  R.adc.probeAt ++ [(s.time.pclk, if bitsOf old 31 30 = 1 then some (bitsOf old 19 16) else none)]
              else (t.region r).adc = R.adc ∧ (t.region r).bit Reg.AD_PROBESTAT.base 0 = R.bit Reg.AD_PROBESTAT.base 0))
        ∧ (∀ q, q < 2 → (∀ p, p < 2 → sliceState (16 + p) R ≠ 4) → bitsOf new 31 30 = 2 → bitsOf new 20 20 = q →
          spareAvail q R = true → (R.calStep q).phase = .idle → (R.calStep (1 - q)).phase ≠ .done →
          Completes (.probeWrite r v) s (fun t => OnlyRegion r s t ∧ sliceState (16 + q) (t.region r) = 4
            ∧ (t.region r).bit Reg.AD_PROBESTAT.base 1 = false ∧ (t.region r).bit Reg.AD_PROBESTAT.base 2 = true
            ∧ (t.region r).bit Reg.AD_STAT.base 3 = true ∧ ∀ p, (t.region r).calStep p = R.calStep p))
        ∧ (∀ q, q < 2 → bitsOf old 20 20 = q → sliceState (16 + q) R = 4 → bitsOf new 31 30 ≠ 2 →
            R.bit Reg.AD_CALCFG.base 0 = false →
          Completes (.probeWrite r v) s (fun t => OnlyRegion r s t
            ∧ (t.region r).reg (sliceAt (16 + q)) = setBits (setBits (R.reg (sliceAt (16 + q))) 30 28 5) 20 16 0x1F
            ∧ (t.region r).bit Reg.AD_PROBESTAT.base 2 = (bitsOf new 31 30 == 1) ∧ (t.region r).adc.cal = R.adc.cal)))
      ∧ Completes (.probeSettled r) s (fun t =>
          if R.adc.probeAt.any (fun q => decide (q.1 ≤ s.time.pclk + 1
              ∧ s.time.pclk + 1 < q.1 + 1600)) then RegionRegs [] r s t
          else RegionRegs [Reg.AD_PROBESTAT.base] r s t
            ∧ (t.region r).reg Reg.AD_PROBESTAT.base = setBit (R.reg Reg.AD_PROBESTAT.base) 0 false)
      ∧ (∀ q, q = R.field Reg.AD_PROBE.base 20 20 →
        (R.bit Reg.AD_PROBESTAT.base 1 = false ∨ spareAvail q R = false ∨ spareFree q R = false →
          Completes (.sparePark r) s (fun t => RegionRegs [] r s t))
        ∧ (R.bit Reg.AD_PROBESTAT.base 1 = true → spareAvail q R = true → spareFree q R = true →
          (R.calStep (1 - q)).phase ≠ .done → Completes (.sparePark r) s (fun t =>
          RegionBut Region.noCal [Reg.AD_CALSTAT.base, Reg.AD_PROBESTAT.base, Reg.AD_STAT.base, sliceAt (16 + q)] r s t
          ∧ (t.region r).reg (sliceAt (16 + q)) = setBits (setBits (R.reg (sliceAt (16 + q))) 30 28 4) 20 16 0x1F
          ∧ (t.region r).bit Reg.AD_PROBESTAT.base 1 = false ∧ (t.region r).bit Reg.AD_PROBESTAT.base 2 = true
          ∧ (t.region r).bit Reg.AD_STAT.base 3 = true ∧ StepsOver q R (t.region r)))))

/-! ## Timers -/

namespace Sys2Proof.Machine

/-- The first action code that is not 0 acts on a signal: 1 high, 2 low, 3 toggle (R262). -/
def actOn (codes : List Nat) (b : Bool) : Bool :=
  match codes.find? (fun c => c != 0) with | some 1 => true | some 2 => false | some 3 => !b | _ => b

/-- Channel `n` is the reference of a complementary pair that is not tripped (R268). -/
def refers (n : Nat) (R : Region) : Bool := n % 2 == 0 && decide (n < 48) && R.comp (n / 2) && !R.tripped (n / 2)

/-- A pair whose dead time, if it ends before `o` ticks after the last edge, has ended: its output is on (R268). -/
def deadDone (o : Nat) (p : Pair) : Pair :=
  match p.dead with
  | some (up, d) => if d < o then (if up then { p with h := true, dead := none } else { p with l := true, dead := none }) else p
  | none => p

/-- A pair whose outputs restart from off, `o` ticks after the last edge, for the level `up` of its reference: the
output it selects turns on after its dead time, at once where that is 0 (R268, R271). -/
def restarted (o : Nat) (dt : Word) (comp up : Bool) (p : Pair) : Pair :=
  let d := if up then bitsOf dt 15 0 else bitsOf dt 31 16
  { p with h := up && d == 0, l := !up && d == 0, dead := if comp && d != 0 then some (up, o + d) else none }

/-- A pair after an action on its reference, which goes from `old` to `new` at the coming edge (R268). -/
def turned (o : Nat) (dt : Word) (old new : Bool) (p : Pair) : Pair :=
  if old = new then deadDone o p else restarted o dt true new (deadDone o p)

/-- A compare register of channel `n`, with the injection, gives the counter value `v` (R260, R261, R302). -/
def hits (n : Nat) (b : Bool) (v : Word) (R : Region) : Bool := cmpInt (R.fracen n) (R.effCmp n b) == v.toNat

/-- Sources of channel `n` taking the value `v` (R261). -/
def countPulses (n : Nat) (v : Word) (wrap : Bool) (R : Region) : List Nat :=
  (if hits n false v R then [0x100 + n] else []) ++ (if hits n true v R then [0x140 + n] else [])
    ++ (if wrap then [0x180 + n] else [])

/-- Actions of channel `n` taking the value `v`, highest in order first (R262). -/
def countActs (n : Nat) (v : Word) (wrap : Bool) (R : Region) : List Nat :=
  [if hits n true v R then bitsOf (R.reg (regAt Reg.TM_CH_ACT n 0)) 3 2 else 0,
    if hits n false v R then bitsOf (R.reg (regAt Reg.TM_CH_ACT n 0)) 1 0 else 0,
    if wrap then bitsOf (R.reg (regAt Reg.TM_CH_ACT n 0)) 5 4 else 0]

/-- An action of the codes, highest in order first, on the signal of channel `n` at the coming edge, `o` ticks after the
last one: one acts, and a complementary pair follows (R262, R268). -/
def Acted (o n : Nat) (codes : List Nat) (R R' : Region) : Prop :=
  let b := actOn codes (R.signal n)
  (∀ j, R'.signal j = if j = n then b else R.signal j)
    ∧ ∀ k, R'.pair k = if k = n / 2 ∧ refers n R = true ∧ codes.any (fun c => c != 0) = true then
        turned o (R.reg (regAt Reg.TM_PAIR_DT (n / 2) 0)) (R.signal n) b (R.pair k) else R.pair k

/-- Channel `n` takes the value `v` at the coming edge (R254, R261, R262, R268): the prescaler restarts, the events are
presented and, where the compares are whole numbers, the highest action acts, `low` standing below those of the value.
-/
def Counted (o n : Nat) (v : Word) (wrap : Bool) (low : List Nat) (R R' : Region) : Prop :=
  R'.cnt n = v ∧ (∀ j, R'.tmPre j = if j = n then 0 else R.tmPre j)
    ∧ R'.ev.coming = R.ev.coming ++ countPulses n v wrap R ∧ (∀ j, j ≠ n → R'.signal j = R.signal j)
    ∧ (R.fracen n = false → Acted o n (countActs n v wrap R ++ low) R R')

/-- The coming edge of channel `n` is taken by the requests `q`; of the other channels' edges nothing is changed. -/
def EdgeTaken (n : Nat) (q : TmReq) (R R' : Region) : Prop :=
  ∀ j, R'.tmEdge j = if j = n then some { R.tmPresent n with req := q } else R.tmEdge j

/-- A region without what a channel may change at an edge beside registers. -/
def Region.noCount (Q : Region) : Region :=
  { Q with
    tm := { Q.tm with run := [], pre := [], signal := [], pair := [], edge := [], carryNext := [] }
    ev := { Q.ev with coming := [] } }

/-- The coming edge is made a count edge of channel `n` now (R254, R257): the value and the carry that a wrap of an even
channel sends to the edge after it. -/
def CountMade (r n : Nat) (R : Region) (s t : State) : Prop :=
  RegionBut Region.noCount [regAt Reg.TM_CH_CNT n 0] r s t ∧ (t.region r).tm.run = R.tm.run
    ∧ Counted (s.ctx r).adv n (nextCount n R).1 (nextCount n R).2 [] R (t.region r)
    ∧ (t.region r).tm.carryNext = R.tm.carryNext ++ (if (nextCount n R).2 = true ∧ n % 2 = 0 then [n + 1] else [])
    ∧ ∀ j, (t.region r).tmEdge j = if j = n then some { (R.tmEdge n).getD (R.tmPresent n) with
        counted := true, wrapped := (nextCount n R).2 && decide (n % 2 = 0) } else R.tmEdge j

end Sys2Proof.Machine

/-- R254 to R257, R261, R262, R268: what becomes of a channel at the coming edge. A start of a stopped channel loads
PHASE
and the initial level and runs it; a start of a running one and a reload load PHASE; a write loads the counter; these
take
the edge, which counts no more. A count edge that wraps, or that takes an effective compare value, has its action and
events; an edge that is no such edge is left alone. With fractional compares that both hit on different ticks, the
earlier
tick acts first. Between count edges the prescaler of a running channel counts. A group start does what a start does for
each channel named.

R255, R256: a stop and a group stop hold the counters named, with the value from before their edge. R262, R268: a
force acts on the signal, and a complementary pair follows it; when a dead time ends, its output turns on, and before
that nothing happens.
Choices of the model: that the command is the event, where one is due (log 32), the edge at which a command acts (log
57). -/
def Obligations.Timers : Prop :=
  (∀ (r : RegionId) (R : Region) (o : Nat) (s : State), Live r s → R = s.region r → o = (s.ctx r).adv →
      (∀ n : Fin 64,
        Completes (.timerStart r n) s (fun t =>
          RegionBut Region.noCount [regAt Reg.TM_CH_CNT n 0] r s t
          ∧ (∀ j, (t.region r).tmRun j = (decide (j = n.val) || R.tmRun j)) ∧ (t.region r).tm.carryNext = R.tm.carryNext
          ∧ EdgeTaken n reqStart R (t.region r)
          ∧ Counted o n (tmPhase R n) false
              (if R.tmRun n then [] else [if R.bit (regAt Reg.TM_CH_ACT n 0) 12 then 1 else 2]) R (t.region r))
        ∧ Completes (.timerReload r n) s (fun t =>
          RegionBut Region.noCount [regAt Reg.TM_CH_CNT n 0] r s t ∧ (∀ j, (t.region r).tmRun j = R.tmRun j)
          ∧ (t.region r).tm.carryNext = R.tm.carryNext ∧ EdgeTaken n reqReload R (t.region r)
          ∧ Counted o n (tmPhase R n) false [] R (t.region r))
        ∧ (∀ v, Completes (.counterWrite r n v) s (fun t =>
          RegionBut Region.noCount [regAt Reg.TM_CH_CNT n 0] r s t ∧ (∀ j, (t.region r).tmRun j = R.tmRun j)
          ∧ (t.region r).tm.carryNext = R.tm.carryNext ∧ EdgeTaken n (reqWrite v) R (t.region r)
          ∧ Counted o n v false [] R (t.region r)))
        ∧ (∀ b, R.countDue n = true → R.tmBlocked n = false → hits n b (nextCount n R).1 R = true →
          Completes (.compareMatch r n b) s (CountMade r n R s))
        ∧ (R.countDue n = true → R.tmBlocked n = false → (nextCount n R).2 = true →
          Completes (.wrapEdge r n) s (fun t => CountMade r n R s t ∧ (t.region r).cnt n = 0)))
      ∧ (∀ (n : Fin 64) (b : Bool),
        (R.countDue n = false ∨ (nextCount n R).2 = false → Completes (.wrapEdge r n) s (fun t => RegionRegs [] r s t))
        ∧ (R.countDue n = false ∨ hits n b (nextCount n R).1 R = false →
          Completes (.compareMatch r n b) s (fun t => RegionRegs [] r s t)))
      ∧ (∀ (n : Fin 64) (a b : Word), R.fracen n = true → R.countDue n = true → R.tmBlocked n = false →
        a = R.effCmp n false → b = R.effCmp n true → a.toNat / 16 = b.toNat / 16 → a.toNat % 16 < b.toNat % 16 →
        a.toNat / 16 = (nextCount n R).1.toNat → (nextCount n R).2 = false → refers n R = false →
        Completes (.compareMatch r n false) s (fun t =>
          RegionBut Region.noCount [regAt Reg.TM_CH_CNT n 0] r s t ∧ (t.region r).cnt n = BitVec.ofNat 32 (a.toNat / 16)
          ∧ (t.region r).signal n = actOn [bitsOf (R.reg (regAt Reg.TM_CH_ACT n 0)) 3 2]
              (actOn [bitsOf (R.reg (regAt Reg.TM_CH_ACT n 0)) 1 0] (R.signal n))
          ∧ (t.region r).ev.coming = R.ev.coming ++ [0x100 + n.val, 0x140 + n.val]))
      ∧ (∀ (n : Nat) (Q Q' : Region), Q' = tmTickCh n Q → Q.tmEdge n = none →
        (Q.tmRun n = false → Q' = Q)
        ∧ (Q.tmRun n = true → Q.linked n = false → Q.tmPre n < Q.field (regAt Reg.TM_CH_CFG n 0) 7 0 →
          Q' = Q.setTmPre n (Q.tmPre n + 1))
        ∧ (Q.countDue n = true → Counted 0 n (nextCount n Q).1 (nextCount n Q).2 [] Q Q'
          ∧ Q'.tm.carryNext = Q.tm.carryNext ++ (if (nextCount n Q).2 = true ∧ n % 2 = 0 then [n + 1] else [])))
      ∧ (∀ (w : Fin 2) (v : Word),
        Completes (.groupStart r w v) s (fun t =>
          RegionBut Region.noCount ((List.range 32).map (fun j => regAt Reg.TM_CH_CNT (32 * w + j) 0)) r s t
          ∧ ((∀ j, j < 32 → v.getLsbD j = true → 32 * w.val + j < 48 → R.comp ((32 * w + j) / 2) = false) →
              (t.region r).tm.pair = R.tm.pair)
          ∧ (t.region r).tm.carryNext = R.tm.carryNext
          ∧ (t.region r).ev.coming = R.ev.coming ++ ((List.range 32).filter (fun j => v.getLsbD j)).flatMap (fun j =>
              countPulses (32 * w + j) (tmPhase R (32 * w + j)) false R)
          ∧ ∀ n, if n / 32 = w.val ∧ v.getLsbD (n % 32) = true then
              (t.region r).tmRun n = true ∧ (t.region r).cnt n = tmPhase R n ∧ (t.region r).tmPre n = 0
                ∧ (R.fracen n = false → (t.region r).signal n = actOn (countActs n (tmPhase R n) false R
                  ++ if R.tmRun n then [] else [if R.bit (regAt Reg.TM_CH_ACT n 0) 12 then 1 else 2]) (R.signal n))
            else (t.region r).tmRun n = R.tmRun n ∧ (t.region r).cnt n = R.cnt n ∧ (t.region r).tmPre n = R.tmPre n
              ∧ (t.region r).signal n = R.signal n ∧ (t.region r).tmEdge n = R.tmEdge n)))
  ∧ (∀ (r : RegionId) (R : Region) (o : Nat) (s : State), Live r s → R = s.region r → o = (s.ctx r).adv →
      (∀ n : Fin 64, Completes (.timerStop r n) s (fun t =>
        RegionBut (fun Q => { Q with tm := { Q.tm with run := [], edge := [] } }) [] r s t
            ∧ EdgeTaken n reqStop R (t.region r)
          ∧ ∀ j, (t.region r).tmRun j = (!decide (j = n.val) && R.tmRun j)))
      ∧ (∀ (w : Fin 2) (v : Word), Completes (.groupStop r w v) s (fun t =>
        RegionBut (fun Q => { Q with tm := { Q.tm with run := [], edge := [] } }) [] r s t
          ∧ (∀ j, (t.region r).tmRun j = (!(decide (j / 32 = w.val) && v.getLsbD (j % 32)) && R.tmRun j))
          ∧ ∀ j, ¬ (j / 32 = w.val ∧ v.getLsbD (j % 32) = true) → (t.region r).tmEdge j = R.tmEdge j))
      ∧ (∀ n : Fin 64, Completes (.timerForce r n) s (fun t =>
          RegionBut (fun Q => { Q with tm := { Q.tm with run := [], signal := [], pair := [], edge := [] } }) [] r s t
          ∧ EdgeTaken n reqForce R (t.region r) ∧ (∀ j, (t.region r).tmRun j = R.tmRun j)
          ∧ Acted o n [bitsOf (R.reg (regAt Reg.TM_CH_ACT n 0)) 7 6] R (t.region r)))
      ∧ (∀ k : Fin 24, Completes (.deadTimeExpiry r k) s (fun t =>
        RegionBut (fun Q => { Q with tm := { Q.tm with pair := [] } }) [] r s t
          ∧ ∀ j, (t.region r).pair j = if j = k.val then deadDone o (R.pair k) else R.pair j)))

/-! ## Trips, deadlines and capture -/

namespace Sys2Proof.Machine

/-- Pair `k` enters the tripped state for `cause` at the coming edge (R271): outputs off, cause and entry counted. -/
def TripEntered (k cause : Nat) (latch : Bool) (R R' : Region) : Prop :=
  R'.reg (regAt Reg.TM_PAIR_STAT k 0) = BitVec.ofNat 32 (cause * 16 + 1)
    ∧ R'.reg (regAt Reg.TM_PAIR_TRIPS k 0) = satAdd 0xFFFF (R.reg (regAt Reg.TM_PAIR_TRIPS k 0)) 1
    ∧ R'.pair k = { R.pair k with
        h := false, l := false, dead := none, latched := latch, entered := true, fresh := freshCause cause (R.pair k) }

/-- A cause meets pair `k` (R271): it trips it, or holds it tripped; of several causes of one entry the lowest is kept.
-/
def TripMet (k cause : Nat) (latch : Bool) (R R' : Region) : Prop :=
  if R.tripped k then
    R'.pair k = { R.pair k with latched := (R.pair k).latched || latch, fresh := freshCause cause (R.pair k) }
      ∧ R'.reg (regAt Reg.TM_PAIR_TRIPS k 0) = R.reg (regAt Reg.TM_PAIR_TRIPS k 0)
      ∧ R'.reg (regAt Reg.TM_PAIR_STAT k 0) = (if (R.pair k).entered then
          setBits (R.reg (regAt Reg.TM_PAIR_STAT k 0)) 7 4 (min cause (R.field (regAt Reg.TM_PAIR_STAT k 0) 7 4))
        else R.reg (regAt Reg.TM_PAIR_STAT k 0))
  else TripEntered k cause latch R R'

/-- Pair `k` leaves the tripped state, its outputs restarting from off (R271). -/
def Released (o k : Nat) (R R' : Region) : Prop :=
  R'.reg (regAt Reg.TM_PAIR_STAT k 0) = setBit (R.reg (regAt Reg.TM_PAIR_STAT k 0)) 0 false
    ∧ R'.reg (regAt Reg.TM_PAIR_TRIPS k 0) = R.reg (regAt Reg.TM_PAIR_TRIPS k 0)
    ∧ R'.pair k = restarted o (R.reg (regAt Reg.TM_PAIR_DT k 0)) (R.comp k) (R.signal (2 * k)) { R.pair k with latched := false }

/-- Pair `k` is as it was. -/
def PairSame (k : Nat) (R R' : Region) : Prop :=
  R'.pair k = R.pair k ∧ R'.reg (regAt Reg.TM_PAIR_STAT k 0) = R.reg (regAt Reg.TM_PAIR_STAT k 0)
    ∧ R'.reg (regAt Reg.TM_PAIR_TRIPS k 0) = R.reg (regAt Reg.TM_PAIR_TRIPS k 0)

/-- What the trip inputs do to pair `k` (R271): an asserted one that it enables trips it with its cause, or holds it
tripped; with none asserted a pair that is not held is released. -/
def TripFollows (o k : Nat) (R R' : Region) : Prop :=
  match (List.range 4).find? (fun i => R.bit (regAt Reg.TM_PAIR_CFG k 0) (8 + i) && R.trpAsserted i) with
  | some i => TripMet k (1 + i) (R.bit (regAt Reg.TM_PAIR_CFG k 0) 1) R R'
  | none => if R.tripped k = true ∧ (R.pair k).latched = false then Released o k R R' else PairSame k R R'

/-- A region without its pairs, trip levels and their runs. -/
def Region.noPair (Q : Region) : Region := { Q with tm := { Q.tm with pair := [], trp := [], trpLine := [] } }

/-- Registers of the pairs' trips. -/
def tripRegs : List Nat :=
  (List.range 24).flatMap (fun k => [regAt Reg.TM_PAIR_STAT k 0, regAt Reg.TM_PAIR_TRIPS k 0])

end Sys2Proof.Machine

/-- R269, R271: the synchronised level of a trip input shows at the coming edge; once it has shown for FILT + 1 edges
the
filtered level takes it, its event is presented where it becomes asserted, and every pair follows the inputs; before
that
nothing else happens. A trip by software turns the outputs off and holds until REARM, which releases a tripped pair
when no
input that it enables is asserted, or enters the state again where a cause arose at its edge.

R273: a compare write in its pair's open window, before the deadline, is on time and ends a takeover's hold; a
window
whose deadline GTIME reaches at the coming edge closes, and is a miss with no write on time: counted and presented, and
it trips the pair where it asks for that.

R274, R275: a change of a capture input's level, with the counter at its ball and its stamp, passes the filter and,
where EDGE selects it, the prescaler; R276: it enters the capture queue, or is lost and counted. A level that SRC does
not
name, that the input shows already, or whose stamp lies too far back, changes nothing. A write of the configuration
restarts the prescaler; a read takes the oldest entry and shows its stamp, and lets in a capture that its edge had
lost.
Choices of the model: that the command is the event, where one is due (log 32), the edge at which a command acts (log
57). -/
def Obligations.TripsAndDeadlines : Prop :=
  (∀ (r : RegionId) (R : Region) (o : Nat) (s : State), Live r s → R = s.region r → o = (s.ctx r).adv →
      (∀ (ix : Fin 4) (on b : Bool) (ln : Line) (L : Region), b = (on == R.bit (regAt Reg.TM_TRP_CFG ix 0) 0) →
        ln = (if (R.trpLine ix).sync = b then R.trpLine ix else ⟨b, max (s.time.pclk + 1) (R.trpLine ix).since⟩) →
        L = (R.setTrpLine ix ln).setTrpLevel ix b →
        (b = R.trpLevel ix ∨ s.time.pclk + 1 < ln.since + R.field (regAt Reg.TM_TRP_CFG ix 0) 15 8 →
          Completes (if on then .tripInputAsserted r ix else .tripInputDeasserted r ix) s (fun t =>
            RegionBut (fun Q => { Q with tm := { Q.tm with trpLine := [] } }) [] r s t
            ∧ ∀ j, (t.region r).trpLine j = if j = ix.val then ln else R.trpLine j))
        ∧ (b ≠ R.trpLevel ix → ln.since + R.field (regAt Reg.TM_TRP_CFG ix 0) 15 8 ≤ s.time.pclk + 1 →
          Completes (if on then .tripInputAsserted r ix else .tripInputDeasserted r ix) s (fun t =>
            RegionBut (fun Q => { Q.noPair with ev := { Q.ev with coming := [] } }) tripRegs r s t
            ∧ (t.region r).trpAsserted ix = on ∧ (∀ j, j ≠ ix.val → (t.region r).trpLevel j = R.trpLevel j)
            ∧ (∀ j, (t.region r).trpLine j = if j = ix.val then ln else R.trpLine j)
            ∧ (t.region r).ev.coming = R.ev.coming ++ (if on then [0x011 + ix.val] else [])
            ∧ ∀ k, k < 24 → TripFollows o k L (t.region r))))
      ∧ (∀ k : Fin 24,
        Completes (.pairTrip r k) s (fun t =>
          RegionBut Region.noPair [regAt Reg.TM_PAIR_STAT k 0, regAt Reg.TM_PAIR_TRIPS k 0] r s t
          ∧ (t.region r).tripped k = true ∧ (t.region r).tm.trp = R.tm.trp
          ∧ (∀ j, j ≠ k.val → (t.region r).pair j = R.pair j) ∧ TripMet k 8 true R (t.region r))
        ∧ Completes (.pairRearm r k) s (fun t =>
          RegionBut Region.noPair [regAt Reg.TM_PAIR_STAT k 0, regAt Reg.TM_PAIR_TRIPS k 0] r s t
              ∧ (t.region r).tm.trp = R.tm.trp
          ∧ (∀ j, j ≠ k.val → (t.region r).pair j = R.pair j)
          ∧ if R.tripped k && (List.range 4).all (fun ix => !(R.bit (regAt Reg.TM_PAIR_CFG k 0) (8 + ix)
              && R.trpAsserted ix)) then
              (∀ c, (R.pair k).fresh = some c →
                if (R.pair k).entered then PairSame k R (t.region r) else TripEntered k c true R (t.region r))
              ∧ ((R.pair k).fresh = none → Released o k R (t.region r))
            else PairSame k R (t.region r))))
  ∧ (∀ (r : RegionId) (R : Region) (s : State), Live r s → R = s.region r →
      (∀ (n : Fin 64) (b : Bool) (v : Word) (a : Nat), a = regAt (if b then Reg.TM_CH_CMPB else Reg.TM_CH_CMPA) n 0 →
        Completes (.compareWrite r n b v) s (fun t => RegionBut (fun Q =>
            { Q with tm := { Q.tm with pair := [] } }) [a] r s t
          ∧ (t.region r).reg a = v
          ∧ ∀ j, (t.region r).pair j =
              if n.val < 48 ∧ j = n.val / 2 ∧ ((R.pair j).window.any (fun w => decide (w.toNat ≤ s.time.gtime.toNat
                  ∧ s.time.gtime.toNat < w.toNat + R.field (regAt Reg.TM_PAIR_DL j 0) 23 0))) = true then
                { R.pair j with onTime := true, hold := false }
              else R.pair j))
      ∧ (∀ (k : Fin 24) (stays : Bool), stays = (R.pair k).window.all (fun w =>
          decide ((s.ctx r).gtNext.toNat < w.toNat + R.field (regAt Reg.TM_PAIR_DL k 0) 23 0)) →
        (stays = true → Completes (.deadlineMiss r k) s (fun t => RegionRegs [] r s t))
        ∧ (stays = false → (R.pair k).onTime = true → Completes (.deadlineMiss r k) s (fun t =>
          RegionBut (fun Q => { Q with tm := { Q.tm with pair := [] } }) [] r s t
            ∧ ∀ j, (t.region r).pair j = if j = k.val then { R.pair k with window := none, onTime := false } else R.pair j))
        ∧ (∀ M : Region, M = R.setPwmPair k { R.pair k with window := none, onTime := false } →
          stays = false → (R.pair k).onTime = false → Completes (.deadlineMiss r k) s (fun t =>
          RegionBut (fun Q => { Q with tm := { Q.tm with pair := [] }, ev := { Q.ev with coming := [] } })
            [regAt Reg.TM_PAIR_DLMISS k 0, regAt Reg.TM_PAIR_STAT k 0, regAt Reg.TM_PAIR_TRIPS k 0] r s t
          ∧ (t.region r).reg (regAt Reg.TM_PAIR_DLMISS k 0) = satAdd 0xFFFF (R.reg (regAt Reg.TM_PAIR_DLMISS k 0)) 1
          ∧ (t.region r).ev.coming = R.ev.coming ++ [0x018 + k.val]
          ∧ (∀ j, j ≠ k.val → (t.region r).pair j = R.pair j)
          ∧ if R.field (regAt Reg.TM_PAIR_DL k 0) 31 30 = 2 ∧ (R.pair k).hold = false then TripMet k 7 true M (t.region r)
            else PairSame k M (t.region r)))))
  ∧ (∀ (r : RegionId) (n : Fin 64) (R : Region) (c : Word) (s : State), Live r s → R = s.region r →
      c = R.reg (regAt Reg.TM_CH_CAPCFG n 0) →
      (∀ (up : Bool) (stamp : Ticks),
        (capSourced (bitsOf c 6 0) = false ∨ (∀ back, (s.ctx r).edgesBack stamp = some back → 6 ≤ back) →
          Completes (.captureEdge r n up stamp) s (fun t => RegionRegs [] r s t))
        ∧ (∀ (back : Nat) (v : Word) (pre : Nat), capSourced (bitsOf c 6 0) = true →
            (s.ctx r).edgesBack stamp = some back → back < 6 →
          v = cntBack n back R → pre = mapGet zeroNat R.tm.capPre n →
          (∀ q, R.capRun n = some q → q.line.sync ≠ up ∧ q.taken = true) →
          (bitsOf c 23 16 ≠ 0 ∨ c.getLsbD (if up then 8 else 9) = false →
              Completes (.captureEdge r n up stamp) s (fun t =>
            RegionBut (fun Q => { Q with tm := { Q.tm with capRun := [] } }) [] r s t
              ∧ ∀ j, (t.region r).capRun j = if j = n.val then some ⟨⟨up, s.time.pclk + 1⟩, v, stamp,
                  bitsOf c 23 16 == 0⟩ else R.capRun j))
          ∧ (bitsOf c 23 16 = 0 → c.getLsbD (if up then 8 else 9) = true → pre < bitsOf c 31 24 →
            Completes (.captureEdge r n up stamp) s (fun t =>
              RegionBut (fun Q => { Q with tm := { Q.tm with capRun := [], capPre := [], capEdge := [] } }) [] r s t
                ∧ (∀ j, mapGet zeroNat (t.region r).tm.capPre j = if j = n.val then pre + 1 else mapGet zeroNat R.tm.capPre j)
                ∧ mapGet noneAt (t.region r).tm.capEdge n = some ⟨v, stamp, false⟩))
          ∧ (bitsOf c 23 16 = 0 → c.getLsbD (if up then 8 else 9) = true → bitsOf c 31 24 ≤ pre →
              (R.capFifo n).length < 2 →
            Completes (.captureEdge r n up stamp) s (fun t =>
              RegionBut (fun Q => { Q with
                  tm := { Q.tm with capRun := [], capPre := [], capEdge := [], cap := [] },
                      ev := { Q.ev with coming := [] } }) [] r s t
                ∧ (∀ j, (t.region r).capFifo j = if j = n.val then R.capFifo n ++ [(v, stamp)] else R.capFifo j)
                ∧ (∀ j, mapGet zeroNat (t.region r).tm.capPre j = if j = n.val then 0 else mapGet zeroNat R.tm.capPre j)
                ∧ mapGet noneAt (t.region r).tm.capEdge n = some ⟨v, stamp, true⟩
                ∧ (t.region r).ev.coming = R.ev.coming ++ [0x1C0 + n.val]))
          ∧ (bitsOf c 23 16 = 0 → c.getLsbD (if up then 8 else 9) = true → bitsOf c 31 24 ≤ pre →
              2 ≤ (R.capFifo n).length →
            Completes (.captureEdge r n up stamp) s (fun t =>
              RegionBut (fun Q => { Q with tm := { Q.tm with capRun := [], capPre := [], capEdge := [], capLost := [] } })
                [regAt Reg.TM_CH_CAPOVR n 0] r s t
                ∧ mapGet noneAt (t.region r).tm.capLost n = some (v, stamp)
                ∧ (t.region r).reg (regAt Reg.TM_CH_CAPOVR n 0) = satAdd 0xFFFF (R.reg (regAt Reg.TM_CH_CAPOVR n 0)) 1))))
      ∧ (∀ v : Word, Completes (.captureConfigWrite r n v) s (fun t =>
        RegionBut (fun Q => { Q with tm := { Q.tm with capPre := [], capRun := [] } }) [regAt Reg.TM_CH_CAPCFG n 0] r s t
          ∧ (t.region r).reg (regAt Reg.TM_CH_CAPCFG n 0) = maskWrite Reg.TM_CH_CAPCFG.mask c v
          ∧ (bitsOf (maskWrite Reg.TM_CH_CAPCFG.mask c v) 6 0 ≠ bitsOf c 6 0 → (t.region r).capRun n = none)
          ∧ (∀ j, j ≠ n.val → (t.region r).capRun j = R.capRun j)
          ∧ ∀ j, mapGet zeroNat (t.region r).tm.capPre j = if j = n.val then 0 else mapGet zeroNat R.tm.capPre j))
      ∧ (∀ (e : Word × Ticks) (l : List (Word × Ticks)), R.capFifo n = e :: l →
        (mapGet noneAt R.tm.capLost n = none → Completes (.captureRead r n) s (fun t =>
          RegionBut (fun Q => { Q with tm := { Q.tm with cap := [] } })
            [regAt Reg.TM_CH_CAPGT_L n 0, regAt Reg.TM_CH_CAPGT_H n 0] r { s with host := t.host } t
          ∧ t.host = some (.data (words4 [e.1]))
          ∧ (∀ j, (t.region r).capFifo j = if j = n.val then l else R.capFifo j)
          ∧ (t.region r).pairVal (regAt Reg.TM_CH_CAPGT_L n 0) (regAt Reg.TM_CH_CAPGT_H n 0) = e.2))
        ∧ (∀ q, mapGet noneAt R.tm.capLost n = some q → l.length < 2 → Completes (.captureRead r n) s (fun t =>
          RegionBut (fun Q => { Q with tm := { Q.tm with cap := [], capLost := [] }, ev := { Q.ev with coming := [] } })
            [regAt Reg.TM_CH_CAPGT_L n 0, regAt Reg.TM_CH_CAPGT_H n 0,
                regAt Reg.TM_CH_CAPOVR n 0] r { s with host := t.host } t
          ∧ t.host = some (.data (words4 [e.1]))
          ∧ (∀ j, (t.region r).capFifo j = if j = n.val then l ++ [q] else R.capFifo j)
          ∧ (t.region r).reg (regAt Reg.TM_CH_CAPOVR n 0) = R.reg (regAt Reg.TM_CH_CAPOVR n 0) - 1
          ∧ (t.region r).ev.coming = R.ev.coming ++ [0x1C0 + n.val])))
      ∧ (R.capFifo n = [] → Completes (.captureRead r n) s (fun t => RegionRegs [] r { s with host := t.host } t
          ∧ t.host = some (.data (words4 [0])))))

/-! ## Loop units -/

namespace Sys2Proof.Machine

/-- A region without the injection unit's own state and pulses. -/
def Region.noInj (Q : Region) : Region :=
  { Q with lp := { Q.lp with sr := 0, phase := 0, freq := 0, steps := 0, injLast := 0 }, ev := { Q.ev with coming := [] } }

/-- Registers of the injection unit that a step may change. -/
def injRegs : List Nat := [Reg.LP_INJ_VALUE.base, Reg.LP_INJ_STAT.base]

/-- At the coming edge a run of injection ends, or STOP is written (R301): v is 0, RUN is 0, the event is presented. -/
def InjEnded (R R' : Region) : Prop :=
  R'.reg Reg.LP_INJ_VALUE.base = 0 ∧ R'.reg Reg.LP_INJ_STAT.base = setBit (R.reg Reg.LP_INJ_STAT.base) 0 false
    ∧ R'.ev.coming = R.ev.coming ++ [0x016] ∧ R'.lp = R.lp

/-- A step of a run at PCLK edge `e`, the coming one (R299, R300): v by the kind of run, the generator advanced, the
event presented; after its last step the run ends. -/
def InjStepped (e : Nat) (R R' : Region) : Prop :=
  let cfg := R.reg Reg.LP_INJ_CFG.base
  let ampl : Int := R.field Reg.LP_INJ_AMPL.base 15 0
  let len := max 7 (bitsOf cfg 28 24)
  let bit := ((prbsTaps len).filter (fun k => R.lp.sr.testBit (k - 1))).length % 2
  let dur := (R.reg Reg.LP_INJ_DUR.base).toNat
  let sine := BitVec.ofInt 32 ((ampl * sineS (R.lp.phase.toNat / 2 ^ 20)) >>> 15)
  let phase := R.lp.phase + BitVec.ofNat 32 (R.lp.freq.toNat / 2 ^ 16)
  let dfreq := (R.reg Reg.LP_INJ_DFREQ.base).toInt
  let l : Loop := { R.lp with steps := R.lp.steps + 1, injLast := e }
  if ((bitsOf cfg 31 29 = 2 ∨ bitsOf cfg 31 29 = 3) ∧ dur ≠ 0 ∧ R.lp.steps = dur)
      ∨ (bitsOf cfg 31 29 = 4 ∧ R.lp.steps = max 1 (R.field Reg.LP_INJ_COUNT.base 15 0) * max 1 dur) then InjEnded R R'
  else R'.reg Reg.LP_INJ_STAT.base = R.reg Reg.LP_INJ_STAT.base ∧ R'.ev.coming = R.ev.coming ++ [0x016]
    ∧ (bitsOf cfg 31 29 = 1 → R'.reg Reg.LP_INJ_VALUE.base = BitVec.ofInt 32 ampl ∧ R'.lp = l)
    ∧ (bitsOf cfg 31 29 = 2 → R'.reg Reg.LP_INJ_VALUE.base = BitVec.ofInt 32 (if bit = 1 then ampl else -ampl)
        ∧ R'.lp = { l with sr := (2 * R.lp.sr + bit) % 2 ^ len })
    ∧ (bitsOf cfg 31 29 = 3 → R'.reg Reg.LP_INJ_VALUE.base = sine
        ∧ R'.lp = { l with phase := phase, freq := R.lp.freq + BitVec.ofInt 48 dfreq })
    ∧ (bitsOf cfg 31 29 = 4 → R'.reg Reg.LP_INJ_VALUE.base = sine
        ∧ R'.lp = { l with
            phase := phase
            freq := if l.steps % max 1 dur = 0 then R.lp.freq + BitVec.ofInt 48 (dfreq * 2 ^ 16) else R.lp.freq })

end Sys2Proof.Machine

/-- R299 to R301: GO starts a run with the generator initialised, and with INT not 0 takes its first step; a STOP ends
whatever runs. The coming edge is a step edge where a run is in progress, INT is not 0 and it has passed since the last
one, 1 to 63 acting as 64; any other edge is left alone. With INT 0 the steps are those of task 0x009. R302: from the
edge on compares see the new v. R304: a buffered capture entry reaches its place in region memory, and CTL.RESET
restarts the ring. Choices of the model: that the command is the event, where one is due (log 32), the edge at which a
command acts (log 57). -/
def Obligations.InjectionAndCapture : Prop :=
  ∀ (r : RegionId) (R : Region) (e int : Nat) (s : State), Live r s → R = s.region r → e = s.time.pclk + 1 →
    int = (R.reg Reg.LP_INJ_INT.base).toNat →
    (∀ (len seed : Nat) (l : Loop), len = max 7 (R.field Reg.LP_INJ_CFG.base 28 24) →
      seed = (R.reg Reg.LP_INJ_SEED.base).toNat % 2 ^ len →
      l = { R.lp with
        steps := 0, phase := 0, sr := if seed = 0 then 1 else seed
        freq := BitVec.ofNat 48 ((R.reg Reg.LP_INJ_FREQ.base).toNat * 2 ^ 16) } →
      (int = 0 → Completes (.injectionGo r) s (fun t =>
        RegionBut Region.noInj [Reg.LP_INJ_STAT.base] r s t ∧ (t.region r).lp = l ∧ (t.region r).ev = R.ev
          ∧ (t.region r).reg Reg.LP_INJ_STAT.base = setBit (R.reg Reg.LP_INJ_STAT.base) 0 true))
      ∧ (int ≠ 0 → Completes (.injectionGo r) s (fun t => RegionBut Region.noInj injRegs r s t
          ∧ InjStepped e ({ R with lp := l }.setBit Reg.LP_INJ_STAT.base 0 true) (t.region r))))
    ∧ (R.injRun = true → int ≠ 0 → R.lp.injLast + max 64 int ≤ e → Completes (.injectionStep r) s (fun t =>
        RegionBut Region.noInj injRegs r s t ∧ InjStepped e R (t.region r)))
    ∧ (R.injRun = false ∨ int = 0 ∨ e < R.lp.injLast + max 64 int →
        Completes (.injectionStep r) s (fun t => RegionRegs [] r s t))
    ∧ Completes (.injectionStop r) s (fun t => RegionBut Region.noInj injRegs r s t ∧ InjEnded R (t.region r))
    ∧ (∀ Q T : Region, T = injTick e (injTask Q) → Q.reg Reg.LP_INJ_INT.base = 0 →
        T.lp.injAsked = false ∧ T.lp.injCmp = T.reg Reg.LP_INJ_VALUE.base
          ∧ (Q.injRun = true → InjStepped e Q { T with lp := { T.lp with injAsked := Q.lp.injAsked, injCmp := Q.lp.injCmp } }))
    ∧ (∀ (q : RcEntry) (l : List RcEntry) (a : Nat), R.lp.rcBuf = q :: l → rcFits R = true → q.index < rcLen R →
      a = R.field Reg.LP_RC_BASE.base 15 0 * 16 + 16 * q.index → Served r (.rmem a) 16 s →
      Completes (.captureEntryWrite r) s (fun t =>
        RegionBut (fun Q => { Q with lp := { Q.lp with rcBuf := [] }, banks := { Q.banks with rmem := [] } }) [] r s t
        ∧ (t.region r).lp.rcBuf = l
        ∧ Stored (.rmem a) (leBytes 8 q.stamp.toNat ++ leBytes 4 q.v.toNat ++ leBytes 4 q.result.toNat) R (t.region r)))
    ∧ (R.lp.rcBuf = [] → Completes (.captureEntryWrite r) s (fun t => RegionRegs [] r s t))
    ∧ Completes (.ringReset r) s (fun t =>
        RegionBut (fun Q => { Q with lp := { Q.lp with rcCount := 0 } }) [Reg.LP_RC_WPTR.base] r s t
        ∧ (t.region r).reg Reg.LP_RC_WPTR.base = 0 ∧ (t.region r).lp.rcCount = 0)

namespace Sys2Proof.Machine

/-- The pairs that hold POS, VEL and ACC of generator `p`. -/
def pgRegs (p : Nat) : List Nat :=
  [Reg.LP_PG_POS_L, Reg.LP_PG_POS_H, Reg.LP_PG_VEL_L, Reg.LP_PG_VEL_H, Reg.LP_PG_ACC_L, Reg.LP_PG_ACC_H,
    Reg.LP_PG_STAT].map (fun d => regAt d p 0)

/-- PCLK edge of the last tick of generator `p`, or of the start that set MOVING (R293). -/
def pgSince (p : Nat) (R : Region) : Nat := mapGet zeroNat R.lp.pgLast p

end Sys2Proof.Machine

/-- R293 to R295: a start latches TARGET unless a limit is 0; that of a generator at rest begins its tick phase. The
coming edge is a tick of a moving generator once PER, held to 80 to 800,000, has passed since its last one; any other
edge is left alone. A tick changes the acceleration by at most JMAX and keeps it within AMAX, the velocity by the
acceleration and the position by the velocity; where one tick can reach the target within the limits it does; at rest on
the target the motion ends with its event. A period write leaves the tick phase. Choices of the model: what D adds where
its loop stands still (log 30), that the command is the event, where one is due (log 32), the edge at which a command
acts (log 57). -/
def Obligations.ProfileGenerators : Prop :=
  ∀ (r : RegionId) (p : Fin 8) (R : Region) (due : Prop) (s : State), Live r s → R = s.region r →
    due = (pgMoving p R = true
      ∧ pgSince p R + max 80 (min 800000 (R.field (regAt Reg.LP_PG_TICK p 0) 19 0)) ≤ s.time.pclk + 1) →
    Completes (.profileStart r p) s (fun t =>
      RegionBut (fun Q => { Q with lp := { Q.lp with target := [], pgLast := [] } }) [regAt Reg.LP_PG_STAT p 0] r s t
      ∧ (pgLimErr p R = true → RegsBut [] R (t.region r) ∧ (t.region r).lp = R.lp)
      ∧ (pgLimErr p R = false → pgMoving p (t.region r) = true
        ∧ (∀ q, pgTarget q (t.region r) =
          if q = p.val then some (pgPair R Reg.LP_PG_TARGET_L Reg.LP_PG_TARGET_H p) else pgTarget q R)
        ∧ ∀ q, pgSince q (t.region r) = if q = p.val ∧ pgMoving p R = false then s.time.pclk else pgSince q R))
    ∧ (¬ due → Completes (.profileTick r p) s (fun t => RegionRegs [] r s t))
    ∧ (∀ (pos vel acc vmax amax jmax : Int) (tgt : BitVec 64), due → pgTarget p R = some tgt →
      pos = (pgPair R Reg.LP_PG_POS_L Reg.LP_PG_POS_H p).toInt →
          vel = (pgPair R Reg.LP_PG_VEL_L Reg.LP_PG_VEL_H p).toInt →
      acc = (pgPair R Reg.LP_PG_ACC_L Reg.LP_PG_ACC_H p).toInt →
      vmax = (pgPair R Reg.LP_PG_VMAX_L Reg.LP_PG_VMAX_H p).toNat →
      amax = (pgPair R Reg.LP_PG_AMAX_L Reg.LP_PG_AMAX_H p).toNat →
      jmax = (pgPair R Reg.LP_PG_JMAX_L Reg.LP_PG_JMAX_H p).toNat →
      Completes (.profileTick r p) s (fun t =>
        RegionBut (fun Q => { Q with lp := { Q.lp with pgLast := [] }, ev := { Q.ev with coming := [] } }) (pgRegs p) r s t
        ∧ (∀ q, pgSince q (t.region r) = if q = p.val then s.time.pclk + 1 else pgSince q R)
        ∧ ∃ vel' acc' : Int, vel' = vel + acc'
          ∧ pgPair (t.region r) Reg.LP_PG_POS_L Reg.LP_PG_POS_H p = BitVec.ofInt 64 (pos + vel')
          ∧ pgPair (t.region r) Reg.LP_PG_VEL_L Reg.LP_PG_VEL_H p = BitVec.ofInt 64 vel'
          ∧ pgPair (t.region r) Reg.LP_PG_ACC_L Reg.LP_PG_ACC_H p = BitVec.ofInt 64 acc'
          ∧ (-amax ≤ acc ∧ acc ≤ amax → -amax ≤ acc' ∧ acc' ≤ amax ∧ -jmax ≤ acc' - acc ∧ acc' - acc ≤ jmax)
          ∧ (∀ v a, v = tgt.toInt - pos → a = v - vel → v.natAbs ≤ vmax ∧ v.natAbs ≤ amax ∧ v.natAbs ≤ jmax
              ∧ a.natAbs ≤ amax ∧ (a - acc).natAbs ≤ jmax ∧ (v + a).natAbs ≤ jmax → vel' = v)
          ∧ if pos + vel' = tgt.toInt ∧ vel' = 0 ∧ acc' = 0 then
              pgMoving p (t.region r) = false ∧ (t.region r).ev.coming = R.ev.coming ++ [0x0B0 + p.val]
            else pgMoving p (t.region r) = true ∧ (t.region r).ev = R.ev))
    ∧ (∀ v : Word, Completes (.profilePeriodWrite r p v) s (fun t => RegionRegs [regAt Reg.LP_PG_TICK p 0] r s t
        ∧ (t.region r).reg (regAt Reg.LP_PG_TICK p 0) = maskWrite Reg.LP_PG_TICK.mask (R.reg (regAt Reg.LP_PG_TICK p 0)) v))

/-- R298: an abort clears MOVING, VEL and ACC, keeps POS and presents no event, by the write of CTL with ABORT 1 whether
GO is 1 with it or not; a write of POS is the set-point of a generator at rest and ignored in motion. -/
def Obligations.ProfileAbort : Prop :=
  ∀ (r : RegionId) (p : Fin 8) (R : Region) (s : State), Live r s → R = s.region r →
    Completes (.profileAbort r p) s (fun t =>
      RegionRegs ([Reg.LP_PG_VEL_L, Reg.LP_PG_VEL_H, Reg.LP_PG_ACC_L, Reg.LP_PG_ACC_H, Reg.LP_PG_STAT].map
        (fun d => regAt d p 0)) r s t
      ∧ (t.region r).reg (regAt Reg.LP_PG_STAT p 0) = setBit (R.reg (regAt Reg.LP_PG_STAT p 0)) 0 false
      ∧ pgMoving p (t.region r) = false
      ∧ pgPair (t.region r) Reg.LP_PG_VEL_L Reg.LP_PG_VEL_H p = 0
      ∧ pgPair (t.region r) Reg.LP_PG_ACC_L Reg.LP_PG_ACC_H p = 0
      ∧ ∀ (host : Bool) (v : Word), v.getLsbD 1 = true →
          ((s.writeReg host (some r.val) (regAt Reg.LP_PG_CTL p 0) v).2).region r = t.region r)
    ∧ ∀ (hi : Bool) (v : Word) (a : Nat), a = regAt (if hi then Reg.LP_PG_POS_H else Reg.LP_PG_POS_L) p 0 →
      Completes (.profilePosWrite r p hi v) s (fun t => RegionRegs [a] r s t
        ∧ (t.region r).reg a = if pgMoving p R then R.reg a else v)

/-! ## Feedback -/

namespace Sys2Proof.Machine

/-- The sequences of R310 and R311: levels of U, V and W through a turn forward, and of A and B. -/
def FeedbackSequences : Prop :=
  (∀ i : Fin 6, fbDecide 1 ([1, 3, 2, 6, 4, 5].getD i 0) ([3, 2, 6, 4, 5, 1].getD i 0) = .valid true
      ∧ fbDecide 1 ([3, 2, 6, 4, 5, 1].getD i 0) ([1, 3, 2, 6, 4, 5].getD i 0) = .valid false)
    ∧ (∀ i : Fin 4, fbDecide 2 ([0, 1, 3, 2].getD i 0) ([1, 3, 2, 0].getD i 0) = .valid true
      ∧ fbDecide 2 ([1, 3, 2, 0].getD i 0) ([0, 1, 3, 2].getD i 0) = .valid false
      ∧ fbDecide 2 ([0, 1, 3, 2].getD i 0) ([3, 2, 0, 1].getD i 0) = .illegal 1)

/-- A region without feedback unit state and pulses. -/
def Region.noFb (Q : Region) : Region := { Q with fb := [], ev := { Q.ev with coming := [] } }

/-- Unit `u` holds `f`, its lines apart, and the others hold what they held. -/
def UnitIs (u : Nat) (f : Feedback) (R R' : Region) : Prop :=
  ∀ q, { R'.fbUnit q with line := [] } = if q = u then { f with line := [] } else { R.fbUnit q with line := [] }

/-- The unit as it stands for the coming edge; a second change for one edge finds the writes of that edge met. -/
def atEdge (f : Feedback) : Feedback :=
  if f.edge then { f with edge := false, posW := false, cfgW := false, cmpOld := none, stopped := none } else f

/-- A unit whose timeout of the coming edge, if there was one, has given way to a valid edge (R316). -/
def unstopped (f : Feedback) : Feedback := { f with hist := (f.stopped.map Prod.fst).getD f.hist, stopped := none }

/-- A position after a valid edge: one up or down. -/
def stepped {n : Nat} (up : Bool) (v : BitVec n) : BitVec n := if up then v + 1 else v - 1

/-- Registers of unit `u` that a valid edge may change. -/
def fbEdgeRegs (u : Nat) : List Nat :=
  [Reg.FB_UN_STAT, Reg.FB_UN_POS_L, Reg.FB_UN_POS_H, Reg.FB_UN_PERIOD, Reg.FB_UN_LEDGE_L, Reg.FB_UN_LEDGE_H,
      Reg.FB_UN_CMP,
    Reg.FB_UN_HITS].map (fun d => fbAt d u)

/-- BEHIND of a compare value `cmp` for a position `pos` (R321). -/
def behind (cmp pos : Word) (down : Bool) : Bool := let d := (cmp - pos).toInt; if down then decide (0 ≤ d) else decide (d ≤ 0)

/-- A valid edge of unit `u` in state `f`, decided at PCLK edge `e` with the stamp `st` of its instant: position,
direction, history and period (R309, R312, R314, R315). -/
def EdgeTimed (u e : Nat) (st : Ticks) (fwd : Bool) (f : Feedback) (R R' : Region) : Prop :=
  let cfg := R.reg (fbAt Reg.FB_UN_CFG u)
  let stat := fbAt Reg.FB_UN_STAT u
  let rev := f.lastFwd.any (fun d => d != fwd)
  let inst := e - bitsOf cfg 15 8
  let hist := if rev then [inst] else (inst :: (unstopped f).hist).take 7
  let n := match bitsOf cfg 6 4 with | 0 => 1 | 7 => 6 | j => j
  let k := min (hist.length - 1) n
  UnitIs u { unstopped f with hist := hist, lastFwd := some fwd, lastEdge := some inst, edge := true } R R'
    ∧ R'.bit stat 4 = (fwd == cfg.getLsbD 2) ∧ R'.bit stat 5 = rev
    ∧ (if 1 ≤ k then R'.field stat 14 12 = k
          ∧ R'.reg (fbAt Reg.FB_UN_PERIOD u) = BitVec.ofNat 32 (min 0xFFFFFFFF (inst - hist.getD k inst))
        else R'.field stat 14 12 = (f.stopped.map (fun q => q.2.2 % 8)).getD (R.field stat 14 12)
          ∧ R'.reg (fbAt Reg.FB_UN_PERIOD u) = (f.stopped.map (fun q => q.2.1)).getD (R.reg (fbAt Reg.FB_UN_PERIOD u)))
    ∧ R'.pairVal (fbAt Reg.FB_UN_LEDGE_L u) (fbAt Reg.FB_UN_LEDGE_H u) = st

/-- The compare of unit `u` in state `f` at a valid edge that leaves the position at `pos` (R318, R319, R321, R324). -/
def CompareMet (u : Nat) (up : Bool) (pos : Word) (f : Feedback) (R R' : Region) : Prop :=
  let a := fbAt Reg.FB_UN_CMP u
  let cmp := f.cmpOld.getD (R.reg a)
  let hit := !f.posW && pos == cmp
  let sp := R.reg (fbAt Reg.FB_UN_CMPSP u)
  R'.ev.coming = R.ev.coming ++ [0x0B8 + u] ++ (if hit then [0x0C0 + u] else [])
    ∧ R'.reg (fbAt Reg.FB_UN_HITS u) = (if hit then satAdd 0xFFFF (R.reg (fbAt Reg.FB_UN_HITS u)) 1
        else R.reg (fbAt Reg.FB_UN_HITS u))
    ∧ R'.reg a = (if hit && f.cmpOld.isNone then (if up then cmp + sp else cmp - sp) else R.reg a)
    ∧ R'.bit (fbAt Reg.FB_UN_STAT u) 8 =
        if f.cmpOld.isSome then behind (R.reg a) pos (!up) else R.bit (fbAt Reg.FB_UN_STAT u) 8

end Sys2Proof.Machine

/-- R308 to R320, R324: a synchronised level counts from the coming edge on, and once it has shown for FILT + 1 edges
the
filtered line takes it; before that nothing else happens. A change of the filtered lines is decoded. A valid edge moves
the
position by one, up when it is forward or INV says so, keeps its instant and stamp, restarts the history on a reversal,
measures the period over the instants held, and hits the compare value where it arrives there, which then moves on by
its
spacing. An illegal change is counted and coded, and it and a resynchronisation forget the history. A write of CFG at
the
edge leaves only the levels. A Z edge keeps the position, and where it loads gives it the load value with no hit.

R315, R316: AGE reaching TIMEOUT at the coming edge, with no valid edge at it, stops the measurement; any other edge
is left alone. R318, R321, R324: a compare write sets BEHIND, and the value it replaced is the one that a valid edge of
the
coming edge meets; a position write loads a narrow unit at once and a wide one with its upper half; a configuration
write
that changes mode or direction restarts the timing, and STAT.REV stays.
Choices of the model: how AGE and invalid Hall states count (log 31), that the command is the event, where one is due
(log 32), the edge at which a command acts (log 57). -/
def Obligations.Feedback : Prop :=
  (FeedbackSequences
    ∧ ∀ (r : RegionId) (u : Fin 8) (R : Region) (st v o filt : Nat) (cfg : Word) (w : BitVec 3) (ln : Nat → Line)
        (f : Machine.Feedback)
        (s : State), Live r s → R = s.region r → st = fbAt Reg.FB_UN_STAT u → cfg = R.reg (fbAt Reg.FB_UN_CFG u) →
      filt = bitsOf cfg 15 8 → o = R.field st 18 16 → f = atEdge (R.fbUnit u) →
      ln = (fun i => if (R.fbLine u i).sync = w.getLsbD i then R.fbLine u i
        else ⟨w.getLsbD i, max (s.time.pclk + 1) (R.fbLine u i).since⟩) →
      v < 8 → (∀ i, i < 3 → v.testBit i = if (ln i).since + filt ≤ s.time.pclk + 1 then w.getLsbD i else o.testBit i) →
      ∀ held : State → Prop, held = (fun t => ∀ q i, i < 3 → (t.region r).fbLine q i = if q = u.val then ln i else R.fbLine q i) →
      (v = o → Completes (.feedbackChange r u w) s (fun t => RegionBut Region.noFb [] r s t ∧ held t
          ∧ UnitIs u f R (t.region r) ∧ (t.region r).ev = R.ev))
      ∧ (v ≠ o → (f.cfgW = true ∨ (fbDecide (fbMode u R) o v = .nothing ∧ isZ u o v R = false)) →
        Completes (.feedbackChange r u w) s (fun t => RegionBut Region.noFb [st] r s t ∧ held t
            ∧ UnitIs u f R (t.region r)
          ∧ (t.region r).ev = R.ev ∧ (t.region r).field st 18 16 = v ∧ (t.region r).field st 2 0 = fbSector u v R))
      ∧ (∀ (fwd up : Bool), v ≠ o → f.cfgW = false → fbDecide (fbMode u R) o v = .valid fwd → isZ u o v R = false →
        up = (fwd != cfg.getLsbD 2) →
        Completes (.feedbackChange r u w) s (fun t => RegionBut Region.noFb (fbEdgeRegs u) r s t ∧ held t
          ∧ (t.region r).field st 18 16 = v ∧ (t.region r).field st 2 0 = fbSector u v R
          ∧ (t.region r).reg (fbAt Reg.FB_UN_POS_L u) = stepped up (R.reg (fbAt Reg.FB_UN_POS_L u))
          ∧ (fbWide u = true → fbPos u (t.region r) = stepped up (fbPos u R))
          ∧ EdgeTimed u (s.time.pclk + 1) ((s.ctx r).next.gtAtHalf (-2 * (filt : Int))) fwd f R (t.region r)
          ∧ CompareMet u up (stepped up (R.reg (fbAt Reg.FB_UN_POS_L u))) f R (t.region r)))
      ∧ (∀ code, v ≠ o → f.cfgW = false → fbDecide (fbMode u R) o v = .illegal code → isZ u o v R = false →
        Completes (.feedbackChange r u w) s (fun t => RegionBut Region.noFb [st, fbAt Reg.FB_UN_ILL u] r s t ∧ held t
          ∧ (t.region r).reg (fbAt Reg.FB_UN_ILL u) = satAdd 0xFFFF (R.reg (fbAt Reg.FB_UN_ILL u)) 1
          ∧ (t.region r).field st 11 10 = code ∧ (t.region r).field st 18 16 = v
          ∧ (t.region r).ev.coming = R.ev.coming ++ [0x0C8 + u.val] ∧ UnitIs u { f with hist := [] } R (t.region r)))
      ∧ (v ≠ o → f.cfgW = false → fbDecide (fbMode u R) o v = .resync → Completes (.feedbackChange r u w) s (fun t =>
          RegionBut Region.noFb [st] r s t ∧ held t ∧ (t.region r).field st 18 16 = v ∧ (t.region r).ev = R.ev
          ∧ UnitIs u { f with hist := [] } R (t.region r)))
      ∧ (∀ at' : Word, f.cfgW = false → isZ u o v R = true → bitsOf cfg 17 16 ≠ 0 →
        at' = (match fbDecide (fbMode u R) o v with
          | .valid fwd => stepped (fwd != cfg.getLsbD 2) (R.reg (fbAt Reg.FB_UN_POS_L u))
          | _ => R.reg (fbAt Reg.FB_UN_POS_L u)) →
        Completes (.feedbackChange r u w) s (fun t =>
          RegionBut Region.noFb (fbEdgeRegs u ++ [fbAt Reg.FB_UN_ILL u, fbAt Reg.FB_UN_ZPOS_L u,
              fbAt Reg.FB_UN_ZPOS_H u]) r s t
          ∧ held t ∧ (t.region r).reg (fbAt Reg.FB_UN_ZPOS_L u) = at'
          ∧ (zLoads u R = false → (t.region r).reg (fbAt Reg.FB_UN_POS_L u) = at')
          ∧ (zLoads u R = true → (t.region r).reg (fbAt Reg.FB_UN_POS_L u) = R.reg (fbAt Reg.FB_UN_ZLOAD u)
            ∧ (fbWide u = true → fbPos u (t.region r) = (R.reg (fbAt Reg.FB_UN_ZLOAD u)).signExtend 64)
            ∧ (t.region r).reg (fbAt Reg.FB_UN_CMP u) = R.reg (fbAt Reg.FB_UN_CMP u)
            ∧ (t.region r).reg (fbAt Reg.FB_UN_HITS u) = R.reg (fbAt Reg.FB_UN_HITS u)
            ∧ (bitsOf cfg 17 16 = 3 → (t.region r).bit st 9 = true)))))
  ∧ (∀ (r : RegionId) (u : Fin 8) (R : Region) (st : Nat) (cfg : Word) (s : State), Live r s → R = s.region r →
      st = fbAt Reg.FB_UN_STAT u → cfg = R.reg (fbAt Reg.FB_UN_CFG u) →
      (∀ due : Bool, due = (R.reg (fbAt Reg.FB_UN_TIMEOUT u) != 0 && !(R.fbUnit u).edge
          && (R.fbUnit u).lastEdge.any (fun e =>
            decide ((R.reg (fbAt Reg.FB_UN_TIMEOUT u)).toNat ≤ min 0xFFFFFFFF (s.time.pclk + 1 - e)))) →
        (due = false → Completes (.feedbackTimeout r u) s (fun t => RegionRegs [] r s t))
        ∧ (due = true → Completes (.feedbackTimeout r u) s (fun t =>
          RegionBut (fun Q => { Q with fb := [] }) [st, fbAt Reg.FB_UN_PERIOD u] r s t
          ∧ (t.region r).reg (fbAt Reg.FB_UN_PERIOD u) = 0 ∧ (t.region r).reg st = setBits (R.reg st) 14 12 0
          ∧ ∀ q, (t.region r).fbUnit q = if q = u.val then { R.fbUnit u with
              hist := []
              stopped := some ((R.fbUnit u).stopped.getD ((R.fbUnit u).hist, R.reg (fbAt Reg.FB_UN_PERIOD u),
                  R.field st 14 12)) }
            else R.fbUnit q)))
      ∧ (∀ (hi : Bool) (v : Word),
        (fbWide u = false → Completes (.feedbackPosWrite r u hi v) s (fun t =>
            RegionBut (fun Q => { Q with fb := [] }) [fbAt Reg.FB_UN_POS_L u] r s t
            ∧ (∀ q, (t.region r).fbUnit q = if q = u.val ∧ hi = false then { R.fbUnit u with posW := true } else R.fbUnit q)
            ∧ (t.region r).reg (fbAt Reg.FB_UN_POS_L u) = if hi then R.reg (fbAt Reg.FB_UN_POS_L u) else v))
        ∧ (fbWide u = true → Completes (.feedbackPosWrite r u hi v) s (fun t =>
            RegionBut (fun Q => { Q with fb := [] }) [fbAt Reg.FB_UN_POS_L u, fbAt Reg.FB_UN_POS_H u] r s t
            ∧ (∀ q, (t.region r).fbUnit q = if q = u.val then
                (if hi then { R.fbUnit u with posHeld := none, posW := true } else { R.fbUnit u with posHeld := some v })
                else R.fbUnit q)
            ∧ fbPos u (t.region r) = if hi then
                (v ++ (R.fbUnit u).posHeld.getD (R.reg (fbAt Reg.FB_UN_POS_L u)) : BitVec 64) else fbPos u R)))
      ∧ (∀ v : Word, Completes (.feedbackCmpWrite r u v) s (fun t =>
          RegionBut (fun Q => { Q with fb := [] }) [fbAt Reg.FB_UN_CMP u, st] r s t
          ∧ (t.region r).reg (fbAt Reg.FB_UN_CMP u) = v
          ∧ (∀ q, (t.region r).fbUnit q = if q = u.val then
              { R.fbUnit u with cmpOld := some ((R.fbUnit u).cmpOld.getD (R.reg (fbAt Reg.FB_UN_CMP u))) } else R.fbUnit q)
          ∧ (t.region r).reg st = setBit (R.reg st) 8 (behind v (R.reg (fbAt Reg.FB_UN_POS_L u)) (R.bit st 4))))
      ∧ (∀ (v new : Word), new = maskWrite Reg.FB_UN_CFG.mask cfg v →
        Completes (.feedbackConfigWrite r u v) s (fun t =>
          RegionBut (fun Q => { Q with fb := [] }) [fbAt Reg.FB_UN_CFG u, st, fbAt Reg.FB_UN_PERIOD u] r s t
          ∧ (t.region r).reg (fbAt Reg.FB_UN_CFG u) = new ∧ (t.region r).bit st 9 = false
          ∧ (t.region r).bit st 5 = R.bit st 5
          ∧ (bitsOf new 2 0 = bitsOf cfg 2 0 →
              (∀ q, (t.region r).fbUnit q = if q = u.val then { R.fbUnit u with cfgW := true } else R.fbUnit q)
              ∧ (t.region r).reg (fbAt Reg.FB_UN_PERIOD u) = R.reg (fbAt Reg.FB_UN_PERIOD u))
          ∧ (bitsOf new 2 0 ≠ bitsOf cfg 2 0 → (t.region r).reg (fbAt Reg.FB_UN_PERIOD u) = 0
              ∧ (t.region r).field st 14 12 = 0
              ∧ (t.region r).field st 2 0 = (if bitsOf new 1 0 = 1 then (hallSector (R.field st 18 16)).getD 7 else 7)
              ∧ ∀ q, (t.region r).fbUnit q = if q = u.val then { R.fbUnit u with hist := [], cfgW := true }
                  else R.fbUnit q))))

/-! ## Memory banks -/

namespace Sys2Proof.Machine

/-- A region without its memory banks. -/
def Region.noBanks (Q : Region) : Region := { Q with banks := banksInit }

/-- The same banks but for transitions. -/
def SameMemory (R R' : Region) : Prop :=
  ({ R'.banks with trans := [] } : Banks) = { R.banks with trans := [] }

/-- Bank `b` moves towards state `want` where it is elsewhere and no transition of it is in progress (R332). -/
def BankMoved (b want : Nat) (w : Word) (trans : FMap (Option Nat)) (R' : Region) : Prop :=
  if mapGet noneAt trans b = none ∧ bitsOf w 5 4 ≠ want then
    R'.reg (pwrKey b) = setBits w 5 4 3 ∧ ∀ j, mapGet noneAt R'.banks.trans j = if j = b then some want else mapGet noneAt trans j
  else R'.reg (pwrKey b) = w ∧ R'.banks.trans = trans

/-- State that a PWR value asks for: 3 acts as 0. -/
def wanted (w : Word) : Nat := if bitsOf w 1 0 = 3 then 0 else bitsOf w 1 0

end Sys2Proof.Machine

/-- R332, R333: a power write by another requester than the host that would change a pinned State is refused and
counted; another one sets State, the host's PIN too, and the bank moves unless it is under test. At the end of a
transition the bank is in its state, Off having lost its contents and its errors and no other bank anything, and moves
on where State asks for another. R328: a corrected word is rewritten. Choices of the model: which register stands at
overlapping offsets (log 27), that the command is the event, where one is due (log 32). -/
def Obligations.BankPower : Prop :=
  ∀ (r : RegionId) (b : Fin 80) (R : Region) (w : Word) (s : State), Live r s → R = s.region r → w = R.reg (pwrKey b) →
    (∀ (host : Bool) (v : Word) (w' : Word),
      (host = false → w.getLsbD 31 = true → bitsOf v 1 0 ≠ bitsOf w 1 0 →
          Completes (.bankPowerWrite r b host v) s (fun t =>
        RegionRegs [Reg.MB_PINREF.base] r s t
          ∧ (t.region r).reg Reg.MB_PINREF.base = satAdd 0xFFFF (R.reg Reg.MB_PINREF.base) 1))
      ∧ ((host = true ∨ w.getLsbD 31 = false ∨ bitsOf v 1 0 = bitsOf w 1 0) →
        w' = setBits (if host then setBit w 31 (v.getLsbD 31) else w) 1 0 (bitsOf v 1 0) →
        Completes (.bankPowerWrite r b host v) s (fun t =>
          RegionBut Region.noBanks [pwrKey b] r s t ∧ SameMemory R (t.region r)
          ∧ if bankTested b R then (t.region r).reg (pwrKey b) = w' ∧ (t.region r).banks.trans = R.banks.trans
            else BankMoved b (wanted w') w' R.banks.trans (t.region r))))
    ∧ (∀ q, q < 3 → mapGet noneAt R.banks.trans b = some q → Completes (.bankPowerDone r b) s (fun t =>
        RegionBut Region.noBanks [pwrKey b] r s t
        ∧ BankMoved b (wanted w) (setBits w 5 4 q) (mapSet noneAt R.banks.trans b none) (t.region r)
        ∧ (q ≠ 2 → SameMemory R (t.region r))
        ∧ (∀ p n, placeBank p = some n → p.inside →
            byteAt p (t.region r) = if q = 2 ∧ n = b.val then 0 else byteAt p R)
        ∧ (∀ code, eccAt (t.region r) code =
            if q = 2 ∧ (bankWords b).1 ≤ code ∧ code < (bankWords b).1 + (bankWords b).2 then none else eccAt R code)))
    ∧ (mapGet noneAt R.banks.trans b = none → Completes (.bankPowerDone r b) s (fun t => RegionRegs [] r s t))
    ∧ (∀ loc : Word, Completes (.eccRewrite r loc) s (fun t =>
        RegionBut (fun Q => { Q with banks := { Q.banks with ecc := [] } }) [] r s t
        ∧ ∀ code, eccAt (t.region r) code = if code = loc.toNat
            ∧ eccAt R code = some .single then none else eccAt R code))

namespace Sys2Proof.Machine

/-- A region without the harrow's progress. -/
def Region.noHarrow (Q : Region) : Region := { Q with banks := { Q.banks with harrow := 0, harrowGt := none } }

/-- Ticks from the first access of a pass to access `n` under a period of `per` seconds, held to 1 to 600 (R334). -/
def passTicks (n per : Nat) : Nat := n * (max 1 (min 600 per) * 12800000000) / 360448

/-- Access `n` of a pass is made, the first of the pass made or due at `first`: the next one is due, or the next pass,
and a pass that ends is counted (R334, R335). -/
def HarrowMade (n : Nat) (first : Ticks) (R R' : Region) : Prop :=
  if n + 1 = 360448 then
    R'.banks.harrow = 0
      ∧ R'.banks.harrowGt = some (first + BitVec.ofNat 64 (passTicks 360448 (R.field Reg.MB_HRW_CFG.base 9 0)))
      ∧ R'.reg Reg.MB_HRW_PASSES.base = satAdd 0xFFFF (R.reg Reg.MB_HRW_PASSES.base) 1
  else R'.banks.harrow = n + 1 ∧ R'.banks.harrowGt = some first
      ∧ R'.reg Reg.MB_HRW_PASSES.base = R.reg Reg.MB_HRW_PASSES.base

/-- A region without what a march test may change beside registers. -/
def Region.noMarch (Q : Region) : Region := { Q.noBanks with faultQ := [] }

/-- Registers that a march test of bank `b` may change when it leaves the bank. -/
def marchRegs (b : Nat) : List Nat :=
  [Reg.MB_MT_STAT.base, Reg.MB_MT_FIRST.base, Reg.TL_PFCNT.base, regAt Reg.MB_MT_FAIL (b / 32) 0, bankStat b]

/-- The failure of bank `b` at element `e` and row `row` is recorded (R339, R392). -/
def MarchFailed (b e row : Nat) (g : Ticks) (R R' : Region) : Prop :=
  bankBit Reg.MB_MT_FAIL b R' = true ∧ (∀ j, j < 80 → j ≠ b → bankBit Reg.MB_MT_FAIL j R' = bankBit Reg.MB_MT_FAIL j R)
    ∧ R'.faultQ = R.faultQ ++ [⟨3, 0, b, R.reg Reg.MB_ECC_LASTSBE.base, g⟩]
    ∧ R'.reg Reg.TL_PFCNT.base = satAdd 0xFFFF (R.reg Reg.TL_PFCNT.base) 1
    ∧ R'.reg (bankStat b) = satAdd 0xFFFF (R.reg (bankStat b)) 1
    ∧ R'.reg Reg.MB_MT_FIRST.base = if R.bit Reg.MB_MT_FIRST.base 31 then R.reg Reg.MB_MT_FIRST.base
        else BitVec.ofNat 32 (2 ^ 31 + b * 2 ^ 24 + e * 2 ^ 20 + row)

/-- Nothing of a march test's results differs. -/
def MarchPassed (b : Nat) (R R' : Region) : Prop :=
  RegsBut [Reg.MB_MT_STAT.base] R R' ∧ R'.faultQ = R.faultQ ∧ bankBit Reg.MB_MT_FAIL b R' = bankBit Reg.MB_MT_FAIL b R

end Sys2Proof.Machine

/-- R334, R335: with EN = 0, or at another access than the pass's next one, the harrow does nothing; a row it cannot
read is counted as skipped; a clean row is read; a row with one single-bit error has it found, counted and rewritten; a
period write starts a new pass. R336 to R339: GO clears the results and takes up the first bank named that is On, a test
in progress ignores it; a bank that passes is zero after a destructive test and as before after a preserving one, one
that fails, in an element that reads, is recorded; the next bank is taken up, or the test ends; ABORT ends a test, a
failure so far being recorded, with memory as it was after a preserving one, and after a destructive one with rows of
zeros and ones in the bank under test, or zeros up to a row of its first element. Choices of the model: the order of the
harrow and of an aborted test (log 28), that the command is the event, where one is due (log 32), single readings (log
59). -/
def Obligations.HarrowAndMarch : Prop :=
  ∀ (r : RegionId) (R : Region) (s : State), Live r s → R = s.region r →
    (∀ n : Nat, R.bit Reg.MB_HRW_CFG.base 31 = false ∨ n ≠ R.banks.harrow →
      Completes (.harrowAccess r n) s (fun t => RegionRegs [] r s t))
    ∧ (∀ (n w : Nat) (p : Place) (first : Ticks), R.bit Reg.MB_HRW_CFG.base 31 = true → n = R.banks.harrow →
      harrowRow n = some (p, w) →
      first = R.banks.harrowGt.getD (s.time.gtime - BitVec.ofNat 64 (passTicks n (R.field Reg.MB_HRW_CFG.base 9 0))) →
      (harrowReads p R = false → Completes (.harrowAccess r n) s (fun t =>
          RegionBut Region.noHarrow [Reg.MB_HRW_SKIP.base, Reg.MB_HRW_PASSES.base] r s t
          ∧ (t.region r).reg Reg.MB_HRW_SKIP.base = satAdd 0xFFFF (R.reg Reg.MB_HRW_SKIP.base) 1
          ∧ HarrowMade n first R (t.region r)))
      ∧ (harrowReads p R = true → (∀ j, j < w → eccAt R (placeCode p + placeOff p / 8 + j) = none) →
        Completes (.harrowAccess r n) s (fun t => RegionBut Region.noHarrow [Reg.MB_HRW_PASSES.base] r s t
          ∧ HarrowMade n first R (t.region r)))
      ∧ (∀ loc, harrowReads p R = true → loc = placeCode p + placeOff p / 8 → eccAt R loc = some .single →
        (∀ j, j < w → j ≠ 0 → eccAt R (loc + j) = none) → R.reg Reg.MB_ECC_LASTSBE.base ≠ BitVec.ofNat 32 loc →
        Completes (.harrowAccess r n) s (fun t =>
          RegionBut (fun Q => { Q.noBanks with rcorr := 0 }) ([Reg.MB_ECC_SBE.base, Reg.MB_ECC_LASTSBE.base,
            Reg.MB_ECC_REPEAT.base, Reg.MB_HRW_PASSES.base] ++ (List.range 8).map (fun j =>
                regAt Reg.TL_B_RUN j 9)) r s t
          ∧ (∀ code, eccAt (t.region r) code = if code = loc then none else eccAt R code)
          ∧ (t.region r).reg Reg.MB_ECC_LASTSBE.base = BitVec.ofNat 32 loc
          ∧ (t.region r).reg Reg.MB_ECC_SBE.base = satAdd 0xFFFF (R.reg Reg.MB_ECC_SBE.base) 1
          ∧ (t.region r).reg Reg.MB_ECC_REPEAT.base = 1 ∧ (t.region r).banks.sbeGt = some s.time.gtime
          ∧ (t.region r).banks.rmem = R.banks.rmem ∧ (t.region r).banks.bmem = R.banks.bmem
          ∧ HarrowMade n first R (t.region r))))
    ∧ (∀ v : Word, Completes (.harrowPeriodWrite r v) s (fun t => RegionBut Region.noHarrow [Reg.MB_HRW_CFG.base] r s t
        ∧ (t.region r).reg Reg.MB_HRW_CFG.base = maskWrite Reg.MB_HRW_CFG.mask (R.reg Reg.MB_HRW_CFG.base) v
        ∧ (t.region r).banks.harrow = 0 ∧ (t.region r).banks.harrowGt = none))
    ∧ (∀ m, R.banks.march = some m → Completes (.marchGo r) s (fun t => RegionRegs [] r s t))
    ∧ (∀ (before after : List Nat) (b : Nat), R.banks.march = none →
      (List.range 80).filter (fun j => bankBit Reg.MB_MT_MASK j R) = before ++ b :: after →
      (∀ j ∈ before, bankCur j R ≠ 0) → bankCur b R = 0 → Completes (.marchGo r) s (fun t =>
        RegionBut (fun Q => { Q with banks := { Q.banks with march := none } })
          (Reg.MB_MT_FIRST.base :: Reg.MB_MT_STAT.base :: (List.range 3).flatMap (fun w =>
            [regAt Reg.MB_MT_FAIL w 0, regAt Reg.MB_MT_SKIP w 0])) r s t
        ∧ (t.region r).banks.march = some ⟨R.bit Reg.MB_MT_CFG.base 0, b :: after, false⟩
        ∧ (t.region r).bit Reg.MB_MT_STAT.base 31 = true ∧ (t.region r).field Reg.MB_MT_STAT.base 6 0 = b
        ∧ (t.region r).reg Reg.MB_MT_FIRST.base = 0
        ∧ ∀ j, j < 80 → bankBit Reg.MB_MT_FAIL j (t.region r) = false
          ∧ bankBit Reg.MB_MT_SKIP j (t.region r) = before.contains j))
    ∧ (∀ (b : Fin 80) (rest : List Nat) (preserving : Bool) (element : Fin 8) (row : BitVec 11) (failed reads : Bool),
      R.banks.march = some ⟨preserving, b.val :: rest, false⟩ →
      reads = (decide (1 ≤ element.val ∧ element.val ≤ 5) && decide (row.toNat < if b.val < 16 then 2048 else 1024)) →
      (failed = true → reads = false → Completes (.marchBankComplete r failed element row) s (fun t =>
          RegionRegs [] r s t))
      ∧ ((failed = true → reads = true) → (∀ j ∈ rest, j < 80 ∧ bankCur j R = 0) → bankWant b R = bankCur b R →
        R.faultQ.length < 16 → Completes (.marchBankComplete r failed element row) s (fun t =>
          RegionBut Region.noMarch (marchRegs b) r s t
          ∧ (t.region r).banks.march = (if rest = [] then none else some ⟨preserving, rest, false⟩)
          ∧ (t.region r).bit Reg.MB_MT_STAT.base 31 = !rest.isEmpty
          ∧ (∀ p n, placeBank p = some n → p.inside →
              byteAt p (t.region r) = if preserving = false ∧ n = b.val then 0 else byteAt p R)
          ∧ if failed then MarchFailed b element row.toNat s.time.gtime R (t.region r) else MarchPassed b R (t.region r))))
    ∧ (∀ (b : Fin 80) (rest : List Nat) (preserving : Bool), R.banks.march = some ⟨preserving, b.val :: rest, false⟩ →
      bankWant b R = bankCur b R → R.faultQ.length < 16 → Completes (.marchAbort r) s (fun t =>
        RegionBut Region.noMarch (marchRegs b) r { s with free := s.free + 2 } t
        ∧ (t.region r).banks.march = none ∧ (t.region r).bit Reg.MB_MT_STAT.base 31 = false
        ∧ (preserving = true → ({ (t.region r).banks with march := none } : Banks) = { R.banks with march := none })
        ∧ (∀ p n, placeBank p = some n → p.inside → n ≠ b.val → byteAt p (t.region r) = byteAt p R)
        ∧ (preserving = false →
            (∀ p, placeBank p = some b.val → p.inside → byteAt p (t.region r) = 0 ∨ byteAt p (t.region r) = 0xFF)
            ∨ ∃ k, k ≤ 2048 ∧ ∀ p, placeBank p = some b.val → p.inside → byteAt p (t.region r) =
                if placeOff p % (if b.val < 16 then 0x10000 else 0x2000) < k * rowBytes p then 0 else byteAt p R)
        ∧ (MarchPassed b R (t.region r) ∨ ∃ e row, 1 ≤ e ∧ e ≤ 5 ∧ row < (if b.val < 16 then 2048 else 1024)
            ∧ MarchFailed b e row s.time.gtime R (t.region r))))
    ∧ (R.banks.march = none → Completes (.marchAbort r) s (fun t => RegionRegs [] r { s with free := s.free + 2 } t))

/-! ## DMA -/

namespace Sys2Proof.Machine

/-- A region without DMA channels. -/
def Region.noDma (Q : Region) : Region := { Q with dma := [] }

/-- A region without DMA channels, its own memory, pulses and requests. -/
def Region.noDmaMem (Q : Region) : Region :=
  { Q with dma := [], banks := { Q.banks with rmem := [] }, ev := { Q.ev with fabric := [], req := [] } }

end Sys2Proof.Machine

/-- R343 to R352: GO starts a stopped channel at DESC, and ABORT asks a running one to stop; a fetch takes the eight
words at CUR; a burst reads, in one piece that crosses no multiple of BURST, as many bytes as its length, or index words
ahead of their elements, whatever requests say; its completion, which counts a line that fell meanwhile, writes them at
the destination and nothing else (here linear transfers within region memory); a descriptor whose bytes
are all written hands back its status, presents its event, asks for its doorbell, and goes on to the next or ends.
Choices of the model: when an access is performed (log 8), how a burst is cut (log 52), how long a tag is held (log
54), the edge at which a command acts (log 57). -/
def Obligations.DmaTransfers : Prop :=
  ∀ (r : RegionId) (c : Fin 16) (R : Region) (d : Dma) (s : State), Steady r s → R = s.region r → d = R.dmaCh c →
    (∀ b, b < 16 → bankServes b R = true) →
    (dmRun c R = false → Completes (.dmaGo r c) s (fun t =>
      RegionBut Region.noDma [regAt Reg.DM_CH_CUR c 0, dmStat c] r s t
      ∧ (t.region r).reg (regAt Reg.DM_CH_CUR c 0) = R.reg (regAt Reg.DM_CH_DESC c 0)
      ∧ (t.region r).reg (dmStat c) = setBit (R.reg (dmStat c)) 31 true
      ∧ ∀ q, (t.region r).dmaCh q = if q = c.val then { dmaInit with phase := .fetch } else R.dmaCh q))
    ∧ (dmRun c R = true → Completes (.dmaGo r c) s (fun t => RegionRegs [] r s t))
    ∧ Completes (.dmaAbort r c) s (fun t => RegionBut Region.noDma [dmStat c] r s t
        ∧ (∀ q, (t.region r).dmaCh q = if q = c.val then { d with abortNow := true } else R.dmaCh q)
        ∧ (t.region r).reg (dmStat c) = if dmRun c R then setBit (R.reg (dmStat c)) 29 true else R.reg (dmStat c))
    ∧ (∀ (o : Nat) (e : Dma), d.phase = .fetch → o = R.field (regAt Reg.DM_CH_CUR c 0) 19 5 * 32 →
      e = { dmaInit with
        phase := .run, desc := (List.range 8).map (fun j => BitVec.ofNat 32 (leNat (rawRead (.rmem (o + 4 * j)) 4 R))) } →
      Completes (.descriptorFetch r c) s (fun t => RegionBut Region.noDma [] r s t
        ∧ ∀ q, (t.region r).dmaCh q = if q = c.val then
            { e with code := if dmAborting c R then 1 else if dError e then 3 else 0 } else R.dmaCh q))
    ∧ (∀ n : Nat, d.phase = .run → d.code = 0 → dmAborting c R = false → d.read < dTotal d → dType d = 0 →
        dSfix d = false → d.idx = [] →
      0x01000000 ≤ dSrc d → dSrc d + dTotal d ≤ 0x01100000 → n = dBurstLen d (idxFun []) d.read → dmReady c n R = true →
      (dSrc d + d.read) % dBurst d + n ≤ dBurst d ∧
      Completes (.burstStart r c) s (fun t => RegionBut Region.noDma [dmStat c] r s t
        ∧ (t.region r).reg (dmStat c) = setBit (R.reg (dmStat c)) 30 (dmPermit c R && dmMode c R != 1)
        ∧ ∀ q, (t.region r).dmaCh q = if q = c.val then
            { d with
              read := d.read + n
              bursts := d.bursts ++ [⟨n, rawRead (.rmem (dSrc d + d.read - 0x01000000)) n R, none, [],
                  false⟩] } else R.dmaCh q))
    ∧ (∀ i k a : Nat, d.phase = .run → d.code = 0 → dmAborting c R = false → d.read < dTotal d → dType d = 2
        ∨ dType d = 3 →
      dKnown d ≤ dFirst d d.read → i = dKnown d → a = dIdxAt d i → k = dIdxRun d i → 0x01000000 ≤ a →
          a + 4 * k ≤ 0x01100000 →
      dmRoom c (4 * k) R = true →
      Completes (.burstStart r c) s (fun t => RegionBut Region.noDma [] r s t
        ∧ ∀ q, (t.region r).dmaCh q = if q = c.val then
            { d with idx := d.idx ++ (List.range k).map (fun j =>
                (i + j, leNat (rawRead (.rmem (a + 4 * j - 0x01000000)) 4 R))) } else R.dmaCh q))
    ∧ (∀ (b : Burst) (l : List Burst) (low : Bool), low = (b.wdr || (dmMode c R == 2 && !dmLine c R)) →
        d.bursts = b :: l → b.fail = none → d.wfail = false → dType d = 0 → dShuf d = 0 →
      dDfix d = false → b.data ≠ [] → 0x01000000 ≤ dDst d → dDst d + d.written + b.data.length ≤ 0x01100000 →
      Completes (.burstComplete r c) s (fun t =>
        RegionBut Region.noDmaMem [regAt Reg.DM_CH_WDR c 0] r s t ∧ (t.region r).ev = R.ev
        ∧ Stored (.rmem (dDst d + d.written - 0x01000000)) b.data R (t.region r)
        ∧ (t.region r).reg (regAt Reg.DM_CH_WDR c 0) = (if low then
            satAdd 0xFFFF (R.reg (regAt Reg.DM_CH_WDR c 0)) 1 else R.reg (regAt Reg.DM_CH_WDR c 0))
        ∧ ∀ q, (t.region r).dmaCh q = if q = c.val then
            { d with
              bursts := l, written := d.written + b.data.length, carry := []
              wdr := d.wdr || low } else R.dmaCh q))
    ∧ (∀ (o left : Nat) (w7 : Word), d.phase = .run → d.bursts = [] → d.code = 0 → dmAborting c R = false →
      d.read = dTotal d → o = R.field (regAt Reg.DM_CH_CUR c 0) 19 5 * 32 → left = dTotal d - d.written →
      w7 = BitVec.ofNat 32 (2 ^ 31 + d.wdr.toNat * 2 ^ 27 + left % 2 ^ 24) → R.ev.req.contains (0x0D0 + c.val) = false →
      Completes (.descriptorComplete r c) s (fun t =>
        RegionBut Region.noDmaMem [regAt Reg.DM_CH_CUR c 0, regAt Reg.DM_CH_RESID c 0, dmStat c] r s t
        ∧ Stored (.rmem (o + 28)) (leBytes 4 w7.toNat) R (t.region r)
        ∧ (t.region r).ev.fabric = R.ev.fabric ++ [⟨0x0D0 + c, s.time.gtime⟩]
        ∧ (t.region r).ev.req = (if dField d 0 11 11 = 1 then addBit (0x0D0 + c) R.ev.req else R.ev.req)
        ∧ (t.region r).reg (regAt Reg.DM_CH_RESID c 0) = BitVec.ofNat 32 (left % 2 ^ 24)
        ∧ (t.region r).field (dmStat c) 2 0 = 0 ∧ dmAborting c (t.region r) = false
        ∧ if dField d 0 10 10 = 1 then
            (t.region r).reg (regAt Reg.DM_CH_CUR c 0) = BitVec.ofNat 32 (dField d 6 19 5 * 32)
              ∧ dmRun c (t.region r) = dmRun c R
              ∧ ∀ q, (t.region r).dmaCh q = if q = c.val then { dmaInit with phase := .fetch } else R.dmaCh q
          else (t.region r).reg (regAt Reg.DM_CH_CUR c 0) = R.reg (regAt Reg.DM_CH_CUR c 0)
              ∧ dmRun c (t.region r) = false
            ∧ ∀ q, (t.region r).dmaCh q = if q = c.val then dmaInit else R.dmaCh q))

/-! ## Host requests and register writes -/

namespace Sys2Proof.Machine

/-- Region `r` is steady and all its region memory in service. -/
def MemoryUp (r : Nat) (s : State) : Prop := Steady r s ∧ ∀ b, b < 16 → bankServes b (s.region r) = true

/-- What a doorbell register does to a region (R372): where it is enabled it posts its source. -/
def Rung (db : Word) (R R' : Region) : Prop :=
  if db.getLsbD 31 then R' = { R with regs := R'.regs } ∧ Posted (bitsOf db 11 0) R R' else R' = R

/-- Advanced Error Reporting has noted error `i`, and nothing but that and the chip registers `l` differs (R354). -/
def Noted (i : Nat) (l : List Nat) (s t : State) : Prop :=
  ChipBut (fun h => { h with aer := 0 }) l s t ∧ t.chip.aer = setBit s.chip.aer i true

end Sys2Proof.Machine

/-- R354 to R358, R364, R365: in D0 a host read of chip registers, of one region register or of region memory answers
what they hold; one of an address with no register, or of no whole register, is unsupported, and one of a region in
reset is aborted and counted. A write of one register does what a write does; a write to region memory stores its bytes
and no others; one that cannot be performed is counted and discarded. An offer agrees the highest common major and the
capabilities it knows, or none, and rings its doorbell. A link change shows in HW_LINK. In D3hot a request to memory is
unsupported. R34, R36: a request that can obtain no tag of the region it targets waits. Choices of the model: the MSI-X
layout (log 5), how wide requests are cut and answered (log 46), how long a tag is held (log 54). -/
def Obligations.HostRequests : Prop :=
  (∀ (a n : Nat) (s : State), n ≠ 0 → a % 4 = 0 → s.chip.d3 = false →
    ((∀ j, j < n → a + 4 * j < 0x100000 ∧ (chipReg (a + 4 * j)).isSome = true) →
      Completes (.hostRead .bar0 a (4 * n)) s (fun t => t = { s with host := some (.data ((List.range n).flatMap
        (fun j => leBytes 4 ((s.readChip (a + 4 * j)).getD 0).toNat))) }))
    ∧ (bar0At a = none → Completes (.hostRead .bar0 a (4 * n)) s (fun t =>
        Noted 20 [] { s with host := some .unsupported } t)
        ∧ ∀ data, data.length = 4 * n → Completes (.hostWrite .bar0 a data) s (fun t =>
          Noted 20 [Reg.HW_URDROP.base] { s with host := some .discarded } t
            ∧ t.chipReg Reg.HW_URDROP.base = satAdd 0xFFFF (s.chipReg Reg.HW_URDROP.base) 1))
    ∧ (∀ (r : RegionId) (o : Nat), bar0At a = some (some r.val, o) → (s.region r).inReset = true →
      0 < (s.region r).field Reg.RG_TAGCFG.base 31 23 →
      Completes (.hostRead .bar0 a (4 * n)) s (fun t => Noted 15 [Reg.HW_CABORT.base] { s with host := some .abort } t
        ∧ t.chipReg Reg.HW_CABORT.base = satAdd 0xFFFF (s.chipReg Reg.HW_CABORT.base) 1))
    ∧ (∀ (r : RegionId) (o : Nat) (v w : Word) (R' : Region), Live r s → bar0At a = some (some r.val, o) →
      0 < (s.region r).field Reg.RG_TAGCFG.base 31 23 → accessFails o (s.region r) = false →
          regionRead (s.ctx r) o (s.region r) = (some v, R') →
      Completes (.hostRead .bar0 a 4) s (fun t => t = { s.setRegion r R' with host := some (.data (words4 [v])) })
      ∧ Completes (.hostWrite .bar0 a (words4 [w])) s (fun t =>
          t = { (s.writeReg true (some r.val) o w).2 with host := some .posted }))
    ∧ (∀ v : Word, a < 0x100000 → (chipReg a).isSome = true → Completes (.hostWrite .bar0 a (words4 [v])) s (fun t =>
        t = { (s.writeReg true none a v).2 with host := some .posted })))
  ∧ (∀ (r : RegionId) (o n : Nat) (bs : List Byte) (s : State), MemoryUp r s → s.chip.d3 = false →
    0 < (s.region r).field Reg.RG_TAGCFG.base 31 23 → n ≠ 0 → o + n ≤ 0x100000 → bs.length = n →
    Completes (.hostRead .bar2 (r * 0x100000 + o) n) s (fun t =>
      t = { s with host := some (.data (rawRead (.rmem o) n (s.region r))) })
    ∧ Completes (.hostWrite .bar2 (r * 0x100000 + o) bs) s (fun t => t.host = some .posted
        ∧ RegionBut (fun Q => { Q with banks := { Q.banks with rmem := [] } }) [] r { s with host := t.host } t
        ∧ Stored (.rmem o) bs (s.region r) (t.region r)))
  ∧ (∀ (r : RegionId) (sp : HostSpace) (a n : Nat) (bs : List Byte) (s : State),
    ((sp = .bar0 ∧ a / 0x100000 = 8 + r.val) ∨ (sp = .bar2 ∧ a / 0x100000 = r.val)
      ∨ (sp = .bar2 ∧ 0x800000 ≤ a ∧ a / 0x80000 = 16 + r.val)) →
    ((s.region r).field Reg.RG_TAGCFG.base 31 23 = 0 →
      Completes (.hostRead sp a n) s (fun t => t = s) ∧ Completes (.hostWrite sp a bs) s (fun t => t = s))
    ∧ (0 < (s.region r).field Reg.RG_TAGCFG.base 31 23 → s.chip.d3 = true →
      Completes (.hostRead sp a n) s (fun t => Noted 20 [] { s with host := some .unsupported } t)
      ∧ Completes (.hostWrite sp a bs) s (fun t => Noted 20 [Reg.HW_URDROP.base] { s with host := some .discarded } t
        ∧ t.chipReg Reg.HW_URDROP.base = satAdd 0xFFFF (s.chipReg Reg.HW_URDROP.base) 1)))
  ∧ (∀ s : State, Completes (.hostRead .deviceId 0 2) s (fun t => t = { s with host := some (.data [0x24, 0x10]) })
    ∧ Completes (.hostRead .classCode 0 3) s (fun t => t = { s with host := some (.data [0x00, 0x40, 0x0B]) })
    ∧ ∀ d3 : Bool, Completes (.hostWrite .powerState 0 [if d3 then 3 else 0]) s (fun t =>
        t = { s with host := some .posted, chip := { s.chip with d3 := d3 } }))
  ∧ (∀ s : State, Completes (.hostRead .msixControl 0 2) s (fun t => t = { s with host := some (.data
        (leBytes 2 (63 + s.chip.msixFmask.toNat * 2 ^ 14 + s.chip.msixEnable.toNat * 2 ^ 15))) })
      ∧ ∀ en fm : Bool, Completes (.hostWrite .msixControl 0 (leBytes 2 (fm.toNat * 2 ^ 14 + en.toNat * 2 ^ 15))) s (fun t =>
        t = { s with host := some .posted, chip := { s.chip with msixEnable := en, msixFmask := fm } }))
  ∧ (∀ (v db : Word) (m q : Nat) (s : State), db = s.chipReg Reg.HW_DB.base → q = bitsOf db 26 24 → Live q s →
    m = (if v.getLsbD 3 then 3 else if v.getLsbD 2 then 2 else if v.getLsbD 1 then 1 else 0) →
    Completes (.negotiate v) s (fun t =>
      ChipRegs [Reg.HW_OFFER.base, Reg.HW_AGREED.base, Reg.HW_AGRCAP.base,
          Reg.HW_STAT.base] { s with regions := t.regions } t
      ∧ t.chipReg Reg.HW_OFFER.base = v &&& 0xFE
      ∧ t.chipReg Reg.HW_STAT.base = (if m = 0 then 2 else 1)
      ∧ t.chipReg Reg.HW_AGRCAP.base = s.chipReg Reg.HW_OFFCAP.base &&& BitVec.ofNat 32 (2 ^ m - 1)
      ∧ (m ≠ 0 → t.chipReg Reg.HW_AGREED.base = BitVec.ofNat 32 (0x10000 + m * 256))
      ∧ (m = 0 → bitsOf (t.chipReg Reg.HW_AGREED.base) 15 8 = 0)
      ∧ (∀ k, k ≠ q → t.region k = s.region k) ∧ Rung db (s.region q) (t.region q)))
  ∧ ∀ (width : BitVec 5) (speed : BitVec 4) (s : State), Completes (.pcieLinkChange width speed) s (fun t =>
      ChipRegs [Reg.HW_LINK.base] s t ∧ t.chipReg Reg.HW_LINK.base =
        if width = 0 then 0 else BitVec.ofNat 32 (width.toNat % 16 * 16 + speed.toNat))

namespace Sys2Proof.Machine

/-- Region registers whose write only sets their writable bits. -/
def plainDefs : List RegDef :=
  [Reg.AD_SG_PER, Reg.TM_CH_RELOAD, Reg.TM_CH_ACT, Reg.TM_PAIR_DT, Reg.LP_TRM_MAP, Reg.LP_INJ_AMPL, Reg.FB_UN_CMPSP,
    Reg.EV_CH_FORK, Reg.IC_TSET, Reg.IC_THR, Reg.DM_CH_DESC, Reg.FP_OUT, Reg.TL_RING]

/-- Chip registers whose write only sets their writable bits. -/
def chipPlainDefs : List RegDef := [Reg.CH_GTRATE, Reg.CH_XEV_CFG, Reg.HW_OFFCAP, Reg.EN_P_MAC_L, Reg.XL_P_DB]

end Sys2Proof.Machine

/-- R40 to R42, R45: a write to a register without effects of its own gives its writable bits the value written and
leaves the others; a write to an offset that names no register changes nothing. -/
def Obligations.RegisterWrites : Prop :=
  (∀ (r : RegionId) (d : RegDef) (i j a : Nat) (v : Word) (s : State), Live r s → d ∈ plainDefs → i < d.n1 → j < d.n2 →
    a = regAt d i j → Completes (.registerWrite (some r) a v) s (fun t =>
      RegionRegs [a] r { s with free := s.free + 2 } t
        ∧ (t.region r).reg a = maskWrite d.mask ((s.region r).reg a) v))
  ∧ (∀ (r : RegionId) (a : Nat) (v : Word) (s : State), Live r s → isNamed a = false → a / 0x10000 ≠ 0xA →
    Completes (.registerWrite (some r) a v) s (fun t => RegionRegs [] r { s with free := s.free + 2 } t))
  ∧ (∀ (d : RegDef) (i j a : Nat) (v : Word) (s : State), d ∈ chipPlainDefs → i < d.n1 → j < d.n2 → a = regAt d i j →
    Completes (.registerWrite none a v) s (fun t => ChipRegs [a] s t ∧ t.chipReg a = maskWrite d.mask (s.chipReg a) v))
  ∧ (∀ (a : Nat) (v : Word) (s : State), chipReg a = none → Completes (.registerWrite none a v) s (fun t => t = s))

/-! ## Ethernet -/

namespace Sys2Proof.Machine

/-- The words of descriptor `i` of a ring. -/
def descOf (ring : Word) (i : Nat) (R : Region) : List Word :=
  (List.range 8).map (fun k => BitVec.ofNat 32 (leNat (rawRead (.rmem (ringBase ring + 32 * i + 4 * k)) 4 R)))

/-- A region with descriptor `i` handed back (R361): word 0 new, STATUS and STAMP new where given, the other words as
they were. -/
def handedBack (ring : Word) (i : Nat) (d : List Word) (w0 : Word) (status : Option Word) (stamp : Option Ticks) (R : Region) :
    Region :=
  rawWrite (.rmem (ringBase ring + 32 * i)) (words4 [w0])
    (rawWrite (.rmem (ringBase ring + 32 * i + 4))
      (words4 [dWord d 1, dWord d 2, status.getD (dWord d 3), (stamp.map (fun x : Ticks =>
          x.truncate 32)).getD (dWord d 4),
        (stamp.map (fun x : Ticks => (x >>> 32).truncate 32)).getD (dWord d 5), dWord d 6, dWord d 7]) R)

/-- Nothing but Ethernet port `p`, its registers `l` and region `q` differs. -/
def EthOnly (p q : Nat) (l : List RegDef) (s t : State) : Prop :=
  ChipBut (fun h => { h with eth := [] }) (l.map (fun d => regAt d p 0)) { s with regions := t.regions } t
    ∧ (∀ k, k ≠ p → t.ethPort k = s.ethPort k) ∧ ∀ k, k ≠ q → t.region k = s.region k

/-- Region `r` and its memory are in service, and of its shared tags one is free (R36, R372). -/
def PortServed (r : Nat) (s : State) : Prop := MemoryUp r s ∧ 0 < sharedFree (s.region r)

/-- A port is enabled, its ring fits and its index lies in it; its region serves it. -/
def EthReady (p : Nat) (ring idx : RegDef) (s : State) : Prop :=
  enOn p s = true ∧ ringFits (enReg ring p s) = true ∧ PortServed (enRegion p s) s
    ∧ (enReg idx p s).toNat < ringLen (enReg ring p s)

end Sys2Proof.Machine

/-- R366 to R368: a disabled port drops every frame, an enabled one a frame that its filter does not pass; a bad one is
counted, and one that finds no room; another waits behind the frames that wait. The first in an empty queue waits where
the ring's descriptor is not owned. A kick, and the retry of every microsecond, deliver the waiting frame into an owned
descriptor that holds it: its bytes in the buffer, its length, status and stamp in the descriptor, the next index, the
doorbell.

R369 to R371, R373, R374: a transmit kick fetches the frame that the ring's next descriptor owns whole, and walks no
further than a descriptor that is not owned; a fetched frame leaves once its launch time has come, padded and with its
FCS, late where it was fetched after that or stood past the tolerance; when its last bit has left its descriptor is
handed back with its stamp. A configuration write that ends
or moves a port with no frame in hand empties its queues and indices; another one only sets the register. A link change
shows in STAT of an enabled port.
Choices of the model: what a faulty descriptor adds (log 47), how long a tag is held (log 54). -/
def Obligations.Ethernet : Prop :=
  (∀ (p : Fin 2) (q : Nat) (R : Region) (e : EthPort) (s : State), q = enRegion p s → R = s.region q → e = s.ethPort p →
      (∀ (data bytes fcs : List Byte) (line ok : Bool) (stamp : Ticks) (cfg : Word) (mine : Bool),
          cfg = enReg Reg.EN_P_CFG p s →
        data = bytes ++ fcs → fcs.length = 4 → ok = (line && fcs == words4 [crc32 bytes]) →
        mine = (decide (leNat (data.take 6) = (enReg Reg.EN_P_MAC_L p s).toNat + bitsOf (enReg Reg.EN_P_MAC_H p s) 15 0 * 2 ^ 32)
          || decide (leNat (data.take 6) = 2 ^ 48 - 1) || (data.getD 0 0).getLsbD 0 || cfg.getLsbD 22) →
        (enOn p s = false ∨ mine = false → Completes (.frameReceived p data line stamp) s (fun t => t = s))
        ∧ (enOn p s = true → mine = true →
          (data.length < 64 ∨ enMaxLen p s < data.length ∨ (ok = false ∧ cfg.getLsbD 23 = false)) →
          Completes (.frameReceived p data line stamp) s (fun t => ChipRegs [regAt Reg.EN_P_RXBAD p 0] s t
            ∧ t.chipReg (regAt Reg.EN_P_RXBAD p 0) = satAdd 0xFFFF (s.chipReg (regAt Reg.EN_P_RXBAD p 0)) 1))
        ∧ (enOn p s = true → mine = true → 64 ≤ data.length → data.length ≤ enMaxLen p s →
          (ok = true ∨ cfg.getLsbD 23 = true) →
          ((e.rx.map (fun f => f.bytes.length)).foldl (· + ·) 0 + bytes.length > 32768 →
            Completes (.frameReceived p data line stamp) s (fun t => ChipRegs [regAt Reg.EN_P_RXFIFO p 0] s t
              ∧ t.chipReg (regAt Reg.EN_P_RXFIFO p 0) = satAdd 0xFFFF (s.chipReg (regAt Reg.EN_P_RXFIFO p 0)) 1))
          ∧ ((e.rx.map (fun f => f.bytes.length)).foldl (· + ·) 0 + bytes.length ≤ 32768 →
            (e.rx ≠ [] ∨ (EthReady p Reg.EN_P_RXRING Reg.EN_P_RXIDX s
              ∧ dOwn (descOf (enReg Reg.EN_P_RXRING p s) (enReg Reg.EN_P_RXIDX p s).toNat R) = false
                  ∧ e.waiting = false)) →
            Completes (.frameReceived p data line stamp) s (fun t => EthOnly p q [Reg.EN_P_RXWAIT] s t ∧ t.region q = R
              ∧ t.ethPort p = { e with
                rx := e.rx ++ [⟨bytes, stamp + (enReg Reg.EN_P_RXLAT p s).signExtend 64, !ok,
                  BitVec.ofNat 32 ((decide (leNat (data.take 6) = 2 ^ 48 - 1)).toNat + 2 * ((data.getD 0 0).getLsbD 0).toNat)⟩]
                waiting := e.waiting || e.rx.isEmpty }
              ∧ enReg Reg.EN_P_RXWAIT p t = if e.rx.isEmpty then satAdd 0xFFFF (enReg Reg.EN_P_RXWAIT p s) 1
                  else enReg Reg.EN_P_RXWAIT p s))))
      ∧ (∀ (f : EthFrame) (ring : Word) (i : Nat) (d : List Word), EthReady p Reg.EN_P_RXRING Reg.EN_P_RXIDX s →
        e.rx = [f] →
        ring = enReg Reg.EN_P_RXRING p s → i = (enReg Reg.EN_P_RXIDX p s).toNat → d = descOf ring i R → dOwn d = true →
        dVer d = 3 → dCap d % 32 = 0 → 64 ≤ dCap d → dBuf d + dCap d ≤ 0x100000 → f.bytes ≠ [] → f.bytes.length ≤ dCap d →
        ∀ c : Instr, c = .kickRx p ∨ c = .rxDescriptorRetry p → Completes c s (fun t =>
          EthOnly p q [Reg.EN_P_RXIDX] s t ∧ t.ethPort p = { e with rx := [], waiting := false }
          ∧ enReg Reg.EN_P_RXIDX p t = BitVec.ofNat 32 ((i + 1) % ringLen ring)
          ∧ Rung (enReg Reg.EN_P_DB p s) (handedBack ring i d
              (BitVec.ofNat 32 (3 * 2 ^ 28 + 2 ^ 27 + (if f.bad then 2 ^ 26 + 3 * 2 ^ 16 else 0) + f.bytes.length))
              (some f.status) (some f.stamp) (rawWrite (.rmem (dBuf d)) f.bytes R)) (t.region q)))
      ∧ (e.rx = [] → Completes (.kickRx p) s (fun t => t = s) ∧ Completes (.rxDescriptorRetry p) s (fun t => t = s)))
  ∧ (∀ (p : Fin 2) (q : Nat) (R : Region) (e : EthPort) (ring : Word) (i now : Nat) (s : State), q = enRegion p s →
        R = s.region q →
      e = s.ethPort p → now = (s.time.gtime + (enReg Reg.EN_P_TXLAT p s).signExtend 64).toNat →
          ring = enReg Reg.EN_P_TXRING p s → i = (enReg Reg.EN_P_TXIDX p s).toNat →
      (∀ d : List Word, EthReady p Reg.EN_P_TXRING Reg.EN_P_TXIDX s → d = descOf ring i R → e.tx = none →
        (dOwn d = false → Completes (.kickTx p) s (fun t => EthOnly p q [] s t ∧ t.region q = R
          ∧ t.ethPort p = { e with kicked := false }))
        ∧ (dOwn d = true → dEop d = true → dVer d = 3 → dLen d ≠ 0 → dLen d ≤ enMaxLen p s - 4 →
          dBuf d + dLen d ≤ 0x100000 → Completes (.kickTx p) s (fun t => EthOnly p q [] s t ∧ t.region q = R
            ∧ t.ethPort p = { e with
              kicked := true
              tx := some ⟨[none], rawRead (.rmem (dBuf d)) (dLen d) R, dWord d 7 ++ dWord d 6, false,
                (dWord d 7 ++ dWord d 6 : Ticks) != 0 && decide ((dWord d 7 ++ dWord d 6 : Ticks).toNat < now)⟩ })))
      ∧ (enOn p s = false → Completes (.kickTx p) s (fun t => t = s))
      ∧ (∀ (x : EthTx) (late : Bool) (b : List Byte), e.tx = some x →
        late = (x.late || (x.launch != 0 && decide (x.launch.toNat + 128 < now))) →
        b = x.bytes ++ List.replicate (60 - x.bytes.length) 0 →
        (x.out = true ∨ (x.launch ≠ 0 ∧ now + 128 < x.launch.toNat) → Completes (.frameLaunch p) s (fun t => t = s))
        ∧ (x.out = false → (x.launch = 0 ∨ x.launch.toNat ≤ now + 128) → Completes (.frameLaunch p) s (fun t =>
          EthOnly p q [Reg.EN_P_TXLATE] { s with out := t.out } t ∧ t.region q = R
          ∧ t.ethPort p = { e with tx := some { x with out := true, late := late } }
          ∧ t.out = s.out ++ [.ethernet p (b ++ words4 [crc32 b])]
          ∧ enReg Reg.EN_P_TXLATE p t = if late then satAdd 0xFFFF (enReg Reg.EN_P_TXLATE p s) 1
              else enReg Reg.EN_P_TXLATE p s)))
      ∧ (∀ (x : EthTx) (d : List Word) (stamp : Ticks), EthReady p Reg.EN_P_TXRING Reg.EN_P_TXIDX s → e.tx = some x →
          x.out = true → x.codes = [none] →
        d = descOf ring i R → dOwn (descOf ring ((i + 1) % ringLen ring) R) = false → e.kicked = true →
        (enReg Reg.EN_P_DB p s).getLsbD 31 = false →
        Completes (.transmitComplete p stamp) s (fun t => EthOnly p q [Reg.EN_P_TXIDX] s t
          ∧ t.ethPort p = { e with tx := none, kicked := false }
          ∧ enReg Reg.EN_P_TXIDX p t = BitVec.ofNat 32 ((i + 1) % ringLen ring)
          ∧ t.region q = handedBack ring i d (BitVec.ofNat 32 (3 * 2 ^ 28 + (dEop d).toNat * 2 ^ 27
              + (if x.late then 4 * 2 ^ 16 else 0) + dLen d)) none (some (stamp + (enReg Reg.EN_P_TXLAT p s).signExtend 64)) R))
      ∧ (∀ (reg : Fin 3) (v w old : Word) (a : Nat), a = regAt (enConfig reg) p 0 → old = s.chipReg a →
        w = maskWrite (enConfig reg).mask old v →
        ((enOn p s = false ∨ (reg = 0 ∧ w.getLsbD 31 = true ∧ bitsOf old 30 29 = bitsOf w 30 29
            ∧ bitsOf old 26 24 = bitsOf w 26 24)
            ∨ (reg ≠ 0 ∧ old = w)) →
          Completes (.portReconfigure p reg v) s (fun t => ChipRegs [a] s t ∧ t.chipReg a = w))
        ∧ (enOn p s = true → e.tx = none →
          ((reg = 0 ∧ (w.getLsbD 31 = false ∨ bitsOf old 30 29 ≠ bitsOf w 30 29 ∨ bitsOf old 26 24 ≠ bitsOf w 26 24))
            ∨ (reg ≠ 0 ∧ old ≠ w)) →
          Completes (.portReconfigure p reg v) s (fun t =>
            EthOnly p q [enConfig reg, Reg.EN_P_STAT, Reg.EN_P_RXIDX, Reg.EN_P_TXIDX, Reg.EN_P_RXFIFO] s t
                ∧ t.region q = R
            ∧ t.chipReg a = w ∧ t.ethPort p = ⟨[], false, false, none⟩
            ∧ enReg Reg.EN_P_RXIDX p t = 0 ∧ enReg Reg.EN_P_TXIDX p t = 0
            ∧ enReg Reg.EN_P_STAT p t = enReg Reg.EN_P_STAT p s &&& 0x3FFFFFFF
            ∧ enReg Reg.EN_P_RXFIFO p t = satAdd 0xFFFF (enReg Reg.EN_P_RXFIFO p s) e.rx.length)))
      ∧ (∀ link done : Bool,
        (enOn p s = false → Completes (.ethernetLinkChange p link done) s (fun t => t = s))
        ∧ (enOn p s = true → Completes (.ethernetLinkChange p link done) s (fun t =>
            ChipRegs [regAt Reg.EN_P_STAT p 0] s t
          ∧ enReg Reg.EN_P_STAT p t = BitVec.ofNat 32 (link.toNat * 2 ^ 31
              + (if bitsOf (enReg Reg.EN_P_CFG p s) 30 29 = 0 then link else done).toNat * 2 ^ 30)))))

/-! ## Xesum -/

namespace Sys2Proof.Machine

/-- Nothing but Xesum port `p`, its registers `l`, region `q` and what is sent differs. -/
def XlOnly (p q : Nat) (l : List RegDef) (s t : State) : Prop :=
  ChipBut (fun h => { h with xl := [] }) (l.map (fun d => regAt d p 0)) { s with regions := t.regions, out := t.out } t
    ∧ (∀ k, k ≠ p → t.xlPort k = s.xlPort k) ∧ ∀ k, k ≠ q → t.region k = s.region k

/-- A frame as port `p` in state `e` sends it: its characters striped over the lanes that carry the link (R376). -/
def xlSent (p : Nat) (e : XlPort) (b : List Byte) : Out := .xesum p (e.used.zip (stripe e.used.length (xlChars b)))

/-- An ack (1) or nak (2) leaves port `p` in state `e`: the last frame accepted and the credits due (R378, R379). -/
def ackBytes (type : Nat) (e : XlPort) : List Byte := xlFrame type 0 ((e.expSeq + 4095) % 4096) (creditField e).1 []

/-- The port after it sent an ack or a nak. -/
def acked (type : Nat) (e : XlPort) : XlPort :=
  { e with unacked := 0, give := (creditField e).2, naked := e.naked || type == 2 }

/-- A frame delivered into descriptor `d`, number `i` of a receive ring (R378, R381). -/
def xlLanded (ring : Word) (i : Nat) (d : List Word) (f : XlRx) (R : Region) : Region :=
  handedBack ring i d (BitVec.ofNat 32 (3 * 2 ^ 28 + 2 ^ 27 + (if f.time then 6 * 2 ^ 16 else 0) + f.payload.length))
    (some f.user) (some f.stamp) (rawWrite (.rmem (dBuf d)) f.payload R)

/-- A receive descriptor that port `p` may use. -/
def XlUsable (d : List Word) : Prop := dOwn d = true ∧ dVer d = 3 ∧ 256 ≤ dCap d ∧ dBuf d + dCap d ≤ 0x100000

/-- The credits of a port after an acknowledgement returned some (R378). -/
def credited (credits : Nat) (e : XlPort) (k : Nat) : Nat :=
  if k < 4 then e.creditOf k + credits / 2 ^ (4 * k) % 16 else e.creditOf k

end Sys2Proof.Machine

/-- R376 to R379, R381: a frame striped over lanes is read back from them. A port whose link is down takes no frame. A
frame that fails its checks is counted and answered
with a nak; a data frame out of order with one nak a gap; one in order is accepted and waits behind the others of its
virtual channel, an ack leaving with the eighth; a time frame waits on virtual channel 0, or is delivered with CODE 6
where none waits. A kick delivers the waiting frame, and takes a frame from the transmit ring into the retry buffer and
sends it.

R379: an ack releases the frames it acknowledges, here one or none, and returns credits; a nak releases too, and has
every frame not acknowledged sent again and counts the episode. The ack that is due carries the last frame accepted; an
ack that does not come within 10 us has every frame sent again. R381: TSEND sends GTIME where the link agreed time
frames.
Choices of the model: orders on the link (log 48). -/
def Obligations.XesumFrames : Prop :=
  (∀ (p : Fin 4) (q : Nat) (R : Region) (e : XlPort) (s : State), q = xlRegion p s → R = s.region q → e = s.xlPort p →
      (∀ (w : Nat) (b : List Byte), 0 < w → frameBytes (unstripe (stripe w (xlChars b))) = some b)
      ∧ (∀ (lanes : List (List LineChar)) (stamp : Ticks) (c : Instr),
        c = .dataFrame p lanes stamp ∨ c = .timeFrameReceived p lanes stamp ∨ c = .ackFrame p lanes
            ∨ c = .nakFrame p lanes →
        (xlUp p s = false → Completes c s (fun t => t = s))
        ∧ (xlUp p s = true → (∀ data, frameBytes (unstripe lanes) = some data → frameOk p data s = false) →
            Completes c s (fun t =>
          XlOnly p q [Reg.XL_P_CRCERR] s t ∧ t.region q = R ∧ t.xlPort p = acked 2 e
          ∧ t.out = s.out ++ [xlSent p e (ackBytes 2 e)]
          ∧ xlReg Reg.XL_P_CRCERR p t = satAdd 0xFFFF (xlReg Reg.XL_P_CRCERR p s) 1)))
      ∧ (∀ (lanes : List (List LineChar)) (data payload : List Byte) (stamp : Ticks) (h v : Nat) (f : XlRx) (e1 : XlPort),
        frameBytes (unstripe lanes) = some data → h = leNat (data.take 8) →
        payload = (data.drop 8).take (hLen h) → v = hVc h → xlUp p s = true → frameOk p data s = true →
        (hType h = 0 → hSeq h ≠ e.expSeq → Completes (.dataFrame p lanes stamp) s (fun t => XlOnly p q [] s t
            ∧ t.region q = R
          ∧ t.xlPort p = (if e.naked then e else acked 2 e)
          ∧ t.out = s.out ++ (if e.naked then [] else [xlSent p e (ackBytes 2 e)])))
        ∧ (hType h = 0 → hSeq h = e.expSeq → bootByXesum s = false → e.rxOf v ≠ [] →
          f = ⟨payload, BitVec.ofNat 32 (hUser h), stamp, false⟩ →
          e1 = ({ e with expSeq := (e.expSeq + 1) % 4096, naked := false, unacked := e.unacked + 1 } : XlPort).setRx v
            (e.rxOf v ++ [f]) →
          Completes (.dataFrame p lanes stamp) s (fun t => XlOnly p q [] s t ∧ t.region q = R
            ∧ t.xlPort p = (if 8 ≤ e.unacked + 1 then acked 1 e1 else e1)
            ∧ t.out = s.out ++ (if 8 ≤ e.unacked + 1 then [xlSent p e (ackBytes 1 e1)] else [])))
        ∧ (hType h = 4 → f = ⟨payload, BitVec.ofNat 32 (hUser h), stamp, true⟩ →
          (e.rxOf 0 ≠ [] → Completes (.timeFrameReceived p lanes stamp) s (fun t => XlOnly p q [] s t ∧ t.region q = R
            ∧ t.xlPort p = e.setRx 0 (e.rxOf 0 ++ [f]) ∧ t.out = s.out))
          ∧ (∀ (ring : Word) (i : Nat) (d : List Word), e.rxOf 0 = [] → ring = xlRx p 0 s → ringFits ring = true →
            i = mapGet zeroNat e.rxIdx 0 % ringLen ring → d = descOf ring i R → PortServed q s → XlUsable d →
                payload ≠ [] →
            Completes (.timeFrameReceived p lanes stamp) s (fun t => XlOnly p q [] s t ∧ t.out = s.out
              ∧ ({ t.xlPort p with rx := [], rxIdx := [] } : XlPort) = { e with rx := [], rxIdx := [] }
              ∧ (∀ k, (t.xlPort p).rxOf k = e.rxOf k) ∧ mapGet zeroNat (t.xlPort p).rxIdx 0 = (i + 1) % ringLen ring
              ∧ Rung (xlReg Reg.XL_P_DB p s) (xlLanded ring i d f R) (t.region q)))))
      ∧ (∀ (v : Fin 4) (f : XlRx) (ring kick : Word) (i : Nat) (d : List Word), xlOn p s = true →
          kick = BitVec.ofNat 32 (2 ^ (4 + v.val)) →
        e.kicked = [] → e.rxOf v = [f] → ring = xlRx p v s → ringFits ring = true →
        i = mapGet zeroNat e.rxIdx v % ringLen ring → d = descOf ring i R → PortServed q s → XlUsable d → f.payload ≠ [] →
        f.payload.length ≤ 256 →
        Completes (.xesumKick p kick) s (fun t => XlOnly p q [] s t ∧ t.out = s.out
          ∧ ({ t.xlPort p with rx := [], rxIdx := [], give := [] } : XlPort) = { e with rx := [], rxIdx := [], give := [] }
          ∧ (∀ k, (t.xlPort p).rxOf k = if k = v.val then [] else e.rxOf k)
          ∧ (∀ k, (t.xlPort p).giveOf k = if k = v.val ∧ f.time = false then e.giveOf k + 1 else e.giveOf k)
          ∧ mapGet zeroNat (t.xlPort p).rxIdx v = (i + 1) % ringLen ring
          ∧ Rung (xlReg Reg.XL_P_DB p s) (xlLanded ring i d f R) (t.region q)))
      ∧ (∀ (v : Fin 4) (ring kick : Word) (i : Nat) (d : List Word) (bytes : List Byte), xlUp p s = true →
          xlOn p s = true →
        kick = BitVec.ofNat 32 (2 ^ v.val) → e.kicked = [] → v.val < majorVcs (xlMajor p s) → ring = xlTx p v s →
        ringFits ring = true → i = mapGet zeroNat e.txIdx v % ringLen ring → PortServed q s → e.creditOf v ≠ 0 →
            e.retry.length < 63 →
        (∀ f ∈ e.retry, f.vc ≠ v.val) → d = descOf ring i R → dOwn d = true → dVer d = 3 → dLen d ≠ 0 →
        dLen d ≤ majorPayload (xlMajor p s) → dBuf d + dLen d ≤ 0x100000 →
        dOwn (descOf ring ((i + 1) % ringLen ring) R) = false → (e.creditOf v ≠ 1) →
        bytes = xlFrame 0 v e.sendSeq (dWord d 3).toNat (rawRead (.rmem (dBuf d)) (dLen d) R) →
        Completes (.xesumKick p kick) s (fun t => XlOnly p q [] s t ∧ t.region q = R ∧ t.out = s.out ++ [xlSent p e bytes]
          ∧ ({ t.xlPort p with txIdx := [], credit := [] } : XlPort) = { e with
            txIdx := [], credit := [], sendSeq := (e.sendSeq + 1) % 4096, retry := e.retry ++ [⟨e.sendSeq, v, i, bytes,
                s.time.pclk⟩] }
          ∧ (∀ k, (t.xlPort p).creditOf k = if k = v.val then e.creditOf k - 1 else e.creditOf k)
          ∧ mapGet zeroNat (t.xlPort p).txIdx v = (i + 1) % ringLen ring)))
  ∧ (∀ (p : Fin 4) (q : Nat) (R : Region) (e : XlPort) (s : State), q = xlRegion p s → R = s.region q → e = s.xlPort p →
      (∀ (lanes : List (List LineChar)) (data : List Byte) (h : Nat), frameBytes (unstripe lanes) = some data →
        h = leNat (data.take 8) → xlUp p s = true → frameOk p data s = true → e.kicked = [] →
        (hType h = 1 → (∀ f ∈ e.retry.head?, ¬ (hSeq h + 4096 - f.seq) % 4096 < 2048) →
          Completes (.ackFrame p lanes) s (fun t => XlOnly p q [] s t ∧ t.region q = R ∧ t.out = s.out
            ∧ ({ t.xlPort p with credit := [] } : XlPort) = { e with credit := [], heard := s.time.pclk }
            ∧ ∀ k, (t.xlPort p).creditOf k = credited (hUser h) e k))
        ∧ (∀ (f : XlTx) (l : List XlTx) (ring : Word) (d : List Word), hType h = 1 → e.retry = f :: l →
          (hSeq h + 4096 - f.seq) % 4096 < 2048 → (∀ g ∈ l.head?, ¬ (hSeq h + 4096 - g.seq) % 4096 < 2048) →
          ring = xlTx p f.vc s → ringFits ring = true → f.idx < ringLen ring → MemoryUp q s → d = descOf ring f.idx R →
          Completes (.ackFrame p lanes) s (fun t => XlOnly p q [] s t ∧ t.out = s.out
            ∧ ({ t.xlPort p with credit := [] } : XlPort) = { e with
              credit := [], retry := l, episodes := 0, heard := s.time.pclk }
            ∧ (∀ k, (t.xlPort p).creditOf k = credited (hUser h) e k)
            ∧ Rung (xlReg Reg.XL_P_DB p s) (handedBack ring f.idx d
                (BitVec.ofNat 32 (3 * 2 ^ 28 + (dEop d).toNat * 2 ^ 27 + dLen d)) none none R) (t.region q)))
        ∧ (hType h = 2 → e.retry ≠ [] → (∀ f ∈ e.retry.head?, ¬ (hSeq h + 4096 - f.seq) % 4096 < 2048) →
            e.episodes + 1 < 8 →
          Completes (.nakFrame p lanes) s (fun t => XlOnly p q [Reg.XL_P_RETRY] s t ∧ t.region q = R
            ∧ ({ t.xlPort p with credit := [] } : XlPort) = { e with
              credit := [], episodes := e.episodes + 1, heard := s.time.pclk
              retry := e.retry.map (fun f => { f with sent := s.time.pclk }) }
            ∧ (∀ k, (t.xlPort p).creditOf k = credited (hUser h) e k)
            ∧ t.out = s.out ++ e.retry.map (fun f => xlSent p e f.bytes)
            ∧ xlReg Reg.XL_P_RETRY p t = satAdd 0xFFFF (xlReg Reg.XL_P_RETRY p s) 1)))
      ∧ (xlUp p s = true → (e.unacked ≠ 0 ∨ e.give ≠ []) → Completes (.ackSend p) s (fun t =>
          XlOnly p q [] s t ∧ t.region q = R ∧ t.xlPort p = acked 1 e ∧ t.out = s.out ++ [xlSent p e (ackBytes 1 e)]))
      ∧ (xlUp p s = false ∨ (e.unacked = 0 ∧ e.give = []) → Completes (.ackSend p) s (fun t => t = s))
      ∧ (∀ (f : XlTx) (l : List XlTx), xlUp p s = true → e.retry = f :: l → max f.sent e.heard + 8000 ≤ s.time.pclk →
        e.episodes + 1 < 8 → Completes (.retryTimeout p) s (fun t =>
          XlOnly p q [Reg.XL_P_RETRY] s t ∧ t.region q = R
          ∧ t.xlPort p = { e with
              episodes := e.episodes + 1, retry := e.retry.map (fun f => { f with sent := s.time.pclk }) }
          ∧ t.out = s.out ++ e.retry.map (fun f => xlSent p e f.bytes)
          ∧ xlReg Reg.XL_P_RETRY p t = satAdd 0xFFFF (xlReg Reg.XL_P_RETRY p s) 1))
      ∧ (xlUp p s = false ∨ e.retry = [] ∨ (∀ f ∈ e.retry.head?, s.time.pclk < max f.sent e.heard + 8000) →
          Completes (.retryTimeout p) s (fun t => t = s))
      ∧ (xlUp p s = true → xlCap 0 p s = true → xlMajor p s = 3 → Completes (.tsend p) s (fun t =>
          t = { s with out := s.out ++ [xlSent p (s.xlPort p) (xlFrame 4 0 0 0 (leBytes 8 s.time.gtime.toNat))] }))
      ∧ (xlUp p s = false ∨ xlCap 0 p s = false ∨ xlMajor p s ≠ 3 → Completes (.tsend p) s (fun t => t = s)))

namespace Sys2Proof.Machine

/-- A port at the start of training (R380). -/
def inTraining (now : Nat) (e : XlPort) : XlPort := { e with lanes := [], trained := true, episodes := 0, began := now, used := [] }

/-- What the start of training does to an enabled port, its lanes apart (R380). -/
def TrainingBegan (p : Nat) (s t : State) : Prop :=
  (if (s.xlPort p).trained then xlReg Reg.XL_P_RETRAIN p t = satAdd 0xFFFF (xlReg Reg.XL_P_RETRAIN p s) 1
    else xlReg Reg.XL_P_RETRAIN p t = xlReg Reg.XL_P_RETRAIN p s)
  ∧ xlUp p t = false ∧ xlTraining p t = true ∧ retiredBits p t = retiredBits p s
  ∧ ({ t.xlPort p with lanes := [] } : XlPort) = inTraining s.time.pclk (s.xlPort p)

/-- Training started and nothing came since: each lane counts anew, and keeps its lock. -/
def TrainingStarted (p : Nat) (s t : State) : Prop :=
  XlOnly p 8 [Reg.XL_P_STAT, Reg.XL_P_RETRAIN] s t ∧ t.out = s.out ∧ t.regions = s.regions ∧ TrainingBegan p s t
  ∧ ∀ l, (t.xlPort p).lane l = if l < 4 then { (s.xlPort p).lane l with alike := 0, last := none } else (s.xlPort p).lane l

/-- Training frames on the lanes of a port that hold lock (R380). -/
def trainingOut (p : Nat) (s : State) : List Out :=
  ((List.range 4).filter (fun l => (lockBits p s).testBit l)).map (fun l =>
    .training p l (usableLanes p s) (BitVec.ofNat 64 (bitsOf (xlReg Reg.XL_P_CFG p s) 1 0 * 2 ^ 32 + 0x00020300))
      (bitsOf (xlReg Reg.XL_P_CFG p s) 11 9))

end Sys2Proof.Machine

/-- R380, R382: training starts on an enabled port, and restarts 100 ms after a failure; each locked lane sends a
training frame, and lanes without lock may acquire it; a frame received holds its lane's lock and counts as alike with
the one before, and on a link that is up it starts training; once every locked lane has two alike, the link comes up
with the highest common major, the capabilities of both and the width of the lanes both can use, or fails with no common
major; a training that takes 10 ms ends. A code error is counted; one that costs a lane of the link its lock retrains,
one too many retires the lane as a permanent fault. UNRETIRE returns lanes to use and forgets their errors. Choices of
the model: orders on the link (log 48). -/
def Obligations.XesumTraining : Prop :=
  ∀ (p : Fin 4) (e : XlPort) (stat : Word) (s : State), e = s.xlPort p → stat = xlReg Reg.XL_P_STAT p s →
    (xlOn p s = false → Completes (.trainingStart p) s (fun t => t = s))
    ∧ (xlOn p s = true → Completes (.trainingStart p) s (TrainingStarted p s))
    ∧ (xlTraining p s = false → Completes (.trainingFrameSend p) s (fun t => t = s))
    ∧ (xlTraining p s = true → lockBits p s = 15 → Completes (.trainingFrameSend p) s (fun t =>
        t = { s with out := s.out ++ trainingOut p s }))
    ∧ (xlTraining p s = true → lockBits p s ≠ 15 → Completes (.trainingFrameSend p) s (fun t =>
        ChipRegs [regAt Reg.XL_P_LANESTAT p 0] { s with out := t.out, free := s.free + 1 } t
        ∧ (∀ l, (lockBits p s).testBit l = true → (lockBits p t).testBit l = true) ∧ retiredBits p t = retiredBits p s
        ∧ t.out = s.out ++ trainingOut p t))
    ∧ (∀ (lane : Fin 4) (usable : BitVec 4) (version : BitVec 64) (majors : BitVec 3) (f : TrainFrame) (lock : Nat) (e1 : XlPort),
      f = ⟨usable.toNat, version, majors.toNat⟩ → lock = lockBits p s ||| 2 ^ lane.val →
      e1 = e.setLane lane { e.lane lane with
        last := some f, alike := if (e.lane lane).last = some f then (e.lane lane).alike + 1 else 1 } →
      (xlUp p s = false → xlTraining p s = false →
        Completes (.trainingFrameReceived p lane usable version majors) s (fun t => t = s))
      ∧ (xlUp p s = true → xlOn p s = true →
        Completes (.trainingFrameReceived p lane usable version majors) s (fun t =>
          XlOnly p 8 [Reg.XL_P_STAT, Reg.XL_P_RETRAIN, Reg.XL_P_LANESTAT] s t ∧ t.out = s.out ∧ t.regions = s.regions
          ∧ TrainingBegan p s t ∧ lockBits p t = lock
          ∧ ((t.xlPort p).lane lane).alike = 1 ∧ ((t.xlPort p).lane lane).last = some f))
      ∧ (xlUp p s = false → xlTraining p s = true → (∃ l, l < 4 ∧ lock.testBit l = true ∧ (e1.lane l).alike < 2) →
        Completes (.trainingFrameReceived p lane usable version majors) s (fun t =>
          XlOnly p 8 [Reg.XL_P_LANESTAT] s t ∧ t.out = s.out ∧ t.regions = s.regions ∧ t.xlPort p = e1
          ∧ lockBits p t = lock ∧ retiredBits p t = retiredBits p s))
      ∧ (∀ (m w : Nat) (lanes : List Nat), xlUp p s = false → xlTraining p s = true → e.retry = [] → e.kicked = [] →
        (∀ l, l < 4 → lock.testBit l = true → 2 ≤ (e1.lane l).alike ∧ (e1.lane l).last = some f) →
        m = highMajor (bitsOf (xlReg Reg.XL_P_CFG p s) 11 9 &&& majors.toNat) →
        lanes = (List.range 4).filter (fun l => lock.testBit l && !(retiredBits p s).testBit l && usable.getLsbD l) →
        w = widthOf lanes.length →
        Completes (.trainingFrameReceived p lane usable version majors) s (fun t =>
          XlOnly p 8 [Reg.XL_P_STAT, Reg.XL_P_LANESTAT, Reg.XL_P_PEER_L, Reg.XL_P_PEER_H] s t ∧ t.out = s.out
          ∧ t.regions = s.regions ∧ lockBits p t = lock ∧ retiredBits p t = retiredBits p s
          ∧ t.xlPort p = (if m = 0 then { e1 with began := s.time.pclk } else if w = 0 then e1
              else { e1 with used := lanes.take w })
          ∧ xlReg Reg.XL_P_PEER_H p t ++ xlReg Reg.XL_P_PEER_L p t = version
          ∧ xlReg Reg.XL_P_STAT p t = if m = 0 then 0x20000000 else if w = 0 then stat else
              BitVec.ofNat 32 (2 ^ 31 + w * 2 ^ 24 + m * 2 ^ 16
                + (bitsOf (xlReg Reg.XL_P_CFG p s) 1 0 &&& bitsOf version 33 32 &&& majorCaps m)))))
    ∧ (xlTraining p s = true → e.began + 8000000 ≤ s.time.pclk → Completes (.trainingTimeout p) s (fun t =>
        XlOnly p 8 [Reg.XL_P_STAT] s t ∧ t.out = s.out ∧ t.regions = s.regions
        ∧ t.xlPort p = { e with began := s.time.pclk } ∧ xlReg Reg.XL_P_STAT p t = setBit stat 30 false))
    ∧ (xlTraining p s = false ∨ s.time.pclk < e.began + 8000000 → Completes (.trainingTimeout p) s (fun t => t = s))
    ∧ (xlUp p s = true ∨ xlTraining p s = true ∨ s.time.pclk < e.began + 80000000 →
        Completes (.trainingRetry p) s (fun t => t = s))
    ∧ (xlUp p s = false → xlTraining p s = false → xlOn p s = true → e.began + 80000000 ≤ s.time.pclk →
        Completes (.trainingRetry p) s (TrainingStarted p s))
    ∧ (∀ (lane : Fin 4) (lost : Bool) (a : Nat), a = regAt Reg.XL_P_LANEERR p lane →
      (xlOn p s = false → Completes (.codeError p lane lost) s (fun t => t = s))
      ∧ (xlOn p s = true → xlUp p s = false → Completes (.codeError p lane lost) s (fun t =>
        ChipRegs [a, regAt Reg.XL_P_LANESTAT p 0] { s with chip := { s.chip with xl := t.chip.xl } } t
        ∧ t.xlPort p = e.setLane lane (e.lane lane) ∧ (∀ k, k ≠ p.val → t.xlPort k = s.xlPort k)
        ∧ t.chipReg a = satAdd 0xFFFF (s.chipReg a) 1
        ∧ lockBits p t = if lost then lockBits p s &&& (15 - 2 ^ lane.val) else lockBits p s))
      ∧ (xlOn p s = true → xlUp p s = true → (retiredBits p s).testBit lane = false →
        (recent oneSecond s.time.gtime (e.lane lane).losses).length + 1 < 8 →
        (recent (10 * oneSecond) s.time.gtime (e.lane lane).errors).length + 1 < 32 →
        Completes (.codeError p lane lost) s (fun t => t.regions = s.regions ∧ t.out = s.out
          ∧ t.chipReg a = satAdd 0xFFFF (s.chipReg a) 1 ∧ retiredBits p t = retiredBits p s
          ∧ lockBits p t = (if lost then lockBits p s &&& (15 - 2 ^ lane.val) else lockBits p s)
          ∧ if (lost && e.used.contains lane.val) = true then xlUp p t = false ∧ xlTraining p t = true
            else xlReg Reg.XL_P_STAT p t = stat))
      ∧ (xlOn p s = true → xlUp p s = true → e.used.contains lane.val = true → lost = true →
        (retiredBits p s).testBit lane = false → 8 ≤ (recent oneSecond s.time.gtime (e.lane lane).losses).length + 1 →
        (s.region 0).inReset = false → (s.region 0).faultQ.length < 16 →
        Completes (.codeError p lane lost) s (fun t => xlTraining p t = true
          ∧ (retiredBits p t).testBit lane = true ∧ (∀ k, k ≠ 0 → t.region k = s.region k)
          ∧ RegsBut [Reg.TL_PFCNT.base] (s.region 0) (t.region 0)
          ∧ (t.region 0).reg Reg.TL_PFCNT.base = satAdd 0xFFFF ((s.region 0).reg Reg.TL_PFCNT.base) 1
          ∧ (t.region 0).faultQ = (s.region 0).faultQ ++ [⟨5, 0, 4 * p + lane, 0, s.time.gtime⟩])))
    ∧ (∀ lanes : BitVec 4, Completes (.unretire p lanes) s (fun t =>
        XlOnly p 8 [Reg.XL_P_LANESTAT] s t ∧ t.out = s.out ∧ t.regions = s.regions
        ∧ lockBits p t = lockBits p s ∧ retiredBits p t = (retiredBits p s &&& (15 - lanes.toNat))
        ∧ ∀ l, (t.xlPort p).lane l = if l < 4 ∧ lanes.getLsbD l = true then { e.lane l with losses := [], errors := [] }
            else e.lane l))

/-! ## Field pins -/

namespace Sys2Proof.Machine

/-- A region without its field pins' queues. -/
def Region.noPins (Q : Region) : Region := { Q with fp := [], ev := { Q.ev with coming := [] } }

/-- Nothing but the queues of field pin `p`, which become `f`, differs in region `r`. -/
def PinOnly (r p : Nat) (f : FieldPin) (s t : State) : Prop :=
  RegionBut (fun Q => { Q with fp := [] }) [] r s t
    ∧ ∀ k, (t.region r).fpin k = if k = p then f else (s.region r).fpin k

end Sys2Proof.Machine

/-- R385 to R387, R468: a push queues an action with its time, or is counted as lost; the head entry acts at the coming
edge if GTIME has reached its time there and none has acted at it, late where the edge before had as well; a
synchronised level counts from its edge on, and once it has shown for FILT + 1 edges FP_IN follows it, a change in the
direction of EDGE being captured with GTIME at the first edge of its run less 48 ticks, and its event, or lost; a read
takes the oldest capture and lets in one that its edge had lost. A VIO rail out of range is kept as such, and a
field-pin rail's level shows in FP_BANK. Choices of the model: that the command is the event, where one is due (log 32),
the edge at which a command acts (log 57). -/
def Obligations.FieldPins : Prop :=
  ∀ (r : RegionId) (p : Fin 32) (R : Region) (f : FieldPin) (x : Ctx) (s : State), R = s.region r → f = R.fpin p →
    x = (s.ctx r).next →
    (Live r s → ∀ v : Word,
      (f.tq.length < 8 → Completes (.timedQueuePush r p v) s (PinOnly r p { f with
            tq := f.tq ++ [(R.pairVal (regAt Reg.FP_P_TQ_L p 0) (regAt Reg.FP_P_TQ_H p 0), bitsOf v 2 0)] } s))
      ∧ (8 ≤ f.tq.length → Completes (.timedQueuePush r p v) s (fun t => RegionRegs [regAt Reg.FP_P_TQOVR p 0] r s t
        ∧ (t.region r).reg (regAt Reg.FP_P_TQOVR p 0) = satAdd 0xFFFF (R.reg (regAt Reg.FP_P_TQOVR p 0)) 1)))
    ∧ (Live r s → ∀ (at' : Ticks) (act : Nat) (l : List (Ticks × Nat)), f.tq = (at', act) :: l →
      (x.gt.toNat < at'.toNat ∨ f.acted ≠ none → Completes (.timedAction r p) s (fun t => RegionRegs [] r s t))
      ∧ (at'.toNat ≤ x.gt.toNat → f.acted = none → Completes (.timedAction r p) s (fun t =>
        RegionBut (fun Q => { Q with fp := [] }) [Reg.FP_OUT.base, Reg.FP_OE.base, regAt Reg.FP_P_LATE p 0] r s t
        ∧ (∀ k, (t.region r).fpin k = if k = p.val then { f with tq := l, acted := some act } else R.fpin k)
        ∧ (t.region r).reg Reg.FP_OUT.base = (if act < 3 then setBit (R.reg Reg.FP_OUT.base) p
            (match act with | 0 => false | 1 => true | _ => !R.bit Reg.FP_OUT.base p) else R.reg Reg.FP_OUT.base)
        ∧ (t.region r).reg Reg.FP_OE.base = (if act = 3 ∨ act = 4 then setBit (R.reg Reg.FP_OE.base) p (act == 4)
            else R.reg Reg.FP_OE.base)
        ∧ (t.region r).reg (regAt Reg.FP_P_LATE p 0) = if at'.toNat ≤ s.time.gtime.toNat then
            satAdd 0xFFFF (R.reg (regAt Reg.FP_P_LATE p 0)) 1 else R.reg (regAt Reg.FP_P_LATE p 0))))
    ∧ (Live r s → f.tq = [] → Completes (.timedAction r p) s (fun t => RegionRegs [] r s t))
    ∧ (Live r s → ∀ (c : Instr) (level takes : Bool) (e : Nat) (ln : Line) (st : Ticks),
      (c = .fieldPinInputChange r p level ∧ e = s.time.pclk + 1)
        ∨ (∃ stamp, c = .fieldPinCapture r p level stamp ∧ e = s.time.pclk + 1 - (x.edgesBack stamp).getD 0) →
      ln = (if f.line.sync = level then f.line else ⟨level, max e f.line.since⟩) →
      takes = R.bit (regAt Reg.FP_P_CFG p 0) (if level then 8 else 9) →
      st = ((x.edgeAt ((ln.since : Int) - x.time.pclk)).1 - 48) &&& ~~~ 0xF →
      (level = R.bit Reg.FP_IN.base p ∨ s.time.pclk + 1 < ln.since + R.field (regAt Reg.FP_P_CFG p 0) 23 16 →
        Completes c s (PinOnly r p { f with line := ln } s))
      ∧ (level ≠ R.bit Reg.FP_IN.base p → ln.since + R.field (regAt Reg.FP_P_CFG p 0) 23 16 ≤ s.time.pclk + 1 →
        Completes c s (fun t => RegionBut Region.noPins [Reg.FP_IN.base, regAt Reg.FP_P_CAPOVR p 0] r s t
        ∧ (t.region r).reg Reg.FP_IN.base = setBit (R.reg Reg.FP_IN.base) p level
        ∧ (∀ k, (t.region r).fpin k = if k = p.val then { f with
              line := ln
              cap := if takes = true ∧ f.cap.length < 4 then f.cap ++ [(st, level)] else f.cap
              lost := if takes = true ∧ 4 ≤ f.cap.length then some (st, level) else f.lost } else R.fpin k)
        ∧ (t.region r).ev.coming = R.ev.coming ++ (if takes = true ∧ f.cap.length < 4 then [0x0E0 + p.val] else [])
        ∧ (t.region r).reg (regAt Reg.FP_P_CAPOVR p 0) = if takes = true ∧ 4 ≤ f.cap.length then
            satAdd 0xFFFF (R.reg (regAt Reg.FP_P_CAPOVR p 0)) 1 else R.reg (regAt Reg.FP_P_CAPOVR p 0))))
    ∧ (Live r s → ∀ (at' : Ticks) (level : Bool) (l : List (Ticks × Bool)), f.cap = (at', level) :: l →
      ∀ got : State → Prop, got = (fun t =>
        t.host = some (.data (words4 [(at'.truncate 32 &&& ~~~ 0xF) ||| (if level then 1 else 0)]))
          ∧ (t.region r).reg (regAt Reg.FP_P_CAP_H p 0) = (at' >>> 32).truncate 32) →
      (f.lost = none → Completes (.fieldPinCapRead r p) s (fun t =>
        RegionBut (fun Q => { Q with fp := [] }) [regAt Reg.FP_P_CAP_H p 0] r { s with host := t.host } t ∧ got t
        ∧ ∀ k, (t.region r).fpin k = if k = p.val then { f with cap := l } else R.fpin k))
      ∧ (∀ q, f.lost = some q → l.length < 4 → Completes (.fieldPinCapRead r p) s (fun t =>
        RegionBut Region.noPins [regAt Reg.FP_P_CAP_H p 0, regAt Reg.FP_P_CAPOVR p 0] r { s with host := t.host } t
            ∧ got t
        ∧ (∀ k, (t.region r).fpin k = if k = p.val then { f with cap := l ++ [q], lost := none } else R.fpin k)
        ∧ (t.region r).reg (regAt Reg.FP_P_CAPOVR p 0) = R.reg (regAt Reg.FP_P_CAPOVR p 0) - 1
        ∧ (t.region r).ev.coming = R.ev.coming ++ [0x0E0 + p.val])))
    ∧ (Live r s → f.cap = [] → Completes (.fieldPinCapRead r p) s (fun t => RegionRegs [] r { s with host := t.host } t
        ∧ t.host = some (.data (words4 [0]))))
    ∧ (∀ (rail : Fin 3) (good v18 : Bool), Completes (.vioRailChange r rail good v18) s (fun t =>
        RegionBut (fun Q => { Q with railBad := [] }) [Reg.FP_BANK.base] r s t
        ∧ (∀ k, k ∈ (t.region r).railBad ↔ if k = rail.val then good = false else k ∈ R.railBad)
        ∧ (t.region r).reg Reg.FP_BANK.base = if rail = 0 then R.reg Reg.FP_BANK.base
            else setBit (R.reg Reg.FP_BANK.base) (rail - 1) (good && !v18)))

/-! ## Retirement and takeover -/

namespace Sys2Proof.Machine

/-- A region without what takeover changes beside registers. -/
def Region.noTakeover (Q : Region) : Region := { Q with cells := [], faultQ := [], tk := [], load := [], sweep := false }

/-- A command retires cell `c` of block `b` with a detail: the arbiter takes up its only cell-reach error, or BK_RETIRE
names it. -/
def Retires (r : RegionId) (b : BlockId) (c detail : Nat) (i : Instr) (R : Region) : Prop :=
  (i = .takeover r b ∧ reachErrors b R = [16 * b + c] ∧ detail = (R.cell (16 * b + c)).reachErr)
    ∨ ∃ v : Word, i = .bkRetire r b v ∧ (∀ j, j < 16 → v.getLsbD j = decide (j = c))
        ∧ R.blockReset.contains b.val = false
      ∧ reachErrors b R = [] ∧ isRetired (16 * b + c) R = false ∧ detail = 4

/-- What a retirement leaves beside its takeover (R392, R396): the cell is halted and its error over; it reads as
retired; the fault is counted and its record, then `more`, queued. -/
structure Retired (r b c detail : Nat) (more : List FaultRec) (regs : List Nat) (s t : State) : Prop where
  frame : RegionBut Region.noTakeover (regs ++ [blk Reg.BK_RETIRED b, Reg.TL_PFCNT.base, blk Reg.BK_TKSTAT b]) r s t
  cells : ∀ i, (t.region r).cell i =
    if i = 16 * b + c then { (s.region r).cell i with halted := true, byDebug := false, reachErr := 0 } else (s.region r).cell i
  retired : (t.region r).reg (blk Reg.BK_RETIRED b) = setBit ((s.region r).reg (blk Reg.BK_RETIRED b)) c true
  counted : (t.region r).reg Reg.TL_PFCNT.base = satAdd 0xFFFF ((s.region r).reg Reg.TL_PFCNT.base) 1
  recorded : (t.region r).faultQ =
    (s.region r).faultQ ++ ⟨1, detail, r * 128 + (16 * b + c), 0, s.time.gtime⟩ :: more

/-- Region registers that a takeover of cell `c` by cell `f` of block `b` may rewrite (R9, R399, R406). -/
def reboundRegs (b c f : Nat) : List Nat :=
  [blk Reg.BK_TKSTAT b, blk Reg.BK_TKCNT b, blk Reg.BK_OWN b f, blk Reg.BK_OWN b c, blk Reg.BK_CKPT b f,
      blk Reg.BK_PROT b,
      blk Reg.BK_FALLOW b, regAt Reg.IC_THR (16 * b + f) 0, Reg.CF_COMMITTED.base]
    ++ (List.range 256).flatMap (fun k => regAt Reg.EV_CH_CFG k 0 :: (List.range 4).map (fun j =>
        regAt Reg.EV_CH_FORK k j))
    ++ (List.range 64).flatMap (fun k => (List.range 4).map (fun j => regAt Reg.IC_TSET k j))

/-- ECC words that `n` bytes from byte `a` of cell `i`'s DMEM touch, and those that they cover whole. -/
def dmemWord (i a n q : Nat) : Prop := placeCode (.dmem i 0) + a / 8 ≤ q ∧ q < placeCode (.dmem i 0) + (a + n + 7) / 8
def dmemWhole (i a n q : Nat) : Prop := placeCode (.dmem i 0) + (a + 7) / 8 ≤ q
    ∧ q < placeCode (.dmem i 0) + (a + n) / 8

end Sys2Proof.Machine

/-- R392, R395, R396, R399, R403: retiring a cell, here of a block with no takeover in progress and a cell that owns no
output pair, halts it for good and reports it. A cell that is not protected gets no takeover (RESULT 4), a protected one
without a fallow cell available none either (RESULT 1); otherwise the lowest available one takes the golden copy of the
failed cell and its load starts. A configuration sweep under way is discarded (R406). With nothing to take up nothing
changes.

R9, R399: at the end of a good load the newest committed checkpoint of the failed cell is restored in the fallow
one,
which waits for its sample boundary; what named the failed cell names the fallow one, which is protected, owns its pairs
and has its mirror, and is fallow no more. After a failed load, or with no record, the takeover stops with RESULT 2 or
3.
At its boundary the restored cell swaps its coefficient banks if that was pending, and runs.
Choices of the model: how the check value follows (log 35), which registers are rewritten (log 36). -/
def Obligations.Takeover : Prop :=
  (∀ (r : RegionId) (b : BlockId) (R : Region) (s : State), MemoryUp r s → R = s.region r →
      R.takeover b = ⟨.idle, (R.takeover b).src, (R.takeover b).dst, []⟩ →
      (∀ (c detail : Nat) (i : Instr) (stat : Word), c < 16 → Retires r b c detail i R → R.faultQ.length + 2 ≤ 16 →
        R.reg (blk Reg.BK_OWN b c) = 0 → stat = setBits (R.reg (blk Reg.BK_TKSTAT b)) 7 4 c →
        (∀ result : Nat, (result = 4 ∧ blkBit Reg.BK_PROT b c R = false) ∨ (result = 1 ∧ blkBit Reg.BK_PROT b c R = true
            ∧ ∀ f, f < 16 → f ≠ c → available b f R = false) →
          Completes i s (fun t =>
            Retired r b c detail [⟨2, result, r * 128 + (16 * b + c), 0xFFFFFFFF, s.time.gtime⟩] [] s t
            ∧ (t.region r).reg (blk Reg.BK_TKSTAT b) = setBit (setBits (setBit stat 31 true) 3 1 result) 31 false
            ∧ (∀ q, (t.region r).takeover q = if q = b.val then { R.takeover q with src := c } else R.takeover q)
            ∧ (t.region r).load = R.load ∧ (t.region r).sweep = false))
        ∧ (∀ f base : Nat, f < 16 → f ≠ c → blkBit Reg.BK_PROT b c R = true → available b f R = true →
          (∀ g, g < f → g ≠ c → available b g R = false) → R.bit (blk Reg.BK_LDSTAT b) 0 = false →
          base = goldBase b c R → HeaderGood base R →
          Completes i s (fun t =>
            Retired r b c detail [] [blk Reg.BK_CGOLD b f, Reg.CF_COMMITTED.base, blk Reg.BK_LDSTAT b] s t
            ∧ (t.region r).reg (blk Reg.BK_TKSTAT b) = setBits (setBit stat 31 true) 11 8 f
            ∧ (t.region r).reg (blk Reg.BK_CGOLD b f) = R.reg (blk Reg.BK_CGOLD b c)
            ∧ (t.region r).reg (blk Reg.BK_LDSTAT b) = BitVec.ofNat 32 (f * 16 + 1)
            ∧ (∀ q, (t.region r).takeover q = if q = b.val then ⟨.load, c, f, []⟩ else R.takeover q)
            ∧ (t.region r).sweep = false
            ∧ ∀ q, mapGet noneAt (t.region r).load q = if q = b.val then
                some ⟨f, 15, false, base, BitVec.ofNat 32 (leNat (rawRead (.rmem (base + 12)) 4 R)), false⟩
              else mapGet noneAt R.load q)))
      ∧ (reachErrors b R = [] → Completes (.takeover r b) s (fun t =>
          RegionBut Region.noTakeover [] r s t ∧ ({ t.region r with tk := [] } : Region) = { R with tk := [] }
          ∧ ∀ q, (t.region r).takeover q = R.takeover q)))
  ∧ (∀ (r : RegionId) (b : BlockId) (c f : Nat) (R : Region) (s : State), Live r s → R = s.region r → c < 16 → f < 16 →
      (R.takeover b = ⟨.load, c, f, []⟩ → R.bit (blk Reg.BK_LDSTAT b) 0 = false → R.field (blk Reg.BK_LDSTAT b) 7 4 = f →
        R.faultQ.length < 16 →
        (∀ result : Nat, (result = 2 ∧ loadCode b R ≠ 0) ∨ (result = 3 ∧ loadCode b R = 0
            ∧ newestRecord (s.ctx r) b c (ckLen (R.cell (16 * b + c))) R = (none, R)) →
          Completes (.takeoverRestore r b) s (fun t =>
            RegionBut Region.noTakeover [blk Reg.BK_TKSTAT b] r s t
            ∧ (t.region r).cells = R.cells ∧ (t.region r).load = R.load ∧ (t.region r).sweep = R.sweep
            ∧ (t.region r).reg (blk Reg.BK_TKSTAT b) =
                setBit (setBits (R.reg (blk Reg.BK_TKSTAT b)) 3 1 result) 31 false
            ∧ (t.region r).faultQ =
                R.faultQ ++ [⟨2, result, r * 128 + 16 * b + c, BitVec.ofNat 32 (r * 128 + 16 * b + f), s.time.gtime⟩]
            ∧ ∀ q, (t.region r).takeover q = if q = b.val then ⟨.idle, c, f, []⟩ else R.takeover q))
        ∧ (∀ (n : Nat) (rec : List Byte), c ≠ f → loadCode b R = 0 → mapWf regionDefault R.regs = true →
          newestRecord (s.ctx r) b c (ckLen (R.cell (16 * b + c))) R = (some (n, rec), R) →
          Completes (.takeoverRestore r b) s (fun t =>
            OnlyRegion r s t
            ∧ ({ (t.region r).noTakeover with regs := [], banks := banksInit } : Region) =
                { R.noTakeover with regs := [], banks := banksInit }
            ∧ RegsBut (reboundRegs b c f) R (t.region r)
            ∧ ({ (t.region r).banks with ecc := [], dbeFresh := true } : Banks) = { R.banks with ecc := [], dbeFresh := true }
            ∧ (∀ q, (dmemWord (16 * b + f) (ckBase (wordAt rec 0x84)) (ckImage rec).length q →
                eccAt (t.region r) q = none)
                ∧ (¬ dmemWord (16 * b + f) (ckBase (wordAt rec 0x84)) (ckImage rec).length q →
                  eccAt (t.region r) q = eccAt R q))
            ∧ ((t.region r).banks.dbeFresh = true ↔ R.banks.dbeFresh = true ∨
                dmemWhole (16 * b + f) (ckBase (wordAt rec 0x84)) (ckImage rec).length (R.reg Reg.MB_ECC_LASTDBE.base).toNat)
            ∧ (t.region r).load = R.load ∧ (t.region r).sweep = R.sweep
            ∧ (∀ i, (t.region r).cell i = if i = 16 * b + f then ckRestore rec (R.cell i) else R.cell i)
            ∧ (t.region r).reg (blk Reg.BK_TKSTAT b) = setBit (setBits (R.reg (blk Reg.BK_TKSTAT b)) 3 1 0) 31 false
            ∧ (t.region r).reg (blk Reg.BK_TKCNT b) = satAdd 0xFFFF (R.reg (blk Reg.BK_TKCNT b)) 1
            ∧ (t.region r).faultQ =
                R.faultQ ++ [⟨2, 0, r * 128 + 16 * b + c, BitVec.ofNat 32 (r * 128 + 16 * b + f), s.time.gtime⟩]
            ∧ (∀ q, (t.region r).takeover q = if q = b.val then ⟨.idle, c, f, []⟩ else R.takeover q)
            ∧ (t.region r).reg (blk Reg.BK_OWN b f) = R.reg (blk Reg.BK_OWN b c)
            ∧ (t.region r).reg (blk Reg.BK_OWN b c) = 0
            ∧ (t.region r).reg (blk Reg.BK_CKPT b f) = R.reg (blk Reg.BK_CKPT b c)
            ∧ (t.region r).reg (blk Reg.BK_PROT b) = setBit (R.reg (blk Reg.BK_PROT b)) f true
            ∧ (t.region r).reg (blk Reg.BK_FALLOW b) = setBit (R.reg (blk Reg.BK_FALLOW b)) f false
            ∧ (∀ k, k < 256 → (t.region r).reg (regAt Reg.EV_CH_CFG k 0) =
                setBits (R.reg (regAt Reg.EV_CH_CFG k 0)) 9 0
                  (rebindSrc (16 * b + c) (16 * b + f) (R.field (regAt Reg.EV_CH_CFG k 0) 9 0))
              ∧ ∀ j, j < 4 → (t.region r).reg (regAt Reg.EV_CH_FORK k j) =
                  rebindFork (16 * b + c) (16 * b + f) (R.reg (regAt Reg.EV_CH_FORK k j)))
            ∧ (∀ k, k < 64 → ∀ j, j < 128 → (t.region r).bit (regAt Reg.IC_TSET k (j / 32)) (j % 32) =
                if R.bit (regAt Reg.IC_TSET k ((16 * b + c) / 32)) ((16 * b + c) % 32) ∧ (j = 16 * b + c ∨ j = 16 * b + f)
                then decide (j = 16 * b + f) else R.bit (regAt Reg.IC_TSET k (j / 32)) (j % 32))
            ∧ (t.region r).reg (regAt Reg.IC_THR (16 * b + f) 0) = R.reg (regAt Reg.IC_THR (16 * b + c) 0))))
      ∧ ((R.takeover b).phase = .idle → Completes (.takeoverRestore r b) s (fun t => RegionRegs [] r s t))
      ∧ ((∀ j, j < 16 → (R.cell (16 * b + j)).awaiting = false) → Completes (.fallowRelease r b) s (fun t => t = s))
      ∧ ((R.cell (16 * b + f)).awaiting = true → (R.cell (16 * b + f)).inReset = false →
        (∀ j, j < f → (R.cell (16 * b + j)).awaiting = false) → Completes (.fallowRelease r b) s (fun t =>
          RegionBut (fun Q => { Q with cells := [], ev := { Q.ev with crossing := [] } }) [] r s t
          ∧ (t.region r).ev.crossing = R.ev.crossing.eraseP (fun e => e.task == 0x180 + (16 * b + f))
          ∧ ∀ i, (t.region r).cell i =
              if i = 16 * b + f then { coefSwap (R.cell i) with awaiting := false, halted := false } else R.cell i)))

/-! ## Telemetry, configuration check, aging and lifetime -/

namespace Sys2Proof.Machine

/-- A region without its telemetry records. -/
def Region.noTelemetry (Q : Region) : Region :=
  { Q with banks := { Q.banks with rmem := [] }, faultQ := [], tlSeq := 0, tlCarry := [], rcorr := 0 }

/-- Entry `j` beyond the write pointer of the telemetry ring. -/
def ringEntry (j : Nat) (R : Region) : Place := .rmem (tlBase R + 64 * (((R.reg Reg.TL_WPTR.base).toNat + j) % tlLen R))

/-- Readings of the sensors, free values. -/
def temperatures : List Nat := (List.range 16).map (fun k => regAt Reg.TL_TEMP k 0)

end Sys2Proof.Machine

/-- R392, R393, R408 to R410: a write of TL_SWFAULT counts a permanent fault and queues its record, and counts that as
lost where the queue is full. A record is written where the ring runs, fits and has a free entry, and otherwise stays.
Each millisecond the temperatures are taken; a ring that runs gets a record of each block and one of the region, whose
tallies start again, or, where it is full, counts them as dropped and carries the tallies over. Choices of the model:
free readings (log 34). -/
def Obligations.Telemetry : Prop :=
  ∀ (r : RegionId) (R : Region) (s : State), MemoryUp r s → R = s.region r →
    (∀ v : Word,
      (R.faultQ.length < 16 → Completes (.tlSwfault r v) s (fun t =>
        RegionBut (fun Q => { Q with faultQ := [] }) [Reg.TL_PFCNT.base] r s t
        ∧ (t.region r).reg Reg.TL_PFCNT.base = satAdd 0xFFFF (R.reg Reg.TL_PFCNT.base) 1
        ∧ (t.region r).faultQ = R.faultQ ++ [⟨8, bitsOf v 23 16, bitsOf v 15 0, 0, s.time.gtime⟩]))
      ∧ (R.faultQ.length = 16 → Completes (.tlSwfault r v) s (fun t =>
          RegionRegs [Reg.TL_PFCNT.base, Reg.TL_FLTLOST.base] r s t
          ∧ (t.region r).reg Reg.TL_PFCNT.base = satAdd 0xFFFF (R.reg Reg.TL_PFCNT.base) 1
          ∧ (t.region r).reg Reg.TL_FLTLOST.base = satAdd 0xFFFF (R.reg Reg.TL_FLTLOST.base) 1)))
    ∧ (R.faultQ = [] ∨ R.bit Reg.TL_RING.base 31 = false ∨ tlMisfit R = true ∨ tlFree R = 0 →
      Completes (.faultRecordWrite r) s (fun t => RegionRegs [] r s t))
    ∧ (∀ (q : FaultRec) (l : List FaultRec), R.faultQ = q :: l → R.bit Reg.TL_RING.base 31 = true → tlMisfit R = false →
      tlFree R ≠ 0 → Completes (.faultRecordWrite r) s (fun t =>
        RegionBut Region.noTelemetry [Reg.TL_WPTR.base] r s t
        ∧ Stored (ringEntry 0 R) (words4 ([BitVec.ofNat 32 (3 * 2 ^ 28 + R.tlSeq % 65536), 1, q.gtime.truncate 32,
            (q.gtime >>> 32).truncate 32, BitVec.ofNat 32 (q.kind * 2 ^ 24 + q.detail % 256 * 2 ^ 16 + q.loc % 65536),
                q.info]
            ++ List.replicate 10 0)) R (t.region r)
        ∧ (t.region r).reg Reg.TL_WPTR.base = BitVec.ofNat 32 (((R.reg Reg.TL_WPTR.base).toNat % tlLen R + 1) % tlLen R)
        ∧ (t.region r).faultQ = l ∧ (t.region r).tlSeq = R.tlSeq + 1
        ∧ (t.region r).tlCarry = R.tlCarry ∧ (t.region r).rcorr = R.rcorr))
    ∧ (R.bit Reg.TL_RING.base 31 = false ∨ tlMisfit R = true →
      Completes (.telemetryRecord r) s (fun t =>
        RegionRegs (temperatures) r { s with free := s.free + 24 } t
        ∧ ∀ k, k < 16 → (t.region r).reg (regAt Reg.TL_TEMP k 0) = Config.freeWord (s.free + k) &&& 0xFFFF))
    ∧ (R.faultQ = [] → R.bit Reg.TL_RING.base 31 = true → tlMisfit R = false → tlFree R = 0 →
      Completes (.telemetryRecord r) s (fun t =>
        RegionBut Region.noTelemetry (Reg.TL_DROP.base :: temperatures) r { s with free := s.free + 24 } t
        ∧ (t.region r).banks = R.banks ∧ (t.region r).faultQ = [] ∧ (t.region r).tlSeq = R.tlSeq
        ∧ (t.region r).rcorr = R.rcorr
        ∧ (t.region r).reg Reg.TL_DROP.base = satAdd 0xFFFF (R.reg Reg.TL_DROP.base) 9
        ∧ ∀ k, (t.region r).tlCarry.contains k = (decide (k < 9) || R.tlCarry.contains k)))
    ∧ (R.faultQ = [] → R.bit Reg.TL_RING.base 31 = true → tlMisfit R = false → 10 ≤ tlFree R →
      Completes (.telemetryRecord r) s (fun t =>
        RegionBut Region.noTelemetry
          (Reg.TL_WPTR.base :: temperatures ++ (List.range 8).flatMap (fun b => (List.range 11).map (fun w =>
            regAt Reg.TL_B_RUN b w))) r { s with free := s.free + 24 } t
        ∧ (∀ b w, b < 8 → w < 11 → (t.region r).reg (regAt Reg.TL_B_RUN b w) = 0)
        ∧ (t.region r).rcorr = 0 ∧ (t.region r).faultQ = [] ∧ (t.region r).tlSeq = R.tlSeq + 9
        ∧ (∀ k, k < 9 → (t.region r).tlCarry.contains k = false)
        ∧ (t.region r).reg Reg.TL_WPTR.base = BitVec.ofNat 32 (((R.reg Reg.TL_WPTR.base).toNat + 10) % tlLen R)
        ∧ (∀ b, b < 8 → rawRead (ringEntry b R) 64 (t.region r) = words4 ([BitVec.ofNat 32
              (2 ^ 28 + (R.tlCarry.contains b).toNat * 2 ^ 27 + b * 2 ^ 24 + (R.tlSeq + b) % 65536), 1,
            s.time.gtime.truncate 32, (s.time.gtime >>> 32).truncate 32]
            ++ (List.range 11).map (fun w => R.reg (regAt Reg.TL_B_RUN b w)) ++ [0]))
        ∧ (rawRead (ringEntry 8 R) 64 (t.region r)).take 16 = words4 [BitVec.ofNat 32
              (2 ^ 29 + (R.tlCarry.contains 8).toNat * 2 ^ 27 + (R.tlSeq + 8) % 65536), 2,
            s.time.gtime.truncate 32, (s.time.gtime >>> 32).truncate 32]
        ∧ ∀ p : Place, p.inside → (∀ j k, j < 10 → k < 64 → p ≠ (ringEntry j R).plus k) →
            byteAt p (t.region r) = byteAt p R))

/-- R405, R406, R411: a sweep begins unless CALC or a takeover runs (or the region is in L3, which no state here is); at
its end a check value equal to CF_COMMITTED clears MISMATCH, a first other one is reported as a permanent fault, and
resets the region where RESET asks for it. CALC computes the check value into CF_CALC; COMMIT copies CF_REF. The aging
count and the lifetime counters are kept. Choices of the model: that the command is the event, where one is due (log
32). -/
def Obligations.ConfigurationCheck : Prop :=
  (∀ (r : RegionId) (R : Region) (v : Word) (s : State), Live r s → R = s.region r → v = checkValue R →
    Completes (.sweepStart r) s (fun t => OnlyRegion r s t ∧ t.region r =
      { R with sweep := R.sweep || (R.bit Reg.CF_CFG.base 31 && !R.bit Reg.CF_STAT.base 1
          && (List.range 8).all (fun b => (R.takeover b).phase == .idle)) })
    ∧ (R.sweep = false → Completes (.sweepComplete r) s (fun t => RegionRegs [] r s t))
    ∧ (R.sweep = true → v = R.reg Reg.CF_COMMITTED.base → Completes (.sweepComplete r) s (fun t =>
        RegionBut (fun Q => { Q with sweep := false }) [Reg.CF_LAST.base, Reg.CF_SWEEPS.base, Reg.CF_STAT.base] r s t
        ∧ (t.region r).sweep = false ∧ (t.region r).reg Reg.CF_LAST.base = v
        ∧ (t.region r).reg Reg.CF_SWEEPS.base = R.reg Reg.CF_SWEEPS.base + 1
        ∧ (t.region r).reg Reg.CF_STAT.base = setBit (R.reg Reg.CF_STAT.base) 0 false))
    ∧ (R.sweep = true → v ≠ R.reg Reg.CF_COMMITTED.base → R.bit Reg.CF_CFG.base 30 = false → R.faultQ.length < 16 →
      Completes (.sweepComplete r) s (fun t =>
        RegionBut (fun Q => { Q with sweep := false, faultQ := [], ev := { Q.ev with fabric := [] } })
          [Reg.CF_LAST.base, Reg.CF_SWEEPS.base, Reg.CF_STAT.base, Reg.CF_MISCNT.base, Reg.TL_PFCNT.base] r s t
        ∧ (t.region r).sweep = false ∧ (t.region r).reg Reg.CF_LAST.base = v
        ∧ (t.region r).reg Reg.CF_SWEEPS.base = R.reg Reg.CF_SWEEPS.base + 1
        ∧ (t.region r).reg Reg.CF_STAT.base = setBit (R.reg Reg.CF_STAT.base) 0 true
        ∧ (t.region r).reg Reg.CF_MISCNT.base = satAdd 0xFFFF (R.reg Reg.CF_MISCNT.base) 1
        ∧ (t.region r).reg Reg.TL_PFCNT.base =
            (if cfMismatch R then R.reg Reg.TL_PFCNT.base else satAdd 0xFFFF (R.reg Reg.TL_PFCNT.base) 1)
        ∧ (t.region r).ev.fabric = R.ev.fabric ++ (if cfMismatch R then [] else [⟨0x015, s.time.gtime⟩])
        ∧ (t.region r).faultQ = R.faultQ ++ (if cfMismatch R then [] else [⟨6, 0, 0, v, s.time.gtime⟩])))
    ∧ (R.sweep = true → v ≠ R.reg Reg.CF_COMMITTED.base → R.bit Reg.CF_CFG.base 30 = true → cfMismatch R = false →
      Completes (.sweepComplete r) s (fun t => OnlyRegion r { s with chip := t.chip, free := s.free + abortFree } t
        ∧ (t.region r).inReset = true ∧ ChipRegs [regAt Reg.RS_RG_CAUSE r 0]
            { s with regions := t.regions, free := t.free } t
        ∧ t.chipReg (regAt Reg.RS_RG_CAUSE r 0) = 2))
    ∧ Completes (.checkCalc r) s (fun t => RegionRegs [Reg.CF_STAT.base] r s t
        ∧ (t.region r).reg Reg.CF_STAT.base = setBit (R.reg Reg.CF_STAT.base) 1 true)
    ∧ (R.bit Reg.CF_STAT.base 1 = true → Completes (.calcComplete r) s (fun t =>
        RegionRegs [Reg.CF_STAT.base, Reg.CF_CALC.base] r s t ∧ (t.region r).reg Reg.CF_CALC.base = v
        ∧ (t.region r).reg Reg.CF_STAT.base = setBit (R.reg Reg.CF_STAT.base) 1 false))
    ∧ (R.bit Reg.CF_STAT.base 1 = false → Completes (.calcComplete r) s (fun t => RegionRegs [] r s t))
    ∧ Completes (.commitReference r) s (fun t => RegionRegs [Reg.CF_COMMITTED.base] r s t
        ∧ (t.region r).reg Reg.CF_COMMITTED.base = R.reg Reg.CF_REF.base)
    ∧ ∀ (k : Fin 4) (n : Word), Completes (.agingMeasure r k n) s (fun t => RegionRegs [regAt Reg.TL_AGE k 0] r s t
        ∧ (t.region r).reg (regAt Reg.TL_AGE k 0) = n))
  ∧ ∀ (s : State) (l : Life), l = ⟨s.chip.life.pwr + 1, s.chip.life.eq + Config.equivalentMinute (hottest s),
      s.chip.life.hot + (decide (hottest s ≥ 105 * 64)).toNat⟩ →
    Completes .lifetimeAccumulate s (fun t =>
      ChipBut (fun h => { h with life := ⟨0, 0, 0⟩ }) [Reg.CH_LIFE_PWR.base, Reg.CH_LIFE_EQ.base,
          Reg.CH_LIFE_HOT.base] s t
      ∧ t.chip.life = l ∧ t.chipReg Reg.CH_LIFE_PWR.base = BitVec.ofNat 32 (min 0xFFFFFFFF (l.pwr / 60))
      ∧ t.chipReg Reg.CH_LIFE_EQ.base = BitVec.ofNat 32 (min 0xFFFFFFFF (l.eq / 2 ^ 32))
      ∧ t.chipReg Reg.CH_LIFE_HOT.base = BitVec.ofNat 32 (min 0xFFFFFFFF (l.hot / 60)))
    ∧ Completes .lifetimeCommit s (fun t => t = { s with chip := { s.chip with lifeSaved := s.chip.life } })

/-! ## Boot unit -/

namespace Sys2Proof.Machine

/-- The chip without its boot unit. -/
def Chip.noBoot (h : Chip) : Chip := { h with boot := bootInit }

/-- A command of the boot unit ends with a result and changes nothing else. -/
def BootEnds (code : Nat) (i : Instr) (s : State) : Prop :=
  Completes i s (fun t => ChipRegs [Reg.BT_CMDSTAT.base] s t ∧ t.chipReg Reg.BT_CMDSTAT.base = BitVec.ofNat 32 code)

/-- A command of the boot unit ends well: it changes its boot unit to `b` and chip registers `l`, and nothing else. -/
def BootDone (l : List Nat) (b : Boot) (s t : State) : Prop :=
  ChipBut Chip.noBoot (Reg.BT_CMDSTAT.base :: l) s t ∧ t.chip.boot = b ∧ t.chipReg Reg.BT_CMDSTAT.base = 0

/-- The one-time store differs in bytes `f` names only, which read as `f` says. -/
def OtpSet (f : Nat → Option Byte) (b b' : Boot) : Prop :=
  b' = { b with otp := b'.otp } ∧ ∀ a, mapGet zeroByte b'.otp a = (f a).getD (mapGet zeroByte b.otp a)

/-- A debug unlock certificate holds for the device, the challenge drawn and a key slot that may be used (R429). -/
def certHolds (cert : List Byte) (s : State) : Bool :=
  s.chip.boot.challenge && cert.take 16 == otpGet s.chip.boot 0x170 16
    && (cert.drop 16).take 48 == words4 ((List.range 12).map (fun w => s.chipReg (regAt Reg.BT_DBGCHAL w 0)))
    && sigCheck (keyHashes s.chip.boot (leNat ((cert.drop 68).take 4))) (cert.drop 72) (cert.take 72) == 0

/-- What a certificate leaves: the challenge is used up, and a certificate that holds grants its permissions where debug
is not off. -/
def Unlocked (cert : List Byte) (s t : State) : Prop :=
  t.chip.boot = { s.chip.boot with challenge := false }
    ∧ t.chipReg Reg.BT_DBGPERM.base =
      if otpBit s.chip.boot 0x169 0 = false ∧ certHolds cert s = true then BitVec.ofNat 32 (leNat ((cert.drop 64).take 4) % 16)
      else s.chipReg Reg.BT_DBGPERM.base

end Sys2Proof.Machine

/-- R421 to R424, R427 to R429, R439: a command while one runs has no effect. TRIAL names the other slot and CONFIRM
makes the running one active; ARBADV commits the version and starts blowing fuses, or is refused; a fuse finishes
blowing. DBGCHAL draws a challenge; a certificate uses it up and grants its permissions where it holds; ATTEST answers
the report, both signatures and free bytes, and uses one leaf. Choices of the model: results that the rules do not give
(log 44), uninterpreted cryptography (log 45). -/
def Obligations.BootCommands : Prop :=
  ∀ (b : Boot) (s : State), b = s.chip.boot →
    (btBusy s.chip = true → ∀ i ∈ [Instr.trial, .confirm, .arbadv, .attest, .dbgchal, .unlock, .provision, .revoke],
      Completes i s (fun t => t = s))
    ∧ (b.blowing = false → Completes .fuseBlown s (fun t => t = s))
    ∧ (∀ k, b.blowing = true → k < 64 → otpBit b 0x160 k = false → (∀ j, j < k → otpBit b 0x160 j = true) →
      Completes .fuseBlown s (fun t => ChipBut Chip.noBoot [] s t
        ∧ OtpSet (fun a => if a = 0x160 + k / 8 then
            some (mapGet zeroByte b.otp a ||| BitVec.ofNat 8 (2 ^ (k % 8))) else none) { b with blowing := t.chip.boot.blowing } t.chip.boot
        ∧ t.chip.boot.blowing = (decide (fusesBlown t.chip.boot < b.mirror) && !jnBit 30 s.chip)))
    ∧ (btBusy s.chip = false →
      (b.running = none → BootEnds 1 .trial s ∧ BootEnds 1 .confirm s ∧ BootEnds 1 .arbadv s)
      ∧ (∀ ru, b.running = some ru →
        Completes .trial s (BootDone [] { b with trialB := some (!ru.slotB) } s)
        ∧ Completes .confirm s (fun t => BootDone [Reg.BT_STAT.base] { b with activeB := ru.slotB } s t
            ∧ btStat t.chip = setBits (btStat s.chip) 25 24 0)
        ∧ ∀ v, v = bitsOf (btStat s.chip) 15 8 →
          (trialRun s.chip = true ∨ v ≤ floorOf b → BootEnds 1 .arbadv s)
          ∧ (trialRun s.chip = false → floorOf b < v → jnBit 30 s.chip = true → BootEnds 5 .arbadv s)
          ∧ (∀ h, trialRun s.chip = false → floorOf b < v → jnBit 30 s.chip = false →
            jnPlace 7 (words4 [0, BitVec.ofNat 32 v]) s.chip = some h → Completes .arbadv s (fun t =>
              OnlyChip s t ∧ t.chip.boot = { b with mirror := v, blowing := decide (fusesBlown b < v) }
              ∧ t.chip.jn = h.jn ∧ t.chip.mram = h.mram ∧ t.chipReg Reg.BT_CMDSTAT.base = 0)))
      ∧ ((∀ k, k < 4 → slotProvisioned b k = true) → BootEnds 1 .provision s)
      ∧ Completes .dbgchal s (fun t =>
          BootDone ((List.range 12).map (fun w => regAt Reg.BT_DBGCHAL w 0)) { b with challenge := true }
            { s with free := s.free + 12 } t
          ∧ ∀ w, w < 12 → t.chipReg (regAt Reg.BT_DBGCHAL w 0) = Config.freeWord (s.free + w))
      ∧ (∀ (q o : Nat) (R : Region), (q, o) = xaddr s → R = s.region q → MemoryUp q s →
        (∀ (n : Nat) (cert : List Byte), n = leNat (rawRead (.rmem (o + 320)) 4 R) → n ≠ 0 → o + 324 + n ≤ 0x100000 →
          cert = rawRead (.rmem o) (324 + n) R → Completes .unlock s (fun t =>
            ChipBut Chip.noBoot [Reg.BT_CMDSTAT.base, Reg.BT_DBGPERM.base] s t
            ∧ Unlocked cert s t
            ∧ t.chipReg Reg.BT_CMDSTAT.base =
                if otpBit b 0x169 0 = true then 1 else if certHolds cert s = true then 0 else 2))
        ∧ (0x100000 < o + 2048 → BootEnds 3 .attest s)
        ∧ (o + 2048 ≤ 0x100000 → lmsNext s = 1048576 → BootEnds 4 .attest s)
        ∧ (∀ (n : Nat) (rep : List Byte), o + 2048 ≤ 0x100000 → n = lmsNext s → n ≠ 1048576 → n ≠ b.lmsLimit →
          rep = attestReport (rawRead (.rmem o) 48 R) n s → rep.length = 160 →
          Completes .attest s (fun t =>
            ChipRegs [Reg.BT_LMSNEXT.base, Reg.BT_CMDSTAT.base] { s with regions := t.regions, free := s.free + 20 } t
            ∧ t.chipReg Reg.BT_LMSNEXT.base = BitVec.ofNat 32 (n + 1) ∧ t.chipReg Reg.BT_CMDSTAT.base = 0
            ∧ RegionBut (fun Q => { Q with banks := { Q.banks with rmem := [] } }) [] q { s with chip := t.chip, free := t.free } t
            ∧ Stored (.rmem o) (rep ++ beBytes 96 (Config.ecdsaSign (otpGet b 0x140 32) rep s.free)
                ++ beBytes 1772 (Config.lmsSign (otpGet b 0x140 32) rep n)
                ++ (List.range 20).map (fun j => (Config.freeWord (s.free + j)).truncate 8)) R (t.region q)))))

/-- R425: where the running image was verified under an owner slot, or no slot is provisioned and it was verified under
the vendor root (KEYSLOT 15), PROVISION programs the lowest unprovisioned slot with the 64 bytes at BT_XADDR and marks
it provisioned, and REVOKE revokes every provisioned slot numbered below KEYSLOT; nothing else in the store changes. In
any other case they end with RESULT 1 and change nothing. -/
def Obligations.KeySlots : Prop :=
  ∀ (b : Boot) (keyslot : Nat) (permitted : Prop) (s : State), b = s.chip.boot → keyslot = bitsOf (btStat s.chip) 7 4 →
    permitted = (b.running ≠ none ∧ (keyslot ≠ 15 ∨ ∀ k, k < 4 → slotProvisioned b k = false)) → btBusy s.chip = false →
    (¬ permitted → BootEnds 1 .provision s ∧ BootEnds 1 .revoke s)
    ∧ (permitted → Completes .revoke s (fun t => BootDone [] t.chip.boot s t
        ∧ (∃ v, OtpSet (fun a => if a = 0x168 then some v else none) b t.chip.boot)
        ∧ ∀ j, j < 4 → slotProvisioned t.chip.boot j = slotProvisioned b j
          ∧ slotRevoked t.chip.boot j = (slotRevoked b j || (decide (j < keyslot) && slotProvisioned b j))))
    ∧ ∀ q o k : Nat, (q, o) = xaddr s → MemoryUp q s → permitted → k < 4 → slotProvisioned b k = false →
      (∀ j, j < k → slotProvisioned b j = true) → o + 64 ≤ 0x100000 →
      Completes .provision s (fun t => BootDone [] t.chip.boot s t
        ∧ OtpSet (fun a => if 0x40 + 0x40 * k ≤ a ∧ a < 0x80 + 0x40 * k then
              some ((rawRead (.rmem o) 64 (s.region q)).getD (a - (0x40 + 0x40 * k)) 0)
            else if a = 0x168 then some (mapGet zeroByte b.otp a ||| BitVec.ofNat 8 (2 ^ (2 * k))) else none) b t.chip.boot)

namespace Sys2Proof.Machine

/-- D, by which QCLK divides once the header of an image in flash is read (R413, R416): 1,000 over its QSPICLK, rounded
up, within 8 to 40; 40 where QSPICLK is 0 or the header is bad. -/
def flashDivider (f : ImageFrom) (b : Boot) : Nat :=
  if headCheck b f = 1 ∨ imgWord b f 12 / 2 ^ 8 % 256 = 0 then 40
  else max 8 (min 40 ((999 + imgWord b f 12 / 2 ^ 8 % 256) / (imgWord b f 12 / 2 ^ 8 % 256)))

/-- An attempt on image `f` from state `s` (R413, R416, R420, R421, R446): its header, manifest and signatures are
checked, then its body in regions released afresh; a code rejects it, otherwise it runs and the status shows it, with a
march test of every region where its header asks for one. -/
def Attempted (f : ImageFrom) (trial fallback : Bool) (s0 t : State) : Prop :=
  let b := { s0.chip.boot with qdiv := if f = .received then s0.chip.boot.qdiv else flashDivider f s0.chip.boot }
  let s := { s0 with chip := { s0.chip with boot := b } }
  let p := bodyCheck f (regionsFresh s)
  let code := if headCheck b f = 0 then p.1 else headCheck b f
  let q := if headCheck b f = 0 then p.2 else s
  (code ≠ 0 → ChipBut Chip.noBoot [Reg.BT_STAT.base] q t ∧ btStat t.chip = setBits (btStat q.chip) 31 28 code
    ∧ t.chip.boot = match f with
      | .slot _ => { q.chip.boot with stage := q.chip.boot.stage + 1 }
      | .received => { q.chip.boot with image := [], begun := 0 })
  ∧ (code = 0 → imgWord q.chip.boot f 12 / 2 ^ 16 % 2 = 0 →
    ChipBut (fun h => { h.noBoot with rel := 0 }) [Reg.BT_STAT.base] q t ∧ t.chip.rel = 9
    ∧ t.chip.boot = { q.chip.boot with running := t.chip.boot.running }
    ∧ t.chip.boot.running = some ⟨f == .slot true, beBytes 48 (Config.sha384 (imgMessage q.chip.boot f))⟩
    ∧ btStat t.chip = setBits (setBits (setBits (btStat q.chip) 25 24 (2 * trial.toNat + fallback.toNat)) 15 8
        (imgSecver q.chip.boot f)) 7 3
        (2 * (if imgKeyslot q.chip.boot f = 0xFF then 15 else imgKeyslot q.chip.boot f) + (f == .slot true).toNat))
  ∧ (code = 0 → imgWord q.chip.boot f 12 / 2 ^ 16 % 2 = 1 →
    t.chip.rel = 9 ∧ t.chip.boot = { q.chip.boot with running := t.chip.boot.running } ∧ t.chip.boot.running ≠ none
    ∧ t = { q with chip := t.chip, regions := t.regions }
    ∧ ∀ r : RegionId, t.region r =
        marchGo ((q.region r).setBit Reg.MB_MT_CFG.base 0 (imgWord q.chip.boot f 12 / 2 ^ 17 % 2 == 1)))

end Sys2Proof.Machine

/-- R413, R414, R420, R421: blocks from the host or the UART are appended where the boot unit takes them there, a UART
block only with a right CRC, and answered; a gap of more than 1 s is a source error that forgets them. An attempt waits
for the release of every region and for a whole image; the slots are tried in the order trial, active, other. Choices of
the model: details of an attempt (log 43), uninterpreted cryptography (log 45). -/
def Obligations.BootDelivery : Prop :=
  ∀ (b : Boot) (s : State), b = s.chip.boot →
    (∀ (v : Word) (n : Nat) (b' : Boot), n = bitsOf v 12 0 →
      b' = (if hostBoot s.chip = true ∧ 1 ≤ n ∧ n ≤ 4096 then
          { b with image := b.image ++ mapRead zeroByte b.hwin 0 n, begun := 1, dataAt := s.time.pclk } else b) →
      Completes (.hostBootBlock v) s (fun t => t = { s with chip := { s.chip with boot := b' } }))
    ∧ (∀ (data crc : List Byte), crc.length = 4 → 1 ≤ data.length → data.length ≤ 1024 →
      (uartBoot s.chip = false → Completes (.uartBootBlock (data ++ crc)) s (fun t => t = s))
      ∧ (uartBoot s.chip = true → words4 [crc32c data] = crc → Completes (.uartBootBlock (data ++ crc)) s (fun t =>
          t = { s with chip := { s.chip with boot := { b with image := b.image ++ data, begun := 2, dataAt := s.time.pclk } }, out := s.out ++ [.uart 0x06] }))
      ∧ (uartBoot s.chip = true → words4 [crc32c data] ≠ crc → Completes (.uartBootBlock (data ++ crc)) s (fun t =>
          t = { s with out := s.out ++ [.uart 0x15] })))
    ∧ (∀ data : List Byte, data.length < 5 ∨ 1028 < data.length → Completes (.uartBootBlock data) s (fun t => t = s))
    ∧ (s.chip.rel = 6 → (b.pins ≠ 0 ∨ b.stage = 3) → b.image ≠ [] → b.dataAt + 800000000 < s.time.pclk →
      Completes .bootSourceTimeout s (fun t =>
        ChipBut Chip.noBoot [Reg.BT_STAT.base] s t ∧ btStat t.chip = setBits (btStat s.chip) 31 28 9
        ∧ t.chip.boot = { b with image := [], begun := 0 }))
    ∧ (b.image = [] ∨ s.time.pclk ≤ b.dataAt + 800000000 → Completes .bootSourceTimeout s (fun t => t = s))
    ∧ (s.chip.rel ≠ 6 ∨ regionsReady s = false → Completes .bootAttempt s (fun t => t = s))
    ∧ (s.chip.rel = 6 → regionsReady s = true →
      (b.pins = 0 → b.stage = 0 → ∀ t1, b.trialB = some t1 → Completes .bootAttempt s
        (Attempted (.slot t1) true false { s with chip := { s.chip with boot := { b with trialB := none } } }))
      ∧ (b.pins = 0 → b.stage = 0 → b.trialB = none → Completes .bootAttempt s
        (Attempted (.slot b.activeB) false false { s with chip := { s.chip with boot := { b with stage := 1 } } }))
      ∧ (b.pins = 0 → b.stage = 1 → Completes .bootAttempt s (Attempted (.slot b.activeB) false false s))
      ∧ (b.pins = 0 → b.stage = 2 → Completes .bootAttempt s (Attempted (.slot (!b.activeB)) false true s))
      ∧ (b.pins ≠ 0 ∨ b.stage = 3 → imageWhole b = true → Completes .bootAttempt s (Attempted .received false false s))
      ∧ (b.pins ≠ 0 ∨ b.stage = 3 → imageWhole b = false → Completes .bootAttempt s (fun t => t = s)))

/-! ## Journal -/

namespace Sys2Proof.Machine

/-- The chip without its journal and MRAM. -/
def Chip.noJournal (h : Chip) : Chip := { h with jn := journalInit, mram := [] }

/-- JN_STAT with a completion code, gleaning where the segments in use ask for it (R434, R436). -/
def jnStatAfter (code : Nat) (h : Chip) : Word :=
  let v := setBits (h.reg Reg.JN_STAT.base) 2 0 code
  if 36 < h.jn.segs.length ∧ v.getLsbD 30 = false then setBit v 29 true else v

/-- A journal command is refused with a code, which is counted. -/
def JournalRefuses (code : Nat) (i : Instr) (s : State) : Prop :=
  Completes i s (fun t => ChipRegs [Reg.JN_STAT.base, Reg.JN_REFUSED.base] s t
    ∧ t.chipReg Reg.JN_STAT.base = setBits (s.chipReg Reg.JN_STAT.base) 2 0 code
    ∧ t.chipReg Reg.JN_REFUSED.base = satAdd 0xFFFF (s.chipReg Reg.JN_REFUSED.base) 1)

/-- MRAM holds `bs` at `o`, and is as before outside them and outside an area from `x` to `y`. -/
def MramStored (o : Nat) (bs : List Byte) (x y : Nat) (h h' : Chip) : Prop :=
  h'.mramGet o bs.length = bs
    ∧ ∀ a, (a < o ∨ o + bs.length ≤ a) → (a < x ∨ y ≤ a) → mapGet zeroByte h'.mram a = mapGet zeroByte h.mram a

end Sys2Proof.Machine

/-- R434 to R438: COMMIT captures its command, or is refused during PFW (code 1), for its type or length (2), or with
three waiting (5). At its end the record stands at the head of the journal with its commit word, the directory names it,
and LASTSEQ is its sequence number; a payload that cannot be read gives code 3. FLOG appends the fault record with its
sequence number and inversion. A gleaned segment is free. Replay takes the newest anchor and retires again what the
fault log names. PFW refuses commands, stops gleaning and commits the lifetime counters. Choices of the model: formats
of records (log 38), that one command gleans one segment (log 39), the place of a fault record (log 40), the free
history record (log 41), bytes of unknown layout (log 42). -/
def Obligations.JournalEngine : Prop :=
  ∀ (h : Chip) (j : Journal) (s : State), h = s.chip → j = h.jn →
    (∀ hdr : Word, hdr = h.reg Reg.JN_HDR.base →
      (jnBit 30 h = true → JournalRefuses 1 .journalCommit s)
      ∧ (jnBit 30 h = false → bitsOf hdr 7 0 ∉ [1, 2, 4] ∨ 4080 < bitsOf hdr 23 8 → JournalRefuses 2 .journalCommit s)
      ∧ (jnBit 30 h = false → bitsOf hdr 7 0 ∈ [1, 2, 4] → bitsOf hdr 23 8 ≤ 4080 → 3 ≤ j.queue.length →
        JournalRefuses 5 .journalCommit s)
      ∧ (jnBit 30 h = false → bitsOf hdr 7 0 ∈ [1, 2, 4] → bitsOf hdr 23 8 ≤ 4080 → j.queue.length < 3 →
        Completes .journalCommit s (fun t => t = { s with chip := { h with jn :=
          { j with queue := j.queue ++ [⟨h.reg Reg.JN_SRC.base, hdr⟩] } } })))
    ∧ (j.queue = [] → Completes .recordCommitted s (fun t => t = s))
    ∧ (∀ (c : JnCmd) (l : List JnCmd) (q o n : Nat), j.queue = c :: l → (q, o) = jnSrc c.src → n = bitsOf c.hdr 23 8 →
      (n ≠ 0 → 0x100000 < o + n → Completes .recordCommitted s (fun t => ChipBut Chip.noJournal [Reg.JN_STAT.base] s t
        ∧ t.chip.mram = h.mram ∧ t.chip.jn = { j with queue := l }
        ∧ t.chipReg Reg.JN_STAT.base = setBits (h.reg Reg.JN_STAT.base) 2 0 3))
      ∧ (∀ (p : List Byte) (m off : Nat) (e : DirEntry), MemoryUp q s → o + n ≤ 0x100000 →
          p = rawRead (.rmem o) n (s.region q) →
        j.head = some m → off = segBase m + j.pos → j.pos + jnSize p ≤ 0x20000 →
        e = ⟨bitsOf c.hdr 7 0, leNat (p.take 4), j.seq + 1, off⟩ → (dirPut e h.dir).length ≤ 2048 →
        Completes .recordCommitted s (fun t =>
          ChipBut Chip.noJournal [Reg.JN_STAT.base, Reg.JN_LASTSEQ.base] s t
          ∧ t.chip.jn = { j with queue := l, seq := j.seq + 1, pos := j.pos + jnSize p }
          ∧ t.chipReg Reg.JN_LASTSEQ.base = BitVec.ofNat 32 (j.seq + 1)
          ∧ t.chipReg Reg.JN_STAT.base = jnStatAfter 0 h
          ∧ MramStored off (jnSeal (bitsOf c.hdr 7 0) p (j.seq + 1)) dirBase (dirBase + 0x8000) h t.chip
          ∧ t.chip.mramGet dirBase (16 * (dirPut e h.dir).length) = words4 ((dirPut e h.dir).flatMap (fun d =>
              [BitVec.ofNat 32 d.type, BitVec.ofNat 32 d.key, BitVec.ofNat 32 d.seq, BitVec.ofNat 32 d.off])))))
    ∧ (jnBit 30 h = true → JournalRefuses 1 .flog s ∧ JournalRefuses 1 .glean s)
    ∧ (∀ q o : Nat, (q, o) = jnSrc (h.reg Reg.JN_SRC.base) → jnBit 30 h = false →
      (0x100000 < o + 64 → Completes .flog s (fun t => ChipRegs [Reg.JN_STAT.base] s t
        ∧ t.chipReg Reg.JN_STAT.base = setBits (h.reg Reg.JN_STAT.base) 2 0 3))
      ∧ (MemoryUp q s → o + 64 ≤ 0x100000 → Completes .flog s (fun t => ChipBut Chip.noJournal [Reg.JN_STAT.base] s t
        ∧ t.chip.jn = { j with flogSeq := j.flogSeq + 1 }
        ∧ t.chipReg Reg.JN_STAT.base = setBits (h.reg Reg.JN_STAT.base) 2 0 0
        ∧ MramStored (flogAt j.flogSeq) ((rawRead (.rmem o) 64 (s.region q)).take 56
            ++ words4 [BitVec.ofNat 32 (j.flogSeq + 1), ~~~ BitVec.ofNat 32 (j.flogSeq + 1)]) 0 0 h t.chip)))
    ∧ (jnBit 30 h = false →
      (j.segs.length ≤ 1 → Completes .glean s (fun t => ChipRegs [Reg.JN_STAT.base] s t
        ∧ t.chipReg Reg.JN_STAT.base = setBit (h.reg Reg.JN_STAT.base) 29 false))
      ∧ (∀ (n m : Nat) (l : List Nat), j.segs = n :: m :: l →
        h.dir.filter (fun e => decide (segBase n ≤ e.off ∧ e.off < segBase n + 0x20000)) = [] →
        Completes .glean s (fun t => ChipBut Chip.noJournal [Reg.JN_STAT.base, Reg.JN_GLEANS.base] s t
          ∧ t.chip.mram = h.mram ∧ t.chip.jn = { j with segs := m :: l, gen := j.gen + 1, anchors := t.chip.jn.anchors }
          ∧ (∀ k, mapGet noneAt t.chip.jn.anchors k =
              if k = (j.gen + 1) % 2 * 16 + (j.gen + 1) / 2 % 16 then some (j.gen + 1,
                  m :: l) else mapGet noneAt j.anchors k)
          ∧ t.chipReg Reg.JN_GLEANS.base = h.reg Reg.JN_GLEANS.base + 1
          ∧ t.chipReg Reg.JN_STAT.base = setBit (h.reg Reg.JN_STAT.base) 29 (decide (36 < (m :: l).length)))))
    ∧ (h.rel ≠ 5 ∨ h.replayed = true → Completes .journalReplay s (fun t => t = s))
    ∧ (h.rel = 5 → h.replayed = false →
      (∀ (g : Nat) (l : List Nat), jnBest j = some (g, l) → Completes .journalReplay s (fun t =>
        t = { s with chip := t.chip, regions := t.regions } ∧ t.chip.replayed = true ∧ t.chip.rel = 5
        ∧ t.chip.jn.segs = l ∧ t.chip.jn.gen = g ∧ t.chip.jn.head = l.getLast?))
      ∧ (jnBest j = none → Completes .journalReplay s (fun t =>
        t = { s with chip := t.chip, regions := t.regions } ∧ t.chip.replayed = true ∧ t.chip.rel = 5
        ∧ t.chip.jn.segs = [] ∧ t.chip.jn.head = none ∧ t.chip.jn.seq = 0 ∧ t.chip.boot.mirror = 0
        ∧ t.chipReg Reg.JN_LASTSEQ.base = 0 ∧ t.chipReg Reg.BT_LMSNEXT.base = 0
        ∧ ∀ n loc, (n, 1, loc) ∈ flogEntries h → 0 < n → isRetired (loc % 128) (t.region (loc % 1024 / 128)) = true)))
    ∧ (jnBit 30 h = true → Completes .pfwRecognised s (fun t => t = s))
    ∧ (jnBit 30 h = false → Completes .pfwRecognised s (fun t => OnlyChip { s with free := s.free + 11 } t
        ∧ jnBit 30 t.chip = true ∧ jnBit 29 t.chip = false ∧ t.chip.lifeSaved = h.life ∧ t.chip.life = h.life
        ∧ t.chip.boot = h.boot ∧ t.chip.jn.queue = j.queue))
    ∧ Completes .pfwDeassert s (fun t => ChipRegs [Reg.JN_STAT.base] s t ∧ jnBit 30 t.chip = false
        ∧ jnBit 29 t.chip = (decide (36 < j.segs.length) || jnBit 29 h))

/-! ## Debug port -/

/-- R429: IDCODE and the challenge can be read always; a certificate uses up the challenge; with the permission it needs
each other access acts, on a cell not in reset, and without it is answered as unsupported and changes nothing. R107: a
cell that holds in WAIT and is let run takes an event that is pending on its port by then. Choices of the model: results
that the rules do not give (log 44), uninterpreted cryptography (log 45), what cell access reaches (log 49). -/
def Obligations.DebugPort : Prop :=
  ∀ (c : CellId) (k : Cell) (s : State), k = s.cell c →
    Completes (.jtagDebugAccess .idcode) s (fun t => t = { s with host := some (.data (words4 [Config.idcode])) })
    ∧ Completes (.jtagDebugAccess .dbgchal) s (fun t => t = { s with
        host := some (.data (words4 ((List.range 12).map (fun w => s.chipReg (regAt Reg.BT_DBGCHAL w 0))))) })
    ∧ (∀ cert : List Byte, Completes (.jtagDebugAccess (.dbgcert cert)) s (fun t =>
        ChipBut Chip.noBoot [Reg.BT_DBGPERM.base] { s with host := t.host } t ∧ Unlocked cert s t
        ∧ t.host = some (if otpBit s.chip.boot 0x169 0 = false ∧ certHolds cert s = true then .posted else .discarded)))
    ∧ (∀ op : JtagOp,
      (debugPermits 2 s = false ∧ (op = .halt c ∨ op = .resume c ∨ op = .single c))
        ∨ (debugPermits 0 s = false ∧ ((∃ q, op = .readCell c q) ∨ ∃ q v, op = .writeCell c q v))
        ∨ (debugPermits 1 s = false ∧ ((∃ r a, op = .readReg r a) ∨ ∃ r a v, op = .writeReg r a v)) →
      Completes (.jtagDebugAccess op) s (fun t => t = { s with host := some .unsupported }))
    ∧ (k.inReset = false → debugPermits 2 s = true →
      Completes (.jtagDebugAccess (.halt c)) s (fun t => OnlyCell c { s with host := some .posted } t
        ∧ t.cell c = if k.halted then k else { k with halted := true, byDebug := true })
      ∧ ∀ single : Bool,
        ((∀ w, k.hold = .wait w → mapGet noneAt k.ports w.val = none) →
          Completes (.jtagDebugAccess (if single then .single c else .resume c)) s (fun t =>
            OnlyCell c { s with host := some .posted } t
            ∧ t.cell c = if debugHeld c s then { k with halted := false, byDebug := single, stepping := single } else k))
        ∧ (∀ (w : Fin 4) (stamp : Ticks), debugHeld c s = true → k.hold = .wait w →
            mapGet noneAt k.ports w.val = some stamp →
          k.micro = none →
          Completes (.jtagDebugAccess (if single then .single c else .resume c)) s (fun t =>
            OnlyCell c { s with host := some .posted } t ∧ (t.cell c).hold = .none ∧ (t.cell c).halted = single
            ∧ Follows k (t.cell c) ∧ SameRegs k (t.cell c) ∧ (t.cell c).acc = k.acc
            ∧ IoBut [regAt Reg.EPGT_L w 0, regAt Reg.EPGT_H w 0] k (t.cell c)
            ∧ (∀ q, mapGet noneAt (t.cell c).ports q = if q = w.val then none else mapGet noneAt k.ports q)
            ∧ ((t.cell c).ioReg (regAt Reg.EPGT_H w 0) ++ (t.cell c).ioReg (regAt Reg.EPGT_L w 0) : BitVec 64) = stamp)))
    ∧ (k.inReset = false → debugPermits 0 s = true → ∀ (q : RegNo) (v : Word),
      Completes (.jtagDebugAccess (.readCell c q)) s (fun t => t = { s with host := some (.data (words4 [k.g q])) })
      ∧ Completes (.jtagDebugAccess (.writeCell c q v)) s (fun t => OnlyCell c { s with host := some .posted } t
          ∧ ({ t.cell c with gpr := [] } : Cell) = { k with gpr := [] } ∧ Writes q v k (t.cell c)))
    ∧ (debugPermits 1 s = true → ∀ (r : RegionId) (a : Nat) (v w : Word) (R' : Region), Live r s →
      accessFails a (s.region r) = false → regionRead (s.ctx r) a (s.region r) = (some v, R') →
      Completes (.jtagDebugAccess (.readReg (some r) a)) s (fun t =>
          t = { s.setRegion r R' with host := some (.data (words4 [v])) })
      ∧ Completes (.jtagDebugAccess (.writeReg (some r) a w)) s (fun t =>
          t = { (s.writeReg false (some r.val) a w).2 with host := some .posted }))

/-! ## Resets -/

namespace Sys2Proof.Machine

/-- What a region shows of its inputs after a reset that leaves `R'` (the model's choice, log 50: R269, R308 and R385
give the filters no value at reset): each filtered level is the synchronised one, held from then on. -/
structure InputsStay (R R' : Region) : Prop where
  trips : ∀ i, i < 4 → R'.trpLine i = ⟨(R.trpLine i).sync, 0⟩ ∧ R'.trpLevel i = (R.trpLine i).sync
  lines : ∀ u i, u < 8 → i < 3 → R'.fbLine u i = ⟨(R.fbLine u i).sync, 0⟩
  units : ∀ u, u < 8 → ({ R'.fbUnit u with line := [] } : Feedback) = fbInit
    ∧ R'.reg (fbAt Reg.FB_UN_STAT u) = setBits (regionDefault (fbAt Reg.FB_UN_STAT u)) 18 16
        ((R.fbLine u 0).sync.toNat + 2 * (R.fbLine u 1).sync.toNat + 4 * (R.fbLine u 2).sync.toNat)
  pins : ∀ p, p < 32 → R'.fpin p = { fieldPinInit with line := ⟨(R.fpin p).line.sync, 0⟩ }
    ∧ R'.bit Reg.FP_IN.base p = (R.fpin p).line.sync

/-- A region without its inputs and beside registers and cells. -/
def Region.noInputs (Q : Region) : Region :=
  { Q with regs := [], cells := [], autorun := [], tm := { Q.tm with trp := [], trpLine := [] }, fb := [], fp := [] }

/-- A register that shows levels of inputs. -/
def showsInputs (a : Nat) : Prop := (regIdx Reg.FP_IN a).isSome = true ∨ (regIdx Reg.FB_UN_STAT a).isSome = true

/-- A load in progress in the block of cell `c` has selected its dispatch set `d` (R137). -/
def loadSelects (c d : Nat) (R : Region) : Bool :=
  match mapGet noneAt R.load (c % 128 / 16) with
  | none => false
  | some l => l.cell == c % 16 && (if d = 0 then l.sections.testBit 3 else l.sections.testBit 1 || l.sections.testBit 2)

/-- The chip level after a chip-reach reset with causes `c` (R137, R444, R449): MRAM, the one-time store, the lifetime
counters, the backup domain and the pins are kept, all else has its reset value, the dispatch sets that a load in
progress selected are invalid, and the release sequence starts anew. -/
structure ChipReset (c : Nat) (s t : State) : Prop where
  rest : t = { s with time := timeInit, chip := t.chip, regions := t.regions, free := t.free }
  chip : ({ t.chip with regs := [] } : Chip) = { chipInit with
    mram := s.chip.mram
    jn := { journalInit with anchors := s.chip.jn.anchors, wear := s.chip.jn.wear, cal := s.chip.jn.cal }
    boot := { bootInit with
      pins := s.chip.boot.pins, flash := s.chip.boot.flash, otp := s.chip.boot.otp, activeB := s.chip.boot.activeB,
      trialB := s.chip.boot.trialB }
    life := s.chip.life, lifeSaved := s.chip.lifeSaved, kclk := s.chip.kclk, regs := [] }
  cause : t.chipReg Reg.RS_CAUSE.base =
    BitVec.ofNat 32 ((if s.chip.rel = 0 then (s.chipReg Reg.RS_CAUSE.base).toNat else 0) ||| c)
  regs : ∀ a, a ≠ Reg.RS_CAUSE.base → t.chipReg a = if keptChipReg a then s.chipReg a else chipDefault a
  region : ∀ r : RegionId, (t.region r).noInputs =
    { regionInit.noInputs with railBad := (s.region r).railBad } ∧ (t.region r).autorun = []
  inputs : ∀ r : RegionId, InputsStay (s.region r) (t.region r)
  regionRegs : ∀ (r : RegionId) (a : Nat), ¬ showsInputs a → (t.region r).reg a =
    if (regIdx Reg.FP_BANK a).isSome then (s.region r).reg a else regionDefault a
  cells : ∀ c : CellId, ({ t.cell c with disp := [] } : Cell) =
    { cellInit with cstore := (s.cell c).cstore, coef := (s.cell c).coef, inReset := true }
  dispatch : ∀ (c : CellId) (d i : Nat), d < 4 → i < 256 →
    (∀ b l, mapGet noneAt (s.region (c / 128)).load b = some l → l.cell < 16) → ∀ e, e = (s.cell c).dispatch d i →
    (t.cell c).dispatch d i =
      if loadSelects c d (s.region (c / 128)) && e.getLsbD 10 then dispEntry false (e.toNat % 1024) else e

/-- The watchdog of the chip, or of a region, counts at the coming PCLK edge, and no command has taken that edge: it is
enabled; the chip's counts at the edges of KCLK, a region's at every one while the region is out of reset and in L0, L1
or L2 (R451; that a command takes an edge before the edge comes is the model's choice, log 1). -/
def wdDue (w : Option Nat) (s : State) : Prop :=
  (s.chipReg (watchdog w).cfg).getLsbD 31 = true ∧ s.chip.wdTaken.contains (w.getD 8) = false
    ∧ (w = none → kclkEdge s.time.pclk = true)
    ∧ ∀ r, w = some r → (s.region r).inReset = false ∧ pmState (s.region r) < 3

/-- Region registers that a region-reach reset leaves as they are (R444). -/
def keptDefs : List RegDef :=
  [Reg.BK_CGOLD, Reg.BK_FALLOW, Reg.BK_PROT, Reg.BK_RETIRED, Reg.BK_CKPT, Reg.BK_OWN, Reg.BK_RSTCAUSE, Reg.BK_LDSECT0,
    Reg.BK_LDSECT1, Reg.TL_PFCNT, Reg.FP_BANK]

/-- Nothing in a region is cut short by a reset: no march test or load runs, no block is in reset and no cell-reach
error waits. -/
def Calm (R : Region) : Prop :=
  R.banks.march = none ∧ R.blockReset = [] ∧ (∀ b, mapGet noneAt R.load b = none) ∧ ∀ b, b < 8 → reachErrors b R = []

/-- A cell in a reset of greater reach: what R444 keeps of it, halted. -/
def Cell.down (k : Cell) : Cell := { k.afterReset with inReset := true }

/-- A region after a region-reach reset (R443, R444, R448): memories and the registers that are kept hold what they
held, all else has its reset value, its cells are in reset, and those that ran are noted. -/
structure RegionReset (r : RegionId) (s t : State) : Prop where
  others : ∀ q, q ≠ r.val → t.region q = s.region q
  region : (t.region r).noInputs = { regionInit.noInputs with
    banks := { (s.region r).banks with
      sbeGt := none, dbeFresh := true, trans := [], march := none, harrow := 0, harrowGt := none }
    adc := { adcInit with corr := (s.region r).adc.corr, perm := (s.region r).adc.perm }
    railBad := (s.region r).railBad }
  inputs : InputsStay (s.region r) (t.region r)
  kept : ∀ d ∈ keptDefs, ∀ i j, i < d.n1 → j < d.n2 → (t.region r).reg (regAt d i j) = (s.region r).reg (regAt d i j)
  regs : ∀ a, (∀ v, keptReg (s.region r) a v = none) → ¬ showsInputs a → (t.region r).reg a = regionDefault a
  cells : ∀ i, i < 128 → (t.region r).cell i = ((s.region r).cell i).down
  autorun : ∀ i, i < 128 → (t.region r).autorun.contains i =
    (((s.region r).cell i).running || (s.region r).autorun.contains i)

/-- A region-reach source with its bit of RS_RGr_CAUSE, and the chip registers that its command sets besides. -/
def RegionResetBy (r : RegionId) (n : Nat) (l : List Nat) (s t : State) : Prop :=
  ChipRegs (regAt Reg.RS_RG_CAUSE r 0 :: l) { s with regions := t.regions, free := s.free + abortFree } t
    ∧ t.chipReg (regAt Reg.RS_RG_CAUSE r 0) = BitVec.ofNat 32 (2 ^ n) ∧ RegionReset r s t

/-- A block after a block-reach reset with its cause. -/
structure BlockWasReset (r : RegionId) (b : BlockId) (cause : Nat) (s t : State) : Prop where
  only : OnlyRegion r s t
  rest : ({ t.region r with regs := [], cells := [], autorun := [], tk := [], blockReset := [] } : Region) =
    { s.region r with regs := [], cells := [], autorun := [], tk := [], blockReset := [] }
  blocks : ∀ q, (t.region r).blockReset.contains q = (decide (q = b.val) || (s.region r).blockReset.contains q)
  takeover : ∀ q, (t.region r).takeover q = if q = b.val then takeoverInit else (s.region r).takeover q
  cause : (t.region r).reg (blk Reg.BK_RSTCAUSE b) = BitVec.ofNat 32 cause
  kept : ∀ d ∈ keptDefs, ∀ j, d ≠ Reg.BK_RSTCAUSE → d ≠ Reg.TL_PFCNT → j < d.n2 →
    (t.region r).reg (regAt d b j) = (s.region r).reg (regAt d b j)
  regs : ∀ a, inBlockFile b a = true → (∀ v, keptReg (s.region r) a v = none) → (t.region r).reg a = regionDefault a
  outside : ∀ a, inBlockFile b a = false → (t.region r).reg a = (s.region r).reg a
  cells : ∀ i, (t.region r).cell i = if i / 16 = b.val then ((s.region r).cell i).down else (s.region r).cell i
  autorun : ∀ i, (t.region r).autorun.contains i =
    ((decide (i / 16 = b.val) && ((s.region r).cell i).running) || (s.region r).autorun.contains i)

end Sys2Proof.Machine

/-- R442 to R444, R449, R451: a region-reach source resets its region and is recorded as its cause; one that meets a
region
in reset is added to the causes. HOLD written 0 resets nothing. A region's watchdog expires at the coming PCLK edge
where
it counts at that edge and reaches its timeout, 0 acting as 1; in any other case an expiry does nothing (that the coming
edge decides is the model's choice, log 1).

R6, R442 to R444, R447, R448: an arbiter parity error or BK_SWRST.BLOCK resets the block, its memory and the state
of R444 apart, and adds its cause to those of a block in reset (R449); BK_SWRST.CELLS resets cells, which are released
halted; BK_START starts, with cell registers reset, the cells that have all four sections and are not retired, and has
no
effect on others.
Choices of the model: details of resets (log 51). -/
def Obligations.RegionAndBlockResets : Prop :=
  (∀ (r : RegionId) (R : Region) (s : State), R = s.region r →
      (R.inReset = false → Calm R → mapWf regionDefault R.regs = true →
        Completes (.regionReset r) s (RegionResetBy r 3 [] s)
        ∧ Completes (.rclkLockLoss r) s (fun t => RegionResetBy r 2 [Reg.CK_STAT.base] s t
            ∧ t.chipReg Reg.CK_STAT.base = setBit (s.chipReg Reg.CK_STAT.base) (8 + r) false)
        ∧ (∀ a, a = regAt Reg.RS_RG_CTL r 0 → Completes (.regionHold r true) s (fun t => RegionResetBy r 3 [a] s t
            ∧ (t.chipReg a).getLsbD 1 = true ∧ (t.chipReg a).getLsbD 2 = (s.chipReg a).getLsbD 2))
        ∧ (∀ cnt limit : Nat, cnt = (s.chipReg (regAt Reg.RS_RG_WDCNT r 0)).toNat →
          limit = (s.chipReg (regAt Reg.RS_RG_WDTO r 0)).toNat →
          (wdDue (some r.val) s ∧ max 1 limit ≤ cnt + 1 → Completes (.regionWatchdogExpiry r) s (fun t =>
            RegionResetBy r 0 [regAt Reg.RS_RG_WDCNT r 0] { s with chip := { s.chip with wdTaken := t.chip.wdTaken } } t
            ∧ t.chipReg (regAt Reg.RS_RG_WDCNT r 0) = 0
            ∧ ∀ k, t.chip.wdTaken.contains k = (decide (k = r.val) || s.chip.wdTaken.contains k)))
          ∧ (¬ (wdDue (some r.val) s ∧ max 1 limit ≤ cnt + 1) → Completes (.regionWatchdogExpiry r) s (fun t => t = s))))
      ∧ (R.inReset = true → Completes (.regionReset r) s (fun t =>
          ChipRegs [regAt Reg.RS_RG_CAUSE r 0] { s with regions := t.regions, free := s.free + abortFree } t
          ∧ t.chipReg (regAt Reg.RS_RG_CAUSE r 0) = BitVec.ofNat 32 ((s.chipReg (regAt Reg.RS_RG_CAUSE r 0)).toNat ||| 8)
          ∧ ∀ q, t.region q = s.region q))
      ∧ (R.inReset = true → Completes (.regionWatchdogExpiry r) s (fun t => t = s))
      ∧ ∀ a, a = regAt Reg.RS_RG_CTL r 0 → (s.chipReg a).getLsbD 0 = false → Completes (.regionHold r false) s (fun t =>
          ChipRegs [a] s t ∧ (t.chipReg a).getLsbD 1 = false ∧ (t.chipReg a).getLsbD 2 = (s.chipReg a).getLsbD 2))
  ∧ ((∀ (r : RegionId) (b : BlockId) (R : Region) (s : State), R = s.region r →
      R.inReset = true ∨ R.blockReset.contains b.val = true → Completes (.arbiterParity r b) s (fun t =>
        RegionRegs [blk Reg.BK_RSTCAUSE b] r s t
        ∧ (t.region r).reg (blk Reg.BK_RSTCAUSE b) = BitVec.ofNat 32 ((R.reg (blk Reg.BK_RSTCAUSE b)).toNat ||| 1)))
    ∧ ∀ (r : RegionId) (b : BlockId) (R : Region) (s : State), Live r s → R = s.region r →
        R.blockReset.contains b.val = false →
      (reachErrors b R = [] → mapGet noneAt R.load b = none → mapWf regionDefault R.regs = true →
        Completes (.arbiterParity r b) s (BlockWasReset r b 1 s)
        ∧ ∀ v : Word, v.getLsbD 16 = true → Completes (.blockReset r b v) s (BlockWasReset r b 2 s))
      ∧ (∀ v : Word, v.getLsbD 16 = false → Completes (.cellReset r b v) s (fun t =>
          RegionBut (fun Q => { Q with cells := [] }) [] r s t
          ∧ ∀ i, (t.region r).cell i = if i / 16 = b.val ∧ v.getLsbD (i % 16) = true then (R.cell i).afterReset else R.cell i))
      ∧ ∀ v : Word, Completes (.bkStart r b v) s (fun t =>
          RegionBut (fun Q => { Q with cells := [] }) [] r s t
          ∧ ∀ i, (t.region r).cell i =
            if i / 16 = b.val ∧ v.getLsbD (i % 16) = true ∧ sections b (i % 16) R = 15 ∧ isRetired i R = false then
              { (R.cell i).afterReset with halted := false }
            else R.cell i))

/-! ## Watchdogs, clocks, release and the backup domain -/

/-- R442 to R444, R449, R451: each chip-reach source resets the chip with its cause; RSTCHIP without its permission, a
write of RS_SWRST without its key do nothing. The chip watchdog expires at the coming PCLK edge where it counts at that
edge and reaches its timeout, 0 acting as 1; in any other case an expiry does nothing (that the coming edge decides is
the model's choice, log 1).

R451: where the count that a watchdog reaches at the coming PCLK edge is 7/8 of its timeout, it warns there, and
posts
its source where asked; in any other case a warning does nothing. A kick with the key puts the count to 0 and comes
before a count at its edge; another value does nothing (that the coming edge decides, and that a command takes it, is
the
model's choice, log 1).
Choices of the model: details of resets (log 51), the edge at which a command acts (log 57), single readings (log 59). -/
def Obligations.ChipResetsAndWatchdogs : Prop :=
  (∀ s : State,
      (∀ e ∈ [(Instr.powerOnReset, 0x01), (.brownOut, 0x02), (.nreset, 0x04), (.chipClockLoss, 0x80)],
        Completes e.1 s (fun t => ChipReset e.2 s t ∧ t.free = s.free))
      ∧ Completes .criticalStateError s (fun t => t.free = s.free + 1 ∧ ∃ d, d < 4 ∧ ChipReset (0x10 + 0x100 * 2 ^ d) s t)
      ∧ (debugPermits 1 s = true → Completes .rstchip s (fun t => ChipReset 0x20 s t ∧ t.free = s.free))
      ∧ (debugPermits 1 s = false → Completes .rstchip s (fun t => t = s))
      ∧ (∀ v : Word, (bitsOf v 31 24 = 0xC3 ∧ v.getLsbD 0 = true →
          Completes (.softwareChipReset v) s (fun t => ChipReset 0x40 s t ∧ t.free = s.free))
        ∧ (¬ (bitsOf v 31 24 = 0xC3 ∧ v.getLsbD 0 = true) → Completes (.softwareChipReset v) s (fun t => t = s)))
      ∧ (wdDue none s ∧ max 1 (s.chipReg Reg.RS_WDTO.base).toNat ≤ (s.chipReg Reg.RS_WDCNT.base).toNat + 1 →
          Completes .chipWatchdogExpiry s (fun t => ChipReset 0x08 s t ∧ t.free = s.free))
      ∧ (¬ (wdDue none s ∧ max 1 (s.chipReg Reg.RS_WDTO.base).toNat ≤ (s.chipReg Reg.RS_WDCNT.base).toNat + 1) →
          Completes .chipWatchdogExpiry s (fun t => t = s)))
  ∧ (∀ (w : Option RegionId) (n : Option Nat) (d : Watchdog) (cfg : Word) (s : State), n = w.map (fun r => r.val) →
      d = watchdog n → cfg = s.chipReg d.cfg →
      (∀ cnt limit : Nat, cnt = (s.chipReg d.cnt).toNat → limit = max 1 (s.chipReg d.limit).toNat →
        (¬ (wdDue n s ∧ cnt + 1 = 7 * limit / 8 ∧ cnt + 1 < limit) → Completes (.watchdogWarning w) s (fun t => t = s))
        ∧ (∀ q : Nat, wdDue n s → cnt + 1 = 7 * limit / 8 → cnt + 1 < limit → q = n.getD (bitsOf cfg 26 24) → Live q s →
          Completes (.watchdogWarning w) s (fun t =>
          ChipBut (fun h => { h with wdTaken := [] }) [d.cnt, d.warn] { s with regions := t.regions } t
          ∧ (∀ k, t.chip.wdTaken.contains k = (decide (k = n.getD 8) || s.chip.wdTaken.contains k))
          ∧ t.chipReg d.cnt = BitVec.ofNat 32 (cnt + 1)
          ∧ t.chipReg d.warn = satAdd 0xFFFF (s.chipReg d.warn) 1
          ∧ (∀ k, k ≠ q → t.region k = s.region k)
          ∧ if cfg.getLsbD 30 then t.region q = { s.region q with regs := (t.region q).regs }
              ∧ Posted (bitsOf cfg 11 0) (s.region q) (t.region q) else t.region q = s.region q)))
      ∧ Completes (.watchdogKick w 0xA55A) s (fun t => ChipBut (fun h => { h with wdTaken := [] }) [d.cnt] s t
          ∧ t.chipReg d.cnt = 0
          ∧ ∀ k, t.chip.wdTaken.contains k =
              (decide (k = n.getD 8 ∧ (n = none → kclkEdge s.time.pclk = true)) || s.chip.wdTaken.contains k))
      ∧ ∀ v : Word, v ≠ 0xA55A → Completes (.watchdogKick w v) s (fun t => t = s))

namespace Sys2Proof.Machine

/-- The registers of the backup domain that a clear erases. -/
def backupRegs : List Nat :=
  Reg.RS_BKCNT.base :: Reg.RS_BKLAST.base :: (List.range 8).flatMap (fun i => [regAt Reg.RS_BKHIST_C i 0,
      regAt Reg.RS_BKHIST_S i 0])

end Sys2Proof.Machine

/-- R445 to R448, R452: the chip is released step by step: the backup domain records the reset, the boot pins are
sampled, clocks must be good, the journal replayed and fuses caught up, where an image over Xesum opens port 0 (R413);
after an image its loaded cells start. A region is released once an image is accepted, its sources have ended and its
clock is good, with its cells halted, or started under AUTORUN if they ran. Choices of the model: details of an attempt
(log 43), details of resets (log 51). -/
def Obligations.Release : Prop :=
  ∀ (h : Chip) (s : State), h = s.chip →
    (∀ k : Fin 10, Completes (.clockGood k) s (fun t => ChipRegs [Reg.CK_STAT.base] s t
      ∧ t.chipReg Reg.CK_STAT.base = setBit (s.chipReg Reg.CK_STAT.base) (if k.val < 8 then 8 + k.val else if k.val = 8 then 1 else 2) true))
    ∧ (h.rel = 0 → Completes .chipRelease s (fun t => ChipBut (fun g => { g with rel := 0 }) backupRegs s t
        ∧ t.chip.rel = 1 ∧ t.chipReg Reg.RS_BKCNT.base = satAdd 0xFFFFFFFF (s.chipReg Reg.RS_BKCNT.base) 1
        ∧ t.chipReg Reg.RS_BKLAST.base = s.chipReg Reg.RS_CAUSE.base
        ∧ t.chipReg (regAt Reg.RS_BKHIST_C 0 0) = s.chipReg Reg.RS_CAUSE.base
        ∧ t.chipReg (regAt Reg.RS_BKHIST_S 0 0) = s.chipReg Reg.RS_BKSEC.base
        ∧ ∀ i, i < 7 → t.chipReg (regAt Reg.RS_BKHIST_C (i + 1) 0) = s.chipReg (regAt Reg.RS_BKHIST_C i 0)
          ∧ t.chipReg (regAt Reg.RS_BKHIST_S (i + 1) 0) = s.chipReg (regAt Reg.RS_BKHIST_S i 0)))
    ∧ (h.rel = 1 → Completes .chipRelease s (fun t => ChipBut (fun g => { g with rel := 0 }) [Reg.BT_STAT.base] s t
        ∧ t.chip.rel = 2 ∧ btStat t.chip = setBits (btStat h) 1 0 h.boot.pins))
    ∧ (∀ n, (h.rel = 2 ∧ n = 3) ∨ (h.rel = 3 ∧ n = 4 ∧ clockGoodBit 1 s = true ∧ clockGoodBit 2 s = true)
          ∨ (h.rel = 4 ∧ n = 5 ∧ ∀ r, r < 8 → clockGoodBit (8 + r) s = true)
          ∨ (h.rel = 5 ∧ n = 6 ∧ h.replayed = true ∧ h.boot.mirror ≤ fusesBlown h.boot ∧ h.boot.pins ≠ 2) →
        Completes .chipRelease s (fun t => t = { s with chip := { h with rel := n } }))
    ∧ (h.rel = 5 → h.replayed = true → h.boot.mirror ≤ fusesBlown h.boot → h.boot.pins = 2 →
        Completes .chipRelease s (fun t =>
        XlOnly 0 8 [Reg.XL_P_CFG, Reg.XL_P_STAT, Reg.XL_P_RETRAIN] { s with chip := { h with rel := 6 } } t
        ∧ t.regions = s.regions ∧ t.out = s.out
        ∧ xlReg Reg.XL_P_CFG 0 t = xlReg Reg.XL_P_CFG 0 s ||| 0x80000002
        ∧ if xlOn 0 s then t.xlPort 0 = s.xlPort 0 ∧ xlReg Reg.XL_P_STAT 0 t = xlReg Reg.XL_P_STAT 0 s
            ∧ xlReg Reg.XL_P_RETRAIN 0 t = xlReg Reg.XL_P_RETRAIN 0 s
          else TrainingBegan 0 s t))
    ∧ (h.rel = 5 → h.replayed = true → fusesBlown h.boot < h.boot.mirror → Completes .chipRelease s (fun t =>
        t = { s with chip := { h with boot := { h.boot with blowing := h.boot.blowing || !jnBit 30 h } } }))
    ∧ ((h.rel = 3 ∧ (clockGoodBit 1 s = false ∨ clockGoodBit 2 s = false))
        ∨ (h.rel = 4 ∧ ∃ r, r < 8 ∧ clockGoodBit (8 + r) s = false) ∨ (h.rel = 5 ∧ h.replayed = false)
        ∨ (h.rel = 9 ∧ marchesOver s = false) ∨ h.rel ∈ [6, 7, 8] ∨ 10 ≤ h.rel → Completes .chipRelease s (fun t =>
            t = s))
    ∧ (h.rel = 9 → marchesOver s = true → Completes .chipRelease s (fun t =>
        t = { s with chip := { h with rel := 10 }, regions := t.regions }
        ∧ ∀ r : RegionId, ({ t.region r with cells := [] } : Region) = { s.region r with cells := [] }
          ∧ ∀ i, i < 128 → (t.region r).cell i =
            if blkBit Reg.BK_FALLOW (i / 16) (i % 16) (s.region r) = false
                ∧ sections (i / 16) (i % 16) (s.region r) = 15
              ∧ isRetired i (s.region r) = false ∧ (s.region r).inReset = false
              ∧ (s.region r).blockReset.contains (i / 16) = false
            then { ((s.region r).cell i).afterReset with halted := false } else (s.region r).cell i))
    ∧ ∀ (r : RegionId) (R : Region), R = s.region r →
      (h.rel < 9 → Completes (.regionRelease r) s (fun t => t = s))
      ∧ (9 ≤ h.rel → R.inReset = true → (s.chipReg (regAt Reg.RS_RG_CTL r 0)).getLsbD 1 = true
          ∨ clockGoodBit (8 + r) s = false → Completes (.regionRelease r) s (fun t => RegionRegs [] r s t))
      ∧ (9 ≤ h.rel → R.inReset = true → (s.chipReg (regAt Reg.RS_RG_CTL r 0)).getLsbD 1 = false →
        clockGoodBit (8 + r) s = true → Completes (.regionRelease r) s (fun t =>
          RegionBut (fun Q => { Q with inReset := false, blockReset := [], autorun := [], cells := [] }) [Reg.AD_STAT.base] r s t
          ∧ (t.region r).inReset = false ∧ (t.region r).blockReset = [] ∧ (t.region r).autorun = []
          ∧ (t.region r).reg Reg.AD_STAT.base = setBit (R.reg Reg.AD_STAT.base) 0 true
          ∧ ∀ i, i < 128 → (t.region r).cell i =
            if (s.chipReg (regAt Reg.RS_RG_CTL r 0)).getLsbD 2 = true ∧ R.autorun.contains i = true
              ∧ sections (i / 16) (i % 16) R = 15 ∧ isRetired i R = false
            then { (R.cell i).afterReset with halted := false } else { R.cell i with inReset := false }))

/-- R452, R454, R456, R457: a PLL write outside its limits is refused and counted, one that keeps its ratio changes
nothing else, and another one relocks, which resets the region; COMMIT enables outputs unless the configuration is
mismatched; RS_BKCLR with its permission clears the counter, causes and history, and loss of VBAT the seconds as well.
-/
def Obligations.ClocksOutputsBackup : Prop :=
  ∀ s : State,
    (∀ (r : RegionId) (v old : Word) (a : Nat), a = regAt Reg.CK_RG_PLL r 0 → old = s.chipReg a →
      (pllAllowed v = false → Completes (.pllWrite r v) s (fun t => ChipRegs [Reg.CK_BADCFG.base] s t
        ∧ t.chipReg Reg.CK_BADCFG.base = satAdd 0xFFFF (s.chipReg Reg.CK_BADCFG.base) 1))
      ∧ (pllAllowed v = true → bitsOf old 7 0 = bitsOf v 7 0 → bitsOf old 16 16 = bitsOf v 16 16 →
        Completes (.pllWrite r v) s (fun t => ChipRegs [a] s t
          ∧ t.chipReg a = v &&& BitVec.ofNat 32 Reg.CK_RG_PLL.mask))
      ∧ (pllAllowed v = true → ¬ (bitsOf old 7 0 = bitsOf v 7 0 ∧ bitsOf old 16 16 = bitsOf v 16 16) →
        (s.region r).inReset = false → Calm (s.region r) → mapWf regionDefault (s.region r).regs = true →
        Completes (.pllWrite r v) s (fun t => RegionResetBy r 2 [a, Reg.CK_STAT.base] s t
          ∧ t.chipReg a = v &&& BitVec.ofNat 32 Reg.CK_RG_PLL.mask
          ∧ t.chipReg Reg.CK_STAT.base = setBit (s.chipReg Reg.CK_STAT.base) (8 + r) false)))
    ∧ (∀ (r : RegionId) (R : Region), R = s.region r → Live r s →
      (cfMismatch R = true → Completes (.oeCommit r) s (fun t => RegionRegs [Reg.PM_OEREF.base] r s t
        ∧ (t.region r).reg Reg.PM_OEREF.base = satAdd 0xFFFF (R.reg Reg.PM_OEREF.base) 1))
      ∧ (cfMismatch R = false → Completes (.oeCommit r) s (fun t => RegionRegs [Reg.PM_OE.base] r s t
          ∧ (t.region r).reg Reg.PM_OE.base = R.reg Reg.PM_OESTAGE.base)))
    ∧ ((s.chipReg Reg.BT_DBGPERM.base).getLsbD 3 = false → Completes .backupClear s (fun t => t = s))
    ∧ ((s.chipReg Reg.BT_DBGPERM.base).getLsbD 3 = true → Completes .backupClear s (fun t =>
        ChipRegs backupRegs s t ∧ ∀ a ∈ backupRegs, t.chipReg a = 0))
    ∧ Completes .vbatLoss s (fun t => ChipBut (fun g => { g with kclk := 0 }) (Reg.RS_BKSEC.base :: backupRegs) s t
        ∧ t.chip.kclk = 0 ∧ ∀ a ∈ Reg.RS_BKSEC.base :: backupRegs, t.chipReg a = 0)

namespace Sys2Proof.Machine

/-- Power states of a bank move by one region power state: the key of each bank that `f` selects names state `v`. -/
def BanksMoved (f : Nat → Bool) (v : Nat) (R R' : Region) : Prop :=
  ∀ b, b < 80 → R'.reg (pwrKey b) = if f b then setBits (R.reg (pwrKey b)) 5 4 v else R.reg (pwrKey b)

end Sys2Proof.Machine

/-- R458 to R461: a region whose conditions have held for 1 µs, 800 PCLK edges, enters the deepest state that its
latency admits, counts it, and in L3 puts the banks that are On and not pinned into Retention; otherwise it stays. A
wake returns it to L0 and those banks to the state they ask for. A return from L4, here with no cell fully loaded, is as
after a region-reach reset, but the configuration, the tallies under way and pinned banks are kept, every bank is in the
state its register names (R333), everything else in memory is zero and coefficients are undefined. Choices of the model:
free coefficients (log 37). -/
def Obligations.PowerStates : Prop :=
  ∀ (r : RegionId) (R : Region) (n : Nat) (s : State), R = s.region r → n = admitted R →
    (R.inReset = false → pmState R ≠ 4 →
      (¬ (pmState R < n ∧ stateAllowed n R = true ∧ 800 ≤ mapGet zeroNat R.pmHeld n) →
        Completes (.powerStateEntry r) s (fun t => RegionRegs [] r s t))
      ∧ (pmState R < n → stateAllowed n R = true → 800 ≤ mapGet zeroNat R.pmHeld n →
          Completes (.powerStateEntry r) s (fun t =>
          RegionBut (fun Q => { Q with banks := { Q.banks with harrowGt := none } }) (Reg.PM_STAT.base :: regAt Reg.PM_ENTRY (n - 1) 0 :: (List.range 80).map pwrKey) r s t
          ∧ (t.region r).reg Reg.PM_STAT.base = setBits (R.reg Reg.PM_STAT.base) 2 0 n
          ∧ (t.region r).banks.harrowGt = (if n = 3 then none else R.banks.harrowGt)
          ∧ (t.region r).reg (regAt Reg.PM_ENTRY (n - 1) 0) = satAdd 0xFFFF (R.reg (regAt Reg.PM_ENTRY (n - 1) 0)) 1
          ∧ BanksMoved (fun b => n == 3 && !R.bit (pwrKey b) 31 && bankCur b R == 0) 1 R (t.region r))))
    ∧ (pmState R = 0 → Completes (.wake r) s (fun t => t = s))
    ∧ (pmState R ∈ [1, 2, 3] → Completes (.wake r) s (fun t =>
        RegionRegs (Reg.PM_STAT.base :: (List.range 80).map pwrKey) r s t
        ∧ (t.region r).reg Reg.PM_STAT.base = setBits (R.reg Reg.PM_STAT.base) 2 0 0
        ∧ BanksMoved (fun b => pmState R == 3 && !R.bit (pwrKey b) 31 && bankCur b R == 1
            && bankWant b R == 0) 0 R (t.region r)))
    ∧ (pmState R ≠ 4 → Completes (.l4Return r) s (fun t => t = s))
    ∧ (∀ i ∈ [Instr.wake r, .l4Return r], pmState R = 4 → R.inReset = false → Calm R →
        mapWf regionDefault R.regs = true →
      (∀ k, k < 128 → sections (k / 16) (k % 16) R ≠ 15) → (∀ b, mapGet noneAt R.banks.trans b = none) →
          (s.chipReg (regAt Reg.RS_RG_CTL r 0)).getLsbD 1 = false →
      clockGoodBit (8 + r) s = true → Completes i s (fun t =>
        ChipRegs [regAt Reg.RS_RG_CAUSE r 0] { s with regions := t.regions, free := s.free + 16386 } t
        ∧ t.chipReg (regAt Reg.RS_RG_CAUSE r 0) = 0x10
        ∧ (∀ q, q ≠ r.val → t.region q = s.region q)
        ∧ (t.region r).inReset = false ∧ pmState (t.region r) = 0
        ∧ (∀ a, isPwrKey a = false → isCovered a = true ∨ a = Reg.CF_COMMITTED.base
            ∨ (regIdx Reg.TL_B_RUN a).isSome = true →
            (t.region r).reg a = R.reg a)
        ∧ (∀ a, (∀ v, keptReg R a v = none) → ¬ showsInputs a → isPwrKey a = false → isCovered a = false →
            a ∉ [Reg.CF_COMMITTED.base, Reg.AD_STAT.base] → regIdx Reg.TL_B_RUN a = none →
                (t.region r).reg a = regionDefault a)
        ∧ (t.region r).reg Reg.AD_STAT.base = 1 ∧ InputsStay R (t.region r)
        ∧ (∀ b, b < 80 → (t.region r).reg (pwrKey b) = setBits (R.reg (pwrKey b)) 5 4 (wanted (R.reg (pwrKey b))))
        ∧ (t.region r).rcorr = R.rcorr
        ∧ (∀ k, (t.region r).tlCarry.contains k = (R.bit Reg.TL_RING.base 31 && decide (k < 9)))
        ∧ (∀ p b, placeBank p = some b → p.inside →
            byteAt p (t.region r) = if R.bit (pwrKey b) 31 then byteAt p R else 0)
        ∧ ∀ k, k < 128 → ({ (t.region r).cell k with coef := [] } : Cell) =
            { cellInit with cstore := (R.cell k).cstore, disp := (R.cell k).disp }
          ∧ ∀ j, j < 128 → mapGet zeroWord ((t.region r).cell k).coef j = Config.freeWord (s.free + 2 + 128 * k + j)))

/-! ## The machine as a whole -/

/-- A step takes the command at the front of the queue and runs it with the queue's rest. -/
def Obligations.FrontCommand : Prop :=
  ∀ (c : Instr) (rest : List Instr) (s : State), step { s with pending := c :: rest } = exec c { s with pending := rest }

/-- Every well-formed command is answered by a next state, in every state; a word that is no reserved opcode is refused
as RESERVED_OPCODE. Choices of the model: that another word is no such row (log 53). -/
def Obligations.EveryCommandRuns : Prop :=
  (∀ (i : Instr) (s : State), i.WellFormed → Runs i s)
    ∧ ∀ (c : CellId) (w : Word) (s : State), ¬ (Instr.reservedOpcode c w).WellFormed →
      exec (.reservedOpcode c w) s = .refused .illFormed

/-- R29, R30 (that an idle step is one PCLK edge is the model's choice, log 1): an idle step adds 16 ticks and the carry
out of F + CH_GTRATE to GTIME, and the step that waits where no sample group is armed, and leaves the rest of the sum in
F. Nothing happens while the timebase is not good, and the chip watchdog may end it with a reset. A region in reset or
in L4 stays as it is; in any other its units work at the new time, here with the watchdogs that could act on it
disabled. Choices of the model: that an idle step is a PCLK edge (log 1), where KCLK edges fall (log 50). -/
def Obligations.IdleStep : Prop :=
  ∀ (s : State) (x : Int) (v : Ticks), s.pending = [] →
    x = (s.time.frac.toNat : Int) + (s.chipReg Reg.CH_GTRATE.base).toInt → v = BitVec.ofInt 64 (16 + x / 2 ^ 40) →
    (clockGoodBit 2 s = false → step s = .next s)
    ∧ (clockGoodBit 2 s = true → wdDue none s →
        max 1 (s.chipReg Reg.RS_WDTO.base).toNat ≤ (s.chipReg Reg.RS_WDCNT.base).toNat + 1 →
        ∃ t, step s = .next t ∧ t.time = timeInit ∧ ∀ r : RegionId, (t.region r).inReset = true)
    ∧ (clockGoodBit 2 s = true →
        ¬ (wdDue none s ∧ max 1 (s.chipReg Reg.RS_WDTO.base).toNat ≤ (s.chipReg Reg.RS_WDCNT.base).toNat + 1) →
        ∃ t, step s = .next t ∧ t.pending = [] ∧ t.out = s.out ∧ t.chip.wdTaken = []
        ∧ t.time.frac = BitVec.ofInt 40 x ∧ t.time.pclk = s.time.pclk + 1
        ∧ t.time.past = ((s.time.gtime, v) :: s.time.past).take 264
        ∧ (s.time.step = none ∨ (∃ (r : RegionId) (g : Fin 8), sgArmed g (s.region r) = true) →
            t.time.gtime = s.time.gtime + v ∧ t.time.step = s.time.step)
        ∧ (∀ d, s.time.step = some d → (∀ (r : RegionId) (g : Fin 8), sgArmed g (s.region r) = false) →
            t.time.gtime = s.time.gtime + v + d ∧ t.time.step = none)
        ∧ ∀ r : RegionId, (s.chipReg (watchdog none).cfg).getLsbD 31 = false →
          ((s.region r).inReset = true ∨ pmState (s.region r) = 4 → t.region r = s.region r)
          ∧ ((s.region r).inReset = false → pmState (s.region r) ≠ 4 →
            (s.chipReg (watchdog (some r.val)).cfg).getLsbD 31 = false →
            ∃ y : Ctx, y.r = r.val ∧ y.time = t.time ∧ y.rate = (s.chipReg Reg.CH_GTRATE.base).toInt
              ∧ (∀ c, c < 16 → mapGet chipDefault y.chip (regAt Reg.CH_XEV_CFG c 0) = s.chipReg (regAt Reg.CH_XEV_CFG c 0))
              ∧ t.region r = edgeWork y (s.region r)))

/-- R31, R444, R446 to R449 (which step of the release the reset state stands at is the model's choice, log 2): the
machine comes out of reset with GTIME zero, memories zero, registers at the values of their tables, every region in
reset and every cell halted, at PC 0 and supervisor level. -/
def Obligations.ResetState : Prop :=
  State.reset.pending = [] ∧ State.reset.time.gtime = 0 ∧ State.reset.time.frac = 0 ∧ State.reset.time.step = none
    ∧ (∀ a, State.reset.chipReg a = if a = Reg.RS_CAUSE.base then 1 else chipDefault a) ∧ (∀ o,
        mapGet zeroByte State.reset.chip.mram o = 0)
    ∧ (∀ r : RegionId, (State.reset.region r).inReset = true ∧ (∀ a, (State.reset.region r).reg a = regionDefault a)
      ∧ (∀ p, byteAt p (State.reset.region r) = 0) ∧ (State.reset.region r).banks.ecc = [])
    ∧ (∀ c : CellId, (State.reset.cell c).halted = true ∧ (State.reset.cell c).pc = 0 ∧ (State.reset.cell c).acc = 0
      ∧ (∀ q, (State.reset.cell c).g q = 0) ∧ (State.reset.cell c).ioReg Reg.CSTAT.base = 0x1F
      ∧ (State.reset.cell c).ioReg Reg.ESP.base = 0x2000)
    ∧ (∀ (r : RegionId) (b : BlockId), (State.reset.region r).reg (blk Reg.BK_FALLOW b) = 0x8000)
    ∧ (∀ (r : RegionId) (i : Fin 128), (State.reset.region r).reg (regAt Reg.IC_THR i 0) = 0xF)
    ∧ ∀ v : Fin 64, msixMasked v State.reset.chip = true

/-- R60, R61: the word of every instruction decodes to that instruction, with every operand at every value that its
field admits; and every word decodes to a well-formed instruction whose own word, with the fields it does not use zero,
decodes to the same. -/
def Obligations.DecodeEncode : Prop :=
  (∀ (i : Instr) (w : Word), i.WellFormed → instrWord i = some w → ∃ c, decodeWord c w = i)
    ∧ ∀ (c : CellId) (w : Word), (decodeWord c w).WellFormed
      ∧ ∃ v, instrWord (decodeWord c w) = some v ∧ decodeWord c v = decodeWord c w

namespace Sys2Proof.Machine

/-- Regions, MRAM and the one-time store are listed in canonical form: keys rising, and nothing listed that reads as an
unlisted one, so that equal contents are equal data. -/
def State.canonical (s : State) : Prop :=
  mapWf (fun _ => regionInit) s.regions = true ∧ mapWf zeroByte s.chip.mram = true
      ∧ mapWf zeroByte s.chip.boot.otp = true

end Sys2Proof.Machine

/-- Every step keeps the canonical form of regions, MRAM and the one-time store (the form is the model's own). -/
def Obligations.CanonicalStep : Prop := ∀ s t : State, s.canonical → step s = .next t → t.canonical

/-- The state after reset is in canonical form (the form is the model's own). -/
def Obligations.CanonicalReset : Prop := State.reset.canonical

/-- R31, R423, R425: whatever the command, it leaves the queue alone; a blown fuse stays blown, a provisioned slot
provisioned and a revoked one revoked; and GTIME changes only by a step of CH_GTSTEP, or is cleared where the chip was
reset. -/
def Obligations.WhatNoCommandDoes : Prop :=
  ∀ (c : Instr) (s t : State), exec c s = .next t →
    t.pending = s.pending
    ∧ (∀ i, i < 64 → otpBit s.chip.boot 0x160 i = true → otpBit t.chip.boot 0x160 i = true)
    ∧ (∀ k, k < 4 → (slotProvisioned s.chip.boot k = true → slotProvisioned t.chip.boot k = true)
      ∧ (slotRevoked s.chip.boot k = true → slotRevoked t.chip.boot k = true))
    ∧ (t.time.gtime = s.time.gtime ∨ c = .gtimeStepApply
      ∨ (t.time = timeInit ∧ ∀ r : RegionId, (t.region r).inReset = true))

end
end

