-- ==== Sys2Proof/Laws/Sparse.lean ====
section
/-!
SUPPORT. Laws of the sparse maps: read after write, and the canonical form kept by every operation.
-/

namespace Sys2Proof.Machine

variable {α : Type}

@[simp] theorem mapGet_nil (d : Nat → α) (k : Nat) : mapGet d [] k = d k := rfl

theorem mapGet_cons (d : Nat → α) (e : Nat × α) (m : FMap α) (k : Nat) :
    mapGet d (e :: m) k = if k = e.1 then e.2 else mapGet d m k := rfl

theorem mapGet_insert_self (d : Nat → α) (k : Nat) (v : α) : ∀ m : FMap α, mapGet d (mapInsert k v m) k = v
  | [] => by simp [mapInsert, mapGet_cons]
  | e :: m => by
    unfold mapInsert
    split
    · simp [mapGet_cons]
    · split
      · simp [mapGet_cons]
      · simp [mapGet_cons, *, mapGet_insert_self d k v m]

theorem mapGet_insert_of_ne (d : Nat → α) {k j : Nat} (h : j ≠ k) (v : α) :
    ∀ m : FMap α, mapGet d (mapInsert k v m) j = mapGet d m j
  | [] => by simp [mapInsert, mapGet_cons, h]
  | e :: m => by
    unfold mapInsert
    split
    · simp [mapGet_cons, h]
    · split
      · next h' => subst h'; simp [mapGet_cons, h]
      · simp [mapGet_cons, mapGet_insert_of_ne d h v m]

theorem mapGet_filter_self (d : Nat → α) (k : Nat) : ∀ m : FMap α, mapGet d (m.filter (fun e => e.1 != k)) k = d k
  | [] => rfl
  | e :: m => by
    by_cases h : e.1 = k
    · simp [h, mapGet_filter_self d k m]
    · simp [h, mapGet_cons, Ne.symm h, mapGet_filter_self d k m]

/-- A filter on keys leaves a key that satisfies it as it was. -/
theorem mapGet_filter_of_keep (d : Nat → α) (p : Nat → Bool) {j : Nat} (h : p j = true) :
    ∀ m : FMap α, mapGet d (m.filter (fun e => p e.1)) j = mapGet d m j
  | [] => rfl
  | e :: m => by
    by_cases h' : p e.1 = true
    · simp [h', mapGet_cons, mapGet_filter_of_keep d p h m]
    · have : j ≠ e.1 := fun he => h' (he ▸ h)
      simp [h', mapGet_cons, this, mapGet_filter_of_keep d p h m]

theorem mapGet_filter_of_drop (d : Nat → α) (p : Nat → Bool) {j : Nat} (h : p j = false) :
    ∀ m : FMap α, mapGet d (m.filter (fun e => p e.1)) j = d j
  | [] => rfl
  | e :: m => by
    by_cases h' : p e.1 = true
    · have : j ≠ e.1 := fun he => by simp [he, h'] at h
      simp [h', mapGet_cons, this, mapGet_filter_of_drop d p h m]
    · simp [h', mapGet_filter_of_drop d p h m]

/-- A read of the key written gives the value written. -/
@[simp] theorem mapGet_mapSet_self [DecidableEq α] (d : Nat → α) (m : FMap α) (k : Nat) (v : α) :
    mapGet d (mapSet d m k v) k = v := by
  unfold mapSet
  split
  · next h => rw [mapGet_filter_self, h]
  · exact mapGet_insert_self d k v m

/-- A write leaves every other key alone. -/
theorem mapGet_mapSet_of_ne [DecidableEq α] (d : Nat → α) (m : FMap α) {k j : Nat} (h : j ≠ k) (v : α) :
    mapGet d (mapSet d m k v) j = mapGet d m j := by
  unfold mapSet
  split
  · exact mapGet_filter_of_keep d (fun i => i != k) (by simpa using h) m
  · exact mapGet_insert_of_ne d h v m

/-- What a map reads as after a write. -/
theorem mapGet_mapSet [DecidableEq α] (d : Nat → α) (m : FMap α) (k j : Nat) (v : α) :
    mapGet d (mapSet d m k v) j = if j = k then v else mapGet d m j := by
  split
  · next h => rw [h, mapGet_mapSet_self]
  · next h => rw [mapGet_mapSet_of_ne d m h]

/-- What a map reads as once some keys are forgotten. -/
theorem mapGet_mapKeep (d : Nat → α) (keep : Nat → Bool) (m : FMap α) (j : Nat) :
    mapGet d (mapKeep keep m) j = if keep j then mapGet d m j else d j := by
  unfold mapKeep
  split
  · next h => exact mapGet_filter_of_keep d keep h m
  · next h => exact mapGet_filter_of_drop d keep (by simpa using h) m

/-- What a map reads as after consecutive writes. -/
theorem mapGet_mapWrite [DecidableEq α] (d : Nat → α) (j : Nat) : ∀ (vs : List α) (m : FMap α) (k : Nat),
    mapGet d (mapWrite d m k vs) j = if h : k ≤ j ∧ j - k < vs.length then vs[j - k]'h.2 else mapGet d m j
  | [], m, k => by simp [mapWrite]
  | v :: vs, m, k => by
    rw [mapWrite, mapGet_mapWrite d j vs, mapGet_mapSet]
    by_cases hj : j = k
    · subst hj; simp
    · by_cases hk : k ≤ j
      · have h1 : k + 1 ≤ j := by omega
        obtain ⟨n, rfl⟩ : ∃ n, j = k + 1 + n := ⟨j - (k + 1), by omega⟩
        simp [hj, hk, show k + 1 + n - k = n + 1 by omega]
      · simp [hj, hk, show ¬ k + 1 ≤ j by omega]

/-- An address below or beyond the bytes written reads as before. -/
theorem mapGet_mapWrite_of_out [DecidableEq α] (d : Nat → α) (vs : List α) (m : FMap α) (k : Nat) {j : Nat}
    (h : j < k ∨ k + vs.length ≤ j) : mapGet d (mapWrite d m k vs) j = mapGet d m j := by
  rw [mapGet_mapWrite, dif_neg (by omega)]

@[simp] theorem mapRead_length (d : Nat → α) (m : FMap α) : ∀ n k, (mapRead d m k n).length = n
  | 0, _ => rfl
  | n + 1, k => by simp [mapRead, mapRead_length d m n]

theorem mapRead_congr (d : Nat → α) {m m' : FMap α} : ∀ n k, (∀ j, k ≤ j → j < k + n → mapGet d m j = mapGet d m' j) →
    mapRead d m k n = mapRead d m' k n
  | 0, _, _ => rfl
  | n + 1, k, h => by
    rw [mapRead, mapRead, h k (le_refl _) (by omega), mapRead_congr d n (k + 1) fun j h1 h2 => h j (by omega) (by omega)]

/-- Reading back what was written. -/
theorem mapRead_mapWrite_self [DecidableEq α] (d : Nat → α) : ∀ (vs : List α) (m : FMap α) (k : Nat),
    mapRead d (mapWrite d m k vs) k vs.length = vs
  | [], _, _ => rfl
  | v :: vs, m, k => by
    have h : mapGet d (mapWrite d m k (v :: vs)) k = v := by simp [mapGet_mapWrite]
    rw [List.length_cons, mapRead, h, mapWrite, mapRead_mapWrite_self d vs]

/-- Reading what the writes did not touch. -/
theorem mapRead_mapWrite_of_disjoint [DecidableEq α] (d : Nat → α) (vs : List α) (m : FMap α) (k a n : Nat)
    (h : a + n ≤ k ∨ k + vs.length ≤ a) : mapRead d (mapWrite d m k vs) a n = mapRead d m a n :=
  mapRead_congr d n a fun _ _ _ => mapGet_mapWrite_of_out d vs m k (by omega)

/-! ## The canonical form -/

section wf
variable [DecidableEq α] {d : Nat → α}

theorem mapWfFrom_mono {m : FMap α} {lo lo' : Nat} (h : lo' ≤ lo) (hm : mapWfFrom d lo m = true) : mapWfFrom d lo' m = true := by
  cases m with
  | nil => rfl
  | cons e m => simp only [mapWfFrom, Bool.and_eq_true, decide_eq_true_eq] at hm ⊢; exact ⟨⟨by omega, hm.1.2⟩, hm.2⟩

theorem mapWfFrom_filter (p : Nat → Bool) : ∀ (m : FMap α) (lo : Nat), mapWfFrom d lo m = true →
    mapWfFrom d lo (m.filter (fun e => p e.1)) = true
  | [], _, _ => rfl
  | e :: m, lo, h => by
    simp only [mapWfFrom, Bool.and_eq_true, decide_eq_true_eq] at h
    have ih := mapWfFrom_filter p m _ h.2
    by_cases hp : p e.1 = true
    · simp [hp, mapWfFrom, h.1.1, h.1.2, ih]
    · simpa [hp] using mapWfFrom_mono (by omega) ih

theorem mapWfFrom_insert {k : Nat} {v : α} (hv : v ≠ d k) : ∀ (m : FMap α) (lo : Nat), lo ≤ k → mapWfFrom d lo m = true →
    mapWfFrom d lo (mapInsert k v m) = true
  | [], lo, hk, _ => by simp [mapInsert, mapWfFrom, hk, hv]
  | e :: m, lo, hk, h => by
    simp only [mapWfFrom, Bool.and_eq_true, decide_eq_true_eq] at h
    unfold mapInsert
    split
    · next h1 => simp [mapWfFrom, hk, hv, h.1.2, h.2, show k + 1 ≤ e.1 by omega]
    · split
      · next h2 => subst h2; simp [mapWfFrom, hk, hv, h.2]
      · next h1 h2 => simp [mapWfFrom, h.1.1, h.1.2, mapWfFrom_insert hv m (e.1 + 1) (by omega) h.2]

theorem mapWf_nil : mapWf d [] = true := rfl

/-- A write keeps the canonical form. -/
theorem mapWf_mapSet {m : FMap α} (h : mapWf d m = true) (k : Nat) (v : α) : mapWf d (mapSet d m k v) = true := by
  unfold mapSet
  split
  · exact mapWfFrom_filter (fun j => j != k) m 0 h
  · next hv => exact mapWfFrom_insert hv m 0 (by omega) h

/-- Consecutive writes keep the canonical form. -/
theorem mapWf_mapWrite : ∀ (vs : List α) {m : FMap α} (_ : mapWf d m = true) (k : Nat), mapWf d (mapWrite d m k vs) = true
  | [], _, h, _ => h
  | _ :: vs, _, h, _ => mapWf_mapWrite vs (mapWf_mapSet h _ _) _

/-- Forgetting keys keeps the canonical form. -/
theorem mapWf_mapKeep (keep : Nat → Bool) {m : FMap α} (h : mapWf d m = true) : mapWf d (mapKeep keep m) = true :=
  mapWfFrom_filter keep m 0 h

theorem mapGet_default_of_lt : ∀ {m : FMap α} {lo k : Nat}, mapWfFrom d lo m = true → k < lo → mapGet d m k = d k
  | [], _, _, _, _ => rfl
  | e :: m, lo, k, h, hk => by
    simp only [mapWfFrom, Bool.and_eq_true, decide_eq_true_eq] at h
    rw [mapGet_cons, if_neg (by omega)]
    exact mapGet_default_of_lt h.2 (by omega)

/-- Two maps in canonical form that read the same are the same. -/
theorem mapWfFrom_ext : ∀ {m m' : FMap α} {lo : Nat}, mapWfFrom d lo m = true → mapWfFrom d lo m' = true →
    (∀ k, mapGet d m k = mapGet d m' k) → m = m'
  | [], [], _, _, _, _ => rfl
  | [], e :: m', lo, _, h', hk => by
    simp only [mapWfFrom, Bool.and_eq_true, decide_eq_true_eq] at h'
    have := hk e.1
    simp [mapGet_cons] at this
    exact absurd this.symm h'.1.2
  | e :: m, [], lo, h, _, hk => by
    simp only [mapWfFrom, Bool.and_eq_true, decide_eq_true_eq] at h
    have := hk e.1
    simp [mapGet_cons] at this
    exact absurd this h.1.2
  | e :: m, e' :: m', lo, h, h', hk => by
    simp only [mapWfFrom, Bool.and_eq_true, decide_eq_true_eq] at h h'
    have h1 : e.1 = e'.1 := by
      rcases Nat.lt_trichotomy e.1 e'.1 with hl | he | hg
      · have := hk e.1
        rw [mapGet_cons, mapGet_cons, if_pos rfl, if_neg (by omega), mapGet_default_of_lt h'.2 (by omega)] at this
        exact absurd this h.1.2
      · exact he
      · have := hk e'.1
        rw [mapGet_cons, mapGet_cons, if_pos rfl, if_neg (by omega), mapGet_default_of_lt h.2 (by omega)] at this
        exact absurd this.symm h'.1.2
    have h2 : e.2 = e'.2 := by
      have := hk e.1
      rwa [mapGet_cons, mapGet_cons, if_pos rfl, if_pos h1] at this
    have h3 : m = m' := by
      refine mapWfFrom_ext (lo := e.1 + 1) h.2 (h1 ▸ h'.2) fun k => ?_
      rcases Nat.lt_or_ge e.1 k with hl | hg
      · have := hk k
        rwa [mapGet_cons, mapGet_cons, if_neg (by omega), if_neg (by omega)] at this
      · rw [mapGet_default_of_lt h.2 (by omega), mapGet_default_of_lt h'.2 (by omega)]
    rw [h3, Prod.ext h1 h2]

/-- Equal contents are equal data. -/
theorem mapWf_ext {m m' : FMap α} (h : mapWf d m = true) (h' : mapWf d m' = true) (hk : ∀ k, mapGet d m k = mapGet d m' k) :
    m = m' := mapWfFrom_ext h h' hk

/-- Writing what a key reads as changes nothing. -/
theorem mapSet_get_self {m : FMap α} (h : mapWf d m = true) (k : Nat) : mapSet d m k (mapGet d m k) = m := by
  refine mapWf_ext (mapWf_mapSet h _ _) h fun j => ?_
  rw [mapGet_mapSet]
  split
  · next hj => rw [hj]
  · rfl

end wf

end Sys2Proof.Machine
end

