-- ==== Sys2Proof/Laws/State.lean ====
section
/-!
SUPPORT. Laws of the state: what each named update leaves unchanged, and what is read after it.
-/

namespace Sys2Proof.Machine

/-! ## Updates of the whole state -/

@[simp] theorem State.setRegion_pending (s : State) (r : Nat) (R : Region) : (s.setRegion r R).pending = s.pending := rfl
@[simp] theorem State.setRegion_free (s : State) (r : Nat) (R : Region) : (s.setRegion r R).free = s.free := rfl
@[simp] theorem State.setRegion_time (s : State) (r : Nat) (R : Region) : (s.setRegion r R).time = s.time := rfl
@[simp] theorem State.setRegion_chip (s : State) (r : Nat) (R : Region) : (s.setRegion r R).chip = s.chip := rfl
@[simp] theorem State.setRegion_out (s : State) (r : Nat) (R : Region) : (s.setRegion r R).out = s.out := rfl
@[simp] theorem State.setRegion_host (s : State) (r : Nat) (R : Region) : (s.setRegion r R).host = s.host := rfl

@[simp] theorem State.setCell_pending (s : State) (c : Nat) (k : Cell) : (s.setCell c k).pending = s.pending := rfl
@[simp] theorem State.setCell_free (s : State) (c : Nat) (k : Cell) : (s.setCell c k).free = s.free := rfl
@[simp] theorem State.setCell_time (s : State) (c : Nat) (k : Cell) : (s.setCell c k).time = s.time := rfl
@[simp] theorem State.setCell_chip (s : State) (c : Nat) (k : Cell) : (s.setCell c k).chip = s.chip := rfl
@[simp] theorem State.setCell_out (s : State) (c : Nat) (k : Cell) : (s.setCell c k).out = s.out := rfl
@[simp] theorem State.setCell_host (s : State) (c : Nat) (k : Cell) : (s.setCell c k).host = s.host := rfl

@[simp] theorem State.onRegion_pending (s : State) (r : Nat) (f : Ctx → Region → Region) : (s.onRegion r f).pending = s.pending := rfl
@[simp] theorem State.onRegion_free (s : State) (r : Nat) (f : Ctx → Region → Region) : (s.onRegion r f).free = s.free := rfl
@[simp] theorem State.onRegion_time (s : State) (r : Nat) (f : Ctx → Region → Region) : (s.onRegion r f).time = s.time := rfl
@[simp] theorem State.onRegion_chip (s : State) (r : Nat) (f : Ctx → Region → Region) : (s.onRegion r f).chip = s.chip := rfl
@[simp] theorem State.onRegion_out (s : State) (r : Nat) (f : Ctx → Region → Region) : (s.onRegion r f).out = s.out := rfl
@[simp] theorem State.onRegion_host (s : State) (r : Nat) (f : Ctx → Region → Region) : (s.onRegion r f).host = s.host := rfl

@[simp] theorem State.onCell_pending (s : State) (c : Nat) (f : Cell → Cell) : (s.onCell c f).pending = s.pending := rfl
@[simp] theorem State.onCell_free (s : State) (c : Nat) (f : Cell → Cell) : (s.onCell c f).free = s.free := rfl
@[simp] theorem State.onCell_time (s : State) (c : Nat) (f : Cell → Cell) : (s.onCell c f).time = s.time := rfl
@[simp] theorem State.onCell_chip (s : State) (c : Nat) (f : Cell → Cell) : (s.onCell c f).chip = s.chip := rfl
@[simp] theorem State.onCell_out (s : State) (c : Nat) (f : Cell → Cell) : (s.onCell c f).out = s.out := rfl
@[simp] theorem State.onCell_host (s : State) (c : Nat) (f : Cell → Cell) : (s.onCell c f).host = s.host := rfl

@[simp] theorem State.setChipReg_pending (s : State) (a : Nat) (v : Word) : (s.setChipReg a v).pending = s.pending := rfl
@[simp] theorem State.setChipReg_free (s : State) (a : Nat) (v : Word) : (s.setChipReg a v).free = s.free := rfl
@[simp] theorem State.setChipReg_time (s : State) (a : Nat) (v : Word) : (s.setChipReg a v).time = s.time := rfl
@[simp] theorem State.setChipReg_regions (s : State) (a : Nat) (v : Word) : (s.setChipReg a v).regions = s.regions := rfl
@[simp] theorem State.setChipReg_out (s : State) (a : Nat) (v : Word) : (s.setChipReg a v).out = s.out := rfl
@[simp] theorem State.setChipReg_host (s : State) (a : Nat) (v : Word) : (s.setChipReg a v).host = s.host := rfl

@[simp] theorem State.answer_pending (s : State) (a : HostAnswer) : (s.answer a).pending = s.pending := rfl
@[simp] theorem State.answer_free (s : State) (a : HostAnswer) : (s.answer a).free = s.free := rfl
@[simp] theorem State.answer_time (s : State) (a : HostAnswer) : (s.answer a).time = s.time := rfl
@[simp] theorem State.answer_chip (s : State) (a : HostAnswer) : (s.answer a).chip = s.chip := rfl
@[simp] theorem State.answer_regions (s : State) (a : HostAnswer) : (s.answer a).regions = s.regions := rfl
@[simp] theorem State.answer_out (s : State) (a : HostAnswer) : (s.answer a).out = s.out := rfl

@[simp] theorem State.took_pending (s : State) (n : Nat) : (s.took n).pending = s.pending := rfl
@[simp] theorem State.took_time (s : State) (n : Nat) : (s.took n).time = s.time := rfl
@[simp] theorem State.took_chip (s : State) (n : Nat) : (s.took n).chip = s.chip := rfl
@[simp] theorem State.took_regions (s : State) (n : Nat) : (s.took n).regions = s.regions := rfl
@[simp] theorem State.took_out (s : State) (n : Nat) : (s.took n).out = s.out := rfl
@[simp] theorem State.took_host (s : State) (n : Nat) : (s.took n).host = s.host := rfl

/-! ## Updates of a region -/

@[simp] theorem Region.setReg_banks (R : Region) (a : Nat) (v : Word) : (R.setReg a v).banks = R.banks := rfl
@[simp] theorem Region.setReg_cells (R : Region) (a : Nat) (v : Word) : (R.setReg a v).cells = R.cells := rfl
@[simp] theorem Region.setReg_ev (R : Region) (a : Nat) (v : Word) : (R.setReg a v).ev = R.ev := rfl
@[simp] theorem Region.setReg_adc (R : Region) (a : Nat) (v : Word) : (R.setReg a v).adc = R.adc := rfl
@[simp] theorem Region.setReg_tm (R : Region) (a : Nat) (v : Word) : (R.setReg a v).tm = R.tm := rfl
@[simp] theorem Region.setReg_load (R : Region) (a : Nat) (v : Word) : (R.setReg a v).load = R.load := rfl
@[simp] theorem Region.setReg_lp (R : Region) (a : Nat) (v : Word) : (R.setReg a v).lp = R.lp := rfl
@[simp] theorem Region.setReg_fb (R : Region) (a : Nat) (v : Word) : (R.setReg a v).fb = R.fb := rfl
@[simp] theorem Region.setReg_faultQ (R : Region) (a : Nat) (v : Word) : (R.setReg a v).faultQ = R.faultQ := rfl
@[simp] theorem Region.setReg_dma (R : Region) (a : Nat) (v : Word) : (R.setReg a v).dma = R.dma := rfl
@[simp] theorem Region.setReg_fp (R : Region) (a : Nat) (v : Word) : (R.setReg a v).fp = R.fp := rfl
@[simp] theorem Region.setReg_tk (R : Region) (a : Nat) (v : Word) : (R.setReg a v).tk = R.tk := rfl
@[simp] theorem Region.setReg_sweep (R : Region) (a : Nat) (v : Word) : (R.setReg a v).sweep = R.sweep := rfl
@[simp] theorem Region.setReg_tlSeq (R : Region) (a : Nat) (v : Word) : (R.setReg a v).tlSeq = R.tlSeq := rfl
@[simp] theorem Region.setReg_tlCarry (R : Region) (a : Nat) (v : Word) : (R.setReg a v).tlCarry = R.tlCarry := rfl
@[simp] theorem Region.setReg_rcorr (R : Region) (a : Nat) (v : Word) : (R.setReg a v).rcorr = R.rcorr := rfl
@[simp] theorem Region.setReg_railBad (R : Region) (a : Nat) (v : Word) : (R.setReg a v).railBad = R.railBad := rfl
@[simp] theorem Region.setReg_autorun (R : Region) (a : Nat) (v : Word) : (R.setReg a v).autorun = R.autorun := rfl
@[simp] theorem Region.setReg_snapReq (R : Region) (a : Nat) (v : Word) : (R.setReg a v).snapReq = R.snapReq := rfl
@[simp] theorem Region.setReg_pmHeld (R : Region) (a : Nat) (v : Word) : (R.setReg a v).pmHeld = R.pmHeld := rfl
@[simp] theorem Region.setReg_inReset (R : Region) (a : Nat) (v : Word) : (R.setReg a v).inReset = R.inReset := rfl
@[simp] theorem Region.setReg_blockReset (R : Region) (a : Nat) (v : Word) : (R.setReg a v).blockReset = R.blockReset := rfl

@[simp] theorem Region.setField_banks (R : Region) (a hi lo v : Nat) : (R.setField a hi lo v).banks = R.banks := rfl
@[simp] theorem Region.setField_cells (R : Region) (a hi lo v : Nat) : (R.setField a hi lo v).cells = R.cells := rfl
@[simp] theorem Region.setField_ev (R : Region) (a hi lo v : Nat) : (R.setField a hi lo v).ev = R.ev := rfl
@[simp] theorem Region.setField_adc (R : Region) (a hi lo v : Nat) : (R.setField a hi lo v).adc = R.adc := rfl
@[simp] theorem Region.setField_tm (R : Region) (a hi lo v : Nat) : (R.setField a hi lo v).tm = R.tm := rfl
@[simp] theorem Region.setField_load (R : Region) (a hi lo v : Nat) : (R.setField a hi lo v).load = R.load := rfl
@[simp] theorem Region.setField_lp (R : Region) (a hi lo v : Nat) : (R.setField a hi lo v).lp = R.lp := rfl
@[simp] theorem Region.setField_fb (R : Region) (a hi lo v : Nat) : (R.setField a hi lo v).fb = R.fb := rfl
@[simp] theorem Region.setField_faultQ (R : Region) (a hi lo v : Nat) : (R.setField a hi lo v).faultQ = R.faultQ := rfl
@[simp] theorem Region.setField_dma (R : Region) (a hi lo v : Nat) : (R.setField a hi lo v).dma = R.dma := rfl
@[simp] theorem Region.setField_fp (R : Region) (a hi lo v : Nat) : (R.setField a hi lo v).fp = R.fp := rfl
@[simp] theorem Region.setField_tk (R : Region) (a hi lo v : Nat) : (R.setField a hi lo v).tk = R.tk := rfl
@[simp] theorem Region.setField_sweep (R : Region) (a hi lo v : Nat) : (R.setField a hi lo v).sweep = R.sweep := rfl
@[simp] theorem Region.setField_tlSeq (R : Region) (a hi lo v : Nat) : (R.setField a hi lo v).tlSeq = R.tlSeq := rfl
@[simp] theorem Region.setField_tlCarry (R : Region) (a hi lo v : Nat) : (R.setField a hi lo v).tlCarry = R.tlCarry := rfl
@[simp] theorem Region.setField_rcorr (R : Region) (a hi lo v : Nat) : (R.setField a hi lo v).rcorr = R.rcorr := rfl
@[simp] theorem Region.setField_railBad (R : Region) (a hi lo v : Nat) : (R.setField a hi lo v).railBad = R.railBad := rfl
@[simp] theorem Region.setField_autorun (R : Region) (a hi lo v : Nat) : (R.setField a hi lo v).autorun = R.autorun := rfl
@[simp] theorem Region.setField_snapReq (R : Region) (a hi lo v : Nat) : (R.setField a hi lo v).snapReq = R.snapReq := rfl
@[simp] theorem Region.setField_pmHeld (R : Region) (a hi lo v : Nat) : (R.setField a hi lo v).pmHeld = R.pmHeld := rfl
@[simp] theorem Region.setField_inReset (R : Region) (a hi lo v : Nat) : (R.setField a hi lo v).inReset = R.inReset := rfl
@[simp] theorem Region.setField_blockReset (R : Region) (a hi lo v : Nat) : (R.setField a hi lo v).blockReset = R.blockReset := rfl

@[simp] theorem Region.setBit_banks (R : Region) (a i : Nat) (b : Bool) : (R.setBit a i b).banks = R.banks := rfl
@[simp] theorem Region.setBit_cells (R : Region) (a i : Nat) (b : Bool) : (R.setBit a i b).cells = R.cells := rfl
@[simp] theorem Region.setBit_ev (R : Region) (a i : Nat) (b : Bool) : (R.setBit a i b).ev = R.ev := rfl
@[simp] theorem Region.setBit_adc (R : Region) (a i : Nat) (b : Bool) : (R.setBit a i b).adc = R.adc := rfl
@[simp] theorem Region.setBit_tm (R : Region) (a i : Nat) (b : Bool) : (R.setBit a i b).tm = R.tm := rfl
@[simp] theorem Region.setBit_load (R : Region) (a i : Nat) (b : Bool) : (R.setBit a i b).load = R.load := rfl
@[simp] theorem Region.setBit_lp (R : Region) (a i : Nat) (b : Bool) : (R.setBit a i b).lp = R.lp := rfl
@[simp] theorem Region.setBit_fb (R : Region) (a i : Nat) (b : Bool) : (R.setBit a i b).fb = R.fb := rfl
@[simp] theorem Region.setBit_faultQ (R : Region) (a i : Nat) (b : Bool) : (R.setBit a i b).faultQ = R.faultQ := rfl
@[simp] theorem Region.setBit_dma (R : Region) (a i : Nat) (b : Bool) : (R.setBit a i b).dma = R.dma := rfl
@[simp] theorem Region.setBit_fp (R : Region) (a i : Nat) (b : Bool) : (R.setBit a i b).fp = R.fp := rfl
@[simp] theorem Region.setBit_tk (R : Region) (a i : Nat) (b : Bool) : (R.setBit a i b).tk = R.tk := rfl
@[simp] theorem Region.setBit_sweep (R : Region) (a i : Nat) (b : Bool) : (R.setBit a i b).sweep = R.sweep := rfl
@[simp] theorem Region.setBit_tlSeq (R : Region) (a i : Nat) (b : Bool) : (R.setBit a i b).tlSeq = R.tlSeq := rfl
@[simp] theorem Region.setBit_tlCarry (R : Region) (a i : Nat) (b : Bool) : (R.setBit a i b).tlCarry = R.tlCarry := rfl
@[simp] theorem Region.setBit_rcorr (R : Region) (a i : Nat) (b : Bool) : (R.setBit a i b).rcorr = R.rcorr := rfl
@[simp] theorem Region.setBit_railBad (R : Region) (a i : Nat) (b : Bool) : (R.setBit a i b).railBad = R.railBad := rfl
@[simp] theorem Region.setBit_autorun (R : Region) (a i : Nat) (b : Bool) : (R.setBit a i b).autorun = R.autorun := rfl
@[simp] theorem Region.setBit_snapReq (R : Region) (a i : Nat) (b : Bool) : (R.setBit a i b).snapReq = R.snapReq := rfl
@[simp] theorem Region.setBit_pmHeld (R : Region) (a i : Nat) (b : Bool) : (R.setBit a i b).pmHeld = R.pmHeld := rfl
@[simp] theorem Region.setBit_inReset (R : Region) (a i : Nat) (b : Bool) : (R.setBit a i b).inReset = R.inReset := rfl
@[simp] theorem Region.setBit_blockReset (R : Region) (a i : Nat) (b : Bool) : (R.setBit a i b).blockReset = R.blockReset := rfl

@[simp] theorem Region.count_banks (R : Region) (a n : Nat) : (R.count a n).banks = R.banks := rfl
@[simp] theorem Region.count_cells (R : Region) (a n : Nat) : (R.count a n).cells = R.cells := rfl
@[simp] theorem Region.count_ev (R : Region) (a n : Nat) : (R.count a n).ev = R.ev := rfl
@[simp] theorem Region.count_adc (R : Region) (a n : Nat) : (R.count a n).adc = R.adc := rfl
@[simp] theorem Region.count_tm (R : Region) (a n : Nat) : (R.count a n).tm = R.tm := rfl
@[simp] theorem Region.count_load (R : Region) (a n : Nat) : (R.count a n).load = R.load := rfl
@[simp] theorem Region.count_lp (R : Region) (a n : Nat) : (R.count a n).lp = R.lp := rfl
@[simp] theorem Region.count_fb (R : Region) (a n : Nat) : (R.count a n).fb = R.fb := rfl
@[simp] theorem Region.count_faultQ (R : Region) (a n : Nat) : (R.count a n).faultQ = R.faultQ := rfl
@[simp] theorem Region.count_dma (R : Region) (a n : Nat) : (R.count a n).dma = R.dma := rfl
@[simp] theorem Region.count_fp (R : Region) (a n : Nat) : (R.count a n).fp = R.fp := rfl
@[simp] theorem Region.count_tk (R : Region) (a n : Nat) : (R.count a n).tk = R.tk := rfl
@[simp] theorem Region.count_sweep (R : Region) (a n : Nat) : (R.count a n).sweep = R.sweep := rfl
@[simp] theorem Region.count_tlSeq (R : Region) (a n : Nat) : (R.count a n).tlSeq = R.tlSeq := rfl
@[simp] theorem Region.count_tlCarry (R : Region) (a n : Nat) : (R.count a n).tlCarry = R.tlCarry := rfl
@[simp] theorem Region.count_rcorr (R : Region) (a n : Nat) : (R.count a n).rcorr = R.rcorr := rfl
@[simp] theorem Region.count_railBad (R : Region) (a n : Nat) : (R.count a n).railBad = R.railBad := rfl
@[simp] theorem Region.count_autorun (R : Region) (a n : Nat) : (R.count a n).autorun = R.autorun := rfl
@[simp] theorem Region.count_snapReq (R : Region) (a n : Nat) : (R.count a n).snapReq = R.snapReq := rfl
@[simp] theorem Region.count_pmHeld (R : Region) (a n : Nat) : (R.count a n).pmHeld = R.pmHeld := rfl
@[simp] theorem Region.count_inReset (R : Region) (a n : Nat) : (R.count a n).inReset = R.inReset := rfl
@[simp] theorem Region.count_blockReset (R : Region) (a n : Nat) : (R.count a n).blockReset = R.blockReset := rfl

@[simp] theorem Region.countWrap_banks (R : Region) (a n : Nat) : (R.countWrap a n).banks = R.banks := rfl
@[simp] theorem Region.countWrap_cells (R : Region) (a n : Nat) : (R.countWrap a n).cells = R.cells := rfl
@[simp] theorem Region.countWrap_ev (R : Region) (a n : Nat) : (R.countWrap a n).ev = R.ev := rfl
@[simp] theorem Region.countWrap_adc (R : Region) (a n : Nat) : (R.countWrap a n).adc = R.adc := rfl
@[simp] theorem Region.countWrap_tm (R : Region) (a n : Nat) : (R.countWrap a n).tm = R.tm := rfl
@[simp] theorem Region.countWrap_load (R : Region) (a n : Nat) : (R.countWrap a n).load = R.load := rfl
@[simp] theorem Region.countWrap_lp (R : Region) (a n : Nat) : (R.countWrap a n).lp = R.lp := rfl
@[simp] theorem Region.countWrap_fb (R : Region) (a n : Nat) : (R.countWrap a n).fb = R.fb := rfl
@[simp] theorem Region.countWrap_faultQ (R : Region) (a n : Nat) : (R.countWrap a n).faultQ = R.faultQ := rfl
@[simp] theorem Region.countWrap_dma (R : Region) (a n : Nat) : (R.countWrap a n).dma = R.dma := rfl
@[simp] theorem Region.countWrap_fp (R : Region) (a n : Nat) : (R.countWrap a n).fp = R.fp := rfl
@[simp] theorem Region.countWrap_tk (R : Region) (a n : Nat) : (R.countWrap a n).tk = R.tk := rfl
@[simp] theorem Region.countWrap_sweep (R : Region) (a n : Nat) : (R.countWrap a n).sweep = R.sweep := rfl
@[simp] theorem Region.countWrap_tlSeq (R : Region) (a n : Nat) : (R.countWrap a n).tlSeq = R.tlSeq := rfl
@[simp] theorem Region.countWrap_tlCarry (R : Region) (a n : Nat) : (R.countWrap a n).tlCarry = R.tlCarry := rfl
@[simp] theorem Region.countWrap_rcorr (R : Region) (a n : Nat) : (R.countWrap a n).rcorr = R.rcorr := rfl
@[simp] theorem Region.countWrap_railBad (R : Region) (a n : Nat) : (R.countWrap a n).railBad = R.railBad := rfl
@[simp] theorem Region.countWrap_autorun (R : Region) (a n : Nat) : (R.countWrap a n).autorun = R.autorun := rfl
@[simp] theorem Region.countWrap_snapReq (R : Region) (a n : Nat) : (R.countWrap a n).snapReq = R.snapReq := rfl
@[simp] theorem Region.countWrap_pmHeld (R : Region) (a n : Nat) : (R.countWrap a n).pmHeld = R.pmHeld := rfl
@[simp] theorem Region.countWrap_inReset (R : Region) (a n : Nat) : (R.countWrap a n).inReset = R.inReset := rfl
@[simp] theorem Region.countWrap_blockReset (R : Region) (a n : Nat) : (R.countWrap a n).blockReset = R.blockReset := rfl

@[simp] theorem Region.setPair_banks (R : Region) (lo hi : Nat) (v : BitVec 64) : (R.setPair lo hi v).banks = R.banks := rfl
@[simp] theorem Region.setPair_cells (R : Region) (lo hi : Nat) (v : BitVec 64) : (R.setPair lo hi v).cells = R.cells := rfl
@[simp] theorem Region.setPair_ev (R : Region) (lo hi : Nat) (v : BitVec 64) : (R.setPair lo hi v).ev = R.ev := rfl
@[simp] theorem Region.setPair_adc (R : Region) (lo hi : Nat) (v : BitVec 64) : (R.setPair lo hi v).adc = R.adc := rfl
@[simp] theorem Region.setPair_tm (R : Region) (lo hi : Nat) (v : BitVec 64) : (R.setPair lo hi v).tm = R.tm := rfl
@[simp] theorem Region.setPair_load (R : Region) (lo hi : Nat) (v : BitVec 64) : (R.setPair lo hi v).load = R.load := rfl
@[simp] theorem Region.setPair_lp (R : Region) (lo hi : Nat) (v : BitVec 64) : (R.setPair lo hi v).lp = R.lp := rfl
@[simp] theorem Region.setPair_fb (R : Region) (lo hi : Nat) (v : BitVec 64) : (R.setPair lo hi v).fb = R.fb := rfl
@[simp] theorem Region.setPair_faultQ (R : Region) (lo hi : Nat) (v : BitVec 64) : (R.setPair lo hi v).faultQ = R.faultQ := rfl
@[simp] theorem Region.setPair_dma (R : Region) (lo hi : Nat) (v : BitVec 64) : (R.setPair lo hi v).dma = R.dma := rfl
@[simp] theorem Region.setPair_fp (R : Region) (lo hi : Nat) (v : BitVec 64) : (R.setPair lo hi v).fp = R.fp := rfl
@[simp] theorem Region.setPair_tk (R : Region) (lo hi : Nat) (v : BitVec 64) : (R.setPair lo hi v).tk = R.tk := rfl
@[simp] theorem Region.setPair_sweep (R : Region) (lo hi : Nat) (v : BitVec 64) : (R.setPair lo hi v).sweep = R.sweep := rfl
@[simp] theorem Region.setPair_tlSeq (R : Region) (lo hi : Nat) (v : BitVec 64) : (R.setPair lo hi v).tlSeq = R.tlSeq := rfl
@[simp] theorem Region.setPair_tlCarry (R : Region) (lo hi : Nat) (v : BitVec 64) : (R.setPair lo hi v).tlCarry = R.tlCarry := rfl
@[simp] theorem Region.setPair_rcorr (R : Region) (lo hi : Nat) (v : BitVec 64) : (R.setPair lo hi v).rcorr = R.rcorr := rfl
@[simp] theorem Region.setPair_railBad (R : Region) (lo hi : Nat) (v : BitVec 64) : (R.setPair lo hi v).railBad = R.railBad := rfl
@[simp] theorem Region.setPair_autorun (R : Region) (lo hi : Nat) (v : BitVec 64) : (R.setPair lo hi v).autorun = R.autorun := rfl
@[simp] theorem Region.setPair_snapReq (R : Region) (lo hi : Nat) (v : BitVec 64) : (R.setPair lo hi v).snapReq = R.snapReq := rfl
@[simp] theorem Region.setPair_pmHeld (R : Region) (lo hi : Nat) (v : BitVec 64) : (R.setPair lo hi v).pmHeld = R.pmHeld := rfl
@[simp] theorem Region.setPair_inReset (R : Region) (lo hi : Nat) (v : BitVec 64) : (R.setPair lo hi v).inReset = R.inReset := rfl
@[simp] theorem Region.setPair_blockReset (R : Region) (lo hi : Nat) (v : BitVec 64) : (R.setPair lo hi v).blockReset = R.blockReset := rfl

@[simp] theorem Region.setCell_regs (R : Region) (i : Nat) (k : Cell) : (R.setCell i k).regs = R.regs := rfl
@[simp] theorem Region.setCell_banks (R : Region) (i : Nat) (k : Cell) : (R.setCell i k).banks = R.banks := rfl
@[simp] theorem Region.setCell_ev (R : Region) (i : Nat) (k : Cell) : (R.setCell i k).ev = R.ev := rfl
@[simp] theorem Region.setCell_adc (R : Region) (i : Nat) (k : Cell) : (R.setCell i k).adc = R.adc := rfl
@[simp] theorem Region.setCell_tm (R : Region) (i : Nat) (k : Cell) : (R.setCell i k).tm = R.tm := rfl
@[simp] theorem Region.setCell_load (R : Region) (i : Nat) (k : Cell) : (R.setCell i k).load = R.load := rfl
@[simp] theorem Region.setCell_lp (R : Region) (i : Nat) (k : Cell) : (R.setCell i k).lp = R.lp := rfl
@[simp] theorem Region.setCell_fb (R : Region) (i : Nat) (k : Cell) : (R.setCell i k).fb = R.fb := rfl
@[simp] theorem Region.setCell_faultQ (R : Region) (i : Nat) (k : Cell) : (R.setCell i k).faultQ = R.faultQ := rfl
@[simp] theorem Region.setCell_dma (R : Region) (i : Nat) (k : Cell) : (R.setCell i k).dma = R.dma := rfl
@[simp] theorem Region.setCell_fp (R : Region) (i : Nat) (k : Cell) : (R.setCell i k).fp = R.fp := rfl
@[simp] theorem Region.setCell_tk (R : Region) (i : Nat) (k : Cell) : (R.setCell i k).tk = R.tk := rfl
@[simp] theorem Region.setCell_sweep (R : Region) (i : Nat) (k : Cell) : (R.setCell i k).sweep = R.sweep := rfl
@[simp] theorem Region.setCell_tlSeq (R : Region) (i : Nat) (k : Cell) : (R.setCell i k).tlSeq = R.tlSeq := rfl
@[simp] theorem Region.setCell_tlCarry (R : Region) (i : Nat) (k : Cell) : (R.setCell i k).tlCarry = R.tlCarry := rfl
@[simp] theorem Region.setCell_rcorr (R : Region) (i : Nat) (k : Cell) : (R.setCell i k).rcorr = R.rcorr := rfl
@[simp] theorem Region.setCell_railBad (R : Region) (i : Nat) (k : Cell) : (R.setCell i k).railBad = R.railBad := rfl
@[simp] theorem Region.setCell_autorun (R : Region) (i : Nat) (k : Cell) : (R.setCell i k).autorun = R.autorun := rfl
@[simp] theorem Region.setCell_snapReq (R : Region) (i : Nat) (k : Cell) : (R.setCell i k).snapReq = R.snapReq := rfl
@[simp] theorem Region.setCell_pmHeld (R : Region) (i : Nat) (k : Cell) : (R.setCell i k).pmHeld = R.pmHeld := rfl
@[simp] theorem Region.setCell_inReset (R : Region) (i : Nat) (k : Cell) : (R.setCell i k).inReset = R.inReset := rfl
@[simp] theorem Region.setCell_blockReset (R : Region) (i : Nat) (k : Cell) : (R.setCell i k).blockReset = R.blockReset := rfl

@[simp] theorem Region.onCell_regs (R : Region) (i : Nat) (f : Cell → Cell) : (R.onCell i f).regs = R.regs := rfl
@[simp] theorem Region.onCell_banks (R : Region) (i : Nat) (f : Cell → Cell) : (R.onCell i f).banks = R.banks := rfl
@[simp] theorem Region.onCell_ev (R : Region) (i : Nat) (f : Cell → Cell) : (R.onCell i f).ev = R.ev := rfl
@[simp] theorem Region.onCell_adc (R : Region) (i : Nat) (f : Cell → Cell) : (R.onCell i f).adc = R.adc := rfl
@[simp] theorem Region.onCell_tm (R : Region) (i : Nat) (f : Cell → Cell) : (R.onCell i f).tm = R.tm := rfl
@[simp] theorem Region.onCell_load (R : Region) (i : Nat) (f : Cell → Cell) : (R.onCell i f).load = R.load := rfl
@[simp] theorem Region.onCell_lp (R : Region) (i : Nat) (f : Cell → Cell) : (R.onCell i f).lp = R.lp := rfl
@[simp] theorem Region.onCell_fb (R : Region) (i : Nat) (f : Cell → Cell) : (R.onCell i f).fb = R.fb := rfl
@[simp] theorem Region.onCell_faultQ (R : Region) (i : Nat) (f : Cell → Cell) : (R.onCell i f).faultQ = R.faultQ := rfl
@[simp] theorem Region.onCell_dma (R : Region) (i : Nat) (f : Cell → Cell) : (R.onCell i f).dma = R.dma := rfl
@[simp] theorem Region.onCell_fp (R : Region) (i : Nat) (f : Cell → Cell) : (R.onCell i f).fp = R.fp := rfl
@[simp] theorem Region.onCell_tk (R : Region) (i : Nat) (f : Cell → Cell) : (R.onCell i f).tk = R.tk := rfl
@[simp] theorem Region.onCell_sweep (R : Region) (i : Nat) (f : Cell → Cell) : (R.onCell i f).sweep = R.sweep := rfl
@[simp] theorem Region.onCell_tlSeq (R : Region) (i : Nat) (f : Cell → Cell) : (R.onCell i f).tlSeq = R.tlSeq := rfl
@[simp] theorem Region.onCell_tlCarry (R : Region) (i : Nat) (f : Cell → Cell) : (R.onCell i f).tlCarry = R.tlCarry := rfl
@[simp] theorem Region.onCell_rcorr (R : Region) (i : Nat) (f : Cell → Cell) : (R.onCell i f).rcorr = R.rcorr := rfl
@[simp] theorem Region.onCell_railBad (R : Region) (i : Nat) (f : Cell → Cell) : (R.onCell i f).railBad = R.railBad := rfl
@[simp] theorem Region.onCell_autorun (R : Region) (i : Nat) (f : Cell → Cell) : (R.onCell i f).autorun = R.autorun := rfl
@[simp] theorem Region.onCell_snapReq (R : Region) (i : Nat) (f : Cell → Cell) : (R.onCell i f).snapReq = R.snapReq := rfl
@[simp] theorem Region.onCell_pmHeld (R : Region) (i : Nat) (f : Cell → Cell) : (R.onCell i f).pmHeld = R.pmHeld := rfl
@[simp] theorem Region.onCell_inReset (R : Region) (i : Nat) (f : Cell → Cell) : (R.onCell i f).inReset = R.inReset := rfl
@[simp] theorem Region.onCell_blockReset (R : Region) (i : Nat) (f : Cell → Cell) : (R.onCell i f).blockReset = R.blockReset := rfl

@[simp] theorem Region.raise_regs (R : Region) (x : Ctx) (n : Nat) : (R.raise x n).regs = R.regs := rfl
@[simp] theorem Region.raise_banks (R : Region) (x : Ctx) (n : Nat) : (R.raise x n).banks = R.banks := rfl
@[simp] theorem Region.raise_cells (R : Region) (x : Ctx) (n : Nat) : (R.raise x n).cells = R.cells := rfl
@[simp] theorem Region.raise_adc (R : Region) (x : Ctx) (n : Nat) : (R.raise x n).adc = R.adc := rfl
@[simp] theorem Region.raise_tm (R : Region) (x : Ctx) (n : Nat) : (R.raise x n).tm = R.tm := rfl
@[simp] theorem Region.raise_load (R : Region) (x : Ctx) (n : Nat) : (R.raise x n).load = R.load := rfl
@[simp] theorem Region.raise_lp (R : Region) (x : Ctx) (n : Nat) : (R.raise x n).lp = R.lp := rfl
@[simp] theorem Region.raise_fb (R : Region) (x : Ctx) (n : Nat) : (R.raise x n).fb = R.fb := rfl
@[simp] theorem Region.raise_faultQ (R : Region) (x : Ctx) (n : Nat) : (R.raise x n).faultQ = R.faultQ := rfl
@[simp] theorem Region.raise_dma (R : Region) (x : Ctx) (n : Nat) : (R.raise x n).dma = R.dma := rfl
@[simp] theorem Region.raise_fp (R : Region) (x : Ctx) (n : Nat) : (R.raise x n).fp = R.fp := rfl
@[simp] theorem Region.raise_tk (R : Region) (x : Ctx) (n : Nat) : (R.raise x n).tk = R.tk := rfl
@[simp] theorem Region.raise_sweep (R : Region) (x : Ctx) (n : Nat) : (R.raise x n).sweep = R.sweep := rfl
@[simp] theorem Region.raise_tlSeq (R : Region) (x : Ctx) (n : Nat) : (R.raise x n).tlSeq = R.tlSeq := rfl
@[simp] theorem Region.raise_tlCarry (R : Region) (x : Ctx) (n : Nat) : (R.raise x n).tlCarry = R.tlCarry := rfl
@[simp] theorem Region.raise_rcorr (R : Region) (x : Ctx) (n : Nat) : (R.raise x n).rcorr = R.rcorr := rfl
@[simp] theorem Region.raise_railBad (R : Region) (x : Ctx) (n : Nat) : (R.raise x n).railBad = R.railBad := rfl
@[simp] theorem Region.raise_autorun (R : Region) (x : Ctx) (n : Nat) : (R.raise x n).autorun = R.autorun := rfl
@[simp] theorem Region.raise_snapReq (R : Region) (x : Ctx) (n : Nat) : (R.raise x n).snapReq = R.snapReq := rfl
@[simp] theorem Region.raise_pmHeld (R : Region) (x : Ctx) (n : Nat) : (R.raise x n).pmHeld = R.pmHeld := rfl
@[simp] theorem Region.raise_inReset (R : Region) (x : Ctx) (n : Nat) : (R.raise x n).inReset = R.inReset := rfl
@[simp] theorem Region.raise_blockReset (R : Region) (x : Ctx) (n : Nat) : (R.raise x n).blockReset = R.blockReset := rfl

@[simp] theorem Region.raiseAt_regs (R : Region) (n : Nat) (t : Ticks) : (R.raiseAt n t).regs = R.regs := rfl
@[simp] theorem Region.raiseAt_banks (R : Region) (n : Nat) (t : Ticks) : (R.raiseAt n t).banks = R.banks := rfl
@[simp] theorem Region.raiseAt_cells (R : Region) (n : Nat) (t : Ticks) : (R.raiseAt n t).cells = R.cells := rfl
@[simp] theorem Region.raiseAt_adc (R : Region) (n : Nat) (t : Ticks) : (R.raiseAt n t).adc = R.adc := rfl
@[simp] theorem Region.raiseAt_tm (R : Region) (n : Nat) (t : Ticks) : (R.raiseAt n t).tm = R.tm := rfl
@[simp] theorem Region.raiseAt_load (R : Region) (n : Nat) (t : Ticks) : (R.raiseAt n t).load = R.load := rfl
@[simp] theorem Region.raiseAt_lp (R : Region) (n : Nat) (t : Ticks) : (R.raiseAt n t).lp = R.lp := rfl
@[simp] theorem Region.raiseAt_fb (R : Region) (n : Nat) (t : Ticks) : (R.raiseAt n t).fb = R.fb := rfl
@[simp] theorem Region.raiseAt_faultQ (R : Region) (n : Nat) (t : Ticks) : (R.raiseAt n t).faultQ = R.faultQ := rfl
@[simp] theorem Region.raiseAt_dma (R : Region) (n : Nat) (t : Ticks) : (R.raiseAt n t).dma = R.dma := rfl
@[simp] theorem Region.raiseAt_fp (R : Region) (n : Nat) (t : Ticks) : (R.raiseAt n t).fp = R.fp := rfl
@[simp] theorem Region.raiseAt_tk (R : Region) (n : Nat) (t : Ticks) : (R.raiseAt n t).tk = R.tk := rfl
@[simp] theorem Region.raiseAt_sweep (R : Region) (n : Nat) (t : Ticks) : (R.raiseAt n t).sweep = R.sweep := rfl
@[simp] theorem Region.raiseAt_tlSeq (R : Region) (n : Nat) (t : Ticks) : (R.raiseAt n t).tlSeq = R.tlSeq := rfl
@[simp] theorem Region.raiseAt_tlCarry (R : Region) (n : Nat) (t : Ticks) : (R.raiseAt n t).tlCarry = R.tlCarry := rfl
@[simp] theorem Region.raiseAt_rcorr (R : Region) (n : Nat) (t : Ticks) : (R.raiseAt n t).rcorr = R.rcorr := rfl
@[simp] theorem Region.raiseAt_railBad (R : Region) (n : Nat) (t : Ticks) : (R.raiseAt n t).railBad = R.railBad := rfl
@[simp] theorem Region.raiseAt_autorun (R : Region) (n : Nat) (t : Ticks) : (R.raiseAt n t).autorun = R.autorun := rfl
@[simp] theorem Region.raiseAt_snapReq (R : Region) (n : Nat) (t : Ticks) : (R.raiseAt n t).snapReq = R.snapReq := rfl
@[simp] theorem Region.raiseAt_pmHeld (R : Region) (n : Nat) (t : Ticks) : (R.raiseAt n t).pmHeld = R.pmHeld := rfl
@[simp] theorem Region.raiseAt_inReset (R : Region) (n : Nat) (t : Ticks) : (R.raiseAt n t).inReset = R.inReset := rfl
@[simp] theorem Region.raiseAt_blockReset (R : Region) (n : Nat) (t : Ticks) : (R.raiseAt n t).blockReset = R.blockReset := rfl

/-! ## Updates of a cell -/

@[simp] theorem Cell.setG_acc (k : Cell) (r : RegNo) (v : Word) : (k.setG r v).acc = k.acc := by unfold Cell.setG; split <;> rfl
@[simp] theorem Cell.setG_pc (k : Cell) (r : RegNo) (v : Word) : (k.setG r v).pc = k.pc := by unfold Cell.setG; split <;> rfl
@[simp] theorem Cell.setG_rs (k : Cell) (r : RegNo) (v : Word) : (k.setG r v).rs = k.rs := by unfold Cell.setG; split <;> rfl
@[simp] theorem Cell.setG_io (k : Cell) (r : RegNo) (v : Word) : (k.setG r v).io = k.io := by unfold Cell.setG; split <;> rfl
@[simp] theorem Cell.setG_imem (k : Cell) (r : RegNo) (v : Word) : (k.setG r v).imem = k.imem := by unfold Cell.setG; split <;> rfl
@[simp] theorem Cell.setG_dmem (k : Cell) (r : RegNo) (v : Word) : (k.setG r v).dmem = k.dmem := by unfold Cell.setG; split <;> rfl
@[simp] theorem Cell.setG_cstore (k : Cell) (r : RegNo) (v : Word) : (k.setG r v).cstore = k.cstore := by unfold Cell.setG; split <;> rfl
@[simp] theorem Cell.setG_disp (k : Cell) (r : RegNo) (v : Word) : (k.setG r v).disp = k.disp := by unfold Cell.setG; split <;> rfl
@[simp] theorem Cell.setG_coef (k : Cell) (r : RegNo) (v : Word) : (k.setG r v).coef = k.coef := by unfold Cell.setG; split <;> rfl
@[simp] theorem Cell.setG_loadQ (k : Cell) (r : RegNo) (v : Word) : (k.setG r v).loadQ = k.loadQ := by unfold Cell.setG; split <;> rfl
@[simp] theorem Cell.setG_storeBuf (k : Cell) (r : RegNo) (v : Word) : (k.setG r v).storeBuf = k.storeBuf := by unfold Cell.setG; split <;> rfl
@[simp] theorem Cell.setG_acks (k : Cell) (r : RegNo) (v : Word) : (k.setG r v).acks = k.acks := by unfold Cell.setG; split <;> rfl
@[simp] theorem Cell.setG_longOps (k : Cell) (r : RegNo) (v : Word) : (k.setG r v).longOps = k.longOps := by unfold Cell.setG; split <;> rfl
@[simp] theorem Cell.setG_imp (k : Cell) (r : RegNo) (v : Word) : (k.setG r v).imp = k.imp := by unfold Cell.setG; split <;> rfl
@[simp] theorem Cell.setG_seq (k : Cell) (r : RegNo) (v : Word) : (k.setG r v).seq = k.seq := by unfold Cell.setG; split <;> rfl
@[simp] theorem Cell.setG_pred (k : Cell) (r : RegNo) (v : Word) : (k.setG r v).pred = k.pred := by unfold Cell.setG; split <;> rfl
@[simp] theorem Cell.setG_ports (k : Cell) (r : RegNo) (v : Word) : (k.setG r v).ports = k.ports := by unfold Cell.setG; split <;> rfl
@[simp] theorem Cell.setG_shadow (k : Cell) (r : RegNo) (v : Word) : (k.setG r v).shadow = k.shadow := by unfold Cell.setG; split <;> rfl
@[simp] theorem Cell.setG_escOrigin (k : Cell) (r : RegNo) (v : Word) : (k.setG r v).escOrigin = k.escOrigin := by unfold Cell.setG; split <;> rfl
@[simp] theorem Cell.setG_halted (k : Cell) (r : RegNo) (v : Word) : (k.setG r v).halted = k.halted := by unfold Cell.setG; split <;> rfl
@[simp] theorem Cell.setG_awaiting (k : Cell) (r : RegNo) (v : Word) : (k.setG r v).awaiting = k.awaiting := by unfold Cell.setG; split <;> rfl
@[simp] theorem Cell.setG_stepping (k : Cell) (r : RegNo) (v : Word) : (k.setG r v).stepping = k.stepping := by unfold Cell.setG; split <;> rfl
@[simp] theorem Cell.setG_byDebug (k : Cell) (r : RegNo) (v : Word) : (k.setG r v).byDebug = k.byDebug := by unfold Cell.setG; split <;> rfl
@[simp] theorem Cell.setG_inReset (k : Cell) (r : RegNo) (v : Word) : (k.setG r v).inReset = k.inReset := by unfold Cell.setG; split <;> rfl
@[simp] theorem Cell.setG_hold (k : Cell) (r : RegNo) (v : Word) : (k.setG r v).hold = k.hold := by unfold Cell.setG; split <;> rfl
@[simp] theorem Cell.setG_reachErr (k : Cell) (r : RegNo) (v : Word) : (k.setG r v).reachErr = k.reachErr := by unfold Cell.setG; split <;> rfl
@[simp] theorem Cell.setG_slot (k : Cell) (r : RegNo) (v : Word) : (k.setG r v).slot = k.slot := by unfold Cell.setG; split <;> rfl
@[simp] theorem Cell.setG_micro (k : Cell) (r : RegNo) (v : Word) : (k.setG r v).micro = k.micro := by unfold Cell.setG; split <;> rfl
@[simp] theorem Cell.setG_lastPar (k : Cell) (r : RegNo) (v : Word) : (k.setG r v).lastPar = k.lastPar := by unfold Cell.setG; split <;> rfl
@[simp] theorem Cell.setG_swapDue (k : Cell) (r : RegNo) (v : Word) : (k.setG r v).swapDue = k.swapDue := by unfold Cell.setG; split <;> rfl
@[simp] theorem Cell.setG_behind (k : Cell) (r : RegNo) (v : Word) : (k.setG r v).behind = k.behind := by unfold Cell.setG; split <;> rfl

@[simp] theorem Cell.setIo_gpr (k : Cell) (a : Nat) (v : Word) : (k.setIo a v).gpr = k.gpr := rfl
@[simp] theorem Cell.setIo_acc (k : Cell) (a : Nat) (v : Word) : (k.setIo a v).acc = k.acc := rfl
@[simp] theorem Cell.setIo_pc (k : Cell) (a : Nat) (v : Word) : (k.setIo a v).pc = k.pc := rfl
@[simp] theorem Cell.setIo_rs (k : Cell) (a : Nat) (v : Word) : (k.setIo a v).rs = k.rs := rfl
@[simp] theorem Cell.setIo_imem (k : Cell) (a : Nat) (v : Word) : (k.setIo a v).imem = k.imem := rfl
@[simp] theorem Cell.setIo_dmem (k : Cell) (a : Nat) (v : Word) : (k.setIo a v).dmem = k.dmem := rfl
@[simp] theorem Cell.setIo_cstore (k : Cell) (a : Nat) (v : Word) : (k.setIo a v).cstore = k.cstore := rfl
@[simp] theorem Cell.setIo_disp (k : Cell) (a : Nat) (v : Word) : (k.setIo a v).disp = k.disp := rfl
@[simp] theorem Cell.setIo_coef (k : Cell) (a : Nat) (v : Word) : (k.setIo a v).coef = k.coef := rfl
@[simp] theorem Cell.setIo_loadQ (k : Cell) (a : Nat) (v : Word) : (k.setIo a v).loadQ = k.loadQ := rfl
@[simp] theorem Cell.setIo_storeBuf (k : Cell) (a : Nat) (v : Word) : (k.setIo a v).storeBuf = k.storeBuf := rfl
@[simp] theorem Cell.setIo_acks (k : Cell) (a : Nat) (v : Word) : (k.setIo a v).acks = k.acks := rfl
@[simp] theorem Cell.setIo_longOps (k : Cell) (a : Nat) (v : Word) : (k.setIo a v).longOps = k.longOps := rfl
@[simp] theorem Cell.setIo_imp (k : Cell) (a : Nat) (v : Word) : (k.setIo a v).imp = k.imp := rfl
@[simp] theorem Cell.setIo_seq (k : Cell) (a : Nat) (v : Word) : (k.setIo a v).seq = k.seq := rfl
@[simp] theorem Cell.setIo_pred (k : Cell) (a : Nat) (v : Word) : (k.setIo a v).pred = k.pred := rfl
@[simp] theorem Cell.setIo_ports (k : Cell) (a : Nat) (v : Word) : (k.setIo a v).ports = k.ports := rfl
@[simp] theorem Cell.setIo_shadow (k : Cell) (a : Nat) (v : Word) : (k.setIo a v).shadow = k.shadow := rfl
@[simp] theorem Cell.setIo_escOrigin (k : Cell) (a : Nat) (v : Word) : (k.setIo a v).escOrigin = k.escOrigin := rfl
@[simp] theorem Cell.setIo_halted (k : Cell) (a : Nat) (v : Word) : (k.setIo a v).halted = k.halted := rfl
@[simp] theorem Cell.setIo_awaiting (k : Cell) (a : Nat) (v : Word) : (k.setIo a v).awaiting = k.awaiting := rfl
@[simp] theorem Cell.setIo_stepping (k : Cell) (a : Nat) (v : Word) : (k.setIo a v).stepping = k.stepping := rfl
@[simp] theorem Cell.setIo_byDebug (k : Cell) (a : Nat) (v : Word) : (k.setIo a v).byDebug = k.byDebug := rfl
@[simp] theorem Cell.setIo_inReset (k : Cell) (a : Nat) (v : Word) : (k.setIo a v).inReset = k.inReset := rfl
@[simp] theorem Cell.setIo_hold (k : Cell) (a : Nat) (v : Word) : (k.setIo a v).hold = k.hold := rfl
@[simp] theorem Cell.setIo_reachErr (k : Cell) (a : Nat) (v : Word) : (k.setIo a v).reachErr = k.reachErr := rfl
@[simp] theorem Cell.setIo_slot (k : Cell) (a : Nat) (v : Word) : (k.setIo a v).slot = k.slot := rfl
@[simp] theorem Cell.setIo_micro (k : Cell) (a : Nat) (v : Word) : (k.setIo a v).micro = k.micro := rfl
@[simp] theorem Cell.setIo_lastPar (k : Cell) (a : Nat) (v : Word) : (k.setIo a v).lastPar = k.lastPar := rfl
@[simp] theorem Cell.setIo_swapDue (k : Cell) (a : Nat) (v : Word) : (k.setIo a v).swapDue = k.swapDue := rfl
@[simp] theorem Cell.setIo_behind (k : Cell) (a : Nat) (v : Word) : (k.setIo a v).behind = k.behind := rfl

@[simp] theorem Cell.setCstat_gpr (k : Cell) (v : Word) : (k.setCstat v).gpr = k.gpr := rfl
@[simp] theorem Cell.setCstat_acc (k : Cell) (v : Word) : (k.setCstat v).acc = k.acc := rfl
@[simp] theorem Cell.setCstat_pc (k : Cell) (v : Word) : (k.setCstat v).pc = k.pc := rfl
@[simp] theorem Cell.setCstat_rs (k : Cell) (v : Word) : (k.setCstat v).rs = k.rs := rfl
@[simp] theorem Cell.setCstat_imem (k : Cell) (v : Word) : (k.setCstat v).imem = k.imem := rfl
@[simp] theorem Cell.setCstat_dmem (k : Cell) (v : Word) : (k.setCstat v).dmem = k.dmem := rfl
@[simp] theorem Cell.setCstat_cstore (k : Cell) (v : Word) : (k.setCstat v).cstore = k.cstore := rfl
@[simp] theorem Cell.setCstat_disp (k : Cell) (v : Word) : (k.setCstat v).disp = k.disp := rfl
@[simp] theorem Cell.setCstat_coef (k : Cell) (v : Word) : (k.setCstat v).coef = k.coef := rfl
@[simp] theorem Cell.setCstat_loadQ (k : Cell) (v : Word) : (k.setCstat v).loadQ = k.loadQ := rfl
@[simp] theorem Cell.setCstat_storeBuf (k : Cell) (v : Word) : (k.setCstat v).storeBuf = k.storeBuf := rfl
@[simp] theorem Cell.setCstat_acks (k : Cell) (v : Word) : (k.setCstat v).acks = k.acks := rfl
@[simp] theorem Cell.setCstat_longOps (k : Cell) (v : Word) : (k.setCstat v).longOps = k.longOps := rfl
@[simp] theorem Cell.setCstat_imp (k : Cell) (v : Word) : (k.setCstat v).imp = k.imp := rfl
@[simp] theorem Cell.setCstat_seq (k : Cell) (v : Word) : (k.setCstat v).seq = k.seq := rfl
@[simp] theorem Cell.setCstat_pred (k : Cell) (v : Word) : (k.setCstat v).pred = k.pred := rfl
@[simp] theorem Cell.setCstat_ports (k : Cell) (v : Word) : (k.setCstat v).ports = k.ports := rfl
@[simp] theorem Cell.setCstat_shadow (k : Cell) (v : Word) : (k.setCstat v).shadow = k.shadow := rfl
@[simp] theorem Cell.setCstat_escOrigin (k : Cell) (v : Word) : (k.setCstat v).escOrigin = k.escOrigin := rfl
@[simp] theorem Cell.setCstat_halted (k : Cell) (v : Word) : (k.setCstat v).halted = k.halted := rfl
@[simp] theorem Cell.setCstat_awaiting (k : Cell) (v : Word) : (k.setCstat v).awaiting = k.awaiting := rfl
@[simp] theorem Cell.setCstat_stepping (k : Cell) (v : Word) : (k.setCstat v).stepping = k.stepping := rfl
@[simp] theorem Cell.setCstat_byDebug (k : Cell) (v : Word) : (k.setCstat v).byDebug = k.byDebug := rfl
@[simp] theorem Cell.setCstat_inReset (k : Cell) (v : Word) : (k.setCstat v).inReset = k.inReset := rfl
@[simp] theorem Cell.setCstat_hold (k : Cell) (v : Word) : (k.setCstat v).hold = k.hold := rfl
@[simp] theorem Cell.setCstat_reachErr (k : Cell) (v : Word) : (k.setCstat v).reachErr = k.reachErr := rfl
@[simp] theorem Cell.setCstat_slot (k : Cell) (v : Word) : (k.setCstat v).slot = k.slot := rfl
@[simp] theorem Cell.setCstat_micro (k : Cell) (v : Word) : (k.setCstat v).micro = k.micro := rfl
@[simp] theorem Cell.setCstat_lastPar (k : Cell) (v : Word) : (k.setCstat v).lastPar = k.lastPar := rfl
@[simp] theorem Cell.setCstat_swapDue (k : Cell) (v : Word) : (k.setCstat v).swapDue = k.swapDue := rfl
@[simp] theorem Cell.setCstat_behind (k : Cell) (v : Word) : (k.setCstat v).behind = k.behind := rfl

@[simp] theorem Cell.countIo_gpr (k : Cell) (a top : Nat) : (k.countIo a top).gpr = k.gpr := rfl
@[simp] theorem Cell.countIo_acc (k : Cell) (a top : Nat) : (k.countIo a top).acc = k.acc := rfl
@[simp] theorem Cell.countIo_pc (k : Cell) (a top : Nat) : (k.countIo a top).pc = k.pc := rfl
@[simp] theorem Cell.countIo_rs (k : Cell) (a top : Nat) : (k.countIo a top).rs = k.rs := rfl
@[simp] theorem Cell.countIo_imem (k : Cell) (a top : Nat) : (k.countIo a top).imem = k.imem := rfl
@[simp] theorem Cell.countIo_dmem (k : Cell) (a top : Nat) : (k.countIo a top).dmem = k.dmem := rfl
@[simp] theorem Cell.countIo_cstore (k : Cell) (a top : Nat) : (k.countIo a top).cstore = k.cstore := rfl
@[simp] theorem Cell.countIo_disp (k : Cell) (a top : Nat) : (k.countIo a top).disp = k.disp := rfl
@[simp] theorem Cell.countIo_coef (k : Cell) (a top : Nat) : (k.countIo a top).coef = k.coef := rfl
@[simp] theorem Cell.countIo_loadQ (k : Cell) (a top : Nat) : (k.countIo a top).loadQ = k.loadQ := rfl
@[simp] theorem Cell.countIo_storeBuf (k : Cell) (a top : Nat) : (k.countIo a top).storeBuf = k.storeBuf := rfl
@[simp] theorem Cell.countIo_acks (k : Cell) (a top : Nat) : (k.countIo a top).acks = k.acks := rfl
@[simp] theorem Cell.countIo_longOps (k : Cell) (a top : Nat) : (k.countIo a top).longOps = k.longOps := rfl
@[simp] theorem Cell.countIo_imp (k : Cell) (a top : Nat) : (k.countIo a top).imp = k.imp := rfl
@[simp] theorem Cell.countIo_seq (k : Cell) (a top : Nat) : (k.countIo a top).seq = k.seq := rfl
@[simp] theorem Cell.countIo_pred (k : Cell) (a top : Nat) : (k.countIo a top).pred = k.pred := rfl
@[simp] theorem Cell.countIo_ports (k : Cell) (a top : Nat) : (k.countIo a top).ports = k.ports := rfl
@[simp] theorem Cell.countIo_shadow (k : Cell) (a top : Nat) : (k.countIo a top).shadow = k.shadow := rfl
@[simp] theorem Cell.countIo_escOrigin (k : Cell) (a top : Nat) : (k.countIo a top).escOrigin = k.escOrigin := rfl
@[simp] theorem Cell.countIo_halted (k : Cell) (a top : Nat) : (k.countIo a top).halted = k.halted := rfl
@[simp] theorem Cell.countIo_awaiting (k : Cell) (a top : Nat) : (k.countIo a top).awaiting = k.awaiting := rfl
@[simp] theorem Cell.countIo_stepping (k : Cell) (a top : Nat) : (k.countIo a top).stepping = k.stepping := rfl
@[simp] theorem Cell.countIo_byDebug (k : Cell) (a top : Nat) : (k.countIo a top).byDebug = k.byDebug := rfl
@[simp] theorem Cell.countIo_inReset (k : Cell) (a top : Nat) : (k.countIo a top).inReset = k.inReset := rfl
@[simp] theorem Cell.countIo_hold (k : Cell) (a top : Nat) : (k.countIo a top).hold = k.hold := rfl
@[simp] theorem Cell.countIo_reachErr (k : Cell) (a top : Nat) : (k.countIo a top).reachErr = k.reachErr := rfl
@[simp] theorem Cell.countIo_slot (k : Cell) (a top : Nat) : (k.countIo a top).slot = k.slot := rfl
@[simp] theorem Cell.countIo_micro (k : Cell) (a top : Nat) : (k.countIo a top).micro = k.micro := rfl
@[simp] theorem Cell.countIo_lastPar (k : Cell) (a top : Nat) : (k.countIo a top).lastPar = k.lastPar := rfl
@[simp] theorem Cell.countIo_swapDue (k : Cell) (a top : Nat) : (k.countIo a top).swapDue = k.swapDue := rfl
@[simp] theorem Cell.countIo_behind (k : Cell) (a top : Nat) : (k.countIo a top).behind = k.behind := rfl

@[simp] theorem Cell.setDmem_gpr (k : Cell) (a : Nat) (bs : List Byte) : (k.setDmem a bs).gpr = k.gpr := rfl
@[simp] theorem Cell.setDmem_acc (k : Cell) (a : Nat) (bs : List Byte) : (k.setDmem a bs).acc = k.acc := rfl
@[simp] theorem Cell.setDmem_pc (k : Cell) (a : Nat) (bs : List Byte) : (k.setDmem a bs).pc = k.pc := rfl
@[simp] theorem Cell.setDmem_rs (k : Cell) (a : Nat) (bs : List Byte) : (k.setDmem a bs).rs = k.rs := rfl
@[simp] theorem Cell.setDmem_io (k : Cell) (a : Nat) (bs : List Byte) : (k.setDmem a bs).io = k.io := rfl
@[simp] theorem Cell.setDmem_imem (k : Cell) (a : Nat) (bs : List Byte) : (k.setDmem a bs).imem = k.imem := rfl
@[simp] theorem Cell.setDmem_cstore (k : Cell) (a : Nat) (bs : List Byte) : (k.setDmem a bs).cstore = k.cstore := rfl
@[simp] theorem Cell.setDmem_disp (k : Cell) (a : Nat) (bs : List Byte) : (k.setDmem a bs).disp = k.disp := rfl
@[simp] theorem Cell.setDmem_coef (k : Cell) (a : Nat) (bs : List Byte) : (k.setDmem a bs).coef = k.coef := rfl
@[simp] theorem Cell.setDmem_loadQ (k : Cell) (a : Nat) (bs : List Byte) : (k.setDmem a bs).loadQ = k.loadQ := rfl
@[simp] theorem Cell.setDmem_storeBuf (k : Cell) (a : Nat) (bs : List Byte) : (k.setDmem a bs).storeBuf = k.storeBuf := rfl
@[simp] theorem Cell.setDmem_acks (k : Cell) (a : Nat) (bs : List Byte) : (k.setDmem a bs).acks = k.acks := rfl
@[simp] theorem Cell.setDmem_longOps (k : Cell) (a : Nat) (bs : List Byte) : (k.setDmem a bs).longOps = k.longOps := rfl
@[simp] theorem Cell.setDmem_imp (k : Cell) (a : Nat) (bs : List Byte) : (k.setDmem a bs).imp = k.imp := rfl
@[simp] theorem Cell.setDmem_seq (k : Cell) (a : Nat) (bs : List Byte) : (k.setDmem a bs).seq = k.seq := rfl
@[simp] theorem Cell.setDmem_pred (k : Cell) (a : Nat) (bs : List Byte) : (k.setDmem a bs).pred = k.pred := rfl
@[simp] theorem Cell.setDmem_ports (k : Cell) (a : Nat) (bs : List Byte) : (k.setDmem a bs).ports = k.ports := rfl
@[simp] theorem Cell.setDmem_shadow (k : Cell) (a : Nat) (bs : List Byte) : (k.setDmem a bs).shadow = k.shadow := rfl
@[simp] theorem Cell.setDmem_escOrigin (k : Cell) (a : Nat) (bs : List Byte) : (k.setDmem a bs).escOrigin = k.escOrigin := rfl
@[simp] theorem Cell.setDmem_halted (k : Cell) (a : Nat) (bs : List Byte) : (k.setDmem a bs).halted = k.halted := rfl
@[simp] theorem Cell.setDmem_awaiting (k : Cell) (a : Nat) (bs : List Byte) : (k.setDmem a bs).awaiting = k.awaiting := rfl
@[simp] theorem Cell.setDmem_stepping (k : Cell) (a : Nat) (bs : List Byte) : (k.setDmem a bs).stepping = k.stepping := rfl
@[simp] theorem Cell.setDmem_byDebug (k : Cell) (a : Nat) (bs : List Byte) : (k.setDmem a bs).byDebug = k.byDebug := rfl
@[simp] theorem Cell.setDmem_inReset (k : Cell) (a : Nat) (bs : List Byte) : (k.setDmem a bs).inReset = k.inReset := rfl
@[simp] theorem Cell.setDmem_hold (k : Cell) (a : Nat) (bs : List Byte) : (k.setDmem a bs).hold = k.hold := rfl
@[simp] theorem Cell.setDmem_reachErr (k : Cell) (a : Nat) (bs : List Byte) : (k.setDmem a bs).reachErr = k.reachErr := rfl
@[simp] theorem Cell.setDmem_slot (k : Cell) (a : Nat) (bs : List Byte) : (k.setDmem a bs).slot = k.slot := rfl
@[simp] theorem Cell.setDmem_micro (k : Cell) (a : Nat) (bs : List Byte) : (k.setDmem a bs).micro = k.micro := rfl
@[simp] theorem Cell.setDmem_lastPar (k : Cell) (a : Nat) (bs : List Byte) : (k.setDmem a bs).lastPar = k.lastPar := rfl
@[simp] theorem Cell.setDmem_swapDue (k : Cell) (a : Nat) (bs : List Byte) : (k.setDmem a bs).swapDue = k.swapDue := rfl
@[simp] theorem Cell.setDmem_behind (k : Cell) (a : Nat) (bs : List Byte) : (k.setDmem a bs).behind = k.behind := rfl

/-! ## Updates of the chip -/

@[simp] theorem Chip.setReg_msixEnable (h : Chip) (a : Nat) (v : Word) : (h.setReg a v).msixEnable = h.msixEnable := rfl
@[simp] theorem Chip.setReg_msixFmask (h : Chip) (a : Nat) (v : Word) : (h.setReg a v).msixFmask = h.msixFmask := rfl
@[simp] theorem Chip.setReg_d3 (h : Chip) (a : Nat) (v : Word) : (h.setReg a v).d3 = h.d3 := rfl
@[simp] theorem Chip.setReg_aer (h : Chip) (a : Nat) (v : Word) : (h.setReg a v).aer = h.aer := rfl
@[simp] theorem Chip.setReg_snapReq (h : Chip) (a : Nat) (v : Word) : (h.setReg a v).snapReq = h.snapReq := rfl
@[simp] theorem Chip.setReg_wdTaken (h : Chip) (a : Nat) (v : Word) : (h.setReg a v).wdTaken = h.wdTaken := rfl
@[simp] theorem Chip.setReg_mram (h : Chip) (a : Nat) (v : Word) : (h.setReg a v).mram = h.mram := rfl
@[simp] theorem Chip.setReg_eth (h : Chip) (a : Nat) (v : Word) : (h.setReg a v).eth = h.eth := rfl
@[simp] theorem Chip.setReg_xl (h : Chip) (a : Nat) (v : Word) : (h.setReg a v).xl = h.xl := rfl
@[simp] theorem Chip.setReg_jn (h : Chip) (a : Nat) (v : Word) : (h.setReg a v).jn = h.jn := rfl
@[simp] theorem Chip.setReg_boot (h : Chip) (a : Nat) (v : Word) : (h.setReg a v).boot = h.boot := rfl
@[simp] theorem Chip.setReg_life (h : Chip) (a : Nat) (v : Word) : (h.setReg a v).life = h.life := rfl
@[simp] theorem Chip.setReg_lifeSaved (h : Chip) (a : Nat) (v : Word) : (h.setReg a v).lifeSaved = h.lifeSaved := rfl
@[simp] theorem Chip.setReg_rel (h : Chip) (a : Nat) (v : Word) : (h.setReg a v).rel = h.rel := rfl
@[simp] theorem Chip.setReg_replayed (h : Chip) (a : Nat) (v : Word) : (h.setReg a v).replayed = h.replayed := rfl
@[simp] theorem Chip.setReg_kclk (h : Chip) (a : Nat) (v : Word) : (h.setReg a v).kclk = h.kclk := rfl

@[simp] theorem Chip.count_msixEnable (h : Chip) (a n : Nat) : (h.count a n).msixEnable = h.msixEnable := rfl
@[simp] theorem Chip.count_msixFmask (h : Chip) (a n : Nat) : (h.count a n).msixFmask = h.msixFmask := rfl
@[simp] theorem Chip.count_d3 (h : Chip) (a n : Nat) : (h.count a n).d3 = h.d3 := rfl
@[simp] theorem Chip.count_aer (h : Chip) (a n : Nat) : (h.count a n).aer = h.aer := rfl
@[simp] theorem Chip.count_snapReq (h : Chip) (a n : Nat) : (h.count a n).snapReq = h.snapReq := rfl
@[simp] theorem Chip.count_wdTaken (h : Chip) (a n : Nat) : (h.count a n).wdTaken = h.wdTaken := rfl
@[simp] theorem Chip.count_mram (h : Chip) (a n : Nat) : (h.count a n).mram = h.mram := rfl
@[simp] theorem Chip.count_eth (h : Chip) (a n : Nat) : (h.count a n).eth = h.eth := rfl
@[simp] theorem Chip.count_xl (h : Chip) (a n : Nat) : (h.count a n).xl = h.xl := rfl
@[simp] theorem Chip.count_jn (h : Chip) (a n : Nat) : (h.count a n).jn = h.jn := rfl
@[simp] theorem Chip.count_boot (h : Chip) (a n : Nat) : (h.count a n).boot = h.boot := rfl
@[simp] theorem Chip.count_life (h : Chip) (a n : Nat) : (h.count a n).life = h.life := rfl
@[simp] theorem Chip.count_lifeSaved (h : Chip) (a n : Nat) : (h.count a n).lifeSaved = h.lifeSaved := rfl
@[simp] theorem Chip.count_rel (h : Chip) (a n : Nat) : (h.count a n).rel = h.rel := rfl
@[simp] theorem Chip.count_replayed (h : Chip) (a n : Nat) : (h.count a n).replayed = h.replayed := rfl
@[simp] theorem Chip.count_kclk (h : Chip) (a n : Nat) : (h.count a n).kclk = h.kclk := rfl

@[simp] theorem Chip.setPair_msixEnable (h : Chip) (lo hi : Nat) (v : BitVec 64) : (h.setPair lo hi v).msixEnable = h.msixEnable := rfl
@[simp] theorem Chip.setPair_msixFmask (h : Chip) (lo hi : Nat) (v : BitVec 64) : (h.setPair lo hi v).msixFmask = h.msixFmask := rfl
@[simp] theorem Chip.setPair_d3 (h : Chip) (lo hi : Nat) (v : BitVec 64) : (h.setPair lo hi v).d3 = h.d3 := rfl
@[simp] theorem Chip.setPair_aer (h : Chip) (lo hi : Nat) (v : BitVec 64) : (h.setPair lo hi v).aer = h.aer := rfl
@[simp] theorem Chip.setPair_snapReq (h : Chip) (lo hi : Nat) (v : BitVec 64) : (h.setPair lo hi v).snapReq = h.snapReq := rfl
@[simp] theorem Chip.setPair_wdTaken (h : Chip) (lo hi : Nat) (v : BitVec 64) : (h.setPair lo hi v).wdTaken = h.wdTaken := rfl
@[simp] theorem Chip.setPair_mram (h : Chip) (lo hi : Nat) (v : BitVec 64) : (h.setPair lo hi v).mram = h.mram := rfl
@[simp] theorem Chip.setPair_eth (h : Chip) (lo hi : Nat) (v : BitVec 64) : (h.setPair lo hi v).eth = h.eth := rfl
@[simp] theorem Chip.setPair_xl (h : Chip) (lo hi : Nat) (v : BitVec 64) : (h.setPair lo hi v).xl = h.xl := rfl
@[simp] theorem Chip.setPair_jn (h : Chip) (lo hi : Nat) (v : BitVec 64) : (h.setPair lo hi v).jn = h.jn := rfl
@[simp] theorem Chip.setPair_boot (h : Chip) (lo hi : Nat) (v : BitVec 64) : (h.setPair lo hi v).boot = h.boot := rfl
@[simp] theorem Chip.setPair_life (h : Chip) (lo hi : Nat) (v : BitVec 64) : (h.setPair lo hi v).life = h.life := rfl
@[simp] theorem Chip.setPair_lifeSaved (h : Chip) (lo hi : Nat) (v : BitVec 64) : (h.setPair lo hi v).lifeSaved = h.lifeSaved := rfl
@[simp] theorem Chip.setPair_rel (h : Chip) (lo hi : Nat) (v : BitVec 64) : (h.setPair lo hi v).rel = h.rel := rfl
@[simp] theorem Chip.setPair_replayed (h : Chip) (lo hi : Nat) (v : BitVec 64) : (h.setPair lo hi v).replayed = h.replayed := rfl
@[simp] theorem Chip.setPair_kclk (h : Chip) (lo hi : Nat) (v : BitVec 64) : (h.setPair lo hi v).kclk = h.kclk := rfl

@[simp] theorem Chip.mramSet_regs (h : Chip) (o : Nat) (bs : List Byte) : (h.mramSet o bs).regs = h.regs := rfl
@[simp] theorem Chip.mramSet_msixEnable (h : Chip) (o : Nat) (bs : List Byte) : (h.mramSet o bs).msixEnable = h.msixEnable := rfl
@[simp] theorem Chip.mramSet_msixFmask (h : Chip) (o : Nat) (bs : List Byte) : (h.mramSet o bs).msixFmask = h.msixFmask := rfl
@[simp] theorem Chip.mramSet_d3 (h : Chip) (o : Nat) (bs : List Byte) : (h.mramSet o bs).d3 = h.d3 := rfl
@[simp] theorem Chip.mramSet_aer (h : Chip) (o : Nat) (bs : List Byte) : (h.mramSet o bs).aer = h.aer := rfl
@[simp] theorem Chip.mramSet_snapReq (h : Chip) (o : Nat) (bs : List Byte) : (h.mramSet o bs).snapReq = h.snapReq := rfl
@[simp] theorem Chip.mramSet_wdTaken (h : Chip) (o : Nat) (bs : List Byte) : (h.mramSet o bs).wdTaken = h.wdTaken := rfl
@[simp] theorem Chip.mramSet_eth (h : Chip) (o : Nat) (bs : List Byte) : (h.mramSet o bs).eth = h.eth := rfl
@[simp] theorem Chip.mramSet_xl (h : Chip) (o : Nat) (bs : List Byte) : (h.mramSet o bs).xl = h.xl := rfl
@[simp] theorem Chip.mramSet_jn (h : Chip) (o : Nat) (bs : List Byte) : (h.mramSet o bs).jn = h.jn := rfl
@[simp] theorem Chip.mramSet_boot (h : Chip) (o : Nat) (bs : List Byte) : (h.mramSet o bs).boot = h.boot := rfl
@[simp] theorem Chip.mramSet_life (h : Chip) (o : Nat) (bs : List Byte) : (h.mramSet o bs).life = h.life := rfl
@[simp] theorem Chip.mramSet_lifeSaved (h : Chip) (o : Nat) (bs : List Byte) : (h.mramSet o bs).lifeSaved = h.lifeSaved := rfl
@[simp] theorem Chip.mramSet_rel (h : Chip) (o : Nat) (bs : List Byte) : (h.mramSet o bs).rel = h.rel := rfl
@[simp] theorem Chip.mramSet_replayed (h : Chip) (o : Nat) (bs : List Byte) : (h.mramSet o bs).replayed = h.replayed := rfl
@[simp] theorem Chip.mramSet_kclk (h : Chip) (o : Nat) (bs : List Byte) : (h.mramSet o bs).kclk = h.kclk := rfl

/-! ## Reads after updates -/

@[simp] theorem State.region_setRegion (s : State) (r : Nat) (R : Region) : (s.setRegion r R).region r = R := by
  simp [State.region, State.setRegion]

theorem State.region_setRegion_of_ne (s : State) {r q : Nat} (h : q ≠ r) (R : Region) :
    (s.setRegion r R).region q = s.region q := by
  simp [State.region, State.setRegion, mapGet_mapSet_of_ne _ _ h]

theorem State.region_setRegion_ite (s : State) (r q : Nat) (R : Region) :
    (s.setRegion r R).region q = if q = r then R else s.region q := by
  simp [State.region, State.setRegion, mapGet_mapSet]

@[simp] theorem State.region_onRegion (s : State) (r : Nat) (f : Ctx → Region → Region) :
    (s.onRegion r f).region r = f (s.ctx r) (s.region r) := by simp [State.onRegion]

theorem State.region_onRegion_of_ne (s : State) {r q : Nat} (h : q ≠ r) (f : Ctx → Region → Region) :
    (s.onRegion r f).region q = s.region q := by simp [State.onRegion, State.region_setRegion_of_ne _ h]

@[simp] theorem Region.cell_setCell (R : Region) (i : Nat) (k : Cell) : (R.setCell i k).cell i = k := by
  simp [Region.cell, Region.setCell]

theorem Region.cell_setCell_of_ne (R : Region) {i j : Nat} (h : j ≠ i) (k : Cell) : (R.setCell i k).cell j = R.cell j := by
  simp [Region.cell, Region.setCell, mapGet_mapSet_of_ne _ _ h]

@[simp] theorem State.cell_setCell (s : State) (c : Nat) (k : Cell) : (s.setCell c k).cell c = k := by
  simp [State.cell, State.setCell]

/-- Cells are told apart by region and regional index. -/
theorem State.cell_setCell_of_ne (s : State) {c d : Nat} (h : d ≠ c) (k : Cell) : (s.setCell c k).cell d = s.cell d := by
  unfold State.cell State.setCell
  by_cases hr : d / 128 = c / 128
  · rw [hr, State.region_setRegion, Region.cell_setCell_of_ne _ (by omega)]
  · rw [State.region_setRegion_of_ne _ hr]

@[simp] theorem State.cell_onCell (s : State) (c : Nat) (f : Cell → Cell) : (s.onCell c f).cell c = f (s.cell c) := by
  simp [State.onCell]

theorem State.cell_onCell_of_ne (s : State) {c d : Nat} (h : d ≠ c) (f : Cell → Cell) :
    (s.onCell c f).cell d = s.cell d := by simp [State.onCell, State.cell_setCell_of_ne _ h]

theorem State.region_onCell_of_ne (s : State) {c r : Nat} (h : r ≠ c / 128) (f : Cell → Cell) :
    (s.onCell c f).region r = s.region r := by
  simp [State.onCell, State.setCell, State.region_setRegion_of_ne _ h]

/-- A change of a cell touches nothing else of its region. -/
theorem State.region_onCell (s : State) (c : Nat) (f : Cell → Cell) :
    (s.onCell c f).region (c / 128) = (s.region (c / 128)).onCell (c % 128) f := by
  simp [State.onCell, State.setCell, Region.onCell, State.cell]

@[simp] theorem Region.cell_onCell (R : Region) (i : Nat) (f : Cell → Cell) : (R.onCell i f).cell i = f (R.cell i) := by
  simp [Region.onCell]

@[simp] theorem Region.reg_setReg (R : Region) (a : Nat) (v : Word) : (R.setReg a v).reg a = v := by
  simp [Region.reg, Region.setReg]

theorem Region.reg_setReg_of_ne (R : Region) {a b : Nat} (h : b ≠ a) (v : Word) : (R.setReg a v).reg b = R.reg b := by
  simp [Region.reg, Region.setReg, mapGet_mapSet_of_ne _ _ h]

theorem Region.reg_setReg_ite (R : Region) (a b : Nat) (v : Word) :
    (R.setReg a v).reg b = if b = a then v else R.reg b := by simp [Region.reg, Region.setReg, mapGet_mapSet]

@[simp] theorem Region.reg_setField (R : Region) (a hi lo v : Nat) :
    (R.setField a hi lo v).reg a = setBits (R.reg a) hi lo v := by simp [Region.setField]

@[simp] theorem Region.reg_setBit (R : Region) (a i : Nat) (b : Bool) :
    (R.setBit a i b).reg a = Machine.setBit (R.reg a) i b := by simp [Region.setBit]

@[simp] theorem Region.reg_count (R : Region) (a n : Nat) : (R.count a n).reg a = satAdd 0xFFFF (R.reg a) n := by
  simp [Region.count]

theorem Region.reg_setField_of_ne (R : Region) {a b : Nat} (h : b ≠ a) (hi lo v : Nat) :
    (R.setField a hi lo v).reg b = R.reg b := Region.reg_setReg_of_ne R h _

theorem Region.reg_setBit_of_ne (R : Region) {a b : Nat} (h : b ≠ a) (i : Nat) (v : Bool) :
    (R.setBit a i v).reg b = R.reg b := Region.reg_setReg_of_ne R h _

theorem Region.reg_count_of_ne (R : Region) {a b : Nat} (h : b ≠ a) (n : Nat) : (R.count a n).reg b = R.reg b :=
  Region.reg_setReg_of_ne R h _

@[simp] theorem Region.reg_raise (R : Region) (x : Ctx) (n a : Nat) : (R.raise x n).reg a = R.reg a := rfl
@[simp] theorem Region.reg_raiseAt (R : Region) (n : Nat) (t : Ticks) (a : Nat) : (R.raiseAt n t).reg a = R.reg a := rfl
@[simp] theorem Region.reg_setCell (R : Region) (i : Nat) (k : Cell) (a : Nat) : (R.setCell i k).reg a = R.reg a := rfl
@[simp] theorem Region.cell_setReg (R : Region) (a : Nat) (v : Word) (i : Nat) : (R.setReg a v).cell i = R.cell i := rfl

@[simp] theorem Chip.reg_setReg (h : Chip) (a : Nat) (v : Word) : (h.setReg a v).reg a = v := by
  simp [Chip.reg, Chip.setReg]

theorem Chip.reg_setReg_of_ne (h : Chip) {a b : Nat} (hb : b ≠ a) (v : Word) : (h.setReg a v).reg b = h.reg b := by
  simp [Chip.reg, Chip.setReg, mapGet_mapSet_of_ne _ _ hb]

@[simp] theorem Cell.ioReg_setIo (k : Cell) (a : Nat) (v : Word) : (k.setIo a v).ioReg a = v := by
  simp [Cell.ioReg, Cell.setIo]

theorem Cell.ioReg_setIo_of_ne (k : Cell) {a b : Nat} (h : b ≠ a) (v : Word) : (k.setIo a v).ioReg b = k.ioReg b := by
  simp [Cell.ioReg, Cell.setIo, mapGet_mapSet_of_ne _ _ h]

@[simp] theorem Cell.ioReg_setG (k : Cell) (r : RegNo) (v : Word) (a : Nat) : (k.setG r v).ioReg a = k.ioReg a := by
  simp [Cell.ioReg]

@[simp] theorem Cell.g_setIo (k : Cell) (a : Nat) (v : Word) (r : RegNo) : (k.setIo a v).g r = k.g r := rfl

/-- g0 reads as zero whatever was written (R52). -/
@[simp] theorem Cell.g_zero (k : Cell) : k.g 0 = 0 := rfl

@[simp] theorem Cell.setG_zero (k : Cell) (v : Word) : k.setG 0 v = k := rfl

/-- A general register other than g0 reads as it was written. -/
theorem Cell.g_setG_self (k : Cell) {r : RegNo} (h : r ≠ 0) (v : Word) : (k.setG r v).g r = v := by
  simp [Cell.g, Cell.setG, h]

theorem Cell.g_setG_of_ne (k : Cell) {r q : RegNo} (h : q ≠ r) (v : Word) : (k.setG r v).g q = k.g q := by
  unfold Cell.setG
  split
  · rfl
  · have : q.val ≠ r.val := fun e => h (Fin.ext e)
    simp [Cell.g, mapGet_mapSet_of_ne _ _ this]

theorem Cell.g_setG (k : Cell) (r q : RegNo) (v : Word) : (k.setG r v).g q = if q = r ∧ q ≠ 0 then v else k.g q := by
  by_cases h : q = r
  · subst h
    by_cases hz : q = 0
    · subst hz; simp
    · simp [hz, Cell.g_setG_self k hz]
  · simp [h, Cell.g_setG_of_ne k h]

end Sys2Proof.Machine
end

