-- ==== Sys2Proof/Laws/Canonical.lean ====
section
/-!
SUPPORT. The canonical form of the memories: every operation on them keeps it, and the state after reset has it.
-/

namespace Sys2Proof.Machine

/-- A cell's memories are in canonical form. -/
def Cell.memWf (k : Cell) : Prop := mapWf zeroByte k.imem = true ∧ mapWf zeroByte k.dmem = true

theorem Memory.wf_iff (R : Region) : Memory.wf R = true ↔
    mapWf zeroByte R.banks.rmem = true ∧ mapWf zeroByte R.banks.bmem = true ∧ ∀ i, i < 128 → (R.cell i).memWf := by
  simp [Memory.wf, Cell.memWf, List.all_eq_true, and_assoc]

/-- A region that holds the same memories. -/
theorem Memory.wf_same {R R' : Region} (hr : R'.banks.rmem = R.banks.rmem) (hb : R'.banks.bmem = R.banks.bmem)
    (hc : ∀ i, (R'.cell i).imem = (R.cell i).imem ∧ (R'.cell i).dmem = (R.cell i).dmem) : Memory.wf R' = Memory.wf R := by
  simp [Memory.wf, hr, hb, hc]

theorem Memory.wf_onCell {R : Region} (h : Memory.wf R = true) (i : Nat) (f : Cell → Cell)
    (hf : (R.cell i).memWf → (f (R.cell i)).memWf) (hi : i < 128) : Memory.wf (R.onCell i f) = true := by
  rw [Memory.wf_iff] at h ⊢
  refine ⟨h.1, h.2.1, fun j hj => ?_⟩
  by_cases e : j = i
  · subst e; simpa using hf (h.2.2 j hj)
  · rw [Region.onCell, Region.cell_setCell_of_ne _ e]; exact h.2.2 j hj

/-- A change of a cell that leaves its memories. -/
theorem Memory.wf_onCell_same {R : Region} (i : Nat) (f : Cell → Cell)
    (hf : ∀ k, (f k).imem = k.imem ∧ (f k).dmem = k.dmem) : Memory.wf (R.onCell i f) = Memory.wf R := by
  refine Memory.wf_same rfl rfl (fun j => ?_)
  by_cases e : j = i
  · subst e; simpa using hf _
  · simp [Region.onCell, Region.cell_setCell_of_ne _ e]

@[simp] theorem Memory.wf_setReg (R : Region) (a : Nat) (v : Word) : Memory.wf (R.setReg a v) = Memory.wf R := rfl
@[simp] theorem Memory.wf_count (R : Region) (a n : Nat) : Memory.wf (R.count a n) = Memory.wf R := rfl
@[simp] theorem Memory.wf_setEcc (R : Region) (code : Nat) (e : Option EccErr) : Memory.wf (setEcc code e R) = Memory.wf R := rfl

/-! ## What a read finds -/

@[simp] theorem Memory.wf_queueFault (x : Ctx) (kind detail loc : Nat) (info : Word) (R : Region) :
    Memory.wf (queueFault x kind detail loc info R) = Memory.wf R := by unfold queueFault; split <;> rfl

@[simp] theorem Memory.wf_markFailed (x : Ctx) (code : Nat) (R : Region) : Memory.wf (markFailed x code R) = Memory.wf R := by
  unfold markFailed permanentFault
  split
  · simp
  · simp only [Memory.wf_queueFault]
    exact Memory.wf_onCell_same _ _ (fun k => by split <;> simp)

theorem Memory.wf_tallyCorrected (code : Nat) (R : Region) : Memory.wf (tallyCorrected code R) = Memory.wf R := by
  unfold tallyCorrected; split <;> rfl

@[simp] theorem Memory.wf_corrected (x : Ctx) (code : Nat) (R : Region) : Memory.wf (corrected x code R) = Memory.wf R := by
  have h := Memory.wf_tallyCorrected code (R.count Reg.MB_ECC_SBE.base)
  rw [Memory.wf_count] at h
  unfold corrected
  dsimp only
  rw [apply_ite Memory.wf, Memory.wf_markFailed, ite_self]
  exact h

@[simp] theorem Memory.wf_uncorrectable (x : Ctx) (code : Nat) (R : Region) :
    Memory.wf (uncorrectable x code R) = Memory.wf R := by
  unfold uncorrectable
  dsimp only
  rw [apply_ite Memory.wf, Memory.wf_markFailed, ite_self]
  rfl

@[simp] theorem Memory.wf_eccTouch (x : Ctx) (code : Nat) (R : Region) : Memory.wf (eccTouch x code R).2 = Memory.wf R := by
  unfold eccTouch; split <;> simp

@[simp] theorem Memory.wf_eccTouchN (x : Ctx) : ∀ (n code : Nat) (R : Region), Memory.wf (eccTouchN x code n R).2 = Memory.wf R
  | 0, _, _ => rfl
  | n + 1, code, R => by simp [eccTouchN, Memory.wf_eccTouchN x n]

@[simp] theorem Memory.wf_eccWritten (base lo hi : Nat) (R : Region) : Memory.wf (eccWritten base lo hi R) = Memory.wf R :=
  rfl

@[simp] theorem Memory.wf_mergeEnds (x : Ctx) (p : Place) (n : Nat) (R : Region) :
    Memory.wf (mergeEnds x p n R).2 = Memory.wf R := by
  unfold mergeEnds
  dsimp only
  split <;> split <;> simp

@[simp] theorem Memory.wf_placeServed (p : Place) (n : Nat) (R : Region) : Memory.wf (placeServed p n R).2 = Memory.wf R := by
  unfold placeServed; split <;> rfl

/-! ## The operations on memories -/

/-- The cell of a place, where it lies in one, exists. -/
def Place.cellOk : Place → Prop
  | .dmem i _ => i < 128
  | .imem i _ => i < 128
  | _ => True

/-- A write of bytes keeps the canonical form. -/
theorem Memory.wf_rawWrite {R : Region} (h : Memory.wf R = true) (p : Place) (hp : p.cellOk) (bs : List Byte) :
    Memory.wf (rawWrite p bs R) = true := by
  have w := (Memory.wf_iff R).1 h
  cases p with
  | rmem o => exact (Memory.wf_iff _).2 ⟨mapWf_mapWrite _ w.1 _, w.2.1, w.2.2⟩
  | bmem b o => exact (Memory.wf_iff _).2 ⟨w.1, mapWf_mapWrite _ w.2.1 _, w.2.2⟩
  | dmem i o => exact Memory.wf_onCell h i _ (fun k => ⟨k.1, mapWf_mapWrite _ k.2 _⟩) hp
  | imem i o => exact Memory.wf_onCell h i _ (fun k => ⟨mapWf_mapWrite _ k.1 _, k.2⟩) hp

theorem Place.cellOk_plus {p : Place} (h : p.cellOk) (n : Nat) : (p.plus n).cellOk := by cases p <;> exact h

theorem Memory.wf_memFill {R : Region} (h : Memory.wf R = true) (p : Place) (hp : p.cellOk) (bs : List Byte) :
    Memory.wf (memFill p bs R) = true := Memory.wf_rawWrite (by simpa using h) p hp bs

/-- A read keeps the canonical form. -/
theorem Memory.wf_memRead (x : Ctx) (p : Place) (n : Nat) (R : Region) : Memory.wf (memRead x p n R).2 = Memory.wf R := by
  unfold memRead
  split
  · rfl
  · dsimp only
    split
    · simp
    · split <;> simp

/-- A write access keeps the canonical form, whatever comes of it. -/
theorem Memory.wf_memWrite (x : Ctx) {R : Region} {p : Place} (h : Memory.wf R = true) (hp : p.cellOk) (bs : List Byte) :
    Memory.wf (memWrite x p bs R).2 = true := by
  unfold memWrite
  split
  · exact h
  · dsimp only
    split
    · simpa using h
    · split
      · simpa using h
      · exact Memory.wf_memFill (by simpa using h) _ (Place.cellOk_plus hp _) _

/-- A bank that loses its contents keeps the canonical form. -/
theorem Memory.wf_bankZero {R : Region} (h : Memory.wf R = true) (b : Nat) : Memory.wf (bankZero b R) = true := by
  have w := (Memory.wf_iff R).1 h
  refine (Memory.wf_iff _).2 ⟨?_, ?_, w.2.2⟩
  · unfold bankZero; dsimp only; split
    · exact mapWf_mapKeep _ w.1
    · exact w.1
  · unfold bankZero; dsimp only; split
    · exact w.2.1
    · exact mapWf_mapKeep _ w.2.1

/-- A store into the carry-over area or DMEM of a cell keeps the canonical form. -/
theorem Cell.memWf_setDmem {k : Cell} (h : k.memWf) (a : Nat) (bs : List Byte) : (k.setDmem a bs).memWf :=
  ⟨h.1, mapWf_mapWrite _ h.2 _⟩

/-- So does a load of the IMEM section. -/
theorem Cell.memWf_imem {k : Cell} (h : k.memWf) (a : Nat) (bs : List Byte) :
    ({ k with imem := mapWrite zeroByte k.imem a bs } : Cell).memWf := ⟨mapWf_mapWrite _ h.1 _, h.2⟩

/-- What a return from L4 keeps is in canonical form. -/
theorem keepOutside_wf {m : FMap Byte} (h : mapWf zeroByte m = true) (gone : List (Nat × Nat)) :
    mapWf zeroByte (keepOutside gone m) = true := mapWf_mapKeep _ h

/-- A response-capture entry reaches region memory in canonical form. -/
theorem Memory.wf_rcDrain (x : Ctx) {R : Region} (h : Memory.wf R = true) : Memory.wf (rcDrain x R) = true := by
  unfold rcDrain
  split
  · exact h
  · have h' : ∀ f, Memory.wf (R.putLp f) = true := fun _ => h
    dsimp only
    exact Memory.wf_memWrite x (h' _) (by trivial) _

/-- MRAM writes keep the canonical form. -/
theorem Chip.mram_wf_mramSet {h : Chip} (hw : mapWf zeroByte h.mram = true) (o : Nat) (bs : List Byte) :
    mapWf zeroByte (h.mramSet o bs).mram = true := mapWf_mapWrite _ hw _

/-- Writes of the one-time store keep the canonical form. -/
theorem otpSet_wf {b : Boot} (h : mapWf zeroByte b.otp = true) (o : Nat) (l : List Byte) :
    mapWf zeroByte (otpSet o l b).otp = true := mapWf_mapWrite _ h _

theorem otpBlow_wf {b : Boot} (h : mapWf zeroByte b.otp = true) (o i : Nat) :
    mapWf zeroByte (otpBlow o i b).otp = true := otpSet_wf h _ _

/-! ## Regions of the state -/

/-- Replacing a region keeps the list of regions canonical. -/
theorem State.regions_wf_setRegion {s : State} (h : mapWf (fun _ => regionInit) s.regions = true) (r : Nat) (R : Region) :
    mapWf (fun _ => regionInit) (s.setRegion r R).regions = true := mapWf_mapSet h r R

theorem State.regions_wf_onRegion {s : State} (h : mapWf (fun _ => regionInit) s.regions = true) (r : Nat)
    (f : Ctx → Region → Region) : mapWf (fun _ => regionInit) (s.onRegion r f).regions = true := mapWf_mapSet h r _

theorem State.regions_wf_onCell {s : State} (h : mapWf (fun _ => regionInit) s.regions = true) (c : Nat) (f : Cell → Cell) :
    mapWf (fun _ => regionInit) (s.onCell c f).regions = true := mapWf_mapSet h _ _

/-- What a fold over numbers keeps. -/
theorem foldN_keeps {α : Type} (P : α → Prop) (f : Nat → α → α) (hf : ∀ i a, P a → P (f i a)) (n : Nat) {a : α} (h : P a) :
    P (foldN n f a) := by
  unfold foldN
  generalize List.range n = l
  induction l generalizing a with
  | nil => exact h
  | cons i l ih => exact ih (hf i a h)

/-- The state after reset holds its memories in canonical form. -/
theorem reset_memory_wf (r : Nat) : Memory.wf (State.reset.region r) = true := by
  have h : State.reset.region r = regionInit := rfl
  rw [h]; decide

end Sys2Proof.Machine
end

