-- ==== Sys2Proof/Laws/Cells.lean ====
section
/-!
SUPPORT. Laws of the execution of an instruction: what a ready cell does, and what retirement does.
-/

namespace Sys2Proof.Machine

/-! ## Regions in canonical form -/

theorem State.setRegion_self {s : State} (h : mapWf (fun _ => regionInit) s.regions = true) (r : Nat) :
    s.setRegion r (s.region r) = s := by
  unfold State.setRegion State.region
  rw [mapSet_get_self h]

/-! ## Memory without check-bit errors -/

theorem eccAt_clean {R : Region} (h : R.banks.ecc = []) (code : Nat) : eccAt R code = none := by
  simp [eccAt, h, noneAt]

theorem eccTouchN_clean (x : Ctx) {R : Region} (h : R.banks.ecc = []) : ∀ n code, eccTouchN x code n R = (true, R)
  | 0, _ => rfl
  | n + 1, code => by simp [eccTouchN, eccTouch, eccAt_clean h, eccTouchN_clean x h n]

theorem awake_live {s : State} {r : Nat} (h : pmState (s.region r) = 0) : s.awake r = s := by
  simp [State.awake, h]

/-- A read of a cell's own memory in a steady region gives its bytes and changes nothing. -/
theorem dmRead_steady {s : State} {c : Nat} (h : Steady (c / 128) s) (o n : Nat) :
    s.dmRead c o n = (.ok (mapRead zeroByte (s.cell c).dmem o n), s) := by
  obtain ⟨⟨hr, hp⟩, ⟨he, _⟩, hw⟩ := h
  simp [State.dmRead, State.readMem, awake_live hp, memRead, hr, placeInReset, placeServed, placeBanks,
    eccTouchN_clean _ he, rawRead, State.setRegion_self hw, State.cell]

/-- So is a read of its IMEM. -/
theorem imRead_steady {s : State} {c : Nat} (h : Steady (c / 128) s) (o n : Nat) :
    s.readMem (c / 128) (.imem (c % 128) o) n = (.ok (mapRead zeroByte (s.cell c).imem o n), s) := by
  obtain ⟨⟨hr, hp⟩, ⟨he, _⟩, hw⟩ := h
  simp [State.readMem, awake_live hp, memRead, hr, placeInReset, placeServed, placeBanks,
    eccTouchN_clean _ he, rawRead, State.setRegion_self hw, State.cell]

/-! ## Opcodes of encoded words -/

theorem opcode_of_word {op r : Nat} (hr : r < 2 ^ 24) (ho : op < 256) :
    opcodeOf (BitVec.ofNat 32 (op * 2 ^ 24 + r)) = op := by
  simp only [opcodeOf, bitsOf, BitVec.toNat_ofNat, Nat.shiftRight_eq_div_pow]
  omega

theorem opcode_wordA {op fn : Nat} (a b d : RegNo) (ho : op < 256) (hf : fn < 4096) : opcodeOf (wordA op a b d fn) = op := by
  have ha := a.isLt; have hb := b.isLt; have hd := d.isLt
  unfold wordA
  rw [show op * 2 ^ 24 + a.val * 2 ^ 20 + b.val * 2 ^ 16 + d.val * 2 ^ 12 + fn
    = op * 2 ^ 24 + (a.val * 2 ^ 20 + b.val * 2 ^ 16 + d.val * 2 ^ 12 + fn) by omega]
  exact opcode_of_word (by omega) ho

theorem opcode_wordI {op : Nat} (d a : RegNo) (imm : BitVec 16) (ho : op < 256) : opcodeOf (wordI op d a imm) = op := by
  have ha := a.isLt; have hd := d.isLt; have hi := imm.isLt
  unfold wordI
  rw [show op * 2 ^ 24 + d.val * 2 ^ 20 + a.val * 2 ^ 16 + imm.toNat
    = op * 2 ^ 24 + (d.val * 2 ^ 20 + a.val * 2 ^ 16 + imm.toNat) by omega]
  exact opcode_of_word (by omega) ho

theorem opcode_wordB {op : Nat} (a b : RegNo) (annul : Bool) (off : BitVec 15) (ho : op < 256) :
    opcodeOf (wordB op a b annul off) = op := by
  have ha := a.isLt; have hb := b.isLt; have hi := off.isLt
  have hn : annul.toNat ≤ 1 := by cases annul <;> decide
  unfold wordB
  rw [show op * 2 ^ 24 + a.val * 2 ^ 20 + b.val * 2 ^ 16 + annul.toNat * 2 ^ 15 + off.toNat
    = op * 2 ^ 24 + (a.val * 2 ^ 20 + b.val * 2 ^ 16 + annul.toNat * 2 ^ 15 + off.toNat) by omega]
  exact opcode_of_word (by omega) ho

theorem opcode_wordJ {op : Nat} (t : BitVec 24) (ho : op < 256) : opcodeOf (wordJ op t) = op := by
  unfold wordJ; exact opcode_of_word t.isLt ho

/-! ## A ready cell executes -/

/-- Dispatch of a ready cell reaches the instruction's own part, in the state as it was. -/
theorem runInstr_ready {c : CellId} {word : Word} {regs : List RegNo} {acc : Bool} {s : State} {op : Nat}
    (hop : opcodeOf word = op) (h : Ready c op regs acc s) (body : State → Did) :
    runInstr c.val word regs acc body s = finish c.val word (s.cell c.val) (body s) := by
  have hrun : (s.cell c.val).running = true := by
    have := h.runs; simp [canExecute] at this; exact this.1.1
  have hslot : ((s.cell c.val).slot.isSome && slotForbidden op) = false := by
    rcases h.place with h' | h' <;> simp [h']
  simp [runInstr, h.runs, h.quiet, dispatchBase, imRead_steady h.steady, hop, hslot, dispatchRead, h.parity, hrun,
    h.valid, withUses, h.noFault, h.regsFree, h.accFree]

/-! ## Retirement -/

@[simp] theorem countIo_fixed (k : Cell) (a top : Nat) : (k.countIo a top).fixed = k.fixed := rfl
@[simp] theorem setIo_fixed (k : Cell) (a : Nat) (v : Word) : (k.setIo a v).fixed = k.fixed := rfl
@[simp] theorem setG_fixed (k : Cell) (r : RegNo) (v : Word) : (k.setG r v).fixed = k.fixed := by
  unfold Cell.setG; split <;> rfl

theorem countIo_other (k : Cell) {a b : Nat} (h : b ≠ a) (top : Nat) : (k.countIo a top).ioReg b = k.ioReg b :=
  Cell.ioReg_setIo_of_ne k h _

theorem pfRetIf_io (k : Cell) (on : Bool) : IoBut [] k (k.pfRetIf on) := by
  intro a ha _
  simp only [retireCounters, List.mem_cons, not_or] at ha
  unfold Cell.pfRetIf
  split
  · rw [Cell.ioReg_setIo_of_ne _ ha.2.1, Cell.ioReg_setIo_of_ne _ ha.1]
  · rfl

theorem branchRetire_io (o : Cell) (b : Slot) (k : Cell) : IoBut [] k (branchRetire o b k) := by
  intro a ha hl
  have ha' := ha
  simp only [retireCounters, List.mem_cons, not_or] at ha'
  have h1 : ∀ (k : Cell) (on : Bool), (k.pfIf on Reg.PFBRTKN.base).ioReg a = k.ioReg a := fun k on => by
    unfold Cell.pfIf; split
    · exact countIo_other k ha'.2.2.1 _
    · rfl
  have h2 : ∀ (k : Cell) (on : Bool), (k.pfIf on Reg.PFBRMIS.base).ioReg a = k.ioReg a := fun k on => by
    unfold Cell.pfIf; split
    · exact countIo_other k ha'.2.2.2.1 _
    · rfl
  have h3 : ∀ k : Cell, (predLearn o b k).ioReg a = k.ioReg a := fun k => by unfold predLearn; split <;> rfl
  rw [branchRetire, h3, h2, h1, pfRetIf_io _ _ a ha hl]

/-- Retirement changes no cell register but the counters. -/
theorem retire_io (o k : Cell) : IoBut [] k (retire o k) := by
  intro a ha hl
  unfold retire
  cases o.slot with
  | none => simp only []; split <;> exact pfRetIf_io k _ a ha hl
  | some b =>
    simp only []
    split <;> exact (branchRetire_io o b _ a ha hl).trans (pfRetIf_io k _ a ha hl)

@[simp] theorem pfRetIf_fixed (k : Cell) (on : Bool) : (k.pfRetIf on).fixed = k.fixed := by
  unfold Cell.pfRetIf; split <;> rfl

@[simp] theorem pfIf_fixed (k : Cell) (on : Bool) (a : Nat) : (k.pfIf on a).fixed = k.fixed := by
  unfold Cell.pfIf; split <;> rfl
@[simp] theorem pfIf_gpr (k : Cell) (on : Bool) (a : Nat) : (k.pfIf on a).gpr = k.gpr := by
  unfold Cell.pfIf; split <;> rfl
@[simp] theorem pfIf_acc (k : Cell) (on : Bool) (a : Nat) : (k.pfIf on a).acc = k.acc := by
  unfold Cell.pfIf; split <;> rfl
@[simp] theorem predLearn_fixed (o : Cell) (b : Slot) (k : Cell) : (predLearn o b k).fixed = k.fixed := by
  unfold predLearn; split <;> rfl
@[simp] theorem predLearn_gpr (o : Cell) (b : Slot) (k : Cell) : (predLearn o b k).gpr = k.gpr := by
  unfold predLearn; split <;> rfl
@[simp] theorem predLearn_acc (o : Cell) (b : Slot) (k : Cell) : (predLearn o b k).acc = k.acc := by
  unfold predLearn; split <;> rfl
@[simp] theorem pfRetIf_gpr (k : Cell) (on : Bool) : (k.pfRetIf on).gpr = k.gpr := by unfold Cell.pfRetIf; split <;> rfl
@[simp] theorem pfRetIf_acc (k : Cell) (on : Bool) : (k.pfRetIf on).acc = k.acc := by unfold Cell.pfRetIf; split <;> rfl
@[simp] theorem pfRetIf_slot (k : Cell) (on : Bool) : (k.pfRetIf on).slot = k.slot := by unfold Cell.pfRetIf; split <;> rfl

@[simp] theorem branchRetire_fixed (o : Cell) (b : Slot) (k : Cell) : (branchRetire o b k).fixed = k.fixed := by
  simp [branchRetire]

/-- Retirement leaves the fixed part of a cell alone. -/
@[simp] theorem retire_fixed (o k : Cell) : (retire o k).fixed = k.fixed := by
  unfold retire
  cases o.slot with
  | none => simp only []; split <;> exact pfRetIf_fixed k _
  | some b => simp only []; split <;> exact (branchRetire_fixed o b _).trans (pfRetIf_fixed k _)

theorem branchRetire_parts (o : Cell) (b : Slot) (k : Cell) :
    (branchRetire o b k).gpr = k.gpr ∧ (branchRetire o b k).acc = k.acc := by
  simp [branchRetire]

@[simp] theorem retire_gpr (o k : Cell) : (retire o k).gpr = k.gpr := by
  unfold retire
  cases o.slot with
  | none => simp only []; split <;> exact pfRetIf_gpr k _
  | some b => simp only []; split <;> exact (branchRetire_parts o b _).1.trans (pfRetIf_gpr k _)

@[simp] theorem retire_acc (o k : Cell) : (retire o k).acc = k.acc := by
  unfold retire
  cases o.slot with
  | none => simp only []; split <;> exact pfRetIf_acc k _
  | some b => simp only []; split <;> exact (branchRetire_parts o b _).2.trans (pfRetIf_acc k _)

@[simp] theorem retire_g (o k : Cell) (r : RegNo) : (retire o k).g r = k.g r := by simp [Cell.g]

/-- What retirement may change. -/
theorem retire_shape (o k : Cell) : retire o k =
    { k with pc := (retire o k).pc, io := (retire o k).io, pred := (retire o k).pred, slot := (retire o k).slot
             halted := (retire o k).halted, stepping := (retire o k).stepping } := by
  have h := retire_fixed o k
  have hg := retire_gpr o k
  have ha := retire_acc o k
  generalize retire o k = k' at *
  cases k; cases k'
  simp only [Cell.fixed, Cell.mk.injEq] at *
  tauto

/-- A retired instruction is followed as R61 and R85 say. -/
theorem retire_follows (o k : Cell) (h : k.slot = o.slot) : Follows o (retire o k) := by
  unfold Follows retire
  cases ho : o.slot with
  | none =>
    rw [ho] at h
    simp only []
    split <;> simp [h]
  | some b =>
    simp only []
    split <;> simp

/-! ## Frames -/

theorem OnlyCell.onCell (s : State) (c : Nat) (f : Cell → Cell) : OnlyCell c s (s.onCell c f) := by
  refine ⟨⟨rfl, fun q hq => State.region_onCell_of_ne s hq f⟩, ?_, fun i hi => ?_⟩
  · rw [State.region_onCell]; rfl
  · rw [State.region_onCell]; exact Region.cell_setCell_of_ne _ hi _

theorem OnlyCell.trans {c : Nat} {s t u : State} (h : OnlyCell c s t) (h' : OnlyCell c t u) : OnlyCell c s u := by
  obtain ⟨⟨h1, h2⟩, h3, h4⟩ := h
  obtain ⟨⟨g1, g2⟩, g3, g4⟩ := h'
  refine ⟨⟨by rw [g1, h1], fun q hq => (g2 q hq).trans (h2 q hq)⟩, by rw [g3, h3], fun i hi => (g4 i hi).trans (h4 i hi)⟩

/-- What a completed instruction leaves: its own change of its cell, then retirement. -/
theorem finish_ok (c : Nat) (word : Word) (old : Cell) (s : State) (f : Cell → Cell) :
    finish c word old (.ok (s.onCell c f)) = (s.onCell c f).onCell c (retire old) := rfl

/-- The same for an instruction with its meaning. -/
theorem runOp_ready {c : CellId} {i : Instr} {o : Op} {op : Nat} {regs : List RegNo} {acc : Bool} {s : State}
    (hop : opcodeOf (wordOf i) = op) (hr : o.regs = regs) (ha : o.acc = acc) (h : Ready c op regs acc s) :
    runOp c i o s = .next (finish c.val (wordOf i) (s.cell c.val) (o.body s)) := by
  subst hr ha
  unfold runOp
  rw [runInstr_ready hop h]

/-- A ready cell executes an instruction that changes its cell alone. -/
theorem runOp_cell {c : CellId} {i : Instr} {op : Nat} {regs : List RegNo} {acc : Bool} {s : State}
    (hop : opcodeOf (wordOf i) = op) (h : Ready c op regs acc s) (f : Cell → Cell) :
    runOp c i (cellOp c regs acc f) s = .next ((s.onCell c.val f).onCell c.val (retire (s.cell c.val))) := by
  unfold runOp cellOp
  rw [runInstr_ready hop h]
  rfl

theorem retire_goesOn (o k : Cell) (h : o.stepping = false) : (retire o k).halted = k.halted := by
  have h1 : ∀ (k : Cell) (on : Bool), (k.pfRetIf on).halted = k.halted := fun k on => by unfold Cell.pfRetIf; split <;> rfl
  have h2 : ∀ (k : Cell) (on : Bool) a, (k.pfIf on a).halted = k.halted := fun k on a => by unfold Cell.pfIf; split <;> rfl
  have h3 : ∀ (o k : Cell) b, (predLearn o b k).halted = k.halted := fun o k b => by unfold predLearn; split <;> rfl
  unfold retire
  cases o.slot with
  | none => simp [h, h1]
  | some b => simp [h, branchRetire, h1, h2, h3]

/-- Such an instruction leaves alone what it does not name. -/
theorem cell_plain {c : CellId} {s : State} {f : Cell → Cell} {but : Cell → Cell} {l : List Nat}
    (hb : ∀ o k : Cell, (but (retire o k)).fixed = (but k).fixed)
    (hf : (but (f (s.cell c.val))).fixed = (but (s.cell c.val)).fixed)
    (hio : ∀ a, a ∉ l → (f (s.cell c.val)).ioReg a = (s.cell c.val).ioReg a)
    (hs : (f (s.cell c.val)).slot = (s.cell c.val).slot) (hh : (f (s.cell c.val)).halted = (s.cell c.val).halted) :
    PlainBut but l c s ((s.onCell c.val f).onCell c.val (retire (s.cell c.val))) := by
  have e : ((s.onCell c.val f).onCell c.val (retire (s.cell c.val))).cell c.val = retire (s.cell c.val) (f (s.cell c.val)) := by
    simp
  constructor
  · exact (OnlyCell.onCell ..).trans (OnlyCell.onCell ..)
  · rw [e, hb, hf]
  · rw [e]; intro a h1 h2; rw [retire_io _ _ a h1 (by simp), hio a h2]
  · rw [e]; exact retire_follows _ _ hs
  · rw [e]; intro h; rw [retire_goesOn _ _ h, hh]

/-- An instruction that writes one general register. -/
theorem write_form {c : CellId} {i : Instr} {op : Nat} {regs : List RegNo} {acc : Bool} {s : State} {d : RegNo} {v : Word}
    {g : Cell → Word} (f : Cell → Cell)
    (he : exec i s = runOp c i (cellOp c regs acc f) s) (hf : f (s.cell c.val) = (s.cell c.val).setG d (g (s.cell c.val)))
    (hop : opcodeOf (wordOf i) = op) (h : Ready c op regs acc s) (hv : g (s.cell c.val) = v) :
    Completes i s (fun t => Plain c s t ∧ (t.cell c).acc = (s.cell c).acc ∧ Writes d v (s.cell c) (t.cell c)) := by
  refine ⟨_, he.trans (runOp_cell hop h f), cell_plain retire_fixed ?_ ?_ ?_ ?_, ?_, ?_⟩
  · rw [hf]; simp
  · rw [hf]; simp
  · rw [hf]; simp
  · rw [hf]; simp
  · simp [hf]
  · intro q
    simp only [State.cell_onCell, retire_g, hf, ← hv]
    exact Cell.g_setG _ _ _ _

end Sys2Proof.Machine
end

