-- ==== Sys2Proof/Laws/Commands.lean ====
section
/-!
SUPPORT. Laws of how a command reaches a region, and of exception entry.
-/

namespace Sys2Proof.Machine

/-! ## Accesses and events of a region -/

/-- A register access to a live region acts at once. -/
theorem regionAccess_live {r : RegionId} {s : State} (h : Live r s) (f : Ctx → Region → Region) :
    regionAccess r f s = s.onRegion r f := by
  simp [regionAccess, h.1, awake_live h.2]

/-- A region in reset takes no access. -/
theorem regionAccess_reset {r : RegionId} {s : State} (h : (s.region r).inReset = true) (f : Ctx → Region → Region) :
    regionAccess r f s = s := by
  simp [regionAccess, h]

/-- An event of a live region's hardware happens. -/
theorem regionEvent_live {r : RegionId} {s : State} (h : Live r s) (f : Ctx → Region → Region) :
    regionEvent r f s = s.onRegion r f := by
  simp [regionEvent, h.1, h.2]

/-- A write to a register of a block that is not in reset acts at once. -/
theorem blockAccess_live {r : RegionId} {b : BlockId} {s : State} (h : Live r s)
    (hb : (s.region r).blockReset.contains b.val = false) (f : Ctx → Region → Region) :
    blockAccess r b f s = s.onRegion r f := by
  rw [blockAccess, hb]
  simpa using regionAccess_live h f

/-- A read of a live region's register answers its value. -/
theorem regionAnswer_live {r : RegionId} {s : State} (h : Live r s) (f : Ctx → Region → Word × Region) :
    regionAnswer r f s
      = (s.setRegion r (f (s.ctx r) (s.region r)).2).answer (.data (words4 [(f (s.ctx r) (s.region r)).1])) := by
  simp [regionAnswer, h.1, awake_live h.2]

/-- A change of a region touches no other one and nothing at the chip level. -/
theorem OnlyRegion.onRegion (s : State) (r : Nat) (f : Ctx → Region → Region) : OnlyRegion r s (s.onRegion r f) :=
  ⟨rfl, fun _ h => State.region_onRegion_of_ne s h f⟩

/-- A command that changes a live region by `f`, of which is known what it leaves. -/
theorem RegionBut.onRegion {s : State} {r : Nat} {f : Ctx → Region → Region} {but : Region → Region} {l : List Nat}
    (hr : but { f (s.ctx r) (s.region r) with regs := [] } = but { s.region r with regs := [] })
    (hl : RegsBut l (s.region r) (f (s.ctx r) (s.region r))) : RegionBut but l r s (s.onRegion r f) :=
  ⟨OnlyRegion.onRegion s r f, by simpa using hr, by simpa using hl⟩

/-! ## Exceptions -/

/-- A fault whose entry nothing hinders enters its own vector (R176 to R182). -/
theorem takeSync_enters {c top : Nat} {e : Exc} {dslot : Bool} {fpc : BitVec 13} {instr : Word} {s t u : State}
    (hesc : (s.cell c).esc = false) (hd : drainDmem c (s.cell c).storeBuf s = some t) (hrep : e.report = none)
    (hf : frameTop c t = (some top, u)) (hno : escDetail (u.cell c) true (isClaim e) false = none)
    (himp : (u.cell c).oldestImp (fun _ => true) = none) :
    takeSync c e dslot fpc instr s = enterSync c top e dslot fpc instr u := by
  simp [takeSync, hesc, hd, hrep, hf, hno, himp]

/-- In the escalation state a fault halts the cell with a cell-reach error (R186). -/
theorem takeSync_escalated {c : Nat} {e : Exc} {dslot : Bool} {fpc : BitVec 13} {instr : Word} {s : State}
    (hesc : (s.cell c).esc = true) : takeSync c e dslot fpc instr s = s.onCell c (cellFails 1) := by
  simp [takeSync, hesc]

/-- A fault outside a delay slot has its own address in the frame (R179). -/
theorem takeFault_outside {c : Nat} {e : Exc} {word : Word} {s : State} (h : (s.cell c).slot = none) :
    takeFault c e word s = takeSync c e false (s.cell c).pc word s := by
  simp [takeFault, h]

/-- PC, level and set after an entry (R176, R178). -/
theorem enterAt_cell (c top vector : Nat) (stat : Word) (s : State) :
    ((enterAt c top vector stat s).cell c).pc = BitVec.ofNat 13 (16 * vector)
      ∧ ((enterAt c top vector stat s).cell c).slot = none ∧ ((enterAt c top vector stat s).cell c).hold = .none
      ∧ ((enterAt c top vector stat s).cell c).micro = none := by
  simp only [enterAt, State.cell_onCell, Cell.dropMicro, and_self]

/-- An empty store buffer needs no drain. -/
theorem drainDmem_nil (c : Nat) (s : State) : drainDmem c [] s = some s := rfl

end Sys2Proof.Machine
end

