-- ==== Sys2Proof/Laws/Memory.lean ====
section
/-!
SUPPORT. Laws of the addressed memories: what an access in service reads and writes, and that no other byte changes.
-/

namespace Sys2Proof.Machine

/-! ## Accesses in service -/

theorem placeServed_of {R : Region} {p : Place} {n : Nat} (h : ∀ b ∈ placeBanks p n, bankServes b R = true) :
    placeServed p n R = (true, R) := by
  unfold placeServed; rw [if_pos (List.all_eq_true.mpr h)]

/-- A read in service gives the bytes and changes nothing. -/
theorem readMem_served {s : State} {r : Nat} {p : Place} {n : Nat} (h : Served r p n s) :
    s.readMem r p n = (.ok (rawRead p n (s.region r)), s) := by
  obtain ⟨⟨⟨hr, hp⟩, ⟨he, _⟩, hw⟩, hb, hs⟩ := h
  simp [State.readMem, awake_live hp, memRead, hr, hb, placeServed_of hs, eccTouchN_clean _ he, State.setRegion_self hw]

theorem setEcc_clean {R : Region} (h : R.banks.ecc = []) (code : Nat) : setEcc code none R = R := by
  have : mapSet noneAt R.banks.ecc code none = R.banks.ecc := by rw [h]; rfl
  unfold setEcc; rw [this]

/-- A write finds and leaves valid check bits. -/
theorem eccWritten_clean {R : Region} (h : R.banks.ecc = [] ∧ R.banks.dbeFresh = true) (base lo hi : Nat) :
    eccWritten base lo hi R = R := by
  unfold eccWritten
  have e : mapKeep (fun k => !decide (base + lo / 8 ≤ k ∧ k < base + (hi + 7) / 8)) R.banks.ecc = R.banks.ecc := by
    rw [h.1]; rfl
  simp only [e, h.2, Bool.true_or]
  rw [← h.2]

theorem mergeEnds_clean (x : Ctx) {R : Region} (h : R.banks.ecc = []) (p : Place) (n : Nat) :
    mergeEnds x p n R = ((true, true), R) := by
  simp [mergeEnds, eccTouch, eccAt_clean h]

theorem Place.plus_zero (p : Place) : p.plus 0 = p := by cases p <;> rfl

/-- A write in service writes its bytes. -/
theorem writeMem_served {s : State} {r : Nat} {p : Place} {bs : List Byte} (hb : bs ≠ [])
    (h : Served r p bs.length s) : s.writeMem r p bs = (.ok (), s.setRegion r (rawWrite p bs (s.region r))) := by
  obtain ⟨⟨⟨hr, hp⟩, he, hw⟩, hbk, hs⟩ := h
  simp only [State.writeMem, awake_live hp, memWrite, hr, hbk, placeServed_of hs, mergeEnds_clean _ he.1]
  simp [hb, memFill, Place.plus_zero, eccWritten_clean he]

/-- So does one of a cell's own DMEM. -/
theorem dmWrite_steady {s : State} {c : Nat} (h : Steady (c / 128) s) (o seq : Nat) {bs : List Byte} (hb : bs ≠ []) :
    s.dmWrite c o seq bs = s.onCell c (fun k => { k with dmem := mapWrite zeroByte k.dmem o bs }) := by
  have hs : Served (c / 128) (.dmem (c % 128) o) bs.length s := ⟨h, rfl, fun b hb => by simp [placeBanks] at hb⟩
  unfold State.dmWrite
  rw [writeMem_served hb hs]
  rfl

/-- A change of a cell leaves the rest of every region as it was. -/
theorem region_onCell_but (s : State) (c r : Nat) (f : Cell → Cell) :
    (s.onCell c f).region r = { s.region r with cells := ((s.onCell c f).region r).cells } := by
  by_cases h : r = c / 128
  · subst h; rw [State.region_onCell]; rfl
  · rw [State.region_onCell_of_ne s h]

/-- A region that is steady stays so when a cell changes. -/
theorem Steady.onCell {s : State} {r : Nat} (h : Steady r s) (c : Nat) (f : Cell → Cell) : Steady r (s.onCell c f) := by
  obtain ⟨⟨h1, h2⟩, h3, h4⟩ := h
  have e := region_onCell_but s c r f
  refine ⟨⟨?_, ?_⟩, ?_, mapWf_mapSet h4 _ _⟩
  · rw [e]; exact h1
  · rw [e]; exact h2
  · rw [e]; exact h3

/-- A place in service stays so when a cell changes. -/
theorem Served.onCell {s : State} {r : Nat} {p : Place} {n : Nat} (h : Served r p n s) (c : Nat) (f : Cell → Cell) :
    Served r p n (s.onCell c f) := by
  obtain ⟨h1, h2, h3⟩ := h
  have e := region_onCell_but s c r f
  refine ⟨h1.onCell c f, ?_, fun b hb => ?_⟩
  · rw [e]; cases p <;> exact h2
  · rw [e]; exact h3 b hb

/-! ## Bytes -/

theorem mapRead_one (m : FMap Byte) (o : Nat) : (mapRead zeroByte m o 1).headD 0 = mapGet zeroByte m o := rfl

theorem byteAt_rmem (o : Nat) (R : Region) : byteAt (.rmem o) R = mapGet zeroByte R.banks.rmem o := rfl
theorem byteAt_bmem (b o : Nat) (R : Region) : byteAt (.bmem b o) R = mapGet zeroByte R.banks.bmem (b * 0x10000 + o) := rfl
theorem byteAt_dmem (i o : Nat) (R : Region) : byteAt (.dmem i o) R = mapGet zeroByte (R.cell i).dmem o := rfl
theorem byteAt_imem (i o : Nat) (R : Region) : byteAt (.imem i o) R = mapGet zeroByte (R.cell i).imem o := rfl

theorem mapGet_written (m : FMap Byte) (o j : Nat) (bs : List Byte) (h : j < bs.length) :
    mapGet zeroByte (mapWrite zeroByte m o bs) (o + j) = bs.getD j 0 := by
  rw [mapGet_mapWrite, dif_pos ⟨by omega, by omega⟩]
  simp [h]

/-- A write of bytes at a place is read back, and no other byte of the region's memories differs. -/
theorem rawWrite_stored {p : Place} {bs : List Byte} {R : Region} (h : ∀ j, j < bs.length → (p.plus j).inside) :
    Stored p bs R (rawWrite p bs R) := by
  refine ⟨fun j hj => ?_, fun q hq hne => ?_⟩
  · cases p <;> simp only [Place.plus, byteAt_rmem, byteAt_bmem, byteAt_dmem, byteAt_imem, rawWrite, Region.onCell,
      Region.cell_setCell, ← Nat.add_assoc]
    all_goals exact mapGet_written _ _ _ _ hj
  · cases p with
    | rmem o =>
      cases q with
      | rmem a =>
        refine mapGet_mapWrite_of_out zeroByte bs _ _ ?_
        by_contra hc
        exact hne (a - o) (by omega) (by simp [Place.plus]; omega)
      | _ => rfl
    | bmem b o =>
      cases q with
      | bmem b' a =>
        refine mapGet_mapWrite_of_out zeroByte bs _ _ ?_
        by_contra hc
        have hb := h (b' * 0x10000 + a - (b * 0x10000 + o)) (by omega)
        simp only [Place.plus, Place.inside] at hb hq
        exact hne (b' * 0x10000 + a - (b * 0x10000 + o)) (by omega) (by simp [Place.plus]; omega)
      | _ => rfl
    | dmem i o =>
      cases q with
      | dmem i' a =>
        by_cases hi : i' = i
        · subst hi
          simp only [byteAt_dmem, rawWrite, Region.onCell, Region.cell_setCell]
          refine mapGet_mapWrite_of_out zeroByte bs _ _ ?_
          by_contra hc
          exact hne (a - o) (by omega) (by simp [Place.plus]; omega)
        · simp only [byteAt_dmem, rawWrite, Region.onCell, Region.cell_setCell_of_ne _ hi]
      | imem i' a =>
        by_cases hi : i' = i
        · subst hi; simp only [byteAt_imem, rawWrite, Region.onCell, Region.cell_setCell]
        · simp only [byteAt_imem, rawWrite, Region.onCell, Region.cell_setCell_of_ne _ hi]
      | _ => rfl
    | imem i o =>
      cases q with
      | imem i' a =>
        by_cases hi : i' = i
        · subst hi
          simp only [byteAt_imem, rawWrite, Region.onCell, Region.cell_setCell]
          refine mapGet_mapWrite_of_out zeroByte bs _ _ ?_
          by_contra hc
          exact hne (a - o) (by omega) (by simp [Place.plus]; omega)
        · simp only [byteAt_imem, rawWrite, Region.onCell, Region.cell_setCell_of_ne _ hi]
      | dmem i' a =>
        by_cases hi : i' = i
        · subst hi; simp only [byteAt_dmem, rawWrite, Region.onCell, Region.cell_setCell]
        · simp only [byteAt_dmem, rawWrite, Region.onCell, Region.cell_setCell_of_ne _ hi]
      | _ => rfl

end Sys2Proof.Machine
end

