-- ==== Sys2Proof/Laws/PerInstr.lean ====
section
/-!
SUPPORT. One lemma per command: the decision agrees with well-formedness.
-/

namespace Sys2Proof

theorem JtagOp.wellFormed_iff (op : JtagOp) : op.wellFormed = true ↔ op.WellFormed := by
  cases op <;> simp [JtagOp.wellFormed, JtagOp.WellFormed]

end Sys2Proof

namespace Sys2Proof.Laws.WellFormedDecision

/-- The decision agrees with the definition. -/
def Statement (i : Instr) : Prop := i.wellFormed = true ↔ i.WellFormed

theorem nop (c : CellId) : Statement (.nop c) :=
  Iff.intro (fun _ => True.intro) (fun _ => rfl)
theorem add (c : CellId) (d a b : RegNo) : Statement (.add c d a b) :=
  Iff.intro (fun _ => True.intro) (fun _ => rfl)
theorem sub (c : CellId) (d a b : RegNo) : Statement (.sub c d a b) :=
  Iff.intro (fun _ => True.intro) (fun _ => rfl)
theorem adds (c : CellId) (d a b : RegNo) : Statement (.adds c d a b) :=
  Iff.intro (fun _ => True.intro) (fun _ => rfl)
theorem subs (c : CellId) (d a b : RegNo) : Statement (.subs c d a b) :=
  Iff.intro (fun _ => True.intro) (fun _ => rfl)
theorem and (c : CellId) (d a b : RegNo) : Statement (.and c d a b) :=
  Iff.intro (fun _ => True.intro) (fun _ => rfl)
theorem or (c : CellId) (d a b : RegNo) : Statement (.or c d a b) :=
  Iff.intro (fun _ => True.intro) (fun _ => rfl)
theorem xor (c : CellId) (d a b : RegNo) : Statement (.xor c d a b) :=
  Iff.intro (fun _ => True.intro) (fun _ => rfl)
theorem andn (c : CellId) (d a b : RegNo) : Statement (.andn c d a b) :=
  Iff.intro (fun _ => True.intro) (fun _ => rfl)
theorem sll (c : CellId) (d a b : RegNo) : Statement (.sll c d a b) :=
  Iff.intro (fun _ => True.intro) (fun _ => rfl)
theorem srl (c : CellId) (d a b : RegNo) : Statement (.srl c d a b) :=
  Iff.intro (fun _ => True.intro) (fun _ => rfl)
theorem sra (c : CellId) (d a b : RegNo) : Statement (.sra c d a b) :=
  Iff.intro (fun _ => True.intro) (fun _ => rfl)
theorem ror (c : CellId) (d a b : RegNo) : Statement (.ror c d a b) :=
  Iff.intro (fun _ => True.intro) (fun _ => rfl)
theorem slt (c : CellId) (d a b : RegNo) : Statement (.slt c d a b) :=
  Iff.intro (fun _ => True.intro) (fun _ => rfl)
theorem sltu (c : CellId) (d a b : RegNo) : Statement (.sltu c d a b) :=
  Iff.intro (fun _ => True.intro) (fun _ => rfl)
theorem clz (c : CellId) (d a : RegNo) : Statement (.clz c d a) :=
  Iff.intro (fun _ => True.intro) (fun _ => rfl)
theorem popc (c : CellId) (d a : RegNo) : Statement (.popc c d a) :=
  Iff.intro (fun _ => True.intro) (fun _ => rfl)
theorem brev (c : CellId) (d a : RegNo) (lanes : Fin 4) : Statement (.brev c d a lanes) :=
  Iff.intro (fun _ => True.intro) (fun _ => rfl)
theorem par (c : CellId) (d a : RegNo) (bytes : Bool) : Statement (.par c d a bytes) :=
  Iff.intro (fun _ => True.intro) (fun _ => rfl)
theorem sel (c : CellId) (d a b cc : RegNo) : Statement (.sel c d a b cc) :=
  Iff.intro (fun _ => True.intro) (fun _ => rfl)
theorem cmovz (c : CellId) (d a b : RegNo) : Statement (.cmovz c d a b) :=
  Iff.intro (fun _ => True.intro) (fun _ => rfl)
theorem cmovnz (c : CellId) (d a b : RegNo) : Statement (.cmovnz c d a b) :=
  Iff.intro (fun _ => True.intro) (fun _ => rfl)
theorem addi (c : CellId) (d a : RegNo) (imm : BitVec 16) : Statement (.addi c d a imm) :=
  Iff.intro (fun _ => True.intro) (fun _ => rfl)
theorem addsi (c : CellId) (d a : RegNo) (imm : BitVec 16) : Statement (.addsi c d a imm) :=
  Iff.intro (fun _ => True.intro) (fun _ => rfl)
theorem andi (c : CellId) (d a : RegNo) (imm : BitVec 16) : Statement (.andi c d a imm) :=
  Iff.intro (fun _ => True.intro) (fun _ => rfl)
theorem ori (c : CellId) (d a : RegNo) (imm : BitVec 16) : Statement (.ori c d a imm) :=
  Iff.intro (fun _ => True.intro) (fun _ => rfl)
theorem xori (c : CellId) (d a : RegNo) (imm : BitVec 16) : Statement (.xori c d a imm) :=
  Iff.intro (fun _ => True.intro) (fun _ => rfl)
theorem lui (c : CellId) (d : RegNo) (imm : BitVec 16) : Statement (.lui c d imm) :=
  Iff.intro (fun _ => True.intro) (fun _ => rfl)
theorem slli (c : CellId) (d a : RegNo) (imm : BitVec 16) : Statement (.slli c d a imm) :=
  Iff.intro (fun _ => True.intro) (fun _ => rfl)
theorem srli (c : CellId) (d a : RegNo) (imm : BitVec 16) : Statement (.srli c d a imm) :=
  Iff.intro (fun _ => True.intro) (fun _ => rfl)
theorem srai (c : CellId) (d a : RegNo) (imm : BitVec 16) : Statement (.srai c d a imm) :=
  Iff.intro (fun _ => True.intro) (fun _ => rfl)
theorem rori (c : CellId) (d a : RegNo) (imm : BitVec 16) : Statement (.rori c d a imm) :=
  Iff.intro (fun _ => True.intro) (fun _ => rfl)
theorem slti (c : CellId) (d a : RegNo) (imm : BitVec 16) : Statement (.slti c d a imm) :=
  Iff.intro (fun _ => True.intro) (fun _ => rfl)
theorem sltiu (c : CellId) (d a : RegNo) (imm : BitVec 16) : Statement (.sltiu c d a imm) :=
  Iff.intro (fun _ => True.intro) (fun _ => rfl)
theorem mul (c : CellId) (d a b : RegNo) : Statement (.mul c d a b) :=
  Iff.intro (fun _ => True.intro) (fun _ => rfl)
theorem mulh (c : CellId) (d a b : RegNo) : Statement (.mulh c d a b) :=
  Iff.intro (fun _ => True.intro) (fun _ => rfl)
theorem mulhu (c : CellId) (d a b : RegNo) : Statement (.mulhu c d a b) :=
  Iff.intro (fun _ => True.intro) (fun _ => rfl)
theorem qmul (c : CellId) (d a b : RegNo) (rnd : Bool) : Statement (.qmul c d a b rnd) :=
  Iff.intro (fun _ => True.intro) (fun _ => rfl)
theorem mac (c : CellId) (a b : RegNo) (sub : Bool) : Statement (.mac c a b sub) :=
  Iff.intro (fun _ => True.intro) (fun _ => rfl)
theorem macs (c : CellId) (a b : RegNo) (sub : Bool) : Statement (.macs c a b sub) :=
  Iff.intro (fun _ => True.intro) (fun _ => rfl)
theorem mtac (c : CellId) (a b : RegNo) : Statement (.mtac c a b) :=
  Iff.intro (fun _ => True.intro) (fun _ => rfl)
theorem rdac (c : CellId) (d : RegNo) (sh : Fin 64) (trunc rnd : Bool) : Statement (.rdac c d sh trunc rnd) :=
  Iff.intro (fun _ => True.intro) (fun _ => rfl)
theorem div (c : CellId) (d a b : RegNo) : Statement (.div c d a b) :=
  Iff.intro (fun _ => True.intro) (fun _ => rfl)
theorem divu (c : CellId) (d a b : RegNo) : Statement (.divu c d a b) :=
  Iff.intro (fun _ => True.intro) (fun _ => rfl)
theorem rem (c : CellId) (d a b : RegNo) : Statement (.rem c d a b) :=
  Iff.intro (fun _ => True.intro) (fun _ => rfl)
theorem remu (c : CellId) (d a b : RegNo) : Statement (.remu c d a b) :=
  Iff.intro (fun _ => True.intro) (fun _ => rfl)
theorem sqrt (c : CellId) (d a : RegNo) (q : Bool) : Statement (.sqrt c d a q) :=
  Iff.intro (fun _ => True.intro) (fun _ => rfl)
theorem mac64 (c : CellId) (a b : RegNo) : Statement (.mac64 c a b) :=
  Iff.intro (fun _ => True.intro) (fun _ => rfl)
theorem longOpResult (c : CellId) (i : Fin 2) : Statement (.longOpResult c i) :=
  Iff.intro (fun _ => True.intro) (fun _ => rfl)
theorem crcs (c : CellId) (d a : RegNo) (n : Fin 4) : Statement (.crcs c d a n) :=
  Iff.intro (fun _ => True.intro) (fun _ => rfl)
theorem crcb (c : CellId) (a b d : RegNo) : Statement (.crcb c a b d) :=
  Iff.intro (fun _ => True.intro) (fun _ => rfl)
theorem blkmov (c : CellId) (a b d : RegNo) : Statement (.blkmov c a b d) :=
  Iff.intro (fun _ => True.intro) (fun _ => rfl)
theorem ldw (c : CellId) (d a : RegNo) (imm : BitVec 16) : Statement (.ldw c d a imm) :=
  Iff.intro (fun _ => True.intro) (fun _ => rfl)
theorem ldh (c : CellId) (d a : RegNo) (imm : BitVec 16) : Statement (.ldh c d a imm) :=
  Iff.intro (fun _ => True.intro) (fun _ => rfl)
theorem ldhu (c : CellId) (d a : RegNo) (imm : BitVec 16) : Statement (.ldhu c d a imm) :=
  Iff.intro (fun _ => True.intro) (fun _ => rfl)
theorem ldb (c : CellId) (d a : RegNo) (imm : BitVec 16) : Statement (.ldb c d a imm) :=
  Iff.intro (fun _ => True.intro) (fun _ => rfl)
theorem ldbu (c : CellId) (d a : RegNo) (imm : BitVec 16) : Statement (.ldbu c d a imm) :=
  Iff.intro (fun _ => True.intro) (fun _ => rfl)
theorem stw (c : CellId) (d a : RegNo) (imm : BitVec 16) : Statement (.stw c d a imm) :=
  Iff.intro (fun _ => True.intro) (fun _ => rfl)
theorem sth (c : CellId) (d a : RegNo) (imm : BitVec 16) : Statement (.sth c d a imm) :=
  Iff.intro (fun _ => True.intro) (fun _ => rfl)
theorem stb (c : CellId) (d a : RegNo) (imm : BitVec 16) : Statement (.stb c d a imm) :=
  Iff.intro (fun _ => True.intro) (fun _ => rfl)
theorem lda (c : CellId) (d a b : RegNo) : Statement (.lda c d a b) :=
  Iff.intro (fun _ => True.intro) (fun _ => rfl)
theorem swp (c : CellId) (d a b : RegNo) : Statement (.swp c d a b) :=
  Iff.intro (fun _ => True.intro) (fun _ => rfl)
theorem loadReturn (c : CellId) (i : Fin 8) : Statement (.loadReturn c i) :=
  Iff.intro (fun _ => True.intro) (fun _ => rfl)
theorem storeBufferDrain (c : CellId) : Statement (.storeBufferDrain c) :=
  Iff.intro (fun _ => True.intro) (fun _ => rfl)
theorem storeAck (c : CellId) (i : Nat) : Statement (.storeAck c i) :=
  Iff.intro (fun _ => True.intro) (fun _ => rfl)
theorem in_ (c : CellId) (d a : RegNo) (port : BitVec 16) : Statement (.in_ c d a port) :=
  Iff.intro (fun _ => True.intro) (fun _ => rfl)
theorem out (c : CellId) (d a : RegNo) (port : BitVec 16) : Statement (.out c d a port) :=
  Iff.intro (fun _ => True.intro) (fun _ => rfl)
theorem outp (c : CellId) (d a : RegNo) (port : BitVec 16) : Statement (.outp c d a port) :=
  Iff.intro (fun _ => True.intro) (fun _ => rfl)
theorem outAck (c : CellId) (i : Nat) : Statement (.outAck c i) :=
  Iff.intro (fun _ => True.intro) (fun _ => rfl)
theorem iwr (c : CellId) (d a : RegNo) (imm : BitVec 16) : Statement (.iwr c d a imm) :=
  Iff.intro (fun _ => True.intro) (fun _ => rfl)
theorem iflush (c : CellId) : Statement (.iflush c) :=
  Iff.intro (fun _ => True.intro) (fun _ => rfl)
theorem beq (c : CellId) (a b : RegNo) (annul : Bool) (off : BitVec 15) : Statement (.beq c a b annul off) :=
  Iff.intro (fun _ => True.intro) (fun _ => rfl)
theorem bne (c : CellId) (a b : RegNo) (annul : Bool) (off : BitVec 15) : Statement (.bne c a b annul off) :=
  Iff.intro (fun _ => True.intro) (fun _ => rfl)
theorem blt (c : CellId) (a b : RegNo) (annul : Bool) (off : BitVec 15) : Statement (.blt c a b annul off) :=
  Iff.intro (fun _ => True.intro) (fun _ => rfl)
theorem bge (c : CellId) (a b : RegNo) (annul : Bool) (off : BitVec 15) : Statement (.bge c a b annul off) :=
  Iff.intro (fun _ => True.intro) (fun _ => rfl)
theorem bltu (c : CellId) (a b : RegNo) (annul : Bool) (off : BitVec 15) : Statement (.bltu c a b annul off) :=
  Iff.intro (fun _ => True.intro) (fun _ => rfl)
theorem bgeu (c : CellId) (a b : RegNo) (annul : Bool) (off : BitVec 15) : Statement (.bgeu c a b annul off) :=
  Iff.intro (fun _ => True.intro) (fun _ => rfl)
theorem beqz (c : CellId) (a : RegNo) (annul : Bool) (off : BitVec 15) : Statement (.beqz c a annul off) :=
  Iff.intro (fun _ => True.intro) (fun _ => rfl)
theorem bnez (c : CellId) (a : RegNo) (annul : Bool) (off : BitVec 15) : Statement (.bnez c a annul off) :=
  Iff.intro (fun _ => True.intro) (fun _ => rfl)
theorem bltz (c : CellId) (a : RegNo) (annul : Bool) (off : BitVec 15) : Statement (.bltz c a annul off) :=
  Iff.intro (fun _ => True.intro) (fun _ => rfl)
theorem bgez (c : CellId) (a : RegNo) (annul : Bool) (off : BitVec 15) : Statement (.bgez c a annul off) :=
  Iff.intro (fun _ => True.intro) (fun _ => rfl)
theorem jmp (c : CellId) (target : BitVec 24) : Statement (.jmp c target) :=
  Iff.intro (fun _ => True.intro) (fun _ => rfl)
theorem call (c : CellId) (target : BitVec 24) : Statement (.call c target) :=
  Iff.intro (fun _ => True.intro) (fun _ => rfl)
theorem jr (c : CellId) (a : RegNo) : Statement (.jr c a) :=
  Iff.intro (fun _ => True.intro) (fun _ => rfl)
theorem callr (c : CellId) (a : RegNo) : Statement (.callr c a) :=
  Iff.intro (fun _ => True.intro) (fun _ => rfl)
theorem ret (c : CellId) : Statement (.ret c) :=
  Iff.intro (fun _ => True.intro) (fun _ => rfl)
theorem wait (c : CellId) (p : Fin 4) : Statement (.wait c p) :=
  Iff.intro (fun _ => True.intro) (fun _ => rfl)
theorem fire (c : CellId) (p : Fin 4) : Statement (.fire c p) :=
  Iff.intro (fun _ => True.intro) (fun _ => rfl)
theorem evtst (c : CellId) (d : RegNo) : Statement (.evtst c d) :=
  Iff.intro (fun _ => True.intro) (fun _ => rfl)
theorem ckpt (c : CellId) : Statement (.ckpt c) :=
  Iff.intro (fun _ => True.intro) (fun _ => rfl)
theorem gate (c : CellId) (n : Byte) : Statement (.gate c n) :=
  Iff.intro (fun _ => True.intro) (fun _ => rfl)
theorem rets (c : CellId) : Statement (.rets c) :=
  Iff.intro (fun _ => True.intro) (fun _ => rfl)
theorem rete (c : CellId) : Statement (.rete c) :=
  Iff.intro (fun _ => True.intro) (fun _ => rfl)
theorem mfs (c : CellId) (d : RegNo) (sr : Fin 64) : Statement (.mfs c d sr) :=
  Iff.intro (fun _ => True.intro) (fun _ => rfl)
theorem mts (c : CellId) (a : RegNo) (sr : Fin 64) : Statement (.mts c a sr) :=
  Iff.intro (fun _ => True.intro) (fun _ => rfl)
theorem idle (c : CellId) : Statement (.idle c) :=
  Iff.intro (fun _ => True.intro) (fun _ => rfl)
theorem halt (c : CellId) : Statement (.halt c) :=
  Iff.intro (fun _ => True.intro) (fun _ => rfl)
theorem mbar (c : CellId) : Statement (.mbar c) :=
  Iff.intro (fun _ => True.intro) (fun _ => rfl)
theorem lbar (c : CellId) : Statement (.lbar c) :=
  Iff.intro (fun _ => True.intro) (fun _ => rfl)
theorem userOpcode (c : CellId) (op : Fin 64) (fields : BitVec 24) : Statement (.userOpcode c op fields) :=
  Iff.intro (fun _ => True.intro) (fun _ => rfl)
theorem exceptionEntry (c : CellId) : Statement (.exceptionEntry c) :=
  Iff.intro (fun _ => True.intro) (fun _ => rfl)
theorem safePointWatchdog (c : CellId) : Statement (.safePointWatchdog c) :=
  Iff.intro (fun _ => True.intro) (fun _ => rfl)
theorem parityRecovery (c : CellId) (dt : Bool) (set : Fin 4) (index : Fin 1024) : Statement (.parityRecovery c dt set index) :=
  Iff.intro (fun _ => True.intro) (fun _ => rfl)
theorem loadStart (r : RegionId) (bk : BlockId) (v : Word) : Statement (.loadStart r bk v) :=
  Iff.intro (fun _ => True.intro) (fun _ => rfl)
theorem loadComplete (r : RegionId) (bk : BlockId) : Statement (.loadComplete r bk) :=
  Iff.intro (fun _ => True.intro) (fun _ => rfl)
theorem evFire (r : RegionId) (v : Word) : Statement (.evFire r v) :=
  Iff.intro (fun _ => True.intro) (fun _ => rfl)
theorem eventPortArrival (c : CellId) (p : Fin 4) (stamp : Ticks) : Statement (.eventPortArrival c p stamp) :=
  Iff.intro (fun _ => True.intro) (fun _ => rfl)
theorem chipWideDelivery (ch : Fin 16) : Statement (.chipWideDelivery ch) :=
  Iff.intro (fun _ => True.intro) (fun _ => rfl)
theorem generatorPost (r : RegionId) : Statement (.generatorPost r) :=
  Iff.intro (fun _ => True.intro) (fun _ => rfl)
theorem icDoorbell (r : RegionId) (v : Word) : Statement (.icDoorbell r v) :=
  Iff.intro (fun _ => True.intro) (fun _ => rfl)
theorem icEoi (r : RegionId) (v : Word) : Statement (.icEoi r v) :=
  Iff.intro (fun _ => True.intro) (fun _ => rfl)
theorem delivery (r : RegionId) : Statement (.delivery r) :=
  Iff.intro (fun _ => True.intro) (fun _ => rfl)
theorem recallSlot (r : RegionId) (i : Fin 128) (level : Fin 16) : Statement (.recallSlot r i level) :=
  Iff.intro (fun _ => True.intro) (fun _ => rfl)
theorem msixDoorbell (v : Word) : Statement (.msixDoorbell v) :=
  Iff.intro (fun _ => True.intro) (fun _ => rfl)
theorem msixSend (vec : Fin 64) : Statement (.msixSend vec) :=
  Iff.intro (fun _ => True.intro) (fun _ => rfl)
theorem rgSnap (r : RegionId) : Statement (.rgSnap r) :=
  Iff.intro (fun _ => True.intro) (fun _ => rfl)
theorem chSnap : Statement (.chSnap) :=
  Iff.intro (fun _ => True.intro) (fun _ => rfl)
theorem snapshotEdge (regions : BitVec 8) (chip : Bool) : Statement (.snapshotEdge regions chip) :=
  Iff.intro (fun _ => True.intro) (fun _ => rfl)
theorem snapshotComplete (regions : BitVec 8) (chip : Bool) : Statement (.snapshotComplete regions chip) :=
  Iff.intro (fun _ => True.intro) (fun _ => rfl)
theorem gtimeStepArm (v : Word) : Statement (.gtimeStepArm v) :=
  Iff.intro (fun _ => True.intro) (fun _ => rfl)
theorem gtimeStepApply : Statement (.gtimeStepApply) :=
  Iff.intro (fun _ => True.intro) (fun _ => rfl)
theorem timedStart (r : RegionId) (g : Fin 8) : Statement (.timedStart r g) :=
  Iff.intro (fun _ => True.intro) (fun _ => rfl)
theorem sampleGroupArm (r : RegionId) (g : Fin 8) (reg : Fin 3) (v : Word) : Statement (.sampleGroupArm r g reg v) :=
  Iff.intro (fun _ => True.intro) (fun _ => rfl)
theorem sampleDelivered (r : RegionId) (n : Fin 17) (code : Int) : Statement (.sampleDelivered r n code) :=
  Iff.intro (fun _ => True.intro) (fun _ => rfl)
theorem readAccumulatorResult (r : RegionId) (ch : Fin 16) (k : Fin 4) : Statement (.readAccumulatorResult r ch k) :=
  Iff.intro (fun _ => True.intro) (fun _ => rfl)
theorem accumulatorConfigWrite (r : RegionId) (ch : Fin 16) (k : Fin 4) (v : Word) : Statement (.accumulatorConfigWrite r ch k v) :=
  Iff.intro (fun _ => True.intro) (fun _ => rfl)
theorem accumulatorGo (r : RegionId) (ch : Fin 16) (k : Fin 4) : Statement (.accumulatorGo r ch k) :=
  Iff.intro (fun _ => True.intro) (fun _ => rfl)
theorem trackerGo (r : RegionId) (ch : Fin 16) (k : Fin 2) : Statement (.trackerGo r ch k) :=
  Iff.intro (fun _ => True.intro) (fun _ => rfl)
theorem trackerWindowEnd (r : RegionId) (ch : Fin 16) (k : Fin 2) : Statement (.trackerWindowEnd r ch k) :=
  Iff.intro (fun _ => True.intro) (fun _ => rfl)
theorem trackerConfigWrite (r : RegionId) (ch : Fin 16) (k : Fin 2) (reg : Fin 4) (v : Word) : Statement (.trackerConfigWrite r ch k reg v) :=
  Iff.intro (fun _ => True.intro) (fun _ => rfl)
theorem probeWrite (r : RegionId) (v : Word) : Statement (.probeWrite r v) :=
  Iff.intro (fun _ => True.intro) (fun _ => rfl)
theorem probeSettled (r : RegionId) : Statement (.probeSettled r) :=
  Iff.intro (fun _ => True.intro) (fun _ => rfl)
theorem sparePark (r : RegionId) : Statement (.sparePark r) :=
  Iff.intro (fun _ => True.intro) (fun _ => rfl)
theorem calibrationComplete (r : RegionId) (j : Fin 18) (inRange : Bool) : Statement (.calibrationComplete r j inRange) :=
  Iff.intro (fun _ => True.intro) (fun _ => rfl)
theorem shadowComplete (r : RegionId) (j : Fin 18) (d : Int) : Statement (.shadowComplete r j d) :=
  Iff.intro (fun _ => True.intro) (fun _ => rfl)
theorem shadowTimeout (r : RegionId) (j : Fin 18) : Statement (.shadowTimeout r j) :=
  Iff.intro (fun _ => True.intro) (fun _ => rfl)
theorem handOver (r : RegionId) (j : Fin 18) : Statement (.handOver r j) :=
  Iff.intro (fun _ => True.intro) (fun _ => rfl)
theorem handBack (r : RegionId) (j : Fin 18) : Statement (.handBack r j) :=
  Iff.intro (fun _ => True.intro) (fun _ => rfl)
theorem calibrationEnableWrite (r : RegionId) (v : Word) : Statement (.calibrationEnableWrite r v) :=
  Iff.intro (fun _ => True.intro) (fun _ => rfl)
theorem initcalComplete (r : RegionId) : Statement (.initcalComplete r) :=
  Iff.intro (fun _ => True.intro) (fun _ => rfl)
theorem timerStart (r : RegionId) (n : Fin 64) : Statement (.timerStart r n) :=
  Iff.intro (fun _ => True.intro) (fun _ => rfl)
theorem timerStop (r : RegionId) (n : Fin 64) : Statement (.timerStop r n) :=
  Iff.intro (fun _ => True.intro) (fun _ => rfl)
theorem timerReload (r : RegionId) (n : Fin 64) : Statement (.timerReload r n) :=
  Iff.intro (fun _ => True.intro) (fun _ => rfl)
theorem timerForce (r : RegionId) (n : Fin 64) : Statement (.timerForce r n) :=
  Iff.intro (fun _ => True.intro) (fun _ => rfl)
theorem counterWrite (r : RegionId) (n : Fin 64) (v : Word) : Statement (.counterWrite r n v) :=
  Iff.intro (fun _ => True.intro) (fun _ => rfl)
theorem groupStart (r : RegionId) (w : Fin 2) (v : Word) : Statement (.groupStart r w v) :=
  Iff.intro (fun _ => True.intro) (fun _ => rfl)
theorem groupStop (r : RegionId) (w : Fin 2) (v : Word) : Statement (.groupStop r w v) :=
  Iff.intro (fun _ => True.intro) (fun _ => rfl)
theorem wrapEdge (r : RegionId) (n : Fin 64) : Statement (.wrapEdge r n) :=
  Iff.intro (fun _ => True.intro) (fun _ => rfl)
theorem compareMatch (r : RegionId) (n : Fin 64) (b : Bool) : Statement (.compareMatch r n b) :=
  Iff.intro (fun _ => True.intro) (fun _ => rfl)
theorem compareWrite (r : RegionId) (n : Fin 64) (b : Bool) (v : Word) : Statement (.compareWrite r n b v) :=
  Iff.intro (fun _ => True.intro) (fun _ => rfl)
theorem deadTimeExpiry (r : RegionId) (k : Fin 24) : Statement (.deadTimeExpiry r k) :=
  Iff.intro (fun _ => True.intro) (fun _ => rfl)
theorem tripInputAsserted (r : RegionId) (i : Fin 4) : Statement (.tripInputAsserted r i) :=
  Iff.intro (fun _ => True.intro) (fun _ => rfl)
theorem tripInputDeasserted (r : RegionId) (i : Fin 4) : Statement (.tripInputDeasserted r i) :=
  Iff.intro (fun _ => True.intro) (fun _ => rfl)
theorem pairTrip (r : RegionId) (k : Fin 24) : Statement (.pairTrip r k) :=
  Iff.intro (fun _ => True.intro) (fun _ => rfl)
theorem pairRearm (r : RegionId) (k : Fin 24) : Statement (.pairRearm r k) :=
  Iff.intro (fun _ => True.intro) (fun _ => rfl)
theorem deadlineMiss (r : RegionId) (k : Fin 24) : Statement (.deadlineMiss r k) :=
  Iff.intro (fun _ => True.intro) (fun _ => rfl)
theorem captureEdge (r : RegionId) (n : Fin 64) (rising : Bool) (stamp : Ticks) :
    Statement (.captureEdge r n rising stamp) :=
  Iff.intro (fun _ => True.intro) (fun _ => rfl)
theorem captureConfigWrite (r : RegionId) (n : Fin 64) (v : Word) : Statement (.captureConfigWrite r n v) :=
  Iff.intro (fun _ => True.intro) (fun _ => rfl)
theorem captureRead (r : RegionId) (n : Fin 64) : Statement (.captureRead r n) :=
  Iff.intro (fun _ => True.intro) (fun _ => rfl)
theorem sampleBoundary (c : CellId) : Statement (.sampleBoundary c) :=
  Iff.intro (fun _ => True.intro) (fun _ => rfl)
theorem coefficientWrite (c : CellId) (i : Fin 64) (v : Word) : Statement (.coefficientWrite c i v) :=
  Iff.intro (fun _ => True.intro) (fun _ => rfl)
theorem swap (c : CellId) : Statement (.swap c) :=
  Iff.intro (fun _ => True.intro) (fun _ => rfl)
theorem cancel (c : CellId) : Statement (.cancel c) :=
  Iff.intro (fun _ => True.intro) (fun _ => rfl)
theorem profileStart (r : RegionId) (p : Fin 8) : Statement (.profileStart r p) :=
  Iff.intro (fun _ => True.intro) (fun _ => rfl)
theorem profileTick (r : RegionId) (p : Fin 8) : Statement (.profileTick r p) :=
  Iff.intro (fun _ => True.intro) (fun _ => rfl)
theorem profileAbort (r : RegionId) (p : Fin 8) : Statement (.profileAbort r p) :=
  Iff.intro (fun _ => True.intro) (fun _ => rfl)
theorem profilePosWrite (r : RegionId) (p : Fin 8) (hi : Bool) (v : Word) : Statement (.profilePosWrite r p hi v) :=
  Iff.intro (fun _ => True.intro) (fun _ => rfl)
theorem profilePeriodWrite (r : RegionId) (p : Fin 8) (v : Word) : Statement (.profilePeriodWrite r p v) :=
  Iff.intro (fun _ => True.intro) (fun _ => rfl)
theorem injectionGo (r : RegionId) : Statement (.injectionGo r) :=
  Iff.intro (fun _ => True.intro) (fun _ => rfl)
theorem injectionStop (r : RegionId) : Statement (.injectionStop r) :=
  Iff.intro (fun _ => True.intro) (fun _ => rfl)
theorem injectionStep (r : RegionId) : Statement (.injectionStep r) :=
  Iff.intro (fun _ => True.intro) (fun _ => rfl)
theorem captureEntryWrite (r : RegionId) : Statement (.captureEntryWrite r) :=
  Iff.intro (fun _ => True.intro) (fun _ => rfl)
theorem ringReset (r : RegionId) : Statement (.ringReset r) :=
  Iff.intro (fun _ => True.intro) (fun _ => rfl)
theorem feedbackChange (r : RegionId) (u : Fin 8) (lines : BitVec 3) : Statement (.feedbackChange r u lines) :=
  Iff.intro (fun _ => True.intro) (fun _ => rfl)
theorem feedbackTimeout (r : RegionId) (u : Fin 8) : Statement (.feedbackTimeout r u) :=
  Iff.intro (fun _ => True.intro) (fun _ => rfl)
theorem feedbackPosWrite (r : RegionId) (u : Fin 8) (hi : Bool) (v : Word) : Statement (.feedbackPosWrite r u hi v) :=
  Iff.intro (fun _ => True.intro) (fun _ => rfl)
theorem feedbackCmpWrite (r : RegionId) (u : Fin 8) (v : Word) : Statement (.feedbackCmpWrite r u v) :=
  Iff.intro (fun _ => True.intro) (fun _ => rfl)
theorem feedbackConfigWrite (r : RegionId) (u : Fin 8) (v : Word) : Statement (.feedbackConfigWrite r u v) :=
  Iff.intro (fun _ => True.intro) (fun _ => rfl)
theorem eccRewrite (r : RegionId) (loc : Word) : Statement (.eccRewrite r loc) :=
  Iff.intro (fun _ => True.intro) (fun _ => rfl)
theorem bankPowerWrite (r : RegionId) (b : Fin 80) (host : Bool) (v : Word) : Statement (.bankPowerWrite r b host v) :=
  Iff.intro (fun _ => True.intro) (fun _ => rfl)
theorem bankPowerDone (r : RegionId) (b : Fin 80) : Statement (.bankPowerDone r b) :=
  Iff.intro (fun _ => True.intro) (fun _ => rfl)
theorem harrowAccess (r : RegionId) (n : Nat) : Statement (.harrowAccess r n) :=
  by
  simp [Statement, Instr.wellFormed, Instr.WellFormed]
theorem harrowPeriodWrite (r : RegionId) (v : Word) : Statement (.harrowPeriodWrite r v) :=
  Iff.intro (fun _ => True.intro) (fun _ => rfl)
theorem marchGo (r : RegionId) : Statement (.marchGo r) :=
  Iff.intro (fun _ => True.intro) (fun _ => rfl)
theorem marchAbort (r : RegionId) : Statement (.marchAbort r) :=
  Iff.intro (fun _ => True.intro) (fun _ => rfl)
theorem marchBankComplete (r : RegionId) (failed : Bool) (element : Fin 8) (row : BitVec 11) : Statement (.marchBankComplete r failed element row) :=
  by
  simp [Statement, Instr.wellFormed, Instr.WellFormed]
theorem dmaGo (r : RegionId) (ch : Fin 16) : Statement (.dmaGo r ch) :=
  Iff.intro (fun _ => True.intro) (fun _ => rfl)
theorem dmaAbort (r : RegionId) (ch : Fin 16) : Statement (.dmaAbort r ch) :=
  Iff.intro (fun _ => True.intro) (fun _ => rfl)
theorem descriptorFetch (r : RegionId) (ch : Fin 16) : Statement (.descriptorFetch r ch) :=
  Iff.intro (fun _ => True.intro) (fun _ => rfl)
theorem burstStart (r : RegionId) (ch : Fin 16) : Statement (.burstStart r ch) :=
  Iff.intro (fun _ => True.intro) (fun _ => rfl)
theorem burstComplete (r : RegionId) (ch : Fin 16) : Statement (.burstComplete r ch) :=
  Iff.intro (fun _ => True.intro) (fun _ => rfl)
theorem descriptorComplete (r : RegionId) (ch : Fin 16) : Statement (.descriptorComplete r ch) :=
  Iff.intro (fun _ => True.intro) (fun _ => rfl)
theorem hostRead (space : HostSpace) (addr len : Nat) : Statement (.hostRead space addr len) :=
  by
  simp [Statement, Instr.wellFormed, Instr.WellFormed]
theorem hostWrite (space : HostSpace) (addr : Nat) (data : List Byte) : Statement (.hostWrite space addr data) :=
  by
  simp [Statement, Instr.wellFormed, Instr.WellFormed]
theorem negotiate (v : Word) : Statement (.negotiate v) :=
  Iff.intro (fun _ => True.intro) (fun _ => rfl)
theorem frameReceived (p : Fin 2) (data : List Byte) (crcOk : Bool) (stamp : Ticks) : Statement (.frameReceived p data crcOk stamp) :=
  Iff.intro (fun _ => True.intro) (fun _ => rfl)
theorem rxDescriptorRetry (p : Fin 2) : Statement (.rxDescriptorRetry p) :=
  Iff.intro (fun _ => True.intro) (fun _ => rfl)
theorem kickRx (p : Fin 2) : Statement (.kickRx p) :=
  Iff.intro (fun _ => True.intro) (fun _ => rfl)
theorem kickTx (p : Fin 2) : Statement (.kickTx p) :=
  Iff.intro (fun _ => True.intro) (fun _ => rfl)
theorem frameLaunch (p : Fin 2) : Statement (.frameLaunch p) :=
  Iff.intro (fun _ => True.intro) (fun _ => rfl)
theorem transmitComplete (p : Fin 2) (stamp : Ticks) : Statement (.transmitComplete p stamp) :=
  Iff.intro (fun _ => True.intro) (fun _ => rfl)
theorem portReconfigure (p : Fin 2) (reg : Fin 3) (v : Word) : Statement (.portReconfigure p reg v) :=
  Iff.intro (fun _ => True.intro) (fun _ => rfl)
theorem dataFrame (p : Fin 4) (data : List (List LineChar)) (stamp : Ticks) : Statement (.dataFrame p data stamp) :=
  Iff.intro (fun _ => True.intro) (fun _ => rfl)
theorem ackFrame (p : Fin 4) (data : List (List LineChar)) : Statement (.ackFrame p data) :=
  Iff.intro (fun _ => True.intro) (fun _ => rfl)
theorem nakFrame (p : Fin 4) (data : List (List LineChar)) : Statement (.nakFrame p data) :=
  Iff.intro (fun _ => True.intro) (fun _ => rfl)
theorem ackSend (p : Fin 4) : Statement (.ackSend p) :=
  Iff.intro (fun _ => True.intro) (fun _ => rfl)
theorem retryTimeout (p : Fin 4) : Statement (.retryTimeout p) :=
  Iff.intro (fun _ => True.intro) (fun _ => rfl)
theorem codeError (p lane : Fin 4) (lockLost : Bool) : Statement (.codeError p lane lockLost) :=
  Iff.intro (fun _ => True.intro) (fun _ => rfl)
theorem trainingStart (p : Fin 4) : Statement (.trainingStart p) :=
  Iff.intro (fun _ => True.intro) (fun _ => rfl)
theorem trainingFrameSend (p : Fin 4) : Statement (.trainingFrameSend p) :=
  Iff.intro (fun _ => True.intro) (fun _ => rfl)
theorem trainingFrameReceived (p lane : Fin 4) (usable : BitVec 4) (version : BitVec 64) (majors : BitVec 3) : Statement (.trainingFrameReceived p lane usable version majors) :=
  Iff.intro (fun _ => True.intro) (fun _ => rfl)
theorem trainingTimeout (p : Fin 4) : Statement (.trainingTimeout p) :=
  Iff.intro (fun _ => True.intro) (fun _ => rfl)
theorem trainingRetry (p : Fin 4) : Statement (.trainingRetry p) :=
  Iff.intro (fun _ => True.intro) (fun _ => rfl)
theorem tsend (p : Fin 4) : Statement (.tsend p) :=
  Iff.intro (fun _ => True.intro) (fun _ => rfl)
theorem unretire (p : Fin 4) (lanes : BitVec 4) : Statement (.unretire p lanes) :=
  Iff.intro (fun _ => True.intro) (fun _ => rfl)
theorem xesumKick (p : Fin 4) (v : Word) : Statement (.xesumKick p v) :=
  Iff.intro (fun _ => True.intro) (fun _ => rfl)
theorem timedQueuePush (r : RegionId) (p : Fin 32) (v : Word) : Statement (.timedQueuePush r p v) :=
  Iff.intro (fun _ => True.intro) (fun _ => rfl)
theorem timedAction (r : RegionId) (p : Fin 32) : Statement (.timedAction r p) :=
  Iff.intro (fun _ => True.intro) (fun _ => rfl)
theorem fieldPinCapture (r : RegionId) (p : Fin 32) (rising : Bool) (stamp : Ticks) : Statement (.fieldPinCapture r p rising stamp) :=
  Iff.intro (fun _ => True.intro) (fun _ => rfl)
theorem fieldPinCapRead (r : RegionId) (p : Fin 32) : Statement (.fieldPinCapRead r p) :=
  Iff.intro (fun _ => True.intro) (fun _ => rfl)
theorem takeover (r : RegionId) (bk : BlockId) : Statement (.takeover r bk) :=
  Iff.intro (fun _ => True.intro) (fun _ => rfl)
theorem takeoverRestore (r : RegionId) (bk : BlockId) : Statement (.takeoverRestore r bk) :=
  Iff.intro (fun _ => True.intro) (fun _ => rfl)
theorem fallowRelease (r : RegionId) (bk : BlockId) : Statement (.fallowRelease r bk) :=
  Iff.intro (fun _ => True.intro) (fun _ => rfl)
theorem bkRetire (r : RegionId) (bk : BlockId) (v : Word) : Statement (.bkRetire r bk v) :=
  Iff.intro (fun _ => True.intro) (fun _ => rfl)
theorem tlSwfault (r : RegionId) (v : Word) : Statement (.tlSwfault r v) :=
  Iff.intro (fun _ => True.intro) (fun _ => rfl)
theorem faultRecordWrite (r : RegionId) : Statement (.faultRecordWrite r) :=
  Iff.intro (fun _ => True.intro) (fun _ => rfl)
theorem telemetryRecord (r : RegionId) : Statement (.telemetryRecord r) :=
  Iff.intro (fun _ => True.intro) (fun _ => rfl)
theorem sweepStart (r : RegionId) : Statement (.sweepStart r) :=
  Iff.intro (fun _ => True.intro) (fun _ => rfl)
theorem sweepComplete (r : RegionId) : Statement (.sweepComplete r) :=
  Iff.intro (fun _ => True.intro) (fun _ => rfl)
theorem checkCalc (r : RegionId) : Statement (.checkCalc r) :=
  Iff.intro (fun _ => True.intro) (fun _ => rfl)
theorem calcComplete (r : RegionId) : Statement (.calcComplete r) :=
  Iff.intro (fun _ => True.intro) (fun _ => rfl)
theorem commitReference (r : RegionId) : Statement (.commitReference r) :=
  Iff.intro (fun _ => True.intro) (fun _ => rfl)
theorem agingMeasure (r : RegionId) (k : Fin 4) (v : Word) : Statement (.agingMeasure r k v) :=
  Iff.intro (fun _ => True.intro) (fun _ => rfl)
theorem lifetimeAccumulate : Statement (.lifetimeAccumulate) :=
  Iff.intro (fun _ => True.intro) (fun _ => rfl)
theorem lifetimeCommit : Statement (.lifetimeCommit) :=
  Iff.intro (fun _ => True.intro) (fun _ => rfl)
theorem bootAttempt : Statement (.bootAttempt) :=
  Iff.intro (fun _ => True.intro) (fun _ => rfl)
theorem hostBootBlock (v : Word) : Statement (.hostBootBlock v) :=
  Iff.intro (fun _ => True.intro) (fun _ => rfl)
theorem uartBootBlock (data : List Byte) : Statement (.uartBootBlock data) :=
  by
  simp [Statement, Instr.wellFormed, Instr.WellFormed]
theorem bootSourceTimeout : Statement (.bootSourceTimeout) :=
  Iff.intro (fun _ => True.intro) (fun _ => rfl)
theorem trial : Statement (.trial) :=
  Iff.intro (fun _ => True.intro) (fun _ => rfl)
theorem confirm : Statement (.confirm) :=
  Iff.intro (fun _ => True.intro) (fun _ => rfl)
theorem arbadv : Statement (.arbadv) :=
  Iff.intro (fun _ => True.intro) (fun _ => rfl)
theorem fuseBlown : Statement (.fuseBlown) :=
  Iff.intro (fun _ => True.intro) (fun _ => rfl)
theorem attest : Statement (.attest) :=
  Iff.intro (fun _ => True.intro) (fun _ => rfl)
theorem dbgchal : Statement (.dbgchal) :=
  Iff.intro (fun _ => True.intro) (fun _ => rfl)
theorem unlock : Statement (.unlock) :=
  Iff.intro (fun _ => True.intro) (fun _ => rfl)
theorem provision : Statement (.provision) :=
  Iff.intro (fun _ => True.intro) (fun _ => rfl)
theorem revoke : Statement (.revoke) :=
  Iff.intro (fun _ => True.intro) (fun _ => rfl)
theorem journalCommit : Statement (.journalCommit) :=
  Iff.intro (fun _ => True.intro) (fun _ => rfl)
theorem recordCommitted : Statement (.recordCommitted) :=
  Iff.intro (fun _ => True.intro) (fun _ => rfl)
theorem flog : Statement (.flog) :=
  Iff.intro (fun _ => True.intro) (fun _ => rfl)
theorem glean : Statement (.glean) :=
  Iff.intro (fun _ => True.intro) (fun _ => rfl)
theorem journalReplay : Statement (.journalReplay) :=
  Iff.intro (fun _ => True.intro) (fun _ => rfl)
theorem pfwRecognised : Statement (.pfwRecognised) :=
  Iff.intro (fun _ => True.intro) (fun _ => rfl)
theorem pfwDeassert : Statement (.pfwDeassert) :=
  Iff.intro (fun _ => True.intro) (fun _ => rfl)
theorem powerOnReset : Statement (.powerOnReset) :=
  Iff.intro (fun _ => True.intro) (fun _ => rfl)
theorem brownOut : Statement (.brownOut) :=
  Iff.intro (fun _ => True.intro) (fun _ => rfl)
theorem nreset : Statement (.nreset) :=
  Iff.intro (fun _ => True.intro) (fun _ => rfl)
theorem chipWatchdogExpiry : Statement (.chipWatchdogExpiry) :=
  Iff.intro (fun _ => True.intro) (fun _ => rfl)
theorem criticalStateError : Statement (.criticalStateError) :=
  Iff.intro (fun _ => True.intro) (fun _ => rfl)
theorem chipClockLoss : Statement (.chipClockLoss) :=
  Iff.intro (fun _ => True.intro) (fun _ => rfl)
theorem rstchip : Statement (.rstchip) :=
  Iff.intro (fun _ => True.intro) (fun _ => rfl)
theorem softwareChipReset (v : Word) : Statement (.softwareChipReset v) :=
  Iff.intro (fun _ => True.intro) (fun _ => rfl)
theorem regionWatchdogExpiry (r : RegionId) : Statement (.regionWatchdogExpiry r) :=
  Iff.intro (fun _ => True.intro) (fun _ => rfl)
theorem watchdogWarning (region : Option RegionId) : Statement (.watchdogWarning region) :=
  Iff.intro (fun _ => True.intro) (fun _ => rfl)
theorem watchdogKick (region : Option RegionId) (v : Word) : Statement (.watchdogKick region v) :=
  Iff.intro (fun _ => True.intro) (fun _ => rfl)
theorem rclkLockLoss (r : RegionId) : Statement (.rclkLockLoss r) :=
  Iff.intro (fun _ => True.intro) (fun _ => rfl)
theorem regionReset (r : RegionId) : Statement (.regionReset r) :=
  Iff.intro (fun _ => True.intro) (fun _ => rfl)
theorem regionHold (r : RegionId) (hold : Bool) : Statement (.regionHold r hold) :=
  Iff.intro (fun _ => True.intro) (fun _ => rfl)
theorem arbiterParity (r : RegionId) (bk : BlockId) : Statement (.arbiterParity r bk) :=
  Iff.intro (fun _ => True.intro) (fun _ => rfl)
theorem blockReset (r : RegionId) (bk : BlockId) (v : Word) : Statement (.blockReset r bk v) :=
  Iff.intro (fun _ => True.intro) (fun _ => rfl)
theorem cellReset (r : RegionId) (bk : BlockId) (v : Word) : Statement (.cellReset r bk v) :=
  Iff.intro (fun _ => True.intro) (fun _ => rfl)
theorem bkStart (r : RegionId) (bk : BlockId) (v : Word) : Statement (.bkStart r bk v) :=
  Iff.intro (fun _ => True.intro) (fun _ => rfl)
theorem clockGood (k : Fin 10) : Statement (.clockGood k) :=
  Iff.intro (fun _ => True.intro) (fun _ => rfl)
theorem chipRelease : Statement (.chipRelease) :=
  Iff.intro (fun _ => True.intro) (fun _ => rfl)
theorem regionRelease (r : RegionId) : Statement (.regionRelease r) :=
  Iff.intro (fun _ => True.intro) (fun _ => rfl)
theorem pllWrite (r : RegionId) (v : Word) : Statement (.pllWrite r v) :=
  Iff.intro (fun _ => True.intro) (fun _ => rfl)
theorem oeCommit (r : RegionId) : Statement (.oeCommit r) :=
  Iff.intro (fun _ => True.intro) (fun _ => rfl)
theorem powerStateEntry (r : RegionId) : Statement (.powerStateEntry r) :=
  Iff.intro (fun _ => True.intro) (fun _ => rfl)
theorem wake (r : RegionId) : Statement (.wake r) :=
  Iff.intro (fun _ => True.intro) (fun _ => rfl)
theorem l4Return (r : RegionId) : Statement (.l4Return r) :=
  Iff.intro (fun _ => True.intro) (fun _ => rfl)
theorem backupClear : Statement (.backupClear) :=
  Iff.intro (fun _ => True.intro) (fun _ => rfl)
theorem vbatLoss : Statement (.vbatLoss) :=
  Iff.intro (fun _ => True.intro) (fun _ => rfl)
theorem registerWrite (region : Option RegionId) (offset : Nat) (v : Word) : Statement (.registerWrite region offset v) :=
  by
  simp [Statement, Instr.wellFormed, Instr.WellFormed]
theorem reservedOpcode (c : CellId) (w : Word) : Statement (.reservedOpcode c w) :=
  by
  simp [Statement, Instr.wellFormed, Instr.WellFormed]
theorem ethernetLinkChange (p : Fin 2) (link done : Bool) : Statement (.ethernetLinkChange p link done) :=
  Iff.intro (fun _ => True.intro) (fun _ => rfl)
theorem pcieLinkChange (width : BitVec 5) (speed : BitVec 4) : Statement (.pcieLinkChange width speed) :=
  Iff.intro (fun _ => True.intro) (fun _ => rfl)
theorem timeFrameReceived (p : Fin 4) (data : List (List LineChar)) (stamp : Ticks) : Statement (.timeFrameReceived p data stamp) :=
  Iff.intro (fun _ => True.intro) (fun _ => rfl)
theorem vioRailChange (r : RegionId) (rail : Fin 3) (good v18 : Bool) : Statement (.vioRailChange r rail good v18) :=
  Iff.intro (fun _ => True.intro) (fun _ => rfl)
theorem fieldPinInputChange (r : RegionId) (p : Fin 32) (level : Bool) : Statement (.fieldPinInputChange r p level) :=
  Iff.intro (fun _ => True.intro) (fun _ => rfl)
theorem jtagDebugAccess (op : JtagOp) : Statement (.jtagDebugAccess op) :=
  by
  simp [Statement, Instr.wellFormed, Instr.WellFormed, JtagOp.wellFormed_iff]

end Sys2Proof.Laws.WellFormedDecision
end

