-- ==== Sys2Proof/Tests/Slice0.lean ====
section
/-!
SUPPORT. Tests of the model's own author: ill-formed terms, words written out from the encoding, worked examples of the
spec, and for every statement with hypotheses states and operands that meet them.
-/

namespace Sys2Proof.Tests

open Sys2Proof.Machine

set_option Elab.async false

/-! ## Small states -/

/-- Region `r` of a state changed. -/
def R (r : Nat) (f : Region → Region) (s : State) : State := s.setRegion r (f (s.region r))

/-- The chip of a state changed. -/
def H (f : Chip → Chip) (s : State) : State := { s with chip := f s.chip }

/-- Registers of a region set. -/
def regs (l : List (Nat × Word)) (Q : Region) : Region := l.foldl (fun Q e => Q.setReg e.1 e.2) Q

/-- Chip registers set. -/
def cregs (l : List (Nat × Word)) (h : Chip) : Chip := l.foldl (fun h e => h.setReg e.1 e.2) h

/-- Registers of region 0 set. -/
def G (l : List (Nat × Word)) (s : State) : State := R 0 (regs l) s

/-- Chip registers of a state set. -/
def C (l : List (Nat × Word)) (s : State) : State := H (cregs l) s

/-- A time in ticks at which the states stand. -/
def now : Nat := 0x123456789A

/-- A chip in operation: its clocks good, regions 0, 1 and 7 released. -/
def up : State :=
  R 7 (fun Q => { Q with inReset := false }) (R 1 (fun Q => { Q with inReset := false }) (R 0 (fun Q =>
      { Q with inReset := false })
    (H (fun h => { h.setReg Reg.CK_STAT.base 0xFFFF with rel := 10, replayed := true })
      { State.reset with free := 7, time := { timeInit with gtime := BitVec.ofNat 64 now, pclk := 1000 } })))

/-- Valid dispatch entries for the base opcodes of the tests. -/
def disp : FMap (BitVec 12) :=
  [0x01, 0x10, 0x14, 0x1A, 0x20, 0x30, 0x35, 0x36, 0x37, 0x40, 0x48, 0x4D, 0x50, 0x52, 0x54, 0x60, 0x70, 0x71, 0x72,
      0x74,
    0x80, 0x81, 0x82, 0x90, 0x91, 0x92, 0x93, 0x94, 0x95, 0x96, 0x97, 0x98, 0x99].map (fun i => (i,
        dispEntry true (i + 1)))

/-- Cell registers set. -/
def io (l : List (Nat × Word)) (k : Cell) : Cell := l.foldl (fun k e => k.setIo e.1 e.2) k

/-- Cell 5 of a state changed. -/
def K (f : Cell → Cell) (s : State) : State := R 0 (fun Q => Q.onCell 5 f) s

/-- Cell 5 runs at supervisor level. -/
def c0 : State := K (fun k => io [(0, 0x10)] { k with
  halted := false, pc := 0x100, disp := disp, gpr := [(1, 5), (2, 7), (3, 0x55), (4, 0xFFFFFFF0)],
      acc := 0x123456789ABCDEF0 }) up

/-- Cell 5 with the general registers given. -/
def gp (l : List (Nat × Word)) : State := K (fun k => { k with gpr := l }) c0

/-- Readiness as one conjunction. -/
theorem ready_iff (c : CellId) (op : Nat) (regs : List RegNo) (acc : Bool) (s : State) : Ready c op regs acc s ↔
    Steady (c.val / 128) s ∧ canExecute (s.cell c.val) = true ∧ admittedAt c.val s = none
      ∧ ((s.cell c.val).slot = none ∨ slotForbidden op = false)
      ∧ dispParityOk ((s.cell c.val).dispatch 0 op) = true ∧ dispValid ((s.cell c.val).dispatch 0 op) = true
      ∧ (s.cell c.val).oldestImp (impUse regs acc) = none ∧ regs.any (s.cell c.val).regPending = false
      ∧ (acc && (s.cell c.val).accPending) = false :=
  ⟨fun h => ⟨h.steady, h.runs, h.quiet, h.place, h.parity, h.valid, h.noFault, h.regsFree, h.accFree⟩,
    fun ⟨a, b, c, d, e, f, g, h, i⟩ => ⟨a, b, c, d, e, f, g, h, i⟩⟩

/-- The bytes of a word spell it. -/
theorem leNat_leBytes (c : Word) : BitVec.ofNat 32 (leNat (leBytes 4 c.toNat)) = c := by
  apply BitVec.eq_of_toNat_eq
  have := c.isLt
  simp only [leBytes, leNat, BitVec.toNat_ofNat]
  omega

/-! ## Ill-formed terms are refused -/

namespace Malformed

/-- The command is refused as ill formed. -/
def Refused (i : Instr) : Prop := exec i State.reset = .refused .illFormed

theorem test_illFormed_harrow : (Instr.harrowAccess 0 360448).wellFormed = false := by decide +kernel
theorem test_illFormed_march : (Instr.marchBankComplete 0 true 6 0).wellFormed = false := by decide
theorem test_illFormed_hostRead : (Instr.hostRead .bar0 0 0).wellFormed = false
    ∧ (Instr.hostRead .bar0 0 513).wellFormed = false := by decide
theorem test_illFormed_hostWrite :
    (Instr.hostWrite .bar0 0 []).wellFormed = false ∧ (Instr.hostWrite .bar0 0 (List.replicate 257 0)).wellFormed = false := by decide +kernel
theorem test_illFormed_uart : (Instr.uartBootBlock (List.replicate 4 0)).wellFormed = false
    ∧ (Instr.uartBootBlock (List.replicate 1029 0)).wellFormed = false := by decide +kernel
theorem test_illFormed_register :
    (Instr.registerWrite none 0x100000 0).wellFormed = false
        ∧ (Instr.registerWrite none 2 0).wellFormed = false := by decide
theorem test_illFormed_debug : (Instr.jtagDebugAccess (.readReg none 0x100000)).wellFormed = false
    ∧ (Instr.jtagDebugAccess (.writeReg none 3 0)).wellFormed = false := by decide
theorem test_illFormed_reserved : (Instr.reservedOpcode 0 0x01000000).wellFormed = false := by decide
theorem test_illFormed_refused : Refused (.reservedOpcode 0 0x01000000) := rfl
theorem test_wellFormed_reserved : (Instr.reservedOpcode 0 0x2C000000).wellFormed = true := by decide

end Malformed

/-! ## Words written out from the encodings (R60, R61) -/

namespace Words

theorem test_word_add : decodeWord 3 0x02451000 = .add 3 1 4 5 := by decide
theorem test_word_qmul : decodeWord 3 0x13451001 = .qmul 3 1 4 5 true := by decide
theorem test_word_rdac : decodeWord 3 0x1700809F = .rdac 3 8 31 false true := by decide
theorem test_word_crcs : decodeWord 3 0x1C605000 = .crcs 3 5 6 0 := by decide
theorem test_word_addi : decodeWord 3 0x2012FFFC = .addi 3 1 2 0xFFFC := by decide
theorem test_word_lui : decodeWord 3 0x25308000 = .lui 3 3 0x8000 := by decide
theorem test_word_sqrt : decodeWord 3 0x34602001 = .sqrt 3 2 6 true := by decide
theorem test_word_ldw : decodeWord 3 0x40A20104 = .ldw 3 10 2 0x0104 := by decide
theorem test_word_stb : decodeWord 3 0x4A300105 = .stb 3 3 0 0x0105 := by decide
theorem test_word_swp : decodeWord 3 0x4D123000 = .swp 3 3 1 2 := by decide
theorem test_word_outp : decodeWord 3 0x525B0010 = .outp 3 5 11 0x0010 := by decide
theorem test_word_blt : decodeWord 3 0x62348003 = .blt 3 3 4 true 3 := by decide
theorem test_word_call : decodeWord 3 0x71FFFFFE = .call 3 0xFFFFFE := by decide
theorem test_word_wait : decodeWord 3 0x80000002 = .wait 3 2 := by decide
theorem test_word_gate : decodeWord 3 0x91000003 = .gate 3 3 := by decide
theorem test_word_mts : decodeWord 3 0x95700021 = .mts 3 7 33 := by decide
theorem test_word_reserved : decodeWord 3 0x2C000000 = .reservedOpcode 3 0x2C000000 := by decide
theorem test_word_pis : decodeWord 3 0xC4132004 = .userOpcode 3 4 0x132004 := by decide
theorem test_tableWord : decodeTableWord 32 0x02451000 = none := rfl

end Words

/-! ## Worked examples of the spec -/

namespace Examples

/-- The state after a command. -/
def after (i : Instr) (s : State) : State := match exec i s with | .next t => t | _ => s

/-- Region register `a` of region `r`. -/
def rg (r a : Nat) (s : State) : Word := (s.region r).reg a

/-- Cell 5 with its registers, ACC and valid entries for the opcodes below. -/
def cell (l : List (Nat × Word)) (acc : BitVec 64) : State := K (fun k => { k with
  gpr := l, acc := acc, disp := [(0x04, dispEntry true 1), (0x15, dispEntry true 2), (0x17, dispEntry true 3), (0x1C,
      dispEntry true 4)] }) c0

/-- 02_cell_instructions.md, the two-term sum of products. -/
theorem test_macs : ((after (.macs 5 6 7 false) (cell [(6, 0xC0000000), (7,
    0x60000000)] 0x0800000000000000)).cell 5).acc
    = 0xF000000000000000 := by decide +kernel

/-- 02_cell_instructions.md, the same example. -/
theorem test_rdac : ((after (.rdac 5 8 31 false true) (cell [] 0xF000000000000000)).cell 5).g 8 = 0xE0000000 := by decide +kernel

/-- 00_scope.md, 0.75 + 0.5 saturates. -/
theorem test_adds : ((after (.adds 5 3 1 2) (cell [(1, 0x60000000), (2, 0x40000000)] 0)).cell 5).g 3 = 0x7FFFFFFF := by
  decide +kernel

/-- 02_cell_instructions.md, one CRC-8 step. -/
theorem test_crcs : ((after (.crcs 5 5 6 0)
    (K (io [(Reg.CRCPOLY.base, 7), (Reg.CRCCFG.base, 8)]) (cell [(6, 0x31)] 0))).cell 5).g 5 = 0x97 := by decide +kernel

/-- 05_privilege_and_exceptions.md, the gate call: cell 5 at level P with the caller's `len`. -/
def gate (len : Word) : State := K (fun k => { io [(0, 0x100), (Reg.GATEBASE.base, 0x0800), (Reg.PWINBASE.base, 0x100), (Reg.PWINLIMIT.base, 0x800)] k with
  pc := 0x240, gpr := [(1, 0x780), (2, len), (3, 9), (15, 0x700)]
  disp := [(0x91, dispEntry true 1)] ++ [(0x100 + 0x91, dispEntry true 1)]
  dmem := mapWrite zeroByte [] 0x800 (words4 [0, 0, 0, 0x1E00] ++ List.replicate 32 0 ++ words4 [0x80000600, 7, 2,
      0x1C00]) }) c0

theorem test_gate : let k := (after (.gate 5 3) (gate 0x80)).cell 5
    k.g 15 = 0x1BF0 ∧ k.g 1 = 0x780 ∧ k.g 3 = 0 ∧ k.ioReg 0 = 0x10 ∧ k.pc = 0x600 ∧ k.shadow = [(false, true)]
      ∧ (List.range 16).map (fun j => mapGet zeroByte k.dmem (0x1BF0 + j)) = words4 [0x244, 0x100, 0x700,
          3] := by decide +kernel

theorem test_gate_fault : let k := (after (.gate 5 3) (gate 0x81)).cell 5
    k.g 15 ≠ 0x1BF0 ∧ k.g 3 = 9 := by decide +kernel

/-- 04_microcode.md, the words of routine PIS. -/
def pis : List Nat := [0x00000001218010000000000000000000, 0x0000008360C000000000000000000000,
  0x00000001118010000000000000000000, 0x6000008C184000000000000000004000]

/-- 04_microcode.md, the parity bits of the words. -/
theorem test_parity : pis.map (fun w => (csWord w).toNat / 2 ^ 128) = [0x70, 0x40, 0x70, 0x61] := by decide +kernel

/-- 04_microcode.md, the step PIS g2, g1, g3, g4. -/
theorem test_pis : let k := (after (.userOpcode 5 4 0x132004) (K (fun k => { io [(0, 0x110)] k with
      gpr := [(1, 0x20000000), (2, 0x7F000000), (3, 0x60000000), (4, 0x08000000)]
      disp := [(256 + 0xC4, dispEntry true 400)]
      cstore := (pis.zipIdx 400).map (fun e => (e.2, csWord e.1)) }) c0)).cell 5
    k.g 1 = 0x7FFFFFFF ∧ k.g 2 = 0x7FFFFFFF ∧ k.pc = 0x104 := by decide +kernel

/-- 01_organisation.md, one location through the host's window. -/
theorem test_bar2 : bar2At 0xAA0400 = some (5, .bmem 2 0x400) := by decide +kernel

/-- 01_organisation.md, rate correction: the fraction carries, and GTIME advances by 17 ticks. -/
theorem test_gtrate : let s := C [(Reg.CH_GTRATE.base, 0x1A36E2EB)] { up with time := { up.time with frac := 0xFFFFFFFFFF } }
    (pclkEdge s).time.gtime = s.time.gtime + 17 := by decide +kernel

/-- 06_events_and_interrupts.md, delivery by round robin. -/
def posted : State := R 0 (regs [(regAt Reg.IC_SRC_CFG 0x415 0, 0x110306), (regAt Reg.IC_TSET 3 0, 0xF0000),
    (regAt Reg.IC_THR 16 0, 7),
  (regAt Reg.IC_THR 17 0, 2), (regAt Reg.IC_THR 18 0, 5), (regAt Reg.IC_THR 19 0, 0), (regAt Reg.IC_HELD 17 0, 0x40),
  (regAt Reg.IC_PEND 32 0, 0x200000)])
  (R 0 (fun Q => (List.range' 16 4).foldl (fun Q i => Q.onCell i (fun k => { k with halted := false }))
    { Q with ev := { Q.ev with slots := [(16 * 17 + 6, some 9)] } }) up)

/-- The search skips the full slot of index 17 and finds index 18; PTR becomes 19. -/
theorem test_delivery : let s := after (.delivery 0) posted
    (s.region 0).field (icCfg 0x415) 31 25 = 18 ∧ (s.region 0).field (icCfg 0x415) 22 16 = 19
      ∧ (s.region 0).bit (regAt Reg.IC_HELD 18 0) 6 = true := by decide +kernel

/-- 12_host_and_rack_links.md, a host driver of an earlier generation. -/
theorem test_negotiate : let s := after (.negotiate 6) (C [(Reg.HW_OFFCAP.base, 7)] up)
    s.chipReg Reg.HW_AGREED.base = 0x00010200 ∧ s.chipReg Reg.HW_AGRCAP.base = 3 := by decide +kernel

/-- 12_host_and_rack_links.md, a write cycle: NACK on pin 19 falls, its level synchronised at GTIME G + 7264 and four
edges on. -/
def nack : State :=
  let s := R 0 (fun Q => regs [(regAt Reg.FP_P_CFG 19 0, 0x40200), (Reg.FP_IN.base, 0x80000)]
    { Q with fp := [(19, { fieldPinInit with line := ⟨true, 0⟩ })] }) up
  { s with time := { s.time with
    gtime := 0x200001C90, past := [(0x200001C80, 16), (0x200001C70, 16), (0x200001C60, 16), (0x200001C50, 16)] } }

/-- The captured edge. -/
theorem test_capture :
    let q := pinCapRead 19 ((after (.fieldPinCapture 0 19 false 0x200001C60) nack).region 0)
    q.1 = 0x1C30 ∧ q.2.reg (regAt Reg.FP_P_CAP_H 19 0) = 2 := by decide +kernel

/-- 10_position_feedback.md, Hall decoding: unit 2 before the PCLK edge `t` in a state of its table. -/
def hall (t : Nat) (hist : List Nat) (fwd : Bool) (lines : Nat) (pos : Nat) (stat : Word) : State :=
  let s : State := R 0 (fun Q => regs [(fbAt Reg.FB_UN_CFG 2, 0x21), (fbAt Reg.FB_UN_STAT 2,
      BitVec.ofNat 32 (lines * 2 ^ 16) ||| stat),
    (fbAt Reg.FB_UN_POS_L 2, BitVec.ofNat 32 pos), (fbAt Reg.FB_UN_PERIOD 2,
        8000)] (Q.setFb 2 { fbInit with hist := hist, lastFwd := some fwd, lastEdge := hist.head? })) up
  { s with time := { s.time with pclk := t - 1 } }

/-- The instant 8,200: a valid edge with PERIOD over two intervals. -/
theorem test_hall_edge : let s := after (.feedbackChange 0 2 2) (hall 8200 [4000, 0] true 3 101 1)
    rg 0 (fbAt Reg.FB_UN_POS_L 2) s = 102 ∧ rg 0 (fbAt Reg.FB_UN_PERIOD 2) s = 8200
      ∧ (s.region 0).field (fbAt Reg.FB_UN_STAT 2) 14 12 = 2 := by decide +kernel

/-- The instant 13,000: a reversal. -/
theorem test_hall_reversal : let s := after (.feedbackChange 0 2 3) (hall 13000 [8200, 4000, 0] true 2 102 2)
    rg 0 (fbAt Reg.FB_UN_POS_L 2) s = 101 ∧ rg 0 (fbAt Reg.FB_UN_PERIOD 2) s = 8000
      ∧ (s.region 0).bit (fbAt Reg.FB_UN_STAT 2) 5 = true := by decide +kernel

/-- 15_reset_clocks_power.md, PM_LATENCY 0x94 admits L3. -/
theorem test_latency : admitted ((G [(Reg.PM_LATENCY.base, 0x94)] up).region 0) = 3 := by decide +kernel

/-- 15_reset_clocks_power.md, region 4 moved to 500 MHz: 0x50 is within the limits of R454. -/
theorem test_pll : pllAllowed 0x50 = true := by decide +kernel

end Examples

/-! ## Instructions -/

namespace Arith

def lq : State := K (fun k => { k with longOps := [⟨3, some (.gpr 4), 77, some 0⟩, ⟨4, none, 99, none⟩] }) c0

/-- The hypotheses of ArithmeticOperations. -/
theorem witness_ArithmeticOperations :
    (∃ u ∈ registerOperation (.nop 5), Ready u.c u.op u.uses u.acc c0)
      ∧ (∃ u ∈ immediateOperation (.addi 5 3 1 65520), Ready u.c u.op u.uses u.acc c0)
      ∧ (∃ u ∈ productOperation (.mul 5 3 1 2), Ready u.c u.op u.uses u.acc c0)
      ∧ (∃ u ∈ accOperation (.mac 5 1 2 false), Ready u.1 u.2.1 u.2.2.1 true c0) := by
  refine ⟨?_, ?_, ?_, ?_⟩
  all_goals try simp only [ready_iff, Steady, Live]
  all_goals decide +kernel

/-- The hypotheses of LongOperations. -/
theorem witness_LongOperations :
    (∃ u ∈ longForm (.div 5 3 1 2), Ready u.1 u.2.1 u.2.2.1 false c0 ∧ (c0.cell u.1).longOps.length < 2)
      ∧ (2 % 2 = 0 ∧ 2 ≠ 0 ∧ 2 ≤ 12 ∧ Ready 5 53 [2, 2 + 1, 0] true c0 ∧ (c0.cell 5).longOps.length < 2)
      ∧ ((lq.cell 5).longOps[0]?.isSome = true) := by
  refine ⟨?_, ?_, ?_⟩
  all_goals try simp only [ready_iff, Steady, Live]
  all_goals decide +kernel

end Arith

namespace Mem

def s1 : State := gp [(1, 0x1FFC), (2, 0x10100), (3, 0x1004010), (6, 0x1234A5F6)]
def sb (l : List StoreEntry) : State := K (fun k => { k with storeBuf := l }) s1
def s2 : State := sb [⟨3, 0x1FFC, [1, 2, 3, 4]⟩, ⟨4, 0x24, [1, 2]⟩]
def s3 : State := sb [⟨3, 0x10100, [1, 2, 3, 0x84]⟩]
def s4 : State := K (fun k => { k with loadQ := [⟨3, .gpr 4, some 0x77, 0x1234⟩, ⟨4, .gpr 0, none, 0x1238⟩] }) s1
def s6 : State := K (fun k => { k with acks := [⟨3, .out, true, 8⟩, ⟨4, .store, true, 8⟩, ⟨5, .store, false, 9⟩] }) s1
/-- A load from 0x1FFC has met a store of one of its bytes. -/
def u2 : State := K (fun k => { k with storeBuf := [⟨3, 0x1FFE, [1]⟩], behind := some (3, 0x1FFC) }) s1
def u4 : State := K (fun k => { k with acks := [⟨4, .store, false, 9⟩], behind := some (3, 0x1FFC), storeBuf := [⟨7, 0x1FFE, [1]⟩] }) s1
def q1 : State := gp [(1, 0x20), (2, 0x100100), (3, 0x1FFC), (4, 0x12345678)]

/-- The hypotheses of Loads. -/
theorem witness_Loads :
    (∃ u ∈ (s4.cell 5).loadQ[0]?, u.data.isSome = true)
      ∧ (∃ u ∈ (s4.cell 5).loadQ[1]?, u.data = none)
      ∧ (∃ f ∈ loadForm (.ldw 5 4 1 0), LoadStands f 0x1FFC s1 ∧ ReadsMemory f 0x1FFC (s1.cell f.c))
      ∧ (∃ f ∈ loadForm (.ldw 5 4 1 0), LoadStands f 0x1FFC u4 ∧ ReadsMemory f 0x1FFC (u4.cell f.c) ∧ heldBehind
        0x1FFC (u4.cell f.c) ≠ none)
      ∧ (∃ f ∈ loadForm (.ldw 5 4 1 0), LoadStands f 0x1FFC s2 ∧ heldBehind 0x1FFC (s2.cell f.c) = none ∧ ∃ e ∈
        youngest 0x1FFC f.size (s2.cell f.c), e.addr.toNat ≤ 0x1FFC ∧ 0x1FFC + f.size ≤ e.addr.toNat + e.bytes.length)
      ∧ (∃ f ∈ loadForm (.ldw 5 4 1 0), LoadStands f 0x1FFC u2 ∧ ∃ h ∈ heldBehind 0x1FFC (u2.cell f.c), ∃ e ∈ (u2.cell
        f.c).storeBuf, e.seq ≤ h.1)
      ∧ (∃ f ∈ loadForm (.ldw 5 4 1 0), LoadStands f 0x1FFC (sb [⟨3, 0x1FFE, [1]⟩]) ∧ heldBehind 0x1FFC ((sb [⟨3,
        0x1FFE, [1]⟩]).cell f.c) = none ∧ ∃ e ∈ youngest 0x1FFC f.size ((sb [⟨3, 0x1FFE, [1]⟩]).cell f.c), ¬
        (e.addr.toNat ≤ 0x1FFC ∧ 0x1FFC + f.size ≤ e.addr.toNat + e.bytes.length))
      ∧ (∃ f ∈ loadForm (.ldw 5 4 3 0), LoadStands f 0x1004010 s1 ∧ dataAt f.c 0x1004010 = .mem 0 (.rmem 0x4010) ∧
        Served 0 (.rmem 0x4010) f.size s1 ∧ HasRoom (s1.cell f.c) ∧ ReadsMemory f 0x1004010 (s1.cell f.c)) := by
  refine ⟨?_, ?_, ?_, ?_, ?_, ?_, ?_, ?_⟩
  all_goals try simp only [Served, Steady, Live, HasRoom, LoadStands, ready_iff, ReadsMemory]
  all_goals decide +kernel

/-- The hypotheses of StoresAndAtomics. -/
theorem witness_StoresAndAtomics :
    (∃ u ∈ (s2.cell 5).storeBuf.head?, EntryOk u ∧ u.addr.toNat < 8192 ∧ Steady (5 / 128) s2)
      ∧ (∃ u ∈ ackPlace (fun e => e.kind == AckKind.store) 0 (s6.cell 5).acks, (s6.cell 5).acks[u]?.isSome = true)
      ∧ (∃ u ∈ storeForm (.stw 5 6 1 0), eaOf (s1.cell 5) 1 0 = 0x1FFC ∧ 0x1FFC % u.2.2.2.2.2 = 0 ∧ Ready u.1 u.2.1
        [u.2.2.1, u.2.2.2.1] false s1 ∧ (s1.cell u.1).storeBuf.length < 4 ∧ dataAt u.1 0x1FFC = .dmem 0x1FFC)
      ∧ (∃ e ∈ (s3.cell 5).storeBuf.head?, EntryOk e ∧ e.addr = 0x10100 ∧ dataAt 5 0x10100 = .mem 0 (.bmem 0 0x100) ∧
        Served 0 (.bmem 0 0x100) e.bytes.length s3 ∧ (s3.cell 5).tags < 32)
      ∧ (Ready 5 0x4D [0, 3, 0] false s1 ∧ (s1.cell 5).g 3 = 0x1004010 ∧ 0x1004010 % 4 = 0 ∧ dataAt 5 0x1004010 = .mem
        0 (.rmem 0x4010) ∧ Served 0 (.rmem 0x4010) 4 s1 ∧ HasRoom (s1.cell 5) ∧ (s1.cell 5).storeBuf = []) := by
  refine ⟨?_, ?_, ?_, ?_, ?_⟩
  all_goals try simp only [Served, Steady, Live, HasRoom, EntryOk, ready_iff]
  all_goals decide +kernel

/-- The hypotheses of RegisterInputOutput. -/
theorem witness_RegisterInputOutput :
    (∃ u ∈ ackPlace (fun e => e.kind != AckKind.store) 0 (s6.cell 5).acks, (s6.cell 5).acks[u]?.isSome = true)
      ∧ (IoStands 5 0x50 0 0 0 0 q1 ∧ ownRead 5 0 (q1.cell 5) = some 0x10)
      ∧ (IoStands 5 0x52 0 0 0 0 q1 ∧ (∃ d ∈ cellReg 0, True) ∧ 0 ∉ retireCounters ∧ 0 ≠ Reg.CFCTL.base ∧ regIdx
        Reg.CFACT 0 = none ∧ regIdx Reg.CFIN 0 = none ∧ regIdx Reg.CFA 0 = none ∧ regIdx Reg.CFB 0 = none)
      ∧ (IoStands 5 0x50 0 2 0 0x100100 q1 ∧ HasRoom (q1.cell 5) ∧ ioAt 5 0x100100 ≠ .none ∧ (ioPerform (ioAt 5
        0x100100) q1).2.cell 5 = q1.cell 5)
      ∧ (IoStands 5 0x52 0 2 0 0x100100 q1 ∧ ioAt 5 0x100100 ≠ .none ∧ (q1.cell 5).tags < 32)
      ∧ (Ready 5 0x54 [0, 3] false q1 ∧ (q1.cell 5).sup = true ∧ 0x1FFC = ((q1.cell 5).g 3).toNat + (0 : BitVec
        16).toNat) := by
  refine ⟨?_, ?_, ?_, ?_, ?_, ?_⟩
  all_goals try simp only [HasRoom, ready_iff, Steady, Live, IoStands]
  all_goals decide +kernel

end Mem

namespace Flow

def b1 : State := gp [(1, 0x20), (2, 0x7C), (3, 0x20), (4, 0xFFFFFFF0)]
def stackRegs (k : Cell) : Cell := io [(Reg.RSBASE.base, 0x20), (Reg.RSPTR.base, 0x24), (Reg.RSLIMIT.base, 0x28)] k
def b2 : State := K (fun k => stackRegs { k with gpr := [(1, 0x80000000), (2, 1), (4, 0)], rs := (List.range 16).map (fun i => BitVec.ofNat 13 (4 * i)) }) b1
def b3 : State := K (fun k => stackRegs { k with gpr := [(2, 0x3)], rs := [], dmem := mapWrite zeroByte [] 0x20 [0x84, 3] }) b1
def p1 : State := K (fun k => { k with ports := [(0, some 0x1234567890), (2, some 5)] }) b1
def p2 : State := K (fun k => { k with ports := [(2, some 5)], hold := .wait 1 }) b1

/-- The hypotheses of ControlFlow. -/
theorem witness_ControlFlow :
    (Ready 5 112 [] false b1)
      ∧ (Ready 5 114 [1] false b1 ∧ BitVec.toNat ((b1.cell 5).g 1) % 4 = 0)
      ∧ (∃ u ∈ callForm (.call 5 64) (b1.cell 5), Ready 5 u.2.1 u.2.2.1 false b1 ∧ (b1.cell 5).rs.length < 16)
      ∧ (∃ u ∈ callForm (.call 5 64) (b2.cell 5), (b2.cell 5).rs.getLast?.isSome = true ∧ Ready 5 u.2.1 u.2.2.1 false
        b2 ∧ (b2.cell 5).rs.length = 16 ∧ (b2.cell 5).rsptr + 4 ≤ (b2.cell 5).rslimit ∧ (b2.cell 5).storeBuf = [])
      ∧ ((b2.cell 5).rs.head?.isSome = true ∧ Ready 5 116 [] false b2)
      ∧ (Ready 5 116 [] false b3 ∧ (b3.cell 5).rs = [] ∧ (b3.cell 5).rsbase < (b3.cell 5).rsptr ∧ 4 ≤ (b3.cell
        5).rsptr ∧ (b3.cell 5).storeBuf = [] ∧ leNat (mapRead zeroByte (b3.cell 5).dmem ((b3.cell 5).rsptr - 4) 4) % 4
        = 0)
      ∧ (∃ f, branchForm (.beq 5 1 3 true 5) = some f ∧ Ready f.c f.op f.uses false b1 ∧ f.holds (b1.cell f.c))
      ∧ (∃ f, branchForm (.beq 5 1 2 false 1) = some f ∧ Ready f.c f.op f.uses false b1 ∧ ¬ f.holds (b1.cell f.c) ∧
        f.annul = false)
      ∧ (∃ f, branchForm (.beq 5 1 3 true 5) = some f ∧ Ready f.c f.op f.uses false b2 ∧ ¬ f.holds (b2.cell f.c) ∧
        f.annul = true ∧ slotClash (b2.cell f.c) = false) := by
  refine ⟨?_, ?_, ?_, ?_, ?_, ?_, ?_, ?_, ?_⟩
  · simp only [ready_iff, Steady, Live]; decide +kernel
  · simp only [ready_iff, Steady, Live]; decide +kernel
  · simp only [ready_iff, Steady, Live]; decide +kernel
  · simp only [ready_iff, Steady, Live]; decide +kernel
  · simp only [ready_iff, Steady, Live]; decide +kernel
  · simp only [ready_iff, Steady, Live]; decide +kernel
  · exact ⟨_, rfl, (ready_iff _ _ _ _ _).2 (by simp only [Steady, Live]; decide +kernel),
      show (b1.cell 5).g 1 = (b1.cell 5).g 3 by decide +kernel⟩
  · exact ⟨_, rfl, (ready_iff _ _ _ _ _).2 (by simp only [Steady, Live]; decide +kernel),
      show ¬ (b1.cell 5).g 1 = (b1.cell 5).g 2 by decide +kernel, rfl⟩
  · exact ⟨_, rfl, (ready_iff _ _ _ _ _).2 (by simp only [Steady, Live]; decide +kernel),
      show ¬ (b2.cell 5).g 1 = (b2.cell 5).g 3 by decide +kernel, rfl,
      show slotClash (b2.cell 5) = false by decide +kernel⟩

/-- The hypotheses of EventPorts. -/
theorem witness_EventPorts :
    (Ready 5 129 [] false b1)
      ∧ (Ready 5 130 [1] false b1)
      ∧ ((mapGet noneAt (p1.cell 5).ports 0).isSome = true ∧ Ready 5 128 [] false p1)
      ∧ (Ready 5 128 [] false b1 ∧ mapGet noneAt (b1.cell 5).ports 0 = none)
      ∧ ((mapGet noneAt (p1.cell 5).ports 0).isSome = true ∧ Live (5 / 128) p1 ∧ (p1.cell 5).inReset = false ∧ (∀ (w :
        Fin 4), (p1.cell 5).hold = Hold.wait w → mapGet noneAt (p1.cell 5).ports w = none))
      ∧ (Live (5 / 128) b1 ∧ (b1.cell 5).inReset = false ∧ mapGet noneAt (b1.cell 5).ports 0 = none ∧ (∀ (w : Fin 4),
        (b1.cell 5).hold = Hold.wait w → w ≠ 0 ∧ mapGet noneAt (b1.cell 5).ports w = none))
      ∧ (Live (5 / 128) p2 ∧ (p2.cell 5).inReset = false ∧ mapGet noneAt (p2.cell 5).ports 1 = none ∧ (p2.cell 5).hold
        = Hold.wait 1 ∧ (p2.cell 5).running = true ∧ (p2.cell 5).micro = none ∧ (p2.cell 5).swapDue = false) := by
  refine ⟨?_, ?_, ?_, ?_, ?_, ?_, ?_⟩
  all_goals try simp only [Live, ready_iff, Steady]
  all_goals decide +kernel

def e0 : State := K (fun k => { k with dmem := mapWrite zeroByte k.dmem 0x10C [0, 0x18, 0, 0] }) (gp [(1, 0x21), (2,
    0x101), (15, 0x1000), (6, 0x40000000), (7, 0x20), (8, 0x80000000)])
def e1 : State := K (io [(0, 0x203), (Reg.GATEBASE.base, 0x100)]) e0
def ir (s : State) : State := R 0 (fun Q => regs [(icCfg 70, 0x8009), (regAt Reg.IC_HELD 5 0, 0x200)]
  { Q with ev := { Q.ev with slots := [(16 * 5 + 9, some 70)] } }) s
def r0 : State := ir (K (io [(0, 0x17)]) e0)
def frame : List Word := [0x24, 0x313, 3, 4, 5, 0x777, 6, 7]
def t0 : State := K (fun k => { k with gpr := [(15, 0x1000), (3, 4)], dmem := mapWrite zeroByte k.dmem 0x1000 (words4 frame), shadow := [(true, false), (false, true)] }) e0
def t2 : State := K (fun k => { k with shadow := [(true, true), (false, true)] }) t0
def gt : List Word := [0xC0000480, 0b110001, 0x00000005, 0]
def g0 : State := K (fun k => { io [(0, 0x305), (Reg.GATEBASE.base, 0x200), (Reg.PWINBASE.base, 0x1000), (Reg.PWINLIMIT.base, 0x1FFF)] k with gpr := [(1, 0x21), (2, 0x33), (3, 0x1000), (5, 16), (15, 0x1F00), (6, 9)], dmem := mapWrite zeroByte (mapWrite zeroByte k.dmem 0x230 (words4 gt)) 0x240 (words4 [0x80000480, 0b110001, 0x00000500, 0x1000]) }) e0
def m0 : State := K (io [(0, 0x17), (Reg.RSBASE.base, 0x44)]) e0
def m1 : State := K (fun k => { k with imp := [⟨3, 5, 4, 0x1234, none, false⟩] }) m0

/-- The hypotheses of PreciseFaults. -/
theorem witness_PreciseFaults :
    ∃ f ∈ faultForm (e0.cell 5) (.brev 5 3 1 3), Ready f.c f.op f.uses f.acc e0 ∧ (e0.cell f.c).slot = none ∧ MayEnter
      (e0.cell f.c) ∧ (e0.cell f.c).ml ≠ 15 ∧ (e0.cell f.c).fh = false := by
  simp only [MayEnter, ready_iff, Steady, Live]; decide +kernel

/-- The hypotheses of InterruptEntry. -/
theorem witness_InterruptEntry :
    ∃ u ∈ admittedAt 5 r0, Steady (5 / 128) r0 ∧ MayEnter (r0.cell 5) ∧ atSafePoint (r0.cell 5) = true ∧ u.1 ≤ 15 ∧
      u.2 < 4096 ∧ ((r0.cell 5).hold = Hold.idle → (r0.cell 5).stepping = false) := by
  simp only [Steady, Live, MayEnter]; decide +kernel

/-- The hypotheses of Returns. -/
theorem witness_Returns :
    (Ready 5 147 [15] false t0 ∧ (t0.cell 5).sup = true ∧ BitVec.toNat ((t0.cell 5).g 15) % 4 = 0 ∧ BitVec.toNat
      ((t0.cell 5).g 15) + 32 ≤ 8192 ∧ (t0.cell 5).storeBuf = [] ∧ (BitVec.getLsbD (wordAt (mapRead zeroByte (t0.cell
      5).dmem (BitVec.toNat ((t0.cell 5).g 15)) 32) 4) 4 = true → claimCovered (t0.cell 5) = true))
      ∧ (∃ u ∈ (t2.cell 5).shadow.head?, Ready 5 146 [15] false t2 ∧ (t2.cell 5).sup = true ∧ BitVec.toNat ((t2.cell
        5).g 15) % 4 = 0 ∧ BitVec.toNat ((t2.cell 5).g 15) + 16 ≤ 8192 ∧ (t2.cell 5).storeBuf = [] ∧ (t2.cell
        5).shadow = (u.1, true) :: (t2.cell 5).shadow.tail ∧ (BitVec.getLsbD (wordAt (mapRead zeroByte (t2.cell
        5).dmem (BitVec.toNat ((t2.cell 5).g 15)) 16) 4) 4 = true → u.1 = true)) := by
  refine ⟨?_, ?_⟩
  all_goals try simp only [ready_iff, Steady, Live]
  all_goals decide +kernel

/-- The hypotheses of GateCall. -/
theorem witness_GateCall :
    Ready 5 0x91 [] false g0 ∧ ((g0.cell 5).ioReg Reg.GATEBASE.base).toNat + 16 * 4 = 0x240 ∧ gateEntry (mapRead
      zeroByte (g0.cell 5).dmem 0x240 16) = ⟨0x80000480, 0x31, 0x500, 0x1000⟩ ∧ (⟨0x80000480, 0x31, 0x500, 0x1000⟩ :
      GateEntry).valid = true ∧ (⟨0x80000480, 0x31, 0x500, 0x1000⟩ : GateEntry).supOnly = false ∧ (g0.cell
      5).shadow.length < 8 ∧ (g0.cell 5).storeBuf = [] ∧ (g0.cell 5).loadQ = [] ∧ (g0.cell 5).longOps = [] ∧ (g0.cell
      5).imp = [] ∧ (g0.cell 5).sup = false ∧ (∀ j, j < 6 → argOk ⟨0x80000480, 0x31, 0x500, 0x1000⟩ (g0.cell 5) j =
      true) ∧ gateTop ⟨0x80000480, 0x31, 0x500, 0x1000⟩ (g0.cell 5) = 0x1000 := by
  simp only [ready_iff, Steady, Live]; decide +kernel

def m5 : State := K (fun k => { k with loadQ := [⟨3, .gpr 4, none, 0x1238⟩] }) m0

/-- The hypotheses of StatusAndHolds. -/
theorem witness_StatusAndHolds :
    ((ownRead 5 (4 * 0) (m5.cell 5)).isSome = true ∧ Ready 5 148 [1] false m5 ∧ (m5.cell 5).sup = true)
      ∧ (∃ u ∈ cellReg (4 * 0), Ready 5 149 [1] false m0 ∧ (m0.cell 5).sup = true ∧ u.mask ≠ 0 ∧ 4 * 0 ∉
        retireCounters)
      ∧ (Ready 5 150 [] false m5)
      ∧ (Ready 5 151 [] false m0 ∧ (m0.cell 5).sup = true ∧ memoryQuiet (m0.cell 5) = true ∧ (m0.cell 5).longOps = [])
      ∧ (Ready 5 0x99 [] false m5 ∧ (m5.cell 5).imp.all (fun f => f.vector != 9) = true ∧ (m5.cell 5).longOps = [])
      ∧ (Ready 5 0x98 [] false m5 ∧ memoryQuiet (m5.cell 5) = false)
      ∧ (Ready 5 0x98 [] false m1 ∧ ((m1.cell 5).loadQ = [] ∧ (m1.cell 5).acks = []) ∧ (m1.cell 5).imp = [⟨3, 5, 4,
        0x1234, none, false⟩] ∧ (m1.cell 5).slot = none ∧ MayEnter { m1.cell 5 with imp := [] } ∧ (m1.cell 5).ml ≠ 15
        ∧ (m1.cell 5).fh = false) := by
  refine ⟨?_, ?_, ?_, ?_, ?_, ?_, ?_⟩
  all_goals try simp only [MayEnter, ready_iff, Steady, Live]
  all_goals decide +kernel

end Flow

namespace Cells

def k0 : State := K (fun k => { io [(Reg.CKAREA.base, 0x020100)] k with gpr := [(1, 1), (2, 0x1FFF), (3, 0x1FFF)], pc := 0x1FF8 })
  (R 0 (fun Q => Q.setReg (blk Reg.BK_CKPT 0 5) 0x0600) c0)

def k1 : State := K (fun k => { k with gpr := [(1, 0x1000), (2, 0x1000)] }) k0

/-- The hypotheses of CheckpointAndBlocks. -/
theorem witness_CheckpointAndBlocks :
    (Ready 5 144 [] false k0 ∧ memoryQuiet (k0.cell 5) = true ∧ (k0.cell 5).longOps = [] ∧ ckBase ((k0.cell 5).ioReg
      Reg.CKAREA.base) + ckLen (k0.cell 5) ≤ 8192 ∧ mirrorOk (5 % 128 / 16) (5 % 16) (ckLen (k0.cell 5)) (k0.region (5
      / 128)) = true ∧ (k0.region (5 / 128)).blockReset.contains (5 % 128 / 16) = false ∧ (∀ j < 8, bankServes (16 + 8
      * (5 % 128 / 16) + j) (k0.region (5 / 128)) = true))
      ∧ (Ready 5 54 [1, 2, 3] false k0 ∧ 1 ≠ 2 ∧ 1 ≠ 3 ∧ 2 ≠ 3 ∧ BitVec.toNat ((k0.cell 5).g 1) + BitVec.toNat
        ((k0.cell 5).g 2) ≤ 8192 ∧ (k0.cell 5).longOps = [] ∧ (k0.cell 5).storeBuf = [])
      ∧ (Ready 5 55 [1, 2, 3] false k1 ∧ ((k1.cell 5).g 1).toNat + ((k1.cell 5).g 2).toNat ≤ 0x2000 ∧ ((k1.cell 5).g
        3).toNat + ((k1.cell 5).g 2).toNat ≤ 0x2000 ∧ ((k1.cell 5).g 3).toNat ≤ ((k1.cell 5).g 1).toNat ∧ (k1.cell
        5).longOps = [] ∧ (k1.cell 5).storeBuf = []) := by
  refine ⟨?_, ?_, ?_⟩
  all_goals try simp only [ready_iff, Steady, Live]
  all_goals decide +kernel

def u0 : State := K (fun k => { io [(0, 0x110)] k with
  gpr := [(1, 5), (2, 6), (3, 9)], disp := [(256 + 199, dispEntry true 400)], cstore := [(400, csWord addRoutine)] }) c0
def waits : Nat := 9 * 2 ^ 124 + 2 ^ 14
def m0 : State := K (fun k => { k with
  gpr := [(15, 0x400)], cstore := [(0x155, csWord waits)],
  micro := some ⟨0xC7123456, 0x155, [], 0, [], 3, none, false, [], 0, [], 0x155, 0, [], [], 0, []⟩ }) c0
def mp1 : State := K (fun k => { k with lastPar := some (false, 3, BitVec.ofNat 64 (now - 5)) }) c0

/-- The hypotheses of Microcode. -/
theorem witness_Microcode :
    (Steady (5 / 128) u0 ∧ (u0.cell 5).running = true ∧ (u0.cell 5).hold = Hold.none ∧ (u0.cell 5).micro = none ∧
      (u0.cell 5).slot = none ∧ admittedAt 5 u0 = none ∧ (u0.cell 5).ds ≠ 0 ∧ (u0.cell 5).swapDue = false ∧ (u0.cell
      5).loadQ = [] ∧ (u0.cell 5).longOps = [] ∧ (u0.cell 5).imp = [] ∧ 384 ≤ 400 ∧ (u0.cell 5).dispatch (u0.cell
      5).ds (192 + 7) = dispEntry true 400 ∧ csAt (u0.cell 5) 400 = csWord addRoutine)
      ∧ (∃ u ∈ (m0.cell 5).micro, Steady (5 / 128) m0 ∧ (m0.cell 5).running = true ∧ (m0.cell 5).slot = none ∧
        (microWord (csAt (m0.cell 5) u.upc.toNat)).seq = 9 ∧ (microWord (csAt (m0.cell 5) u.upc.toNat)).safe = false ∧
        u.count ≠ 0 ∧ MayEnter (m0.cell 5) ∧ (m0.cell 5).ml ≠ 15 ∧ (m0.cell 5).fh = false)
      ∧ (Served (5 / 128) (Place.rmem (goldOf 5 u0 + 4096 + 16 * 400)) 16 u0 ∧ (u0.cell 5).running = true ∧ (u0.cell
        5).micro = none ∧ (u0.cell 5).lastPar = none)
      ∧ (∃ u ∈ (mp1.cell 5).lastPar, (mp1.cell 5).running = true ∧ (mp1.cell 5).micro = none ∧ (mp1.cell 5).lastPar =
        some (false, 3, u.2.2) ∧ BitVec.toNat (mp1.time.gtime - u.2.2) < 12800000000) := by
  refine ⟨?_, ?_, ?_, ?_⟩
  all_goals try simp only [Served, Steady, Live, MayEnter]
  all_goals decide +kernel

def f0 : State := K (io [(Reg.CFCTL.base, 0)]) c0

/-- The hypotheses of CoefficientBanks. -/
theorem witness_CoefficientBanks :
    (f0.cell 5).inReset = false ∧ Live (5 / 128) f0 ∧ (f0.cell 5).awaiting = false ∧ (f0.cell 5).micro = none := by
  simp only [Live]; decide +kernel

def l0 : State := G [(blk Reg.BK_CGOLD 0 5, 0x8000)] c0
def l1 : State := R 0 (fun Q => { Q with banks := { Q.banks with rmem := mapWrite zeroByte [] 0x8000 (words4 [0x4D594743, 1, 0x7000]) } })
  (K (fun k => { k with halted := true }) l0)
/-- A load in progress of a golden copy of zeros, its header's CRC given. -/
def l2 (c : Word) : State := R 0 (fun Q => { Q.setReg (blk Reg.BK_LDSTAT 0) 0x51 with load := [(0, some ⟨5, 5, true, 0x8000, c, false⟩)] })
  (K (fun k => { k with halted := true }) l0)

/-- The body of that golden copy. -/
def zeros : List Byte := mapRead zeroByte [] 0x8040 0x800 ++ mapRead zeroByte [] 0x9000 0x6000

/-- The state of `l2`, a load in progress with the CRC `c` and a body with the CRC of `zeros`. -/
theorem l2_stands (c : Word) : MemoryUp 0 (l2 c) ∧ mapGet noneAt ((l2 c).region 0).load 0 = some ⟨5, 5, true, 0x8000, c,
    false⟩
    ∧ (((l2 c).region 0).takeover 0).phase ≠ TkPhase.load
    ∧ rawRead (.rmem 0x8040) 0x800 ((l2 c).region 0) ++ rawRead (.rmem 0x9000) 0x6000 ((l2 c).region 0) = zeros :=
  ⟨⟨⟨⟨rfl, rfl⟩, ⟨rfl, rfl⟩, rfl⟩, show ∀ b, b < 16 → bankServes b ((l2 0).region 0) = true by decide +kernel⟩, rfl,
    show (((l2 0).region 0).takeover 0).phase ≠ TkPhase.load by decide +kernel, rfl⟩

/-- The hypotheses of LoadEngine. -/
theorem witness_LoadEngine :
    (Live 0 l0 ∧ (l0.region 0).blockReset.contains 0 = false ∧ (337 : Word).getLsbD 0 = true ∧ BitVec.getLsbD
      ((l0.region 0).reg (blk Reg.BK_LDSTAT 0)) 0 = false ∧ ((l0.region 0).cell (16 * 0 + bitsOf (337 : Word) 7
      4)).running = true)
      ∧ (Live 0 l0 ∧ (l0.region 0).blockReset.contains 3 = false ∧ (2129 : Word).getLsbD 0 = true ∧ BitVec.getLsbD
        ((l0.region 0).reg (blk Reg.BK_LDSTAT 3)) 0 = false ∧ ((l0.region 0).cell (16 * 3 + bitsOf (2129 : Word) 7
        4)).running = false ∧ (2129 : Word).getLsbD 11 = true)
      ∧ (Live 0 l1 ∧ (l1.region 0).blockReset.contains 0 = false ∧ (337 : Word).getLsbD 0 = true ∧ BitVec.getLsbD
        ((l1.region 0).reg (blk Reg.BK_LDSTAT 0)) 0 = false ∧ ((l1.region 0).cell (16 * 0 + bitsOf (337 : Word) 7
        4)).running = false ∧ (337 : Word).getLsbD 11 = false ∧ Served 0 (Place.rmem (goldBase 0 (bitsOf (337 : Word)
        7 4) (l1.region 0))) 64 l1 ∧ HeaderGood (goldBase 0 (bitsOf (337 : Word) 7 4) (l1.region 0)) (l1.region 0))
      ∧ (∃ l, (MemoryUp 0 (l2 l.crc) ∧ mapGet noneAt ((l2 l.crc).region 0).load 0 = some l ∧ l.bad = false ∧ l.base =
        0x8000 ∧ (((l2 l.crc).region 0).takeover 0).phase ≠ TkPhase.load) ∧ crc32c (rawRead (.rmem 0x8040) 0x800 ((l2
        l.crc).region 0) ++ rawRead (.rmem 0x9000) 0x6000 ((l2 l.crc).region 0)) = l.crc)
      ∧ (∃ l, (MemoryUp 0 (l2 l.crc) ∧ mapGet noneAt ((l2 l.crc).region 0).load 0 = some l ∧ l.bad = false ∧ l.base =
        0x8000 ∧ (((l2 l.crc).region 0).takeover 0).phase ≠ TkPhase.load) ∧ crc32c (rawRead (.rmem 0x8040) 0x800 ((l2
        l.crc).region 0) ++ rawRead (.rmem 0x9000) 0x6000 ((l2 l.crc).region 0)) ≠ l.crc) := by
  refine ⟨?_, ?_, ?_, ?_, ?_⟩
  · simp only [Live]; decide +kernel
  · simp only [Live]; decide +kernel
  · simp only [Served, Steady, Live, HeaderGood]; decide +kernel
  · exact ⟨⟨5, 5, true, 0x8000, crc32c zeros, false⟩, ⟨(l2_stands _).1, (l2_stands _).2.1, rfl, rfl,
      (l2_stands _).2.2.1⟩, by rw [(l2_stands _).2.2.2]⟩
  · exact ⟨⟨5, 5, true, 0x8000, crc32c zeros + 1, false⟩, ⟨(l2_stands _).1, (l2_stands _).2.1, rfl, rfl,
      (l2_stands _).2.2.1⟩, by rw [(l2_stands _).2.2.2]; show crc32c zeros ≠ crc32c zeros + 1; bv_omega⟩

end Cells

/-! ## Events and interrupts -/

namespace Events

def e0 : State := R 0 (fun Q => regs [(regAt Reg.EV_CH_CFG 5 0, 0xC0000021), (regAt Reg.EV_CH_FORK 5 0,
    0x80008000 + 0x183 * 65536 + 0x185),
    (regAt Reg.EV_CH_CFG 6 0, 0x80000205), (regAt Reg.EV_CH_MININT 6 0, 0xFFFF)]
  { Q with ev := { Q.ev with lastAcc := [(6, some 990)] } })
  (C [(regAt Reg.CH_XEV_CFG 3 0, 0x80000005), (regAt Reg.CH_XEV_CFG 4 0, 0x80000105)] up)
def x0 : State := R 0 (fun Q => { Q with ev := { Q.ev with xout := [⟨4, 9, 998⟩, ⟨3, 77, 999⟩, ⟨3, 78, 1000⟩] } }) e0
/-- Region 0 with a fire of channel `n` on its way. -/
def fired (n : Nat) : Region := { e0.region 0 with ev := { (e0.region 0).ev with fabric := [⟨0x400 + n, 77⟩] } }
def two : Region := regs [(regAt Reg.EV_CH_FORK 5 0, 0x8185), (regAt Reg.EV_CH_FORK 6 0, 0x8185)] (e0.region 0)
def cx : Ctx := { e0.ctx 0 with time := { e0.time with pclk := 1001 } }

/-- The hypotheses of EventChannels. -/
theorem witness_EventChannels :
    (Live 0 e0 ∧ bitsOf (0 : Word) 7 0 = 0)
      ∧ (mapWf regionDefault (fired 0).regs = true ∧ (fired 0).ev.fabric = [⟨0x400 + 0, 77⟩] ∧ (fired 0).bit (regAt
        Reg.EV_CH_CFG 0 0) 31 = false)
      ∧ (mapWf regionDefault (fired 6).regs = true ∧ (fired 6).ev.fabric = [⟨0x400 + 6, 77⟩] ∧ (fired 6).bit (regAt
        Reg.EV_CH_CFG 6 0) 31 = true ∧ evAccepts (cx.time.pclk - 1) 6 (fired 6) = false)
      ∧ (mapWf regionDefault (fired 5).regs = true ∧ (fired 5).ev.fabric = [⟨0x400 + 5, 77⟩] ∧ (fired 5).bit (regAt
        Reg.EV_CH_CFG 5 0) 31 = true ∧ evAccepts (cx.time.pclk - 1) 5 (fired 5) = true)
      ∧ ((fired 5).ev.req.contains 33 = false ∧ (∀ k ∈ evForks 5 (fired 5), 0x180 ≤ k) ∧ evForks 5 (fired 5) = [0x185,
        0x183])
      ∧ (evForks 5 two = [0x185] ∧ evForks 6 two = [0x185] ∧ 0x180 ≤ 0x185)
      ∧ ((x0.region 0).ev.xout.find? (fun e => e.xev == 3) = some ⟨3, 77, 999⟩ ∧ ∀ q < 8, ∀ d ∈ (x0.region
        q).ev.xout.find? (fun e => e.xev == 3), 999 < d.edge ∨ (999 = d.edge ∧ 0 ≤ q)) := by
  refine ⟨?_, ?_, ?_, ?_, ?_, ?_, ?_⟩
  all_goals try simp only [Live]
  all_goals decide +kernel

def ic0 : State := R 0 (fun Q => regs [(icCfg 5, 0x00030007), (icCfg 0x405, 0x13), (regAt Reg.IC_PEND 0 0, 0x20),
    (regAt Reg.IC_ACT 32 0, 0x20), (regAt Reg.IC_TSET 0 0, 0x10), (regAt Reg.IC_THR 4 0, 0)]
  (Q.onCell 4 (fun k => { k with halted := false }))) up
def post0 : State := R 0 (fun Q => { Q with ev := { Q.ev with post := [5, 9, 700], postPtr := 6 } }) ic0
def ic1 : State := R 0 (fun Q => regs [(regAt Reg.IC_HELD 4 0,
    0x80)] { Q with ev := { Q.ev with slots := [(16 * 4 + 7, some 5)] } }) up

theorem only_five {j : Nat} (hj : j < 4096) (h : icPending j (ic0.region 0) = true) : j = 5 := by
  have hw : ∀ w, w < 128 → (ic0.region 0).reg (regAt Reg.IC_PEND w 0) = if w = 0 then 0x20 else 0 := by decide +kernel
  have hb : ∀ b, b < 32 → (0x20 : Word).getLsbD b = true → b = 5 := by decide
  unfold icPending icBit Region.bit at h
  rw [hw _ (by omega)] at h
  split at h
  · have := hb _ (Nat.mod_lt _ (by decide)) h; omega
  · simp at h

/-- The hypotheses of InterruptDelivery. -/
theorem witness_InterruptDelivery :
    (Live 0 ic1 ∧ mapWf regionDefault (ic1.region 0).regs = true ∧ 5 < 4096 ∧ icSlot 4 7 (ic1.region 0) = some 5 ∧
      icTarget 4 5 7 (ic1.region 0) = false)
      ∧ (Live 0 post0 ∧ (post0.region 0).ev.post.filter (fun k => (post0.region 0).ev.postPtr ≤ k) ++ (post0.region
        0).ev.post = [9, 700, 5, 9, 700])
      ∧ (Live 0 ic0 ∧ mapWf regionDefault (ic0.region 0).regs = true ∧ 4 = ((ic0.region 0).field (icCfg 5) 22 16 + 1)
        % 128 ∧ icPending 5 (ic0.region 0) = true ∧ icActive 5 (ic0.region 0) = false ∧ icDelivered 5 (ic0.region 0) =
        false ∧ icPrio 5 (ic0.region 0) = 7 ∧ icEligible 4 5 7 (ic0.region 0) = true ∧ ∀ e < 1, icEligible
        (((ic0.region 0).field (icCfg 5) 22 16 + e) % 128) 5 7 (ic0.region 0) = false)
      ∧ (∀ j k, j < 4096 → k < 128 → icPending j (ic0.region 0) = true → icActive j (ic0.region 0) = false →
        icDelivered j (ic0.region 0) = false → icEligible k j (icPrio j (ic0.region 0)) (ic0.region 0) = true → icPrio
        j (ic0.region 0) < 7 ∨ (icPrio j (ic0.region 0) = 7 ∧ 5 ≤ j)) := by
  refine ⟨?_, ?_, ?_, ?_⟩
  · simp only [Live]; decide +kernel
  · simp only [Live]; decide +kernel
  · simp only [Live]; decide +kernel
  · intro j k hj _ hp _ _ _; obtain rfl := only_five hj hp; exact .inr ⟨by decide +kernel, Nat.le_refl _⟩

/-- The hypotheses of EndOfInterrupt. -/
theorem witness_EndOfInterrupt :
    (Live 0 ic0 ∧ icActive (bitsOf (0 : Word) 11 0) (ic0.region 0) = false)
      ∧ (Live 0 ic0 ∧ bitsOf (0x405 : Word) 11 0 = 0x405 ∧ icActive 0x405 (ic0.region 0) = true) := by
  refine ⟨?_, ?_⟩
  all_goals try simp only [Live]
  all_goals decide +kernel

def m1 : State := H (fun h => { h with msixEnable := true })
  (C [(regAt Reg.CH_MSIX_TAB 3 0, 0x1000), (regAt Reg.CH_MSIX_TAB 3 2, 77), (regAt Reg.CH_MSIX_TAB 3 3, 0)] up)
def m2 : State := C [(regAt Reg.CH_MSIX_PBA 0 0, 8)] m1

/-- The hypotheses of MessageInterrupts. -/
theorem witness_MessageInterrupts :
    (bitsOf (0 : Word) 5 0 = 0 ∧ m1.chip.msixEnable = true ∧ msixPending 0 m1.chip = false ∧ msixMasked 0 m1.chip =
      true)
      ∧ (bitsOf (3 : Word) 5 0 = 3 ∧ m1.chip.msixEnable = true ∧ msixPending 3 m1.chip = false ∧ msixMasked 3 m1.chip
        = false)
      ∧ (bitsOf (3 : Word) 5 0 = 3 ∧ m2.chip.msixEnable = true ∧ msixPending 3 m2.chip = true ∧ msixMasked 3 m2.chip =
        false)
      ∧ (bitsOf (0 : Word) 5 0 = 0 ∧ up.chip.msixEnable = false) := by
  refine ⟨?_, ?_, ?_, ?_⟩
  all_goals decide +kernel

def sn0 : State := { H (fun h => { h with snapReq := 1 }) (R 0 (fun Q => { Q with snapReq := 1 }) up) with time := { up.time with step := some 100 } }
def sn1 : State := R 0 (fun Q => Q.setReg Reg.RG_SNAPSTAT.base 1) sn0
def sn3 : State := R 7 (regs [(regAt Reg.AD_SG_CFG 3 0, 0xFFFFFFFF)]) sn0
def sn6 : State := R 0 (fun Q => regs [(regAt Reg.TM_CH_CFG 5 0, 0x80000000), (regAt Reg.TM_CH_CNT 4 0, 3)]
  { Q with tm := { Q.tm with run := [(4, true), (5, true)], carryNext := [5] } }) sn0

/-- The hypotheses of SnapshotsAndTimeSteps. -/
theorem witness_SnapshotsAndTimeSteps :
    (Live 0 sn0)
      ∧ ((sn6.region 0).linked 5 = true ∧ (sn6.region 0).tmRun 5 = true ∧ (sn6.region 0).countDue 5 = false)
      ∧ (sn0.chip.snapReq ≠ 0 ∧ (sn0.chipReg Reg.CH_SNAPSTAT.base).getLsbD 0 = false ∧ (sn0.region 0).snapReq + 1 ≠ 0
        ∧ (sn0.region 0).inReset = false ∧ (sn0.region 0).bit Reg.RG_SNAPSTAT.base 0 = false ∧ (sn1.region 0).bit
        Reg.RG_SNAPSTAT.base 0 = true)
      ∧ (sn0.time.step = some 100 ∧ ∀ (r : RegionId) (g : Fin 8), sgArmed g.val (sn0.region r.val) = false)
      ∧ (sn3.time.step = some 100 ∧ sgArmed 3 (sn3.region 7) = true) := by
  refine ⟨?_, ?_, ?_, ?_, ?_⟩
  all_goals try simp only [Live]
  all_goals decide +kernel

end Events

/-! ## Converters -/

namespace Adc

def A (f : Machine.Adc → Machine.Adc) (s : State) : State := R 0 (fun Q => Q.putAdc f) s
def t (n : Nat) : Ticks := BitVec.ofNat 64 n
/-- Group 0 waits for a time past, group 3 for an edge. -/
def s0 : State := A (fun d => { d with wait := [(0, .at (t (now - 1000))), (3, .edge 5)] })
  (G [(Reg.AD_STAT.base, 0), (regAt Reg.AD_SG_CFG 0 0, 0xC0000033), (regAt Reg.AD_SG_CFG 3 0, 0xC000FF00),
      (regAt Reg.AD_SG_PER 3 0, 9),
    (regAt Reg.TM_PAIR_DL 4 0, 0xC0001000)] up)
def s4 : State := G [(Reg.AD_STAT.base, 1)] s0
/-- Accumulator `k` of channel `n`. -/
def a (n k : Nat) : Nat := accBase (4 * n + k)
/-- Channel 2 has a conversion that is over and one that is not. -/
def p0 : State := A (fun d => { d with
    corr := [(2, -90)], sum := [(8, -7), (9, 4)]
    conv := [(2, [⟨0x21, 350, 2, some 0x123456770, none, false⟩, ⟨1, 366, 2, none, none, false⟩])] })
  (G [(a 2 0, 0x80000000), (a 2 1, 0x40021000), (a 2 1 + 8, 0x10001), (a 2 0 + 8, 1)] up)
/-- A conversion of group 0 on channel 2 comes to its aperture. -/
def p1 : State := A (fun d => { d with conv := [(2, [⟨1, 397, 2, none, none, false⟩])] }) s0

/-- The hypotheses of Sampling. -/
theorem witness_Sampling :
    (Live 7 s0 ∧ sgDue (s0.ctx 7) (s0.ctx 7).aclkNext 0 (s0.region 7) = none)
      ∧ (∃ u ∈ sgDue (s4.ctx 0) (s4.ctx 0).aclkNext 0 (s4.region 0), Live 0 s4 ∧ (initCal (s4.region 0) = true ∨
        sgBusy 0 u (s4.region 0) = true))
      ∧ (∃ u ∈ sgDue (s0.ctx 0) (s0.ctx 0).aclkNext 0 (s0.region 0), Live 0 s0 ∧ initCal (s0.region 0) = false ∧
        sgBusy 0 u (s0.region 0) = false ∧ (∀ q < 2, ((s0.region 0).calStep q).phase ≠ CalPhase.handOver ∧ ((s0.region
        0).calStep q).phase ≠ CalPhase.handBack))
      ∧ (Live 0 s0 ∧ (∀ k < 24, watches k 0 (s0.region 0) = true → ((s0.region 0).pair k).window = none ∨ ((s0.region
        0).pair k).onTime = true) ∧ 0 < 16 ∧ (∀ c ∈ (s0.region 0).conv 0, c.edge = 0 → c.stamp = none))
      ∧ (∃ u ∈ ((p0.region 0).conv 2).head?, u.stamp.isSome = true ∧ Live 0 p0 ∧ 2 < 16 ∧ u.edge + 16 ≤ (p0.ctx
        0).aclkNext ∧ (u.probe ≠ none → (p0.region 0).bit Reg.AD_CFG.base 0 = false))
      ∧ (Live 0 s0 ∧ 0 < 16 ∧ (∀ c ∈ ((s0.region 0).conv 0).head?, c.stamp = none ∨ (s0.ctx 0).aclkNext < c.edge +
        16))
      ∧ (Live 0 s0 ∧ (s0.region 0).bit Reg.AD_CFG.base 0 = false)
      ∧ ((∀ k < 24, watches k 0 (p1.region 0) = true → ((p1.region 0).pair k).window = none ∨ ((p1.region 0).pair
        k).onTime = true) ∧ (p1.region 0).conv 2 = [⟨1, 397, 2, none, none, false⟩] ∧ watches 4 0 (p1.region 0) =
        true) := by
  refine ⟨?_, ?_, ?_, ?_, ?_, ?_, ?_, ?_⟩
  all_goals try simp only [Live]
  all_goals decide +kernel

def tk : Nat := regAt Reg.AD_CH_TRK_CFG 2 1
def t0 : State := A (fun d => { d with trk := [(5, ⟨true, ⟨5, -3, 8, 99, 333⟩, [⟨2, t (now - 8700), 340⟩]⟩)] })
  (G [(tk, 0x60000000), (tk + 0xC, 200), (tk + 0x10, BitVec.ofNat 32 (now - 9000)), (tk + 0x14,
      BitVec.ofNat 32 (now / 2 ^ 32))] up)

/-- The hypotheses of AccumulatorsAndTrackers. -/
theorem witness_AccumulatorsAndTrackers :
    (Live 0 s0 ∧ trkPast (s0.ctx 0) (s0.ctx 0).aclkNext (2 * 0 + 0) (s0.region 0) = false)
      ∧ (Live 0 t0 ∧ trkPast (t0.ctx 0) (t0.ctx 0).aclkNext (2 * 2 + 1) (t0.region 0) = true)
      ∧ (Live 0 s0 ∧ trkPast (s0.ctx 0) (s0.ctx 0).aclk (2 * 0 + 0) (plainWrite (regAt (trackerReg 1) 0 0) 0
        (s0.region 0)) = false)
      ∧ (Live 0 t0 ∧ trkPast (t0.ctx 0) (t0.ctx 0).aclk (2 * 2 + 1) (plainWrite (regAt (trackerReg 1) 2 1) 0
        (t0.region 0)) = true) := by
  refine ⟨?_, ?_, ?_, ?_⟩
  all_goals try simp only [Live]
  all_goals decide +kernel

def cal (l : List (Nat × CalStep)) (rg : List (Nat × Word)) : State :=
  A (fun d => { d with cal := l, corr := [(16, 5)], rotating := true }) (G ((Reg.AD_STAT.base,
      4) :: (Reg.AD_CALCFG.base, 1) :: rg) up)
def k0 : State := cal [(0, ⟨.cal, 3, 3⟩), (1, ⟨.shadow, 4, 4⟩)] [(sliceAt 3, 0x20030100), (sliceAt 17, 0x30040005)]
def k1 : State := G [(Reg.AD_CALCFG.base, 0)] k0
def k2 : State := cal [(0, ⟨.handOver, 3, 3⟩), (1, ⟨.handBack, 4, 4⟩)] [(Reg.AD_CALCFG.base, 0)]
/-- A start of channels 3 and 4 is due. -/
def h0 : State := A (fun d => { d with wait := [(0, .at 5)] }) (G [(regAt Reg.AD_SG_CFG 0 0, 0xC0000018), (sliceAt 3,
    0x00030000),
  (sliceAt 17, 0x00040000), (sliceAt 4, 0x30040000), (Reg.AD_STAT.base, 4)] k2)
def k4 : State := A (fun d => { d with cal := [], rotating := false })
  (G [(Reg.AD_STAT.base, 1), (Reg.AD_CALCFG.base, 1), (sliceAt 16, 0x501F0000), (sliceAt 17, 0xD01F0000)] up)
def q1 : State := G [(Reg.AD_PROBE.base, 0x80100000), (Reg.AD_PROBESTAT.base, 3), (sliceAt 17, 0x501F0000)] k4
def u0 : State := G [(Reg.AD_STAT.base, 0), (Reg.AD_PROBE.base, 0x80000000), (Reg.AD_PROBESTAT.base, 4), (sliceAt 16,
    0x401F0000), (Reg.AD_CALCFG.base, 0)] k4

/-- The hypotheses of CalibrationAndProbe. -/
theorem witness_CalibrationAndProbe :
    (Live 0 k0 ∧ calOf 3 (k0.region 0) = some 0 ∧ ((k0.region 0).calStep 0).phase = CalPhase.cal ∧ sliceRetired 3
      (k0.region 0) = false)
      ∧ (Live 0 h0 ∧ calOf 0 (h0.region 0) = none ∧ (initCal (h0.region 0) = false ∨ sliceRetired 0 (h0.region 0) =
        true ∨ 0 ∈ (h0.region 0).adc.initDone))
      ∧ (Live 0 k4 ∧ calOf 0 (k4.region 0) = none ∧ initCal (k4.region 0) = true ∧ sliceRetired 0 (k4.region 0) =
        false ∧ 0 ∉ (k4.region 0).adc.initDone ∧ (k4.region 0).faultQ.length < 16)
      ∧ (Live 0 k0 ∧ 1 < 2 ∧ 17 = 16 + 1 ∧ ((k0.region 0).calStep 1).phase = CalPhase.shadow ∧ (∀ p < 1, ((k0.region
        0).calStep p).phase = CalPhase.shadowBack → ((k0.region 0).calStep p).slice ≠ 17) ∧ Int.natAbs 0 ≤ 32 * 64)
      ∧ (Live 0 k0 ∧ 1 < 2 ∧ 17 = 16 + 1 ∧ ((k0.region 0).calStep 1).phase = CalPhase.shadow ∧ (∀ p < 1, ((k0.region
        0).calStep p).phase = CalPhase.shadowBack → ((k0.region 0).calStep p).slice ≠ 17) ∧ 32 * 64 < Int.natAbs 2049)
      ∧ (Live 0 k1 ∧ 1 < 2 ∧ 17 = 16 + 1 ∧ ((k1.region 0).calStep 1).phase = CalPhase.shadow ∧ (∀ p < 1, ((k1.region
        0).calStep p).phase = CalPhase.shadowBack → ((k1.region 0).calStep p).slice ≠ 17) ∧ Stops 1 (k1.region 0))
      ∧ (Live 0 u0 ∧ 16 = 16 + 0 ∧ chStarts (u0.ctx 0) ((u0.region 0).calStep 0).ch (u0.region 0) = false)
      ∧ (Live 0 h0 ∧ 16 = 16 + 0 ∧ ((h0.region 0).calStep 0).slice = 3 ∧ 3 < 16 ∧ chStarts (h0.ctx 0) ((h0.region
        0).calStep 0).ch (h0.region 0) = true ∧ ((h0.region 0).calStep 0).phase = CalPhase.handOver)
      ∧ (Live 0 h0 ∧ 1 < 2 ∧ 17 = 16 + 1 ∧ ((h0.region 0).calStep 1).slice = 4 ∧ 4 < 16 ∧ chStarts (h0.ctx 0)
        ((h0.region 0).calStep 1).ch (h0.region 0) = true ∧ ((h0.region 0).calStep 1).phase = CalPhase.handBack ∧
        Stops 1 (h0.region 0))
      ∧ (Live 0 h0 ∧ (∀ q < 2, sliceState (16 + q) (h0.region 0) ≠ 4) ∧ (bitsOf ((plainWrite Reg.AD_PROBE.base 0
        (h0.region 0)).reg Reg.AD_PROBE.base) 31 30 = 2 → ((h0.region 0).calStep (bitsOf ((plainWrite
        Reg.AD_PROBE.base 0 (h0.region 0)).reg Reg.AD_PROBE.base) 20 20)).phase ≠ CalPhase.idle ∧ ((h0.region
        0).calStep (bitsOf ((plainWrite Reg.AD_PROBE.base 0 (h0.region 0)).reg Reg.AD_PROBE.base) 20 20)).phase ≠
        CalPhase.done))
      ∧ (Live 0 s0 ∧ (∀ p < 2, sliceState (16 + p) (s0.region 0) ≠ 4) ∧ bitsOf ((plainWrite Reg.AD_PROBE.base
        2147483648 (s0.region 0)).reg Reg.AD_PROBE.base) 31 30 = 2 ∧ bitsOf ((plainWrite Reg.AD_PROBE.base 2147483648
        (s0.region 0)).reg Reg.AD_PROBE.base) 20 20 = 0 ∧ spareAvail 0 (s0.region 0) = true ∧ ((s0.region 0).calStep
        0).phase = CalPhase.idle ∧ ((s0.region 0).calStep (1 - 0)).phase ≠ CalPhase.done)
      ∧ (Live 0 u0 ∧ bitsOf ((u0.region 0).reg Reg.AD_PROBE.base) 20 20 = 0 ∧ sliceState (16 + 0) (u0.region 0) = 4 ∧
        bitsOf ((plainWrite Reg.AD_PROBE.base 0 (u0.region 0)).reg Reg.AD_PROBE.base) 31 30 ≠ 2 ∧ (u0.region 0).bit
        Reg.AD_CALCFG.base 0 = false)
      ∧ (Live 0 h0 ∧ ((h0.region 0).bit Reg.AD_PROBESTAT.base 1 = false ∨ spareAvail ((h0.region 0).field
        Reg.AD_PROBE.base 20 20) (h0.region 0) = false ∨ spareFree ((h0.region 0).field Reg.AD_PROBE.base 20 20)
        (h0.region 0) = false))
      ∧ (Live 0 q1 ∧ (q1.region 0).bit Reg.AD_PROBESTAT.base 1 = true ∧ spareAvail ((q1.region 0).field
        Reg.AD_PROBE.base 20 20) (q1.region 0) = true ∧ spareFree ((q1.region 0).field Reg.AD_PROBE.base 20 20)
        (q1.region 0) = true ∧ ((q1.region 0).calStep (1 - (q1.region 0).field Reg.AD_PROBE.base 20 20)).phase ≠
        CalPhase.done) := by
  refine ⟨?_, ?_, ?_, ?_, ?_, ?_, ?_, ?_, ?_, ?_, ?_, ?_, ?_, ?_⟩
  all_goals try simp only [Live, Stops]
  all_goals decide +kernel

end Adc

/-! ## Timers and loops -/

namespace Loops

def T (f : Machine.Timers → Machine.Timers) (s : State) : State := R 0 (fun Q => { Q with tm := f Q.tm }) s
def ch (d : RegDef) (n : Nat) : Nat := regAt d n 0
def a0 : State := T (fun d => { d with run := [(4, true), (5, true), (50, true)], pre := [(4, 3)] })
  (G [(ch Reg.TM_CH_CFG 5, 0x80000000), (ch Reg.TM_CH_CFG 50, 9), (ch Reg.TM_PAIR_CFG 2, 1), (ch Reg.TM_CH_RELOAD 5, 3),
      (ch Reg.TM_CH_CNT 5, 3)] up)
def a3 : State := G [(ch Reg.TM_CH_CFG 5, 0), (ch Reg.TM_CH_CFG 4, 0x40000000), (ch Reg.TM_PAIR_CFG 2, 0)] a0
/-- Channel 4 is fractional and due to count to 7, which both of its compares hit. -/
def a6 : State := T (fun d => { d with pre := [] }) (G [(ch Reg.TM_CH_CFG 4, 0x40000000), (ch Reg.TM_CH_CNT 4, 6),
    (ch Reg.TM_CH_RELOAD 4, 0xFF),
  (ch Reg.TM_CH_CMPA 4, 0x73), (ch Reg.TM_CH_CMPB 4, 0x77), (ch Reg.TM_PAIR_CFG 2, 0)] a0)

/-- The hypotheses of Timers. -/
theorem witness_Timers :
    (Live 0 a3 ∧ (a3.region 0).countDue 5 = true ∧ (a3.region 0).tmBlocked 5 = false ∧ hits 5 true (nextCount 5
      (a3.region 0)).1 (a3.region 0) = true)
      ∧ (Live 0 a3 ∧ (a3.region 0).countDue 5 = true ∧ (a3.region 0).tmBlocked 5 = false ∧ (nextCount 5 (a3.region
        0)).2 = true)
      ∧ (Live 0 a0 ∧ (a0.region 0).countDue 0 = false)
      ∧ (Live 0 a6 ∧ (a6.region 0).fracen 4 = true ∧ (a6.region 0).countDue 4 = true ∧ (a6.region 0).tmBlocked 4 =
        false ∧ BitVec.toNat ((a6.region 0).effCmp 4 false) / 16 = BitVec.toNat ((a6.region 0).effCmp 4 true) / 16 ∧
        BitVec.toNat ((a6.region 0).effCmp 4 false) % 16 < BitVec.toNat ((a6.region 0).effCmp 4 true) % 16 ∧
        BitVec.toNat ((a6.region 0).effCmp 4 false) / 16 = BitVec.toNat (nextCount 4 (a6.region 0)).1 ∧ (nextCount 4
        (a6.region 0)).2 = false ∧ refers 4 (a6.region 0) = false)
      ∧ (Live 0 a0 ∧ (a0.region 0).tmEdge 0 = none ∧ (a0.region 0).tmRun 0 = false)
      ∧ (Live 0 a0 ∧ (a0.region 0).tmEdge 4 = none ∧ (a0.region 0).countDue 4 = true)
      ∧ (Live 0 a0 ∧ (∀ j, j < 32 → (0x80000041 : Word).getLsbD j = true → 32 * 0 + j < 48 → (a0.region 0).comp ((32 *
        0 + j) / 2) = false))
      ∧ ((a0.region 0).tmEdge 50 = none ∧ (a0.region 0).tmRun 50 = true ∧ (a0.region 0).linked 50 = false ∧ (a0.region
        0).tmPre 50 < (a0.region 0).field (regAt Reg.TM_CH_CFG 50 0) 7 0) := by
  refine ⟨?_, ?_, ?_, ?_, ?_, ?_, ?_, ?_⟩
  all_goals try simp only [Live]
  all_goals decide +kernel

def w (x : Nat) : Option Ticks := some (BitVec.ofNat 64 x)
/-- A pair with outputs, window and marks given, no dead time and no cause. -/
def pair (h l latched : Bool) (window : Option Ticks) (onTime hold : Bool) : Pair := ⟨h, l, none, latched, window,
    onTime, hold, false, none⟩
def b0 : State := T (fun d => { d with pair := [(2, pair true false false none false false)], trp := [(0, true), (1, false)] })
  (G [(ch Reg.TM_PAIR_CFG 2, 0xF00), (ch Reg.TM_PAIR_CFG 3, 0x203)] up)
/-- Pair 7 is held tripped with no input asserted; a cause of the coming edge has met pair 5. -/
def b5 : State := T (fun d => { d with
    pair := [(5, { pair false false true none false false with fresh := some 2 }), (7,
        pair false false true none false false)] })
  (G [(ch Reg.TM_PAIR_STAT 5, 0x21), (ch Reg.TM_PAIR_STAT 7, 0x31)] up)
def now' : Ticks := BitVec.ofNat 64 now
/-- Pairs 2, 3 and 5 have windows; capture channels 5 to 7 take an edge. -/
def c0 : State := T (fun d => { d with
    pair := [(2, pair true false false (w (now - 5)) false true), (3, pair false false true (w (now - 100)) true false),
      (5, pair false true false (w (now - 500)) false false)]
    cap := [(5, [(1, 2)]), (6, [(1, 2), (3, 0x1234567890)])], capPre := [(5, 3), (6, 2), (7, 2)] })
  (G [(ch Reg.TM_PAIR_DL 2, 0x80000100), (ch Reg.TM_PAIR_DL 3, 0x40000010), (ch Reg.TM_PAIR_DL 5, 0x80000010),
    (ch Reg.TM_CH_CAPCFG 5, 0x03000100), (ch Reg.TM_CH_CAPCFG 6, 0x02000100), (ch Reg.TM_CH_CAPCFG 7, 0x03000200)] up)
/-- The capture of channel 6 that its edge lost. -/
def d0 : State := T (fun d => { d with cap := [(6, [(1, 2), (3, 4)])], capLost := [(6, some (5, 6))] }) up

/-- The hypotheses of TripsAndDeadlines. -/
theorem witness_TripsAndDeadlines :
    (Live 0 b0 ∧ (false == (b0.region 0).bit (regAt Reg.TM_TRP_CFG 0 0) 0) = (b0.region 0).trpLevel 0)
      ∧ (Live 0 b0 ∧ (true == (b0.region 0).bit (regAt Reg.TM_TRP_CFG 0 0) 0) ≠ (b0.region 0).trpLevel 0 ∧ (if
        ((b0.region 0).trpLine 0).sync = (true == (b0.region 0).bit (regAt Reg.TM_TRP_CFG 0 0) 0) then (b0.region
        0).trpLine 0 else
        { sync := true == (b0.region 0).bit (regAt Reg.TM_TRP_CFG 0 0) 0, since := Max.max (b0.time.pclk + 1) ((b0.region 0).trpLine 0).since }).since
        + (b0.region 0).field (regAt Reg.TM_TRP_CFG 0 0) 15 8 ≤ b0.time.pclk + 1)
      ∧ (Live 0 b0 ∧ Option.all (fun w => decide (BitVec.toNat (b0.ctx 0).gtNext < w.toNat + (b0.region 0).field
        (regAt Reg.TM_PAIR_DL 2 0) 23 0)) ((b0.region 0).pair 2).window = true)
      ∧ (Live 0 c0 ∧ Option.all (fun w => decide (BitVec.toNat (c0.ctx 0).gtNext < w.toNat + (c0.region 0).field
        (regAt Reg.TM_PAIR_DL 3 0) 23 0)) ((c0.region 0).pair 3).window = false ∧ ((c0.region 0).pair 3).onTime =
        true)
      ∧ (Live 0 c0 ∧ Option.all (fun w => decide (BitVec.toNat (c0.ctx 0).gtNext < w.toNat + (c0.region 0).field
        (regAt Reg.TM_PAIR_DL 5 0) 23 0)) ((c0.region 0).pair 5).window = false ∧ ((c0.region 0).pair 5).onTime =
        false)
      ∧ (Live 0 b0 ∧ (∀ back ∈ (b0.ctx 0).edgesBack 0, 6 ≤ back))
      ∧ (∃ u ∈ (b0.ctx 0).edgesBack now', Live 0 b0 ∧ capSourced (bitsOf ((b0.region 0).reg (regAt Reg.TM_CH_CAPCFG 0
        0)) 6 0) = true ∧ u < 6 ∧ (∀ q ∈ (b0.region 0).capRun 0, q.line.sync ≠ true ∧ q.taken = true) ∧ (bitsOf
        ((b0.region 0).reg (regAt Reg.TM_CH_CAPCFG 0 0)) 23 16 ≠ 0 ∨ BitVec.getLsbD ((b0.region 0).reg (regAt
        Reg.TM_CH_CAPCFG 0 0)) 8 = false))
      ∧ (∃ u ∈ (c0.ctx 0).edgesBack now', Live 0 c0 ∧ capSourced (bitsOf ((c0.region 0).reg (regAt Reg.TM_CH_CAPCFG 7
        0)) 6 0) = true ∧ u < 6 ∧ (∀ q ∈ (c0.region 0).capRun 7, q.line.sync ≠ false ∧ q.taken = true) ∧ bitsOf
        ((c0.region 0).reg (regAt Reg.TM_CH_CAPCFG 7 0)) 23 16 = 0 ∧ BitVec.getLsbD ((c0.region 0).reg (regAt
        Reg.TM_CH_CAPCFG 7 0)) 9 = true ∧ mapGet zeroNat (c0.region 0).tm.capPre 7 < bitsOf ((c0.region 0).reg (regAt
        Reg.TM_CH_CAPCFG 7 0)) 31 24)
      ∧ (∃ u ∈ (c0.ctx 0).edgesBack now', Live 0 c0 ∧ capSourced (bitsOf ((c0.region 0).reg (regAt Reg.TM_CH_CAPCFG 5
        0)) 6 0) = true ∧ u < 6 ∧ (∀ q ∈ (c0.region 0).capRun 5, q.line.sync ≠ true ∧ q.taken = true) ∧ bitsOf
        ((c0.region 0).reg (regAt Reg.TM_CH_CAPCFG 5 0)) 23 16 = 0 ∧ BitVec.getLsbD ((c0.region 0).reg (regAt
        Reg.TM_CH_CAPCFG 5 0)) 8 = true ∧ bitsOf ((c0.region 0).reg (regAt Reg.TM_CH_CAPCFG 5 0)) 31 24 ≤ mapGet
        zeroNat (c0.region 0).tm.capPre 5 ∧ ((c0.region 0).capFifo 5).length < 2)
      ∧ (∃ u ∈ (c0.ctx 0).edgesBack now', Live 0 c0 ∧ capSourced (bitsOf ((c0.region 0).reg (regAt Reg.TM_CH_CAPCFG 6
        0)) 6 0) = true ∧ u < 6 ∧ (∀ q ∈ (c0.region 0).capRun 6, q.line.sync ≠ true ∧ q.taken = true) ∧ bitsOf
        ((c0.region 0).reg (regAt Reg.TM_CH_CAPCFG 6 0)) 23 16 = 0 ∧ BitVec.getLsbD ((c0.region 0).reg (regAt
        Reg.TM_CH_CAPCFG 6 0)) 8 = true ∧ bitsOf ((c0.region 0).reg (regAt Reg.TM_CH_CAPCFG 6 0)) 31 24 ≤ mapGet
        zeroNat (c0.region 0).tm.capPre 6 ∧ 2 ≤ ((c0.region 0).capFifo 6).length)
      ∧ (((c0.region 0).capFifo 5).head?.isSome = true ∧ Live 0 c0 ∧ mapGet noneAt (c0.region 0).tm.capLost 5 = none)
      ∧ (((d0.region 0).capFifo 6).head?.isSome = true ∧ (mapGet noneAt (d0.region 0).tm.capLost 6).isSome = true ∧
        Live 0 d0 ∧ ((d0.region 0).capFifo 6).tail.length < 2)
      ∧ (Live 0 b0 ∧ (b0.region 0).capFifo 0 = [])
      ∧ ((b5.region 0).tripped 7 = true ∧ ((List.range 4).all (fun ix => !((b5.region 0).bit (regAt Reg.TM_PAIR_CFG 7
        0) (8 + ix) && (b5.region 0).trpAsserted ix))) = true ∧ ((b5.region 0).pair 7).fresh = none)
      ∧ ((b5.region 0).tripped 5 = true ∧ ((List.range 4).all (fun ix => !((b5.region 0).bit (regAt Reg.TM_PAIR_CFG 5
        0) (8 + ix) && (b5.region 0).trpAsserted ix))) = true ∧ ((b5.region 0).pair 5).fresh = some 2) := by
  refine ⟨?_, ?_, ?_, ?_, ?_, ?_, ?_, ?_, ?_, ?_, ?_, ?_, ?_, ?_, ?_⟩
  all_goals try simp only [Live]
  all_goals decide +kernel

def L (f : Loop → Loop) (s : State) : State := R 0 (fun Q => { Q with lp := f Q.lp }) s
def i0 : State := G [(Reg.LP_INJ_CFG.base, 0x40000000), (Reg.LP_INJ_INT.base, 0), (Reg.LP_INJ_STAT.base, 0)] up
def i1 : State := G [(Reg.LP_INJ_INT.base, 10)] i0
/-- A run whose last step was 64 edges ago. -/
def i3 : State := L (fun l => { l with sr := 0x55, injLast := 937 })
  (G [(Reg.LP_INJ_CFG.base, 0x49000000), (Reg.LP_INJ_AMPL.base, 32767), (Reg.LP_INJ_STAT.base, 1), (Reg.LP_INJ_INT.base,
      3)] up)
def i4 : State := G [(Reg.LP_INJ_INT.base, 0)] i3
def rcb : State := L (fun l => { l with rcBuf := [⟨0x1122334455, 7, 8, 3⟩, ⟨1, 2, 3, 4⟩], rcCount := 5 })
  (G [(Reg.LP_RC_BASE.base, 0x400), (Reg.LP_RC_WPTR.base, 5)] up)

/-- The hypotheses of InjectionAndCapture. -/
theorem witness_InjectionAndCapture :
    (Live 0 i0 ∧ BitVec.toNat ((i0.region 0).reg Reg.LP_INJ_INT.base) = 0)
      ∧ (Live 0 i1 ∧ BitVec.toNat ((i1.region 0).reg Reg.LP_INJ_INT.base) ≠ 0)
      ∧ (Live 0 i3 ∧ (i3.region 0).injRun = true ∧ BitVec.toNat ((i3.region 0).reg Reg.LP_INJ_INT.base) ≠ 0 ∧
        (i3.region 0).lp.injLast + Max.max 64 (BitVec.toNat ((i3.region 0).reg Reg.LP_INJ_INT.base)) ≤ i3.time.pclk +
        1)
      ∧ (Live 0 i0 ∧ ((i0.region 0).injRun = false ∨ BitVec.toNat ((i0.region 0).reg Reg.LP_INJ_INT.base) = 0 ∨
        i0.time.pclk + 1 < (i0.region 0).lp.injLast + Max.max 64 (BitVec.toNat ((i0.region 0).reg
        Reg.LP_INJ_INT.base))))
      ∧ (Live 0 i0 ∧ (i0.region 0).reg Reg.LP_INJ_INT.base = 0)
      ∧ (Live 0 i0 ∧ (i4.region 0).reg Reg.LP_INJ_INT.base = 0 ∧ (i4.region 0).injRun = true)
      ∧ (∃ u ∈ (rcb.region 0).lp.rcBuf.head?, Live 0 rcb ∧ rcFits (rcb.region 0) = true ∧ u.index < rcLen (rcb.region
        0) ∧ Served 0 (Place.rmem ((rcb.region 0).field Reg.LP_RC_BASE.base 15 0 * 16 + 16 * u.index)) 16 rcb)
      ∧ (Live 0 i0 ∧ (i0.region 0).lp.rcBuf = []) := by
  refine ⟨?_, ?_, ?_, ?_, ?_, ?_, ?_, ?_⟩
  all_goals try simp only [Served, Steady, Live]
  all_goals decide +kernel

/-- Generator 3 moves on from the PCLK edge given. -/
def pg (last : Nat) : State := L (fun l => { l with target := [(3, some 100)], pgLast := [(3, last)] })
  (G [(regAt Reg.LP_PG_VMAX_L 3 0, 5), (regAt Reg.LP_PG_AMAX_L 3 0, 4), (regAt Reg.LP_PG_JMAX_L 3 0, 2),
      (regAt Reg.LP_PG_TARGET_L 3 0, 101),
    (regAt Reg.LP_PG_STAT 3 0, 1)] up)
def pn : State := pg 950

/-- The hypotheses of ProfileGenerators. -/
theorem witness_ProfileGenerators :
    (Live 0 pn ∧ (¬(pgMoving 3 (pn.region 0) = true ∧ pgSince 3 (pn.region 0) + Max.max 80 (Min.min 800000 ((pn.region
      0).field (regAt Reg.LP_PG_TICK 3 0) 19 0)) ≤ pn.time.pclk + 1)))
      ∧ (pgTarget 3 ((pg 900).region 0) = some 100 ∧ Live 0 (pg 900) ∧ pgMoving 3 ((pg 900).region 0) = true ∧ pgSince
        3 ((pg 900).region 0) + max 80 (min 800000 (((pg 900).region 0).field (regAt Reg.LP_PG_TICK 3 0) 19 0)) ≤ (pg
        900).time.pclk + 1) := by
  refine ⟨?_, ?_⟩
  all_goals try simp only [Live]
  all_goals decide +kernel

/-- The hypotheses of ProfileAbort. -/
theorem witness_ProfileAbort :
    Live 0 pn ∧ (0x2 : Word).getLsbD 1 = true := by
  simp only [Live]; decide +kernel

/-- A feedback unit with edges at the instants given. -/
def fb (hist : List Nat) (fwd : Option Bool) (last : Option Nat) (held : Option Word) : Machine.Feedback :=
  { hist := hist, lastFwd := fwd, lastEdge := last, posHeld := held, line := [], edge := false, posW := false, cfgW := false,
    cmpOld := none, stopped := none }
def F (u : Nat) (f : Machine.Feedback) (l : List (RegDef × Word)) : State := R 0 (fun Q => regs (l.map (fun e =>
    (fbAt e.1 u, e.2))) (Q.setFb u f)) up
def h0 : State := F 2 (fb [900, 800, 700] (some true) (some 900) none) [(Reg.FB_UN_CFG, 0x00000311), (Reg.FB_UN_STAT,
    0x00012001),
  (Reg.FB_UN_POS_L, 0xFFFFFFFF), (Reg.FB_UN_CMP, 0), (Reg.FB_UN_CMPSP, 5), (Reg.FB_UN_TIMEOUT, 10)]
def h1 : State := F 2 (fb [] none none none) [(Reg.FB_UN_CFG, 0x00000005), (Reg.FB_UN_STAT, 0x00030011),
    (Reg.FB_UN_POS_L, 10), (Reg.FB_UN_CMP, 9)]
def h2 : State := F 2 (fb [900] none none none) [(Reg.FB_UN_CFG, 0x00000001), (Reg.FB_UN_STAT, 0x00070011),
    (Reg.FB_UN_POS_L, 10)]
def q0 : State := F 7 (fb [900, 890, 880] (some false) (some 900) (some 77)) [(Reg.FB_UN_CFG, 0x00020072),
    (Reg.FB_UN_STAT, 0x00000000),
  (Reg.FB_UN_POS_L, 0xFFFFFFFF), (Reg.FB_UN_POS_H, 3), (Reg.FB_UN_ZLOAD, 0xFFFFFFF0)]
/-- The lines of unit `u` of region 0 with the levels `w` at the coming edge. -/
def ln (u : Nat) (w : BitVec 3) (s : State) (i : Nat) : Line :=
  if ((s.region 0).fbLine u i).sync = w.getLsbD i then (s.region 0).fbLine u i
  else ⟨w.getLsbD i, max (s.time.pclk + 1) ((s.region 0).fbLine u i).since⟩
/-- The filtered lines of a unit, when that edge comes, read `v`. -/
def comes (u : Nat) (w : BitVec 3) (v : Nat) (s : State) : Bool :=
  decide (v < 8) && (List.range 3).all (fun i => v.testBit i ==
    if (ln u w s i).since + bitsOf ((s.region 0).reg (fbAt Reg.FB_UN_CFG u)) 15 8 ≤ s.time.pclk + 1 then w.getLsbD i
    else ((s.region 0).field (fbAt Reg.FB_UN_STAT u) 18 16).testBit i)
/-- The levels of its filtered lines before. -/
def was (u : Nat) (s : State) : Nat := (s.region 0).field (fbAt Reg.FB_UN_STAT u) 18 16
/-- What the change means. -/
def means (u v : Nat) (s : State) : FbChange := fbDecide (fbMode u (s.region 0)) (was u s) v

/-- The hypotheses of Feedback. -/
theorem witness_Feedback :
    (Live 0 h0 ∧ ((h0.region 0).reg (fbAt Reg.FB_UN_TIMEOUT 7) != 0 && !((h0.region 0).fbUnit 7).edge && Option.any
      (fun e => decide (BitVec.toNat ((h0.region 0).reg (fbAt Reg.FB_UN_TIMEOUT 7)) ≤ Min.min 4294967295 (h0.time.pclk
      + 1 - e))) ((h0.region 0).fbUnit 7).lastEdge) = false)
      ∧ (Live 0 h0 ∧ ((h0.region 0).reg (fbAt Reg.FB_UN_TIMEOUT 2) != 0 && !((h0.region 0).fbUnit 2).edge &&
        Option.any (fun e => decide (BitVec.toNat ((h0.region 0).reg (fbAt Reg.FB_UN_TIMEOUT 2)) ≤ Min.min 4294967295
        (h0.time.pclk + 1 - e))) ((h0.region 0).fbUnit 2).lastEdge) = true)
      ∧ (Live 0 h0 ∧ fbWide 2 = false)
      ∧ (Live 0 h0 ∧ fbWide 7 = true)
      ∧ (Live 0 h0 ∧ comes 2 3 1 h0 = true ∧ 1 = was 2 h0)
      ∧ (Live 0 h0 ∧ comes 7 1 1 h0 = true ∧ 1 ≠ was 7 h0 ∧ means 7 1 h0 = .nothing ∧ isZ 7 (was 7 h0) 1 (h0.region 0)
        = false)
      ∧ (Live 0 h1 ∧ comes 2 1 1 h1 = true ∧ 1 ≠ was 2 h1 ∧ (atEdge ((h1.region 0).fbUnit 2)).cfgW = false ∧ means 2 1
        h1 = .valid false ∧ isZ 2 (was 2 h1) 1 (h1.region 0) = false)
      ∧ (Live 0 h0 ∧ comes 2 0 0 h0 = true ∧ 0 ≠ was 2 h0 ∧ (atEdge ((h0.region 0).fbUnit 2)).cfgW = false ∧ means 2 0
        h0 = .illegal 2 ∧ isZ 2 (was 2 h0) 0 (h0.region 0) = false)
      ∧ (Live 0 h2 ∧ comes 2 1 1 h2 = true ∧ 1 ≠ was 2 h2 ∧ (atEdge ((h2.region 0).fbUnit 2)).cfgW = false ∧ means 2 1
        h2 = .resync)
      ∧ (Live 0 q0 ∧ comes 7 4 4 q0 = true ∧ (atEdge ((q0.region 0).fbUnit 7)).cfgW = false ∧ isZ 7 (was 7 q0) 4
        (q0.region 0) = true ∧ bitsOf ((q0.region 0).reg (fbAt Reg.FB_UN_CFG 7)) 17 16 ≠ 0) := by
  refine ⟨?_, ?_, ?_, ?_, ?_, ?_, ?_, ?_, ?_, ?_⟩
  all_goals try simp only [Live]
  all_goals decide +kernel

end Loops

/-! ## Memory, DMA and links -/

namespace Banking

def B (f : Banks → Banks) (s : State) : State := R 0 (fun Q => { Q with banks := f Q.banks }) s
def p0 : State := G [(pwrKey 0, 0x80000000)] up
def p1 : State := B (fun d => { d with trans := [(0, some 2), (17, some 1)] }) (G [(pwrKey 0, 0x80000030), (pwrKey 17,
    0x80000031)] up)

/-- The hypotheses of BankPower. -/
theorem witness_BankPower :
    (Live 0 p0 ∧ BitVec.getLsbD ((p0.region 0).reg (pwrKey 0)) 31 = true ∧ bitsOf (1 : Word) 1 0 ≠ bitsOf ((p0.region
      0).reg (pwrKey 0)) 1 0)
      ∧ (Live 0 p1 ∧ 1 < 3 ∧ mapGet noneAt (p1.region 0).banks.trans 17 = some 1)
      ∧ (Live 0 p0 ∧ mapGet noneAt (p0.region 0).banks.trans 0 = none) := by
  refine ⟨?_, ?_, ?_⟩
  all_goals try simp only [Live]
  all_goals decide +kernel

def h0 : State := G [(Reg.MB_HRW_CFG.base, 0x80000100)] up
def h4 : State := G [(Reg.MB_HRW_CFG.base, 0x100)] up
def h1 : State := G [(pwrKey 0, 0x00000030)] h0
def h6 : State := G [(Reg.MB_ECC_LASTSBE.base, 77)] (B (fun d => { d with ecc := [(0, some .single)] }) h0)
def m0 : State := G [(regAt Reg.MB_MT_MASK 0 0, 0x00030012), (regAt Reg.MB_MT_MASK 2 0, 0x3), (pwrKey 1, 0x22),
    (Reg.MB_MT_CFG.base, 1)] up
def m1 : State := B (fun d => { d with march := some ⟨true, [4], false⟩ }) (G [(Reg.MB_MT_STAT.base, 0x80000004)] up)

/-- The hypotheses of HarrowAndMarch. -/
theorem witness_HarrowAndMarch :
    (Live 0 h4 ∧ (h4.region 0).bit Reg.MB_HRW_CFG.base 31 = false)
      ∧ (∃ u ∈ harrowRow (h1.region 0).banks.harrow, Live 0 h1 ∧ (h1.region 0).bit Reg.MB_HRW_CFG.base 31 = true ∧
        harrowReads u.1 (h1.region 0) = false)
      ∧ (∃ u ∈ harrowRow (h0.region 0).banks.harrow, Live 0 h0 ∧ (h0.region 0).bit Reg.MB_HRW_CFG.base 31 = true ∧
        harrowReads u.1 (h0.region 0) = true ∧ (∀ j < u.2, eccAt (h0.region 0) (placeCode u.1 + placeOff u.1 / 8 + j)
        = none))
      ∧ (∃ u ∈ harrowRow (h6.region 0).banks.harrow, Live 0 h6 ∧ (h6.region 0).bit Reg.MB_HRW_CFG.base 31 = true ∧
        harrowReads u.1 (h6.region 0) = true ∧ eccAt (h6.region 0) (placeCode u.1 + placeOff u.1 / 8) = some
        EccErr.single ∧ (∀ j < u.2, j ≠ 0 → eccAt (h6.region 0) (placeCode u.1 + placeOff u.1 / 8 + j) = none) ∧
        (h6.region 0).reg Reg.MB_ECC_LASTSBE.base ≠ BitVec.ofNat 32 (placeCode u.1 + placeOff u.1 / 8))
      ∧ (((m1.region 0).banks.march).isSome = true ∧ Live 0 m1)
      ∧ (Live 0 m0 ∧ (m0.region 0).banks.march = none ∧ List.filter (fun j => bankBit Reg.MB_MT_MASK j (m0.region 0))
        (List.range 80) = [1] ++ [4, 16, 17, 64, 65] ∧ (∀ j ∈ [1], bankCur j (m0.region 0) ≠ 0) ∧ bankCur 4 (m0.region
        0) = 0)
      ∧ (∃ u ∈ (m1.region 0).banks.march, Live 0 m1 ∧ (m1.region 0).banks.march = some
        { preserving := true, banks := 4 :: u.banks.tail, abort := false } ∧ ((decide (1 ≤ 0 ∧ 0 ≤ 5) && decide (0 <
        if 4 < 16 then 2048 else 1024)) = false))
      ∧ (∃ u ∈ (m1.region 0).banks.march, Live 0 m1 ∧ (m1.region 0).banks.march = some
        { preserving := true, banks := 4 :: u.banks.tail, abort := false } ∧ (true = true → (decide (1 ≤ 1 ∧ 1 ≤ 5) &&
        decide (0 < if 4 < 16 then 2048 else 1024)) = true) ∧ (∀ j ∈ u.banks.tail, j < 80 ∧ bankCur j (m1.region 0) =
        0) ∧ bankWant 4 (m1.region 0) = bankCur 4 (m1.region 0) ∧ (m1.region 0).faultQ.length < 16)
      ∧ (Live 0 h4 ∧ (h4.region 0).banks.march = none) := by
  refine ⟨?_, ?_, ?_, ?_, ?_, ?_, ?_, ?_, ?_⟩
  all_goals try simp only [Live]
  all_goals decide +kernel

def D (d : Machine.Dma) (l : List (Nat × Word)) : State := R 0 (fun Q => regs l { Q with dma := [(3, d)] }) up
def dd (w0 w1 w2 w3 : Word) (w6 : Word := 0) : List Word := [w0, w1, w2, w3, 0, 0, w6, 0]
def d0 : State := D dmaInit [(regAt Reg.DM_CH_DESC 3 0, 0x4000), (dmStat 3, 0)]
def d1 : State := D { dmaInit with phase := .fetch } [(regAt Reg.DM_CH_CUR 3 0, 0x4000), (dmStat 3, 0x80000000)]
def d3 : State := D { dmaInit with phase := .run, desc := dd 0x00004000 0x01004005 0x01008003 100, read := 33, bursts := [⟨33, List.replicate 33 5, none, [], false⟩] } [(dmStat 3, 0x80000000)]
def d5 : State := D { dmaInit with phase := .run, desc := dd 0x00000C00 0x01004005 0x01008003 100 0x00005020, read := 100, written := 60, wdr := true } [(dmStat 3, 0xC0000000)]
/-- A gather with one index read. -/
def d9 : State := D { dmaInit with phase := .run, desc := [0x80004000, 0x01004000, 0x01008003, 0x20, 0x01004104, 0x4, 0x0, 0], idx := [(0, 3)], read := 4 } [(dmStat 3, 0x80000000)]

/-- The hypotheses of DmaTransfers. -/
theorem witness_DmaTransfers :
    (MemoryUp 0 d0 ∧ dmRun 0 (d0.region 0) = false)
      ∧ (MemoryUp 0 d1 ∧ dmRun 3 (d1.region 0) = true)
      ∧ (MemoryUp 0 d1 ∧ ((d1.region 0).dmaCh 3).phase = DmaPhase.fetch)
      ∧ (MemoryUp 0 d3 ∧ ((d3.region 0).dmaCh 3).phase = DmaPhase.run ∧ ((d3.region 0).dmaCh 3).code = 0 ∧ dmAborting
        3 (d3.region 0) = false ∧ ((d3.region 0).dmaCh 3).read < dTotal ((d3.region 0).dmaCh 3) ∧ dType ((d3.region
        0).dmaCh 3) = 0 ∧ dSfix ((d3.region 0).dmaCh 3) = false ∧ ((d3.region 0).dmaCh 3).idx = [] ∧ 16777216 ≤ dSrc
        ((d3.region 0).dmaCh 3) ∧ dSrc ((d3.region 0).dmaCh 3) + dTotal ((d3.region 0).dmaCh 3) ≤ 17825792 ∧ dmReady 3
        (dBurstLen ((d3.region 0).dmaCh 3) (idxFun []) ((d3.region 0).dmaCh 3).read) (d3.region 0) = true)
      ∧ (MemoryUp 0 d9 ∧ ((d9.region 0).dmaCh 3).phase = DmaPhase.run ∧ ((d9.region 0).dmaCh 3).code = 0 ∧ dmAborting
        3 (d9.region 0) = false ∧ ((d9.region 0).dmaCh 3).read < dTotal ((d9.region 0).dmaCh 3) ∧ (dType ((d9.region
        0).dmaCh 3) = 2 ∨ dType ((d9.region 0).dmaCh 3) = 3) ∧ dKnown ((d9.region 0).dmaCh 3) ≤ dFirst ((d9.region
        0).dmaCh 3) ((d9.region 0).dmaCh 3).read ∧ 16777216 ≤ dIdxAt ((d9.region 0).dmaCh 3) (dKnown ((d9.region
        0).dmaCh 3)) ∧ dIdxAt ((d9.region 0).dmaCh 3) (dKnown ((d9.region 0).dmaCh 3)) + 4 * dIdxRun ((d9.region
        0).dmaCh 3) (dKnown ((d9.region 0).dmaCh 3)) ≤ 17825792 ∧ dmRoom 3 (4 * dIdxRun ((d9.region 0).dmaCh 3)
        (dKnown ((d9.region 0).dmaCh 3))) (d9.region 0) = true)
      ∧ (∃ u ∈ ((d3.region 0).dmaCh 3).bursts.head?, MemoryUp 0 d3 ∧ u.fail = none ∧ ((d3.region 0).dmaCh 3).wfail =
        false ∧ dType ((d3.region 0).dmaCh 3) = 0 ∧ dShuf ((d3.region 0).dmaCh 3) = 0 ∧ dDfix ((d3.region 0).dmaCh 3)
        = false ∧ u.data ≠ [] ∧ 16777216 ≤ dDst ((d3.region 0).dmaCh 3) ∧ dDst ((d3.region 0).dmaCh 3) + ((d3.region
        0).dmaCh 3).written + u.data.length ≤ 17825792)
      ∧ (MemoryUp 0 d5 ∧ ((d5.region 0).dmaCh 3).phase = DmaPhase.run ∧ ((d5.region 0).dmaCh 3).bursts = [] ∧
        ((d5.region 0).dmaCh 3).code = 0 ∧ dmAborting 3 (d5.region 0) = false ∧ ((d5.region 0).dmaCh 3).read = dTotal
        ((d5.region 0).dmaCh 3) ∧ (d5.region 0).ev.req.contains (208 + 3) = false) := by
  refine ⟨?_, ?_, ?_, ?_, ?_, ?_, ?_⟩
  all_goals try simp only [MemoryUp, Steady, Live]
  all_goals decide +kernel

end Banking

namespace Links

def hr0 : State := C [(Reg.HW_DB.base, 0x80000105), (Reg.HW_OFFCAP.base, 7)] up
def hr3 : State := H (fun h => { h with d3 := true }) hr0
def hr4 : State := G [(Reg.RG_TAGCFG.base, 0x00200200)] hr3

/-- The hypotheses of HostRequests. -/
theorem witness_HostRequests :
    (hr0.chip.d3 = false ∧ (∀ j < 1, 0 + 4 * j < 1048576 ∧ (chipReg (0 + 4 * j)).isSome = true))
      ∧ (1048576 % 4 = 0 ∧ hr0.chip.d3 = false ∧ bar0At 1048576 = none ∧ [1, 2, 3, 4].length = 4 * 1)
      ∧ (hr0.chip.d3 = false ∧ 0 < 1048576 ∧ (chipReg 0).isSome = true)
      ∧ (MemoryUp 0 hr0 ∧ hr0.chip.d3 = false ∧ 0 < (hr0.region 0).field Reg.RG_TAGCFG.base 31 23 ∧ 0 + 1 ≤ 1048576 ∧
        [1].length = 1)
      ∧ (8388608 / 1048576 = 8 + 0 ∧ (hr4.region 0).field Reg.RG_TAGCFG.base 31 23 = 0)
      ∧ (8388608 / 1048576 = 8 + 0 ∧ 0 < (hr3.region 0).field Reg.RG_TAGCFG.base 31 23 ∧ hr3.chip.d3 = true)
      ∧ (Live (bitsOf (hr0.chipReg Reg.HW_DB.base) 26 24) hr0)
      ∧ (0xB00000 % 4 = 0 ∧ hr0.chip.d3 = false ∧ bar0At 0xB00000 = some (some 3, 0) ∧ (hr0.region 3).inReset = true ∧
        0 < (hr0.region 3).field Reg.RG_TAGCFG.base 31 23)
      ∧ (Live 0 hr0 ∧ hr0.chip.d3 = false ∧ bar0At 0x800000 = some (some 0, 0) ∧ 0 < (hr0.region 0).field
        Reg.RG_TAGCFG.base 31 23 ∧ accessFails 0 (hr0.region 0) = false ∧ (regionRead (hr0.ctx 0) 0 (hr0.region
        0)).1.isSome = true) := by
  refine ⟨?_, ?_, ?_, ?_, ?_, ?_, ?_, ?_, ?_⟩
  all_goals try simp only [MemoryUp, Steady, Live]
  all_goals decide +kernel

/-- The hypotheses of RegisterWrites. -/
theorem witness_RegisterWrites :
    (Live 0 hr0 ∧ 0 < Reg.AD_SG_PER.n1 ∧ 0 < Reg.AD_SG_PER.n2)
      ∧ (0 < Reg.CH_GTRATE.n1 ∧ 0 < Reg.CH_GTRATE.n2)
      ∧ (Live 0 hr0 ∧ isNamed 0xFFFFC = false ∧ 0xFFFFC / 0x10000 ≠ 10)
      ∧ (chipReg 0xFFFFC = none) := by
  refine ⟨?_, ?_, ?_, ?_⟩
  all_goals try simp only [Live]
  all_goals decide +kernel

def mem (o : Nat) (ws : List Word) (s : State) : State := R 0 (fun Q =>
    { Q with banks := { Q.banks with rmem := mapWrite zeroByte Q.banks.rmem o (words4 ws) } }) s
def er (d : RegDef) (v : Word) : Nat × Word := (regAt d 1 0, v)
def en (cfg : Word) (l : List (Nat × Word)) (e : EthPort) : State :=
  C ([er Reg.EN_P_CFG cfg, er Reg.EN_P_RXRING 0x00008000, er Reg.EN_P_TXRING 0x00008200, er Reg.EN_P_MAC_L 0x04030201,
      er Reg.EN_P_MAC_H 0x0605,
    er Reg.EN_P_RXIDX 15, er Reg.EN_P_TXIDX 15, er Reg.EN_P_TXLAT 0x30, er Reg.EN_P_DB 0x80000123,
        er Reg.EN_P_STAT 0xE0000000] ++ l)
   (H (fun h => { h with eth := [(1, e)] }) (mem (0x8000 + 15 * 32) [0xB0000000, 0x9000,
       64] (mem (0x8200 + 15 * 32) [0xB8000044, 0x9010, 64] up)))
def fr (n : Nat) : List Byte := [1, 2, 3, 4, 5, 6] ++ List.replicate n 7
def f1 : EthFrame := ⟨fr 40, 0x123456, true, 0x2⟩
def z : EthPort := ⟨[], false, false, none⟩
def n0 : State := en 0x800005F2 [] z
def n2 : State := en 0x808005F2 [] ⟨[f1], true, false, none⟩
def n3 : State := en 0x80C005F2 [] ⟨[⟨List.replicate 32000 0, 0, false, 0⟩], true, false, none⟩
def n5 : State := mem (0x8200 + 15 * 32) [0x30000000] n0
def tx (l : Ticks) (o : Bool) : EthTx := ⟨[none], fr 20, l, o, true⟩
def n6 : State := en 0x800005F2 [er Reg.EN_P_DB 0] ⟨[], false, true, some (tx 0 false)⟩
def n8 : State := en 0x800005F2 [er Reg.EN_P_DB 0] ⟨[], false, true, some (tx (BitVec.ofNat 64 (now + 30000)) false)⟩
def n9 : State := en 0x800005F2 [er Reg.EN_P_DB 0] ⟨[], false, true, some (tx (BitVec.ofNat 64 (now + 100)) true)⟩
/-- Port 1 takes these bytes for its own. -/
def mine (data : List Byte) (s : State) : Bool :=
  decide (leNat (data.take 6) = (enReg Reg.EN_P_MAC_L 1 s).toNat + bitsOf (enReg Reg.EN_P_MAC_H 1 s) 15 0 * 2 ^ 32)
    || decide (leNat (data.take 6) = 2 ^ 48 - 1) || (data.getD 0 0).getLsbD 0 || (enReg Reg.EN_P_CFG 1 s).getLsbD 22
/-- Bytes that wait in the receive queue of port 1. -/
def waits (s : State) : Nat := ((s.ethPort 1).rx.map (fun f => f.bytes.length)).foldl (· + ·) 0
/-- The next descriptor of a ring of port 1. -/
def next (ring idx : RegDef) (s : State) : List Word :=
  descOf (enReg ring 1 s) (enReg idx 1 s).toNat (s.region (enRegion 1 s))
def nE : State := mem (0x8000 + 15 * 32) [0x30000000] n0

/-- The hypotheses of Ethernet. -/
theorem witness_Ethernet :
    ([1, 2, 3, 4].length = 4 ∧ enOn 0 n0 = false)
      ∧ ((n0.ethPort 0).rx = [])
      ∧ (∃ u ∈ (n8.ethPort 1).tx, (u.out = true ∨ u.launch ≠ 0 ∧ BitVec.toNat (n8.time.gtime + BitVec.signExtend 64
        (enReg Reg.EN_P_TXLAT 1 n8)) + 128 < u.launch.toNat))
      ∧ (∃ u ∈ (n6.ethPort 1).tx, u.out = false ∧ (u.launch = 0 ∨ u.launch.toNat ≤ BitVec.toNat (n6.time.gtime +
        BitVec.signExtend 64 (enReg Reg.EN_P_TXLAT 1 n6)) + 128))
      ∧ (enOn 1 n0 = true ∧ (n0.ethPort 1).tx = none ∧ BitVec.getLsbD (maskWrite (enConfig 0).mask (n0.chipReg (regAt
        (enConfig 0)  1 0)) 0) 31 = false)
      ∧ (mine (fr 20) n0 = true ∧ enOn 1 n0 = true ∧ (fr 20).length < 64 ∧ mine [8] n0 = false)
      ∧ (mine (fr 60 ++ [1, 2, 3, 4]) n3 = true ∧ enOn 1 n3 = true ∧ 64 ≤ (fr 60 ++ [1, 2, 3, 4]).length ∧ (fr 60 ++
        [1, 2, 3, 4]).length ≤ enMaxLen 1 n3 ∧ (enReg Reg.EN_P_CFG 1 n3).getLsbD 23 = true ∧ waits n3 + (fr
        1000).length > 32768)
      ∧ (mine (fr 60 ++ [1, 2, 3, 4]) n2 = true ∧ enOn 1 n2 = true ∧ (fr 60 ++ [1, 2, 3, 4]).length ≤ enMaxLen 1 n2 ∧
        (enReg Reg.EN_P_CFG 1 n2).getLsbD 23 = true ∧ waits n2 + (fr 60).length ≤ 32768 ∧ (n2.ethPort 1).rx ≠ [])
      ∧ (EthReady 1 Reg.EN_P_RXRING Reg.EN_P_RXIDX nE ∧ dOwn (next Reg.EN_P_RXRING Reg.EN_P_RXIDX nE) = false ∧
        (nE.ethPort 1).waiting = false)
      ∧ (EthReady 1 Reg.EN_P_RXRING Reg.EN_P_RXIDX n2 ∧ (n2.ethPort 1).rx = [f1] ∧ dOwn (next Reg.EN_P_RXRING
        Reg.EN_P_RXIDX n2) = true ∧ dVer (next Reg.EN_P_RXRING Reg.EN_P_RXIDX n2) = 3 ∧ dCap (next Reg.EN_P_RXRING
        Reg.EN_P_RXIDX n2) = 64 ∧ dBuf (next Reg.EN_P_RXRING Reg.EN_P_RXIDX n2) + 64 ≤ 0x100000 ∧ f1.bytes ≠ [] ∧
        f1.bytes.length ≤ 64)
      ∧ (EthReady 1 Reg.EN_P_TXRING Reg.EN_P_TXIDX n5 ∧ (n5.ethPort 1).tx = none ∧ dOwn (next Reg.EN_P_TXRING
        Reg.EN_P_TXIDX n5) = false)
      ∧ (EthReady 1 Reg.EN_P_TXRING Reg.EN_P_TXIDX n0 ∧ (n0.ethPort 1).tx = none ∧ dOwn (next Reg.EN_P_TXRING
        Reg.EN_P_TXIDX n0) = true ∧ dEop (next Reg.EN_P_TXRING Reg.EN_P_TXIDX n0) = true ∧ dVer (next Reg.EN_P_TXRING
        Reg.EN_P_TXIDX n0) = 3 ∧ dLen (next Reg.EN_P_TXRING Reg.EN_P_TXIDX n0) = 0x44 ∧ 0x44 ≤ enMaxLen 1 n0 - 4 ∧
        dBuf (next Reg.EN_P_TXRING Reg.EN_P_TXIDX n0) + 0x44 ≤ 0x100000)
      ∧ (EthReady 1 Reg.EN_P_TXRING Reg.EN_P_TXIDX n9 ∧ (n9.ethPort 1).tx = some (tx (BitVec.ofNat 64 (now + 100))
        true) ∧ dOwn (descOf (enReg Reg.EN_P_TXRING 1 n9) ((15 + 1) % ringLen (enReg Reg.EN_P_TXRING 1 n9)) (n9.region
        0)) = false ∧ (n9.ethPort 1).kicked = true ∧ (enReg Reg.EN_P_DB 1 n9).getLsbD 31 = false) := by
  refine ⟨?_, ?_, ?_, ?_, ?_, ?_, ?_, ?_, ?_, ?_, ?_, ?_, ?_⟩
  all_goals try simp only [EthReady, PortServed, MemoryUp, Steady, Live]
  all_goals decide +kernel

def xr (d : RegDef) (v : Word) : Nat × Word := (regAt d 2 0, v)
def xp : XlPort := ⟨3, 4, [], [(0, 5), (1, 1)], [], [], 0, false, 0, [], [], [], [], true, [0, 1, 2, 3], 900, 800⟩
def xl (st : Word) (e : XlPort) (l : List (Nat × Word) := []) : State :=
  C ([xr Reg.XL_P_CFG 0x80000E03, xr Reg.XL_P_STAT st, xr Reg.XL_P_LANESTAT 0xF0, (regAt Reg.XL_P_RXRING 2 0,
      0x00008000),
    (regAt Reg.XL_P_TXRING 2 0, 0x8200), (regAt Reg.XL_P_TXRING 2 1, 0x8200)] ++ l)
   (H (fun h => { h with xl := [(2, e)] }) (mem 0x8000 [0xB0000000, 0x9000, 256] (mem 0x8200 [0xB8000024, 0x9010,
       64] up)))
/-- A state at a later PCLK edge. -/
def late (n : Nat) (s : State) : State := { s with time := { s.time with pclk := n } }
def x0 : State := xl 0x84030003 xp
def x2 : State := xl 0x84030003 { xp with naked := true, unacked := 7, rx := [(1, [⟨[1, 2], 3, 4, false⟩])], give := [(1, 20)] }
def x3 : State := xl 0x84030003 { xp with rx := [(0, [⟨[1, 2], 3, 4, true⟩])], give := [] }
def x5 : State := xl 0x84010001 { xp with retry := [⟨2, 0, 1, [9, 9], 950⟩], episodes := 2 }
def x6 : State := xl 0x84030003 { xp with retry := [⟨4095, 1, 0, [9, 9], 950⟩, ⟨5, 1, 0, [9, 8], 960⟩], episodes := 6, credit := [(3, 7)] }
def x8 : State := late 8950 x5
def d0 : List Byte := xlFrame 0 1 4 0x1234 [1, 2, 3, 4, 5]
def d1 : List Byte := xlFrame 0 1 5 0x1234 [1, 2, 3, 4, 5]
def t4 : List Byte := xlFrame 4 0 5 0x1234 [1, 2, 3, 4, 5]
def ak (n : Nat) : List Byte := xlFrame 1 0 n 0x1234 []
def nk (n : Nat) : List Byte := xlFrame 2 0 n 0x1234 []
/-- The characters of a frame on the four lanes of a link. -/
def L4 (b : List Byte) : List (List LineChar) := stripe 4 (xlChars b)

/-- The hypotheses of XesumFrames. -/
theorem witness_XesumFrames :
    (0 < 1)
      ∧ (xlUp 0 x0 = false)
      ∧ (∃ u ∈ frameBytes (unstripe (L4 d1)), xlUp 2 x0 = true ∧ frameOk 2 u x0 = true ∧ hType (leNat (List.take 8 u))
        = 0 ∧ hSeq (leNat (List.take 8 u)) ≠ (x0.xlPort 2).expSeq)
      ∧ (∃ u ∈ frameBytes (unstripe (L4 d0)), xlUp 2 x2 = true ∧ frameOk 2 u x2 = true ∧ hType (leNat (List.take 8 u))
        = 0 ∧ hSeq (leNat (List.take 8 u)) = (x2.xlPort 2).expSeq ∧ bootByXesum x2 = false ∧ (x2.xlPort 2).rxOf (hVc
        (leNat (List.take 8 u))) ≠ [])
      ∧ (∃ u ∈ frameBytes (unstripe (L4 t4)), xlUp 2 x3 = true ∧ frameOk 2 u x3 = true ∧ hType (leNat (List.take 8 u))
        = 4 ∧ (x3.xlPort 2).rxOf 0 ≠ [])
      ∧ (∃ u ∈ frameBytes (unstripe (L4 t4)), xlUp 2 x0 = true ∧ frameOk 2 u x0 = true ∧ hType (leNat (List.take 8 u))
        = 4 ∧ (x0.xlPort 2).rxOf 0 = [] ∧ ringFits (xlRx 2 0 x0) = true ∧ PortServed (xlRegion 2 x0) x0 ∧ XlUsable
        (descOf (xlRx 2 0 x0) (mapGet zeroNat (x0.xlPort 2).rxIdx 0 % ringLen (xlRx 2 0 x0)) (x0.region (xlRegion 2
        x0))) ∧ List.take (hLen (leNat (List.take 8 u))) (List.drop 8 u) ≠ [])
      ∧ (∃ u ∈ ((x3.xlPort 2).rxOf 0).head?, xlOn 2 x3 = true ∧ (x3.xlPort 2).kicked = [] ∧ (x3.xlPort 2).rxOf 0 = [u]
        ∧ ringFits (xlRx 2 0 x3) = true ∧ PortServed (xlRegion 2 x3) x3 ∧ XlUsable (descOf (xlRx 2 0 x3) (mapGet
        zeroNat (x3.xlPort 2).rxIdx 0 % ringLen (xlRx 2 0 x3)) (x3.region (xlRegion 2 x3))) ∧ u.payload ≠ [] ∧
        u.payload.length ≤ 256)
      ∧ (xlUp 2 x0 = true ∧ xlOn 2 x0 = true ∧ (x0.xlPort 2).kicked = [] ∧ 0 < majorVcs (xlMajor 2 x0) ∧ ringFits
        (xlTx 2 0 x0) = true ∧ PortServed (xlRegion 2 x0) x0 ∧ (x0.xlPort 2).creditOf 0 ≠ 0 ∧ (x0.xlPort
        2).retry.length < 63 ∧ (∀ f ∈ (x0.xlPort 2).retry, f.vc ≠ 0) ∧ dOwn (descOf (xlTx 2 0 x0) (mapGet zeroNat
        (x0.xlPort 2).txIdx 0 % ringLen (xlTx 2 0 x0)) (x0.region (xlRegion 2 x0))) = true ∧ dVer (descOf (xlTx 2 0
        x0) (mapGet zeroNat (x0.xlPort 2).txIdx 0 % ringLen (xlTx 2 0 x0)) (x0.region (xlRegion 2 x0))) = 3 ∧ dLen
        (descOf (xlTx 2 0 x0) (mapGet zeroNat (x0.xlPort 2).txIdx 0 % ringLen (xlTx 2 0 x0)) (x0.region (xlRegion 2
        x0))) ≠ 0 ∧ dLen (descOf (xlTx 2 0 x0) (mapGet zeroNat (x0.xlPort 2).txIdx 0 % ringLen (xlTx 2 0 x0))
        (x0.region (xlRegion 2 x0))) ≤ majorPayload (xlMajor 2 x0) ∧ dBuf (descOf (xlTx 2 0 x0) (mapGet zeroNat
        (x0.xlPort 2).txIdx 0 % ringLen (xlTx 2 0 x0)) (x0.region (xlRegion 2 x0))) + dLen (descOf (xlTx 2 0 x0)
        (mapGet zeroNat (x0.xlPort 2).txIdx 0 % ringLen (xlTx 2 0 x0)) (x0.region (xlRegion 2 x0))) ≤ 1048576 ∧ dOwn
        (descOf (xlTx 2 0 x0) ((mapGet zeroNat (x0.xlPort 2).txIdx 0 % ringLen (xlTx 2 0 x0) + 1) % ringLen (xlTx 2 0
        x0)) (x0.region (xlRegion 2 x0))) = false ∧ (x0.xlPort 2).creditOf 0 ≠ 1)
      ∧ (∃ u ∈ frameBytes (unstripe (L4 (ak 1))), xlUp 2 x0 = true ∧ frameOk 2 u x0 = true ∧ (x0.xlPort 2).kicked = []
        ∧ hType (leNat (List.take 8 u)) = 1 ∧ (∀ f ∈ (x0.xlPort 2).retry.head?, ¬(hSeq (leNat (List.take 8 u)) + 4096
        - f.seq) % 4096 < 2048))
      ∧ (∃ u ∈ frameBytes (unstripe (L4 (ak 1))), ∃ v ∈ (x6.xlPort 2).retry.head?, xlUp 2 x6 = true ∧ frameOk 2 u x6 =
        true ∧ (x6.xlPort 2).kicked = [] ∧ hType (leNat (List.take 8 u)) = 1 ∧ (hSeq (leNat (List.take 8 u)) + 4096 -
        v.seq) % 4096 < 2048 ∧ (∀ g ∈ (x6.xlPort 2).retry.tail.head?, ¬(hSeq (leNat (List.take 8 u)) + 4096 - g.seq) %
        4096 < 2048) ∧ ringFits (xlTx 2 v.vc x6) = true ∧ v.idx < ringLen (xlTx 2 v.vc x6) ∧ MemoryUp (xlRegion 2 x6)
        x6)
      ∧ (∃ u ∈ frameBytes (unstripe (L4 (nk 1))), xlUp 2 x5 = true ∧ frameOk 2 u x5 = true ∧ (x5.xlPort 2).kicked = []
        ∧ hType (leNat (List.take 8 u)) = 2 ∧ (x5.xlPort 2).retry ≠ [] ∧ (∀ f ∈ (x5.xlPort 2).retry.head?, ¬(hSeq
        (leNat (List.take 8 u)) + 4096 - f.seq) % 4096 < 2048) ∧ (x5.xlPort 2).episodes + 1 < 8)
      ∧ (xlUp 2 x2 = true ∧ ((x2.xlPort 2).unacked ≠ 0 ∨ (x2.xlPort 2).give ≠ []))
      ∧ (∃ u ∈ (x8.xlPort 2).retry.head?, xlUp 2 x8 = true ∧ Max.max u.sent (x8.xlPort 2).heard + 8000 ≤ x8.time.pclk
        ∧ (x8.xlPort 2).episodes + 1 < 8)
      ∧ (xlUp 2 x0 = true ∧ xlCap 0 2 x0 = true ∧ xlMajor 2 x0 = 3)
      ∧ (xlUp 2 x0 = true ∧ frameBytes (unstripe []) = none)
      ∧ (xlUp 2 x0 = true ∧ frameBytes (unstripe (L4 (d0.set 3 9))) = some (d0.set 3 9) ∧ frameOk 2 (d0.set 3 9) x0 =
        false) := by
  refine ⟨?_, ?_, ?_, ?_, ?_, ?_, ?_, ?_, ?_, ?_, ?_, ?_, ?_, ?_, ?_, ?_⟩
  all_goals try simp only [MemoryUp, Steady, Live, XlUsable, PortServed]
  all_goals decide +kernel

def frame : TrainFrame := ⟨15, 0x300020300, 7⟩
def ln (n : Nat) : XlLane := ⟨n, some frame, [], []⟩
def x1 : State := xl 0x00030003 xp
/-- A link in training with two frames alike on all lanes but lane 0. -/
def r0 : State := xl 0x40000000 { xp with lanes := [(0, ln 1), (1, ln 2), (2, ln 2), (3, ln 2)], retry := [] }
/-- A link in training with lane 3 unlocked. -/
def r2 : State := xl 0x40000000 { xp with lanes := [(0, ln 5), (1, ln 1), (2, ln 2)] } [xr Reg.XL_P_LANESTAT 0x71]
def r5 : State := late 8000800 r0
def dn2 : State := late 80000800 (xl 0x20000000 xp)
def up1 : State := xl 0x84030003 { xp with lanes := [(0, ln 2), (1, ⟨2, some frame, List.replicate 7 (BitVec.ofNat 64 now), []⟩)] }
/-- The port of a state after a further frame alike on a lane. -/
def met (l : Nat) (s : State) : XlPort := (s.xlPort 2).setLane l { (s.xlPort 2).lane l with alike := ((s.xlPort 2).lane l).alike + 1 }

/-- The hypotheses of XesumTraining. -/
theorem witness_XesumTraining :
    (xlOn 0 x0 = false)
      ∧ (xlTraining 2 x0 = false)
      ∧ (xlTraining 2 r0 = true ∧ lockBits 2 r0 = 15)
      ∧ (xlTraining 2 r2 = true ∧ lockBits 2 r2 ≠ 15)
      ∧ (xlUp 0 x0 = false ∧ xlTraining 0 x0 = false)
      ∧ (xlTraining 2 r5 = true ∧ (r5.xlPort 2).began + 8000000 ≤ r5.time.pclk)
      ∧ (xlUp 2 dn2 = false ∧ xlTraining 2 dn2 = false ∧ xlOn 2 dn2 = true ∧ (dn2.xlPort 2).began + 80000000 ≤
        dn2.time.pclk)
      ∧ (xlOn 2 x1 = true ∧ xlUp 2 x1 = false)
      ∧ (xlOn 2 x0 = true ∧ xlUp 2 x0 = true ∧ (retiredBits 2 x0).testBit 2 = false ∧ (recent oneSecond x0.time.gtime
        ((x0.xlPort 2).lane 2).losses).length + 1 < 8 ∧ (recent (10 * oneSecond) x0.time.gtime ((x0.xlPort 2).lane
        2).errors).length + 1 < 32)
      ∧ (xlOn 2 up1 = true ∧ xlUp 2 up1 = true ∧ (up1.xlPort 2).used.contains 1 = true ∧ (retiredBits 2 up1).testBit 1
        = false ∧ 8 ≤ (recent oneSecond up1.time.gtime ((up1.xlPort 2).lane 1).losses).length + 1 ∧ (up1.region
        0).inReset = false ∧ (up1.region 0).faultQ.length < 16)
      ∧ (xlUp 2 r0 = false ∧ xlTraining 2 r0 = true ∧ 0 < 4 ∧ (lockBits 2 r0 ||| 2 ^ 2).testBit 0 = true ∧ ((met 2
        r0).lane 0).alike < 2)
      ∧ (xlUp 2 r0 = false ∧ xlTraining 2 r0 = true ∧ (r0.xlPort 2).retry = [] ∧ (r0.xlPort 2).kicked = [] ∧
        ((r0.xlPort 2).lane 0).last = some frame ∧ (∀ l, l < 4 → (lockBits 2 r0 ||| 2 ^ 0).testBit l = true → 2 ≤
        ((met 0 r0).lane l).alike ∧ ((met 0 r0).lane l).last = some frame)) := by
  refine ⟨?_, ?_, ?_, ?_, ?_, ?_, ?_, ?_, ?_, ?_, ?_, ?_⟩
  all_goals decide +kernel

def fq (t : List (Ticks × Nat)) (c : List (Ticks × Bool)) : FieldPin := ⟨t, c, ⟨false, 0⟩, none, none⟩
def fps (p : Nat) (f : FieldPin) (l : List (Nat × Word)) : State := R 0 (fun Q => regs l { Q with fp := [(p, f)] }) up
def p0 : State := fps 3 (fq [(5, 0), (6, 1)] [(0x1234567890, true)]) [(regAt Reg.FP_P_CFG 3 0, 0x100)]
def p1 : State := fps 3 (fq (List.replicate 8 (BitVec.ofNat 64 (now + 100), 3)) (List.replicate 4 (0x1234567890,
    false))) [(regAt Reg.FP_P_CFG 3 0, 0x300)]
/-- A capture that its edge had lost, and a timed action of the coming edge taken. -/
def p7 : State := fps 3 { fq [(5, 1)] (List.replicate 4 (0x1234567890, false)) with acted := some 2, lost := some (7, true) }
  [(regAt Reg.FP_P_CFG 3 0, 0x00050300), (regAt Reg.FP_P_CAPOVR 3 0, 4)]
/-- The levels of the input of pin 3 with `level` at the coming edge. -/
def pinLine (level : Bool) (s : State) : Line :=
  if ((s.region 0).fpin 3).line.sync = level then ((s.region 0).fpin 3).line
  else ⟨level, max (s.time.pclk + 1) ((s.region 0).fpin 3).line.since⟩

/-- The hypotheses of FieldPins. -/
theorem witness_FieldPins :
    (Live 0 p0 ∧ ((p0.region 0).fpin 3).tq.length < 8)
      ∧ (Live 0 p1 ∧ 8 ≤ ((p1.region 0).fpin 3).tq.length)
      ∧ (∃ u ∈ ((p1.region 0).fpin 3).tq.head?, Live 0 p1 ∧ ((p1.region 0).fpin 3).tq = (u.1, u.2) :: ((p1.region
        0).fpin 3).tq.tail ∧ (BitVec.toNat (p1.ctx 0).next.gt < u.1.toNat ∨ ((p1.region 0).fpin 3).acted ≠ none))
      ∧ (∃ u ∈ ((p0.region 0).fpin 3).tq.head?, Live 0 p0 ∧ ((p0.region 0).fpin 3).tq = (u.1, u.2) :: ((p0.region
        0).fpin 3).tq.tail ∧ u.1.toNat ≤ BitVec.toNat (p0.ctx 0).next.gt ∧ ((p0.region 0).fpin 3).acted = none)
      ∧ (Live 0 p0 ∧ ((p0.region 0).fpin 31).tq = [])
      ∧ (∃ u ∈ ((p0.region 0).fpin 3).cap.head?, Live 0 p0 ∧ ((p0.region 0).fpin 3).cap = (u.1, u.2) :: ((p0.region
        0).fpin 3).cap.tail ∧ ((p0.region 0).fpin 3).lost = none)
      ∧ (∃ u ∈ ((p7.region 0).fpin 3).cap.head?, (((p7.region 0).fpin 3).lost).isSome = true ∧ Live 0 p7 ∧ ((p7.region
        0).fpin 3).cap = (u.1, u.2) :: ((p7.region 0).fpin 3).cap.tail ∧ ((p7.region 0).fpin 3).cap.tail.length < 4)
      ∧ (Live 0 p0 ∧ ((p0.region 0).fpin 31).cap = [])
      ∧ (Live 0 p0 ∧ true ≠ (p0.region 0).bit Reg.FP_IN.base 3 ∧ (pinLine true p0).since + (p0.region 0).field (regAt
        Reg.FP_P_CFG 3 0) 23 16 ≤ p0.time.pclk + 1)
      ∧ (Live 0 p7 ∧ true ≠ (p7.region 0).bit Reg.FP_IN.base 3 ∧ p7.time.pclk + 1 < (pinLine true p7).since +
        (p7.region 0).field (regAt Reg.FP_P_CFG 3 0) 23 16) := by
  refine ⟨?_, ?_, ?_, ?_, ?_, ?_, ?_, ?_, ?_, ?_⟩
  all_goals try simp only [Live]
  all_goals decide +kernel

end Links

/-! ## Service, boot, journal and debug -/

namespace Service

def ring (w rp : Word) : State := G [(Reg.TL_RING.base, 0x80000100), (Reg.TL_WPTR.base, w), (Reg.TL_RPTR.base, rp)] up
def t0 : State := ring 3 0
def t1 : State := R 0 (fun Q => { Q with faultQ := [⟨3, 5, 7, 0x1234, 99⟩, ⟨1, 2, 3, 4, 5⟩] }) t0
def t2 : State := R 0 (fun Q => { Q with faultQ := List.replicate 16 ⟨1, 2, 3, 4, 5⟩ }) up
def t4 : State := ring 10 11

/-- The hypotheses of Telemetry. -/
theorem witness_Telemetry :
    (MemoryUp 0 up ∧ (up.region 0).faultQ.length < 16)
      ∧ (MemoryUp 0 t2 ∧ (t2.region 0).faultQ.length = 16)
      ∧ (MemoryUp 0 up ∧ ((up.region 0).faultQ = [] ∨ (up.region 0).bit Reg.TL_RING.base 31 = false ∨ tlMisfit
        (up.region 0) = true ∨ tlFree (up.region 0) = 0))
      ∧ ((t1.region 0).faultQ.head?.isSome = true ∧ MemoryUp 0 t1 ∧ (t1.region 0).bit Reg.TL_RING.base 31 = true ∧
        tlMisfit (t1.region 0) = false ∧ tlFree (t1.region 0) ≠ 0)
      ∧ (MemoryUp 0 up ∧ ((up.region 0).bit Reg.TL_RING.base 31 = false ∨ tlMisfit (up.region 0) = true))
      ∧ (MemoryUp 0 t4 ∧ (t4.region 0).faultQ = [] ∧ (t4.region 0).bit Reg.TL_RING.base 31 = true ∧ tlMisfit
        (t4.region 0) = false ∧ tlFree (t4.region 0) = 0)
      ∧ (MemoryUp 0 t0 ∧ (t0.region 0).faultQ = [] ∧ (t0.region 0).bit Reg.TL_RING.base 31 = true ∧ tlMisfit
        (t0.region 0) = false ∧ 10 ≤ tlFree (t0.region 0)) := by
  refine ⟨?_, ?_, ?_, ?_, ?_, ?_, ?_⟩
  all_goals try simp only [MemoryUp, Steady, Live]
  all_goals decide +kernel

/-- A sweep of the region's registers has come to its end; CF_COMMITTED is given. -/
def swept (cfg : Word) (committed : Word) : State :=
  R 0 (fun Q => { (Q.setReg Reg.CF_CFG.base cfg).setReg Reg.CF_COMMITTED.base committed with sweep := true }) up
def bad2 : State := G [(Reg.CF_STAT.base, 3)] up

theorem committed_not_covered : Reg.CF_COMMITTED.base ∉ coveredAddrs := by
  have hd : ∀ d ∈ coveredDefs, Reg.CF_COMMITTED.base < d.base
      ∨ d.base + d.s1 * (d.n1 - 1) + d.s2 * (d.n2 - 1) < Reg.CF_COMMITTED.base := by
    decide +kernel
  unfold coveredAddrs
  rw [List.mem_mergeSort]
  simp only [List.mem_flatMap, List.mem_map, List.mem_range, not_exists, not_and]
  intro d h i hi j hj e
  have h1 := Nat.mul_le_mul_left d.s1 (Nat.le_sub_one_of_lt hi)
  have h2 := Nat.mul_le_mul_left d.s2 (Nat.le_sub_one_of_lt hj)
  unfold regAt at e
  have := hd d h
  omega

theorem swept_region (cfg c : Word) : (swept cfg c).region 0
    = { ((up.region 0).setReg Reg.CF_CFG.base cfg).setReg Reg.CF_COMMITTED.base c with sweep := true } :=
  State.region_setRegion _ _ _

theorem swept_regs (cfg c : Word) (a : Nat) : ((swept cfg c).region 0).reg a
    = mapGet regionDefault (mapSet regionDefault ((up.region 0).setReg Reg.CF_CFG.base cfg).regs Reg.CF_COMMITTED.base c) a := by
  rw [swept_region]; rfl

theorem swept_committed (cfg c : Word) : ((swept cfg c).region 0).reg Reg.CF_COMMITTED.base = c := by
  rw [swept_regs, mapGet_mapSet_self]

theorem swept_other (cfg c : Word) {a : Nat} (h : a ≠ Reg.CF_COMMITTED.base) :
    ((swept cfg c).region 0).reg a = ((up.region 0).setReg Reg.CF_CFG.base cfg).reg a := by
  rw [swept_regs, mapGet_mapSet_of_ne _ _ h]; rfl

/-- The check value of `swept`, whatever stands in CF_COMMITTED. -/
theorem checkValue_swept (cfg c : Word) : checkValue ((swept cfg c).region 0) = checkValue ((up.region 0).setReg Reg.CF_CFG.base cfg) := by
  have h : ∀ l : List Nat, Reg.CF_COMMITTED.base ∉ l → l.flatMap (fun a =>
      leBytes 4 (((swept cfg c).region 0).reg a).toNat)
      = l.flatMap (fun a => leBytes 4 (((up.region 0).setReg Reg.CF_CFG.base cfg).reg a).toNat) := by
    intro l hl
    induction l with
    | nil => rfl
    | cons a l ih =>
      rw [List.mem_cons, not_or] at hl
      rw [List.flatMap_cons, List.flatMap_cons, ih hl.2, swept_other cfg c (Ne.symm hl.1)]
  exact congrArg crc32c (h _ committed_not_covered)

theorem swept_live (cfg c : Word) (h : ((up.region 0).setReg Reg.CF_CFG.base cfg).reg Reg.PM_STAT.base = 0) : Live 0 (swept cfg c) :=
  ⟨by rw [swept_region]; show (up.region 0).inReset = false; decide +kernel,
      by unfold pmState Region.field; rw [swept_other cfg c (by decide), h]; decide⟩

/-- The hypotheses of ConfigurationCheck. -/
theorem witness_ConfigurationCheck :
    (Live 0 up ∧ (up.region 0).sweep = false)
      ∧ (Live 0 bad2 ∧ (bad2.region 0).bit Reg.CF_STAT.base 1 = true)
      ∧ (Live 0 up ∧ (up.region 0).bit Reg.CF_STAT.base 1 = false)
      ∧ (∃ c, (Live 0 (swept 0xC0000000 c) ∧ ((swept 0xC0000000 c).region 0).sweep = true) ∧ checkValue ((swept
        0xC0000000 c).region 0) = ((swept 0xC0000000 c).region 0).reg Reg.CF_COMMITTED.base)
      ∧ (∃ c, (Live 0 (swept 0x80000000 c) ∧ ((swept 0x80000000 c).region 0).sweep = true ∧ ((swept 0x80000000
        c).region 0).bit Reg.CF_CFG.base 30 = false ∧ ((swept 0x80000000 c).region 0).faultQ.length < 16) ∧ checkValue
        ((swept 0x80000000 c).region 0) ≠ ((swept 0x80000000 c).region 0).reg Reg.CF_COMMITTED.base)
      ∧ (∃ c, (Live 0 (swept 0xC0000000 c) ∧ ((swept 0xC0000000 c).region 0).sweep = true ∧ ((swept 0xC0000000
        c).region 0).bit Reg.CF_CFG.base 30 = true ∧ cfMismatch ((swept 0xC0000000 c).region 0) = false) ∧ checkValue
        ((swept 0xC0000000 c).region 0) ≠ ((swept 0xC0000000 c).region 0).reg Reg.CF_COMMITTED.base) := by
  refine ⟨?_, ?_, ?_, ?_, ?_, ?_⟩
  · simp only [Live]; decide +kernel
  · simp only [Live]; decide +kernel
  · simp only [Live]; decide +kernel
  · exact ⟨checkValue ((up.region 0).setReg Reg.CF_CFG.base 0xC0000000), ⟨swept_live _ _ (by decide +kernel),
      by rw [swept_region]⟩, by rw [checkValue_swept, swept_committed]⟩
  · exact ⟨checkValue ((up.region 0).setReg Reg.CF_CFG.base 0x80000000) + 1, ⟨swept_live _ _ (by decide +kernel),
      by rw [swept_region], by unfold Region.bit; rw [swept_other _ _ (by decide)]; decide +kernel,
      by rw [swept_region]; show (up.region 0).faultQ.length < 16; decide +kernel⟩,
      by rw [checkValue_swept, swept_committed]; bv_omega⟩
  · exact ⟨checkValue ((up.region 0).setReg Reg.CF_CFG.base 0xC0000000) + 1, ⟨swept_live _ _ (by decide +kernel),
      by rw [swept_region], by unfold Region.bit; rw [swept_other _ _ (by decide)]; decide +kernel,
      by unfold cfMismatch Region.bit; rw [swept_other _ _ (by decide)]; decide +kernel⟩,
      by rw [checkValue_swept, swept_committed]; bv_omega⟩

def tk0 : State := R 0 (fun Q =>
  (regs [(blk Reg.BK_CGOLD 0 3, 0x8000), (blk Reg.BK_PROT 0, 8), (blk Reg.BK_TKSTAT 0, 0xA5)]
    { Q with banks := { Q.banks with rmem := mapWrite zeroByte Q.banks.rmem 0x8000 (words4 [0x4D594743, 1, 0x7000, 0]) } }).onCell 3
    (fun k => { k with halted := false, reachErr := 2 })) up
def rs0 : State := R 0 (fun Q => (Q.setTakeover 0 ⟨.load, 3, 15, []⟩).setReg (blk Reg.BK_LDSTAT 0) 0xF0) up
/-- A slot that holds a record of zeros but for its length, its complemented sequence number and its CRC. -/
def blank : FMap Byte := [(0x1005, 3), (0x10FC, 0xFF), (0x10FD, 0xFF), (0x10FE, 0xFF), (0x10FF, 0xFF)]
def rs2 (c : Word) : State := R 0 (fun Q => { Q.setReg (blk Reg.BK_CKPT 0 3) 0x1000 with
  banks := { Q.banks with bmem := mapWrite zeroByte blank 0x10F8 (leBytes 4 c.toNat) } }) rs0
def fr0 : State := R 0 (fun Q => Q.onCell 15 (fun k => { k with awaiting := true })) rs0

theorem drop_mapRead (m : FMap Byte) : ∀ a n k, a ≤ n → (mapRead zeroByte m k n).drop a = mapRead zeroByte m (k + a) (n - a)
  | 0, _, _, _ => rfl
  | a + 1, 0, _, h => absurd h (by omega)
  | a + 1, n + 1, k, h => by
    rw [mapRead, List.drop_succ_cons, drop_mapRead m a n (k + 1) (by omega)]
    congr 1 <;> omega

theorem take_mapRead (m : FMap Byte) : ∀ b n k, b ≤ n → (mapRead zeroByte m k n).take b = mapRead zeroByte m k b
  | 0, _, _, _ => rfl
  | b + 1, 0, _, h => absurd h (by omega)
  | b + 1, n + 1, k, h => by rw [mapRead, List.take_succ_cons, take_mapRead m b n (k + 1) (by omega), ← mapRead]

/-- A word of a read. -/
theorem wordAt_mapRead (m : FMap Byte) (k n o : Nat) (h : o + 4 ≤ n) :
    wordAt (mapRead zeroByte m k n) o = BitVec.ofNat 32 (leNat (mapRead zeroByte m (k + o) 4)) := by
  rw [wordAt, drop_mapRead m o n k (by omega), take_mapRead m 4 _ _ (by omega)]

/-- The bytes of block memory there. -/
def blankOf (c : Word) : FMap Byte := mapWrite zeroByte blank 0x10F8 (leBytes 4 c.toNat)

theorem rs2_region (c : Word) : (rs2 c).region 0 = { (rs0.region 0).setReg (blk Reg.BK_CKPT 0 3) 0x1000 with
    banks := { (rs0.region 0).banks with bmem := blankOf c } } := State.region_setRegion _ _ _

/-- A read in service of a region without errors. -/
theorem memRead_clean (x : Ctx) {p : Place} {n : Nat} {Q : Region} (hr : Q.inReset = false) (hb : placeInReset p Q = false)
    (hs : ∀ b ∈ placeBanks p n, bankServes b Q = true) (he : Q.banks.ecc = []) : memRead x p n Q = (.ok (rawRead p n Q),
        Q) := by
  simp [memRead, hr, hb, placeServed_of hs, eccTouchN_clean _ he]

theorem rs2_read (x : Ctx) (c : Word) (o n : Nat) (h : ∀ b ∈ placeBanks (.bmem 0 o) n, b = 16) :
    memRead x (.bmem 0 o) n ((rs2 c).region 0) = (.ok (mapRead zeroByte (blankOf c) o n), (rs2 c).region 0) := by
  have hr : ((rs2 c).region 0).inReset = false := by
    rw [rs2_region]; show (rs0.region 0).inReset = false; decide +kernel
  have hb : placeInReset (.bmem 0 o) ((rs2 c).region 0) = false := by
    rw [rs2_region]; show (rs0.region 0).blockReset.contains 0 = false; decide +kernel
  have hs : bankServes 16 ((rs2 c).region 0) = true := by
    rw [rs2_region]; show bankServes 16 ((rs0.region 0).setReg (blk Reg.BK_CKPT 0 3) 0x1000) = true; decide +kernel
  have he : ((rs2 c).region 0).banks.ecc = [] := by
    rw [rs2_region]; show (rs0.region 0).banks.ecc = []; decide +kernel
  rw [memRead_clean x hr hb (fun b hm => h b hm ▸ hs) he]
  have : rawRead (.bmem 0 o) n ((rs2 c).region 0) = mapRead zeroByte (blankOf c) o n := by
    rw [rs2_region]; simp [rawRead]
  rw [this]

/-- The CRC of the record. -/
def blankCrc : Word := crc32c (mapRead zeroByte blank 0x1000 0xF8 ++ mapRead zeroByte blank 0x1100 0x200)

theorem blankOf_read (c : Word) (k n : Nat) (h : k + n ≤ 0x10F8
    ∨ 0x10FC ≤ k) : mapRead zeroByte (blankOf c) k n = mapRead zeroByte blank k n :=
  mapRead_mapWrite_of_disjoint zeroByte _ blank 0x10F8 k n h

theorem rs2_slot0 (x : Ctx) : slotRecord x 0 0x1000 ((rs2 blankCrc).region 0) =
    (some (mapRead zeroByte (blankOf blankCrc) 0x1000 0x100 ++ mapRead zeroByte blank 0x1100 0x200),
        (rs2 blankCrc).region 0) := by
  have hn : wordAt (mapRead zeroByte (blankOf blankCrc) 0x1000 0x100) 4 = 0x300 := by
    rw [wordAt_mapRead _ _ _ _ (by decide), blankOf_read _ _ _ (by decide)]; decide +kernel
  have h0 : wordAt (mapRead zeroByte (blankOf blankCrc) 0x1000 0x100) 0 = 0 := by
    rw [wordAt_mapRead _ _ _ _ (by decide), blankOf_read _ _ _ (by decide)]; decide +kernel
  have hc : wordAt (mapRead zeroByte (blankOf blankCrc) 0x1000 0x100) 0xFC = ~~~ 0 := by
    rw [wordAt_mapRead _ _ _ _ (by decide), blankOf_read _ _ _ (by decide)]; decide +kernel
  have hw : wordAt (mapRead zeroByte (blankOf blankCrc) 0x1000 0x100) 0xF8 = blankCrc := by
    rw [wordAt_mapRead _ _ _ _ (by decide)]
    exact (congrArg (fun l => BitVec.ofNat 32 (leNat l)) (mapRead_mapWrite_self zeroByte (leBytes 4 blankCrc.toNat) blank 0x10F8)).trans
      (leNat_leBytes blankCrc)
  have ht : (mapRead zeroByte (blankOf blankCrc) 0x1000 0x100).take 0xF8 = mapRead zeroByte blank 0x1000 0xF8 := by
    rw [take_mapRead _ _ _ _ (by decide), blankOf_read _ _ _ (by decide)]
  unfold slotRecord
  rw [if_neg (by decide), rs2_read x _ _ _ (by decide)]
  dsimp only
  rw [hn, if_neg (by decide), rs2_read x _ _ _ (by decide)]
  dsimp only
  rw [show (0x300 : Word).toNat - 0x100 = 0x200 from rfl, blankOf_read _ (0x1000 + 0x100) 0x200 (by decide),
    if_pos ⟨by rw [hc, h0], by rw [hw, ht, blankCrc]⟩]

theorem rs2_slot1 (x : Ctx) : slotRecord x 0 0x1300 ((rs2 blankCrc).region 0) = (none, (rs2 blankCrc).region 0) := by
  unfold slotRecord
  rw [if_neg (by decide), rs2_read x _ _ _ (by decide)]
  dsimp only
  rw [wordAt_mapRead _ _ _ _ (by decide), blankOf_read _ _ _ (by decide), if_pos (.inl (by decide +kernel))]

theorem rs2_ckpt (c : Word) : ((rs2 c).region 0).field (blk Reg.BK_CKPT 0 3) 15 8 = 0x10 := by
  rw [rs2_region]
  show ((rs0.region 0).setReg (blk Reg.BK_CKPT 0 3) 0x1000).field (blk Reg.BK_CKPT 0 3) 15 8 = 0x10
  decide +kernel

theorem rs2_newest (x : Ctx) (c : Word) (rec : List Byte)
    (h0 : slotRecord x 0 0x1000 ((rs2 c).region 0) = (some rec, (rs2 c).region 0))
    (h1 : slotRecord x 0 0x1300 ((rs2 c).region 0) = (none, (rs2 c).region 0)) :
    newestRecord x 0 3 0 ((rs2 c).region 0) = (some (0, rec), (rs2 c).region 0) := by
  have e0 : slotAt 0 3 0 0 ((rs2 c).region 0) = 0x1000 := by rw [slotAt, rs2_ckpt]
  have e1 : slotAt 0 3 1 0 ((rs2 c).region 0) = 0x1300 := by rw [slotAt, rs2_ckpt]
  unfold newestRecord
  rw [e0, h0]
  dsimp only
  rw [e1, h1]

/-- `rs2` but for the CRC of its record. -/
def rs2Else : Region := (rs0.region 0).setReg (blk Reg.BK_CKPT 0 3) 0x1000

theorem rs2_rest (c : Word) : Live 0 (rs2 c) ∧ ((rs2 c).region 0).takeover 0 = ⟨.load, 3, 15, []⟩
    ∧ ((rs2 c).region 0).bit (blk Reg.BK_LDSTAT 0) 0 = false ∧ ((rs2 c).region 0).field (blk Reg.BK_LDSTAT 0) 7 4 = 15
    ∧ ((rs2 c).region 0).faultQ.length < 16 ∧ loadCode 0 ((rs2 c).region 0) = 0
        ∧ mapWf regionDefault ((rs2 c).region 0).regs = true := by
  unfold Live
  rw [rs2_region]
  show ((rs2Else.inReset = false ∧ pmState rs2Else = 0) ∧ rs2Else.takeover 0 = ⟨.load, 3, 15, []⟩
    ∧ rs2Else.bit (blk Reg.BK_LDSTAT 0) 0 = false ∧ rs2Else.field (blk Reg.BK_LDSTAT 0) 7 4 = 15
    ∧ rs2Else.faultQ.length < 16 ∧ loadCode 0 rs2Else = 0 ∧ mapWf regionDefault rs2Else.regs = true)
  decide +kernel

/-- The hypotheses of Takeover. -/
theorem witness_Takeover :
    (MemoryUp 0 up ∧ (up.region 0).takeover 0 =
      { phase := TkPhase.idle, src := ((up.region 0).takeover 0).src, dst := ((up.region 0).takeover 0).dst, queue := [] }
      ∧ 3 < 16 ∧ (∀ j < 16, (8 : Word).getLsbD j = decide (j = 3)) ∧ (up.region 0).blockReset.contains 0 = false ∧
      reachErrors 0 (up.region 0) = [] ∧ isRetired (16 * 0 + 3) (up.region 0) = false ∧ (up.region 0).faultQ.length +
      2 ≤ 16 ∧ (up.region 0).reg (blk Reg.BK_OWN 0 3) = 0 ∧ blkBit Reg.BK_PROT 0 3 (up.region 0) = false)
      ∧ (MemoryUp 0 tk0 ∧ (tk0.region 0).takeover 0 =
        { phase := TkPhase.idle, src := ((tk0.region 0).takeover 0).src, dst := ((tk0.region 0).takeover 0).dst, queue := [] }
        ∧ 3 < 16 ∧ reachErrors 0 (tk0.region 0) = [16 * 0 + 3] ∧ (tk0.region 0).faultQ.length + 2 ≤ 16 ∧ (tk0.region
        0).reg (blk Reg.BK_OWN 0 3) = 0 ∧ 15 < 16 ∧ 15 ≠ 3 ∧ blkBit Reg.BK_PROT 0 3 (tk0.region 0) = true ∧ available
        0 15 (tk0.region 0) = true ∧ (∀ g < 15, g ≠ 3 → available 0 g (tk0.region 0) = false) ∧ (tk0.region 0).bit
        (blk Reg.BK_LDSTAT 0) 0 = false ∧ HeaderGood (goldBase 0 3 (tk0.region 0)) (tk0.region 0))
      ∧ (Live 0 rs0 ∧ 3 < 16 ∧ 15 < 16 ∧ (rs0.region 0).takeover 0 =
        { phase := TkPhase.load, src := 3, dst := 15, queue := [] } ∧ (rs0.region 0).bit (blk Reg.BK_LDSTAT 0) 0 =
        false ∧ (rs0.region 0).field (blk Reg.BK_LDSTAT 0) 7 4 = 15 ∧ (rs0.region 0).faultQ.length < 16 ∧ loadCode 0
        (rs0.region 0) = 0 ∧ newestRecord (rs0.ctx 0)  0 3 (ckLen ((rs0.region 0).cell (16 * 0 + 3))) (rs0.region 0) =
        (none, rs0.region 0))
      ∧ (Live 0 up ∧ 0 < 16 ∧ ((up.region 0).takeover 0).phase = TkPhase.idle)
      ∧ (Live 0 up ∧ 0 < 16 ∧ (∀ j < 16, ((up.region 0).cell (16 * 0 + j)).awaiting = false))
      ∧ (Live 0 fr0 ∧ 0 < 16 ∧ 15 < 16 ∧ ((fr0.region 0).cell (16 * 0 + 15)).awaiting = true ∧ ((fr0.region 0).cell
        (16 * 0 + 15)).inReset = false ∧ (∀ j < 15, ((fr0.region 0).cell (16 * 0 + j)).awaiting = false))
      ∧ (∃ c rec, (Live 0 (rs2 c) ∧ ((rs2 c).region 0).takeover 0 = ⟨.load, 3, 15, []⟩ ∧ ((rs2 c).region 0).bit (blk
        Reg.BK_LDSTAT 0) 0 = false ∧ ((rs2 c).region 0).field (blk Reg.BK_LDSTAT 0) 7 4 = 15 ∧ ((rs2 c).region
        0).faultQ.length < 16 ∧ loadCode 0 ((rs2 c).region 0) = 0 ∧ mapWf regionDefault ((rs2 c).region 0).regs =
        true) ∧ newestRecord ((rs2 c).ctx 0) 0 3 0 ((rs2 c).region 0) = (some (0, rec), (rs2 c).region 0)) := by
  refine ⟨?_, ?_, ?_, ?_, ?_, ?_, ?_⟩
  · simp only [MemoryUp, Steady, Live]; decide +kernel
  · simp only [MemoryUp, Steady, Live, HeaderGood]; decide +kernel
  · simp only [Live]; decide +kernel
  · simp only [Live]; decide +kernel
  · simp only [Live]; decide +kernel
  · simp only [Live]; decide +kernel
  · exact ⟨blankCrc, _, rs2_rest _, rs2_newest _ _ _ (rs2_slot0 _) (rs2_slot1 _)⟩

end Service

namespace Boots

def B (f : Machine.Boot → Machine.Boot) (s : State) : State := s.onBoot f
def run1 : Running := ⟨true, List.replicate 48 3⟩
def b0 : State := C [(Reg.BT_STAT.base, 0x00000A2A), (Reg.BT_XADDR.base, 0x4000), (Reg.BT_LMSNEXT.base, 5)]
  (B (fun b => { b with running := some run1, lmsLimit := 16, otp := mapWrite zeroByte [] 0x160 [3, 0, 0] }) up)
def b1 : State := C [(Reg.BT_STAT.base, 0x02000A2A)] b0
def b3 : State := C [(Reg.JN_STAT.base, 0x40000000)] b0
def b5 : State := B (fun b => { b with blowing := true, mirror := 5 }) b0
def b7 : State := C [(Reg.BT_XADDR.base, 0xFFFE0)] b0
def b8 : State := C [(Reg.BT_LMSNEXT.base, 1048576)] b0
def b9 : State := B (fun b => { b with challenge := true })
  (R 0 (fun Q => { Q with banks := { Q.banks with rmem := mapWrite zeroByte [] (0x4000 + 320) [5] } }) b0)

def prov2 : State := B (fun b => { b with otp := mapWrite zeroByte b.otp 0x168 [0x55] }) b0

/-- The hypotheses of BootCommands. -/
theorem witness_BootCommands :
    (btBusy b5.chip = true)
      ∧ (up.chip.boot.blowing = false)
      ∧ (b5.chip.boot.blowing = true ∧ 2 < 64 ∧ otpBit b5.chip.boot 352 2 = false ∧ (∀ j < 2, otpBit b5.chip.boot 352
        j = true))
      ∧ (btBusy up.chip = false ∧ up.chip.boot.running = none)
      ∧ (b1.chip.boot.running.isSome = true ∧ btBusy b1.chip = false ∧ (trialRun b1.chip = true ∨ bitsOf (btStat
        b1.chip) 15 8 ≤ floorOf b1.chip.boot))
      ∧ (b3.chip.boot.running.isSome = true ∧ btBusy b3.chip = false ∧ trialRun b3.chip = false ∧ floorOf b3.chip.boot
        < bitsOf (btStat b3.chip) 15 8 ∧ jnBit 30 b3.chip = true)
      ∧ (b0.chip.boot.running.isSome = true ∧ (jnPlace 7 (words4 [0, BitVec.ofNat 32 (bitsOf (btStat b0.chip) 15 8)])
        b0.chip).isSome = true ∧ btBusy b0.chip = false ∧ trialRun b0.chip = false ∧ floorOf b0.chip.boot < bitsOf
        (btStat b0.chip) 15 8 ∧ jnBit 30 b0.chip = false)
      ∧ (btBusy prov2.chip = false ∧ (∀ k < 4, slotProvisioned prov2.chip.boot k = true))
      ∧ (btBusy b9.chip = false ∧ ((xaddr b9).1, (xaddr b9).2) = xaddr b9 ∧ MemoryUp (xaddr b9).1 b9 ∧ leNat (rawRead
        (Place.rmem ((xaddr b9).2 + 320)) 4 (b9.region (xaddr b9).1)) ≠ 0 ∧ (xaddr b9).2 + 324 + leNat (rawRead
        (Place.rmem ((xaddr b9).2 + 320)) 4 (b9.region (xaddr b9).1)) ≤ 1048576)
      ∧ (btBusy b7.chip = false ∧ ((xaddr b7).1, (xaddr b7).2) = xaddr b7 ∧ MemoryUp (xaddr b7).1 b7 ∧ 1048576 <
        (xaddr b7).2 + 2048)
      ∧ (btBusy b8.chip = false ∧ ((xaddr b8).1, (xaddr b8).2) = xaddr b8 ∧ MemoryUp (xaddr b8).1 b8 ∧ (xaddr b8).2 +
        2048 ≤ 1048576 ∧ lmsNext b8 = 1048576)
      ∧ (btBusy b0.chip = false ∧ ((xaddr b0).1, (xaddr b0).2) = xaddr b0 ∧ MemoryUp (xaddr b0).1 b0 ∧ (xaddr b0).2 +
        2048 ≤ 1048576 ∧ lmsNext b0 ≠ 1048576 ∧ lmsNext b0 ≠ b0.chip.boot.lmsLimit ∧ (attestReport (rawRead
        (Place.rmem (xaddr b0).2) 48 (b0.region (xaddr b0).1)) (lmsNext b0) b0).length = 160) := by
  refine ⟨?_, ?_, ?_, ?_, ?_, ?_, ?_, ?_, ?_, ?_, ?_, ?_⟩
  all_goals try simp only [MemoryUp, Steady, Live]
  all_goals decide +kernel

/-- The hypotheses of KeySlots. -/
theorem witness_KeySlots :
    (btBusy up.chip = false ∧ (¬(up.chip.boot.running ≠ none ∧ (bitsOf (btStat up.chip) 7 4 ≠ 15 ∨ ∀ k < 4,
      slotProvisioned up.chip.boot k = false))))
      ∧ (btBusy b0.chip = false ∧ ((xaddr b0).1, (xaddr b0).2) = xaddr b0 ∧ MemoryUp (xaddr b0).1 b0 ∧
        b0.chip.boot.running ≠ none ∧ (bitsOf (btStat b0.chip) 7 4 ≠ 15 ∨ ∀ k < 4, slotProvisioned b0.chip.boot k =
        false) ∧ 0 < 4 ∧ slotProvisioned b0.chip.boot 0 = false ∧ (∀ j < 0, slotProvisioned b0.chip.boot j = true) ∧
        (xaddr b0).2 + 64 ≤ 1048576) := by
  refine ⟨?_, ?_⟩
  all_goals try simp only [MemoryUp, Steady, Live]
  all_goals decide +kernel

def six : State := H (fun h => { h with rel := 6 }) (B (fun b => { b with pins := 0 }) up)
def host0 : State := B (fun b => { b with pins := 1, image := [9, 9] }) six
def uart0 : State := B (fun b => { b with pins := 3 }) six
def s0t : State := B (fun b => { b with trialB := some true }) six
def s1 : State := B (fun b => { b with stage := 1 }) six
def s2 : State := B (fun b => { b with stage := 2, activeB := true }) six
def r1 : State := B (fun b => { b with pins := 1, image := words4 [0x11111111] ++ List.replicate 300 0 }) six

def to0 : State := { B (fun b => { b with dataAt := 10 }) host0 with time := { up.time with pclk := 800000011 } }

/-- The hypotheses of BootDelivery. -/
theorem witness_BootDelivery :
    ([1, 2, 3, 4].length = 4 ∧ 1 ≤ [1].length ∧ [1].length ≤ 1024 ∧ uartBoot up.chip = false)
      ∧ ((words4 [crc32c [1]]).length = 4 ∧ 1 ≤ [1].length ∧ [1].length ≤ 1024 ∧ uartBoot uart0.chip = true ∧ words4
        [crc32c [1]] = words4 [crc32c [1]])
      ∧ ([1, 2, 3, 4].length = 4 ∧ 1 ≤ [1].length ∧ [1].length ≤ 1024 ∧ uartBoot uart0.chip = true ∧ words4 [crc32c
        [1]] ≠ [1, 2, 3, 4])
      ∧ (to0.chip.rel = 6 ∧ (to0.chip.boot.pins ≠ 0 ∨ to0.chip.boot.stage = 3) ∧ to0.chip.boot.image ≠ [] ∧
        to0.chip.boot.dataAt + 800000000 < to0.time.pclk)
      ∧ (up.chip.boot.image = [])
      ∧ (up.chip.rel ≠ 6)
      ∧ (s0t.chip.boot.trialB.isSome = true ∧ s0t.chip.rel = 6 ∧ regionsReady s0t = true ∧ s0t.chip.boot.pins = 0 ∧
        s0t.chip.boot.stage = 0)
      ∧ (six.chip.rel = 6 ∧ regionsReady six = true ∧ six.chip.boot.pins = 0 ∧ six.chip.boot.stage = 0 ∧
        six.chip.boot.trialB = none)
      ∧ (s1.chip.rel = 6 ∧ regionsReady s1 = true ∧ s1.chip.boot.pins = 0 ∧ s1.chip.boot.stage = 1)
      ∧ (s2.chip.rel = 6 ∧ regionsReady s2 = true ∧ s2.chip.boot.pins = 0 ∧ s2.chip.boot.stage = 2)
      ∧ (r1.chip.rel = 6 ∧ regionsReady r1 = true ∧ (r1.chip.boot.pins ≠ 0 ∨ r1.chip.boot.stage = 3) ∧ imageWhole
        r1.chip.boot = true)
      ∧ (host0.chip.rel = 6 ∧ regionsReady host0 = true ∧ (host0.chip.boot.pins ≠ 0 ∨ host0.chip.boot.stage = 3) ∧
        imageWhole host0.chip.boot = false)
      ∧ (([] : List Byte).length < 5 ∧ 1028 < (List.replicate 1029 (0 : Byte)).length) := by
  refine ⟨?_, ?_, ?_, ?_, ?_, ?_, ?_, ?_, ?_, ?_, ?_, ?_, ?_⟩
  all_goals decide +kernel

def J (f : Machine.Journal → Machine.Journal) (s : State) : State := H (fun h => h.onJn f) s
def j0 : State := J (fun j => { j with head := some 3, pos := 0x40, segs := [1, 3], seq := 7, segSeq := 2, gen := 5 })
  (C [(Reg.JN_HDR.base, 0x000A02), (Reg.JN_SRC.base, 0x4000)] up)
def j1 : State := C [(Reg.JN_STAT.base, 0x40000007)] j0
def j4 : State := J (fun j => { j with queue := [⟨0x4000, 0xA02⟩, ⟨0x4008, 0xA01⟩, ⟨0, 4⟩] }) (C [(Reg.JN_STAT.base,
    7)] j0)
def j5 : State := J (fun j => { j with queue := [⟨0xFFFF8, 0xA02⟩] }) j0
def j7 : State := C [(Reg.JN_SRC.base, 0xFFFF8)] j0
def j9 : State := H (fun h => { h with rel := 5, replayed := false }) (J (fun j => { j with anchors := [] }) j0)
def j10 : State := H (fun h => { h with rel := 5, replayed := false })
  (J (fun j => { j with anchors := [(3, some (8, [1, 3])), (17, some (9, [3, 1]))] }) j0)

/-- The hypotheses of JournalEngine. -/
theorem witness_JournalEngine :
    (jnBit 30 j1.chip = true)
      ∧ (jnBit 30 up.chip = false ∧ (bitsOf (up.chip.reg Reg.JN_HDR.base) 7 0 ∉ [1, 2, 4] ∨ 4080 < bitsOf (up.chip.reg
        Reg.JN_HDR.base) 23 8))
      ∧ (jnBit 30 j4.chip = false ∧ bitsOf (j4.chip.reg Reg.JN_HDR.base) 7 0 ∈ [1, 2, 4] ∧ bitsOf (j4.chip.reg
        Reg.JN_HDR.base) 23 8 ≤ 4080 ∧ 3 ≤ j4.chip.jn.queue.length)
      ∧ (jnBit 30 j0.chip = false ∧ bitsOf (j0.chip.reg Reg.JN_HDR.base) 7 0 ∈ [1, 2, 4] ∧ bitsOf (j0.chip.reg
        Reg.JN_HDR.base) 23 8 ≤ 4080 ∧ j0.chip.jn.queue.length < 3)
      ∧ (up.chip.jn.queue = [])
      ∧ (∃ u ∈ j5.chip.jn.queue.head?, ((jnSrc u.src).1, (jnSrc u.src).2) = jnSrc u.src ∧ bitsOf u.hdr 23 8 ≠ 0 ∧
        1048576 < (jnSrc u.src).2 + bitsOf u.hdr 23 8)
      ∧ (∃ u ∈ j4.chip.jn.queue.head?, ∃ v ∈ j4.chip.jn.head, ((jnSrc u.src).1, (jnSrc u.src).2) = jnSrc u.src ∧
        MemoryUp (jnSrc u.src).1 j4 ∧ (jnSrc u.src).2 + bitsOf u.hdr 23 8 ≤ 1048576 ∧ j4.chip.jn.pos + jnSize (rawRead
        (Place.rmem (jnSrc u.src).2) (bitsOf u.hdr 23 8) (j4.region (jnSrc u.src).1)) ≤ 131072 ∧ (dirPut
        { type := bitsOf u.hdr 7 0, key := leNat (List.take 4 (rawRead (Place.rmem (jnSrc u.src).2) (bitsOf u.hdr 23 8) (j4.region (jnSrc u.src).1))), seq := j4.chip.jn.seq + 1, off := segBase v + j4.chip.jn.pos }
        j4.chip.dir).length ≤ 2048)
      ∧ (((jnSrc (j7.chip.reg Reg.JN_SRC.base)).1, (jnSrc (j7.chip.reg Reg.JN_SRC.base)).2) = jnSrc (j7.chip.reg
        Reg.JN_SRC.base) ∧ jnBit 30 j7.chip = false ∧ 1048576 < (jnSrc (j7.chip.reg Reg.JN_SRC.base)).2 + 64)
      ∧ (((jnSrc (up.chip.reg Reg.JN_SRC.base)).1, (jnSrc (up.chip.reg Reg.JN_SRC.base)).2) = jnSrc (up.chip.reg
        Reg.JN_SRC.base) ∧ jnBit 30 up.chip = false ∧ MemoryUp (jnSrc (up.chip.reg Reg.JN_SRC.base)).1 up ∧ (jnSrc
        (up.chip.reg Reg.JN_SRC.base)).2 + 64 ≤ 1048576)
      ∧ (jnBit 30 up.chip = false ∧ up.chip.jn.segs.length ≤ 1)
      ∧ (∃ u ∈ j0.chip.jn.segs.head?, jnBit 30 j0.chip = false ∧ (List.filter (fun e => decide (segBase u ≤ e.off ∧
        e.off < segBase u + 131072)) j0.chip.dir = []))
      ∧ (up.chip.rel ≠ 5)
      ∧ ((jnBest j10.chip.jn).isSome = true ∧ j10.chip.rel = 5 ∧ j10.chip.replayed = false)
      ∧ (j9.chip.rel = 5 ∧ j9.chip.replayed = false ∧ jnBest j9.chip.jn = none) := by
  refine ⟨?_, ?_, ?_, ?_, ?_, ?_, ?_, ?_, ?_, ?_, ?_, ?_, ?_, ?_⟩
  all_goals try simp only [MemoryUp, Steady, Live]
  all_goals decide +kernel

def d0 : State := C [(Reg.BT_DBGPERM.base, 7)] (R 0 (fun Q => Q.onCell 5 (fun k =>
    { k with halted := false, gpr := [(3, 4)] })) up)
/-- Cell 5 is held by debug in a WAIT whose event has come. -/
def d4 : State := R 0 (fun Q => setSections 0 5 15 (Q.onCell 5 (fun k => { k with
  halted := true, byDebug := true, pc := 0x100, hold := .wait 2, ports := [(2, some 0x77)] }))) d0

/-- The hypotheses of DebugPort. -/
theorem witness_DebugPort :
    (debugPermits 2 up = false)
      ∧ ((d0.cell 0).inReset = false ∧ debugPermits 2 d0 = true ∧ (∀ (w : Fin 4), (d0.cell 0).hold = Hold.wait w →
        mapGet noneAt (d0.cell 0).ports w = none))
      ∧ ((mapGet noneAt (d4.cell 5).ports 2).isSome = true ∧ (d4.cell 5).inReset = false ∧ debugPermits 2 d4 = true ∧
        debugHeld 5 d4 = true ∧ (d4.cell 5).hold = Hold.wait 2 ∧ (d4.cell 5).micro = none)
      ∧ ((d0.cell 0).inReset = false ∧ debugPermits 0 d0 = true)
      ∧ (debugPermits 1 d0 = true ∧ Live 0 d0 ∧ accessFails 0 (d0.region 0) = false ∧ (regionRead (d0.ctx 0) 0
        (d0.region 0)).1.isSome = true) := by
  refine ⟨?_, ?_, ?_, ?_, ?_⟩
  all_goals try simp only [Live]
  all_goals decide +kernel

end Boots

/-! ## Resets, power and the whole machine -/

namespace Resets

def P (f : Machine.Boot → Machine.Boot) (s : State) : State := s.onBoot f
def rich : State := R 0 (fun Q =>
  let Q := { Q with
    tm := { Q.tm with trp := [(3, true)] }, railBad := [1], autorun := [77], faultQ := [⟨3, 1, 2, 3, 4⟩], sweep := true
    banks := { Q.banks with rmem := mapWrite zeroByte [] 0x4000 [1, 2, 3], bmem := mapWrite zeroByte [] 0x100 [4, 5] } }
  let Q := regs [(regAt Reg.IC_THR 3 0, 5), (blk Reg.BK_OWN 0 3, 5), (Reg.PM_OE.base, 7), (blk Reg.BK_RETIRED 1,
      0x10)] Q
  let Q := setSections 1 4 15 (setSections 0 5 15 Q)
  Q.onCell 5 (fun k => { k with halted := false, gpr := [(3, 4)], dmem := [(0, 1)], coef := [(0, 5)], pc := 16 })) up
/-- The chip watchdog stands one below its timeout, and KCLK has an edge at the coming PCLK edge. -/
def wd0 : State := { C [(Reg.RS_WDTO.base, 3), (Reg.RS_WDCNT.base, 2), (Reg.RS_WDCFG.base, 0xC1000123), (Reg.RS_CAUSE.base, 4),
  (Reg.BT_DBGPERM.base, 0xF)] rich with time := { up.time with pclk := 24414 } }
/-- It stands one below 7/8 of its timeout. -/
def wd2 : State := C [(Reg.RS_WDTO.base, 8), (Reg.RS_WDCNT.base, 6)] wd0
def wdr : State := C [(regAt Reg.RS_RG_WDCFG 0 0, 0xC0000456), (regAt Reg.RS_RG_WDTO 0 0, 80), (regAt Reg.RS_RG_CTL 0 0,
    4),
  (regAt Reg.RS_RG_WDCNT 0 0, 79)] rich
/-- A load of cell 5 of block 0 that selects its dispatch set 0. -/
def ldr : State := R 0 (fun Q => { Q.onCell 5 (fun k => { k with disp := [(7, dispEntry true 8)] }) with
  load := [(0, some ⟨5, 8, true, 0x8000, 7, false⟩)] }) rich

theorem ldr_load : ∀ b l, mapGet noneAt (ldr.region 0).load b = some l → l.cell < 16 := by
  intro b l h
  rw [show (ldr.region 0).load = [(0, some ⟨5, 8, true, 0x8000, 7, false⟩)] from rfl] at h
  by_cases hb : b = 0
  · subst hb; cases h; decide
  · exact absurd h (by simp [mapGet, hb, noneAt])

theorem calm_of {R : Region} (h : R.banks.march = none ∧ R.blockReset = [] ∧ R.load = [] ∧ ∀ b, b < 8 →
    reachErrors b R = []) :
    Calm R := ⟨h.1, h.2.1, fun b => by rw [h.2.2.1]; rfl, h.2.2.2⟩

/-- The hypotheses of ChipResetsAndWatchdogs. -/
theorem witness_ChipResetsAndWatchdogs :
    (debugPermits 1 wd0 = true)
      ∧ (debugPermits 1 rich = false)
      ∧ (bitsOf (3271557121 : Word) 31 24 = 195 ∧ (3271557121 : Word).getLsbD 0 = true)
      ∧ ((¬(bitsOf (0 : Word) 31 24 = 195 ∧ (0 : Word).getLsbD 0 = true)))
      ∧ (0 ≠ 42330)
      ∧ (wdDue none wd0 ∧ max 1 (wd0.chipReg Reg.RS_WDTO.base).toNat ≤ (wd0.chipReg Reg.RS_WDCNT.base).toNat + 1)
      ∧ (¬ wdDue none rich)
      ∧ (wdDue none wd2 ∧ (wd2.chipReg Reg.RS_WDCNT.base).toNat + 1 = 7 * max 1 (wd2.chipReg Reg.RS_WDTO.base).toNat /
        8 ∧ (wd2.chipReg Reg.RS_WDCNT.base).toNat + 1 < max 1 (wd2.chipReg Reg.RS_WDTO.base).toNat ∧ bitsOf
        (wd2.chipReg Reg.RS_WDCFG.base) 26 24 = 1 ∧ Live 1 wd2)
      ∧ (wdDue (some 0) wdr)
      ∧ (loadSelects 5 0 (ldr.region 0) = true ∧ ((ldr.cell 5).dispatch 0 7).getLsbD 10 = true)
      ∧ (∀ b l, mapGet noneAt (ldr.region 0).load b = some l → l.cell < 16) := by
  refine ⟨?_, ?_, ?_, ?_, ?_, ?_, ?_, ?_, ?_, ?_, ?_⟩
  · decide +kernel
  · decide +kernel
  · decide +kernel
  · decide +kernel
  · decide +kernel
  · exact ⟨⟨by decide +kernel, by decide +kernel, fun _ => by decide +kernel, nofun⟩, by decide +kernel⟩
  · exact fun h => absurd h.1 (by decide +kernel)
  · exact ⟨⟨by decide +kernel, by decide +kernel, fun _ => by decide +kernel, nofun⟩, by decide +kernel,
      by decide +kernel, by decide +kernel, by decide +kernel, by decide +kernel⟩
  · exact ⟨by decide +kernel, by decide +kernel, nofun, fun r h => by cases h; decide +kernel⟩
  · decide +kernel
  · exact ldr_load

/-- The hypotheses of RegionAndBlockResets. -/
theorem witness_RegionAndBlockResets :
    ((rich.region 5).inReset = true)
      ∧ (BitVec.getLsbD (rich.chipReg (regAt Reg.RS_RG_CTL 0 0)) 0 = false)
      ∧ (Live 0 rich ∧ (rich.region 0).blockReset.contains 0 = false ∧ reachErrors 0 (rich.region 0) = [] ∧ mapGet
        noneAt (rich.region 0).load 0 = none ∧ mapWf regionDefault (rich.region 0).regs = true ∧ (65536 :
        Word).getLsbD 16 = true)
      ∧ (Live 0 rich ∧ (rich.region 0).blockReset.contains 0 = false ∧ (0 : Word).getLsbD 16 = false)
      ∧ ((rich.region 0).inReset = false ∧ mapWf regionDefault (rich.region 0).regs = true)
      ∧ (Calm (rich.region 0))
      ∧ (¬ wdDue (some 0) rich)
      ∧ ((wdr.region 0).inReset = false ∧ mapWf regionDefault (wdr.region 0).regs = true)
      ∧ (Calm (wdr.region 0))
      ∧ (wdDue (some 0) wdr ∧ max 1 (wdr.chipReg (regAt Reg.RS_RG_WDTO 0 0)).toNat ≤ (wdr.chipReg (regAt
        Reg.RS_RG_WDCNT 0 0)).toNat + 1) := by
  refine ⟨?_, ?_, ?_, ?_, ?_, ?_, ?_, ?_, ?_, ?_⟩
  · decide +kernel
  · decide +kernel
  · simp only [Live]; decide +kernel
  · simp only [Live]; decide +kernel
  · decide +kernel
  · exact calm_of (by decide +kernel)
  · exact fun h => absurd h.1 (by decide +kernel)
  · decide +kernel
  · exact calm_of (by decide +kernel)
  · exact ⟨⟨by decide +kernel, by decide +kernel, nofun, fun r h => by cases h; decide +kernel⟩, by decide +kernel⟩

def cold (n : Nat) : State := H (fun h => { h with rel := n })
  (C [(Reg.RS_CAUSE.base, 4), (regAt Reg.RS_BKHIST_C 2 0, 9), (Reg.RS_BKSEC.base, 8)] (P (fun b =>
      { b with pins := 2 }) rich))
def cold5b : State := P (fun b => { b with mirror := 3 }) (cold 5)
def cold3 : State := C [(Reg.CK_STAT.base, 2)] (cold 3)
def rr0 : State := H (fun h => { h with rel := 9 })
  (R 0 (fun Q => { Q.onCell 5 (fun k => k.down) with inReset := true, autorun := [5, 20], blockReset := [3] }) rich)
def rr2 : State := C [(regAt Reg.RS_RG_CTL 0 0, 2)] rr0

/-- The hypotheses of Release. -/
theorem witness_Release :
    ((cold 0).chip.rel = 0)
      ∧ ((cold 1).chip.rel = 1)
      ∧ ((cold 2).chip.rel = 2)
      ∧ ((cold 5).chip.rel = 5 ∧ (cold 5).chip.replayed = true ∧ (cold 5).chip.boot.mirror ≤ fusesBlown (cold
        5).chip.boot ∧ (cold 5).chip.boot.pins = 2)
      ∧ (cold5b.chip.rel = 5 ∧ cold5b.chip.replayed = true ∧ fusesBlown cold5b.chip.boot < cold5b.chip.boot.mirror)
      ∧ (cold3.chip.rel = 3 ∧ (clockGoodBit 1 cold3 = false ∨ clockGoodBit 2 cold3 = false))
      ∧ ((cold 9).chip.rel = 9 ∧ marchesOver (cold 9) = true)
      ∧ ((cold 0).chip.rel < 9)
      ∧ (9 ≤ rr2.chip.rel ∧ (rr2.region 0).inReset = true ∧ (BitVec.getLsbD (rr2.chipReg (regAt Reg.RS_RG_CTL 0 0)) 1
        = true ∨ clockGoodBit (8 + 0) rr2 = false))
      ∧ (9 ≤ rr0.chip.rel ∧ (rr0.region 0).inReset = true ∧ BitVec.getLsbD (rr0.chipReg (regAt Reg.RS_RG_CTL 0 0)) 1 =
        false ∧ clockGoodBit (8 + 0) rr0 = true)
      ∧ ((cold 3).chip.rel = 3 ∧ clockGoodBit 1 (cold 3) = true ∧ clockGoodBit 2 (cold 3) = true)
      ∧ ((cold 4).chip.rel = 4 ∧ ∀ r, r < 8 → clockGoodBit (8 + r) (cold 4) = true)
      ∧ ((cold 5).chip.rel = 5 ∧ (cold 5).chip.replayed = true ∧ (cold 5).chip.boot.mirror ≤ fusesBlown (cold
        5).chip.boot) := by
  refine ⟨?_, ?_, ?_, ?_, ?_, ?_, ?_, ?_, ?_, ?_, ?_, ?_, ?_⟩
  all_goals decide +kernel

def pm0 : State := C [(Reg.BT_DBGPERM.base, 8)] (R 0 (regs [(Reg.PM_OESTAGE.base, 5), (Reg.PM_LATENCY.base, 0xE3)]) up)
def pm1 : State := R 0 (regs [(Reg.CF_STAT.base, 1), (Reg.PM_LATENCY.base, 0x04)]) pm0
/-- The conditions of L3 have held for 800 edges. -/
def pm2 : State := R 0 (fun Q => { regs [(Reg.PM_LATENCY.base, 0xBF), (pwrKey 3, 0x80000000)] Q with pmHeld := [(3, 800)] }) pm0
def pm3 : State := R 0 (regs [(Reg.PM_STAT.base, 3), (pwrKey 3, 0x80000010), (pwrKey 4, 0x10), (pwrKey 70, 0x11)]) pm0
def pm4 : State := R 0 (regs [(Reg.PM_STAT.base, 4), (pwrKey 0, 0x80000000), (Reg.CF_COMMITTED.base, 44)])
  (R 0 (fun Q => Q.onCell 5 (fun k => { k with halted := false, gpr := [(3, 4)], dmem := [(0, 1)] })) up)

/-- The hypotheses of ClocksOutputsBackup. -/
theorem witness_ClocksOutputsBackup :
    (pllAllowed 0 = false)
      ∧ (pllAllowed (chipDefault (regAt Reg.CK_RG_PLL 0 0)) = true ∧ bitsOf (rich.chipReg (regAt Reg.CK_RG_PLL 0 0)) 7
        0 = bitsOf (chipDefault (regAt Reg.CK_RG_PLL 0 0)) 7 0 ∧ bitsOf (rich.chipReg (regAt Reg.CK_RG_PLL 0 0)) 16 16
        = bitsOf (chipDefault (regAt Reg.CK_RG_PLL 0 0)) 16 16)
      ∧ (Live 0 pm1 ∧ cfMismatch (pm1.region 0) = true)
      ∧ (Live 0 rich ∧ cfMismatch (rich.region 0) = false)
      ∧ (BitVec.getLsbD (rich.chipReg Reg.BT_DBGPERM.base) 3 = false)
      ∧ (BitVec.getLsbD (pm0.chipReg Reg.BT_DBGPERM.base) 3 = true)
      ∧ (pllAllowed 96 = true ∧ ¬ (bitsOf (rich.chipReg (regAt Reg.CK_RG_PLL 0 0)) 7 0 = bitsOf (96 : Word) 7 0 ∧
        bitsOf (rich.chipReg (regAt Reg.CK_RG_PLL 0 0)) 16 16 = bitsOf (96 : Word) 16 16) ∧ (rich.region 0).inReset =
        false ∧ mapWf regionDefault (rich.region 0).regs = true)
      ∧ (Calm (rich.region 0)) := by
  refine ⟨?_, ?_, ?_, ?_, ?_, ?_, ?_, ?_⟩
  · decide +kernel
  · decide +kernel
  · simp only [Live]; decide +kernel
  · simp only [Live]; decide +kernel
  · decide +kernel
  · decide +kernel
  · decide +kernel
  · exact calm_of (by decide +kernel)

/-- The hypotheses of PowerStates. -/
theorem witness_PowerStates :
    ((rich.region 0).inReset = false ∧ pmState (rich.region 0) ≠ 4 ∧ (¬(pmState (rich.region 0) < admitted
      (rich.region 0) ∧ stateAllowed (admitted (rich.region 0)) (rich.region 0) = true ∧ 800 ≤ mapGet zeroNat
      (rich.region 0).pmHeld (admitted (rich.region 0)))))
      ∧ (pmState (rich.region 0) = 0)
      ∧ (pmState (pm3.region 0) ∈ [1, 2, 3])
      ∧ ((pm2.region 0).inReset = false ∧ pmState (pm2.region 0) ≠ 4 ∧ admitted (pm2.region 0) = 3 ∧ pmState
        (pm2.region 0) < 3 ∧ stateAllowed 3 (pm2.region 0) = true ∧ 800 ≤ mapGet zeroNat (pm2.region 0).pmHeld 3)
      ∧ (pmState (pm4.region 0) = 4 ∧ (pm4.region 0).inReset = false ∧ mapWf regionDefault (pm4.region 0).regs = true
        ∧ (∀ k, k < 128 → sections (k / 16) (k % 16) (pm4.region 0) ≠ 15) ∧ (pm4.chipReg (regAt Reg.RS_RG_CTL 0
        0)).getLsbD 1 = false ∧ clockGoodBit 8 pm4 = true)
      ∧ (∀ b, mapGet noneAt (pm4.region 0).banks.trans b = none)
      ∧ (Calm (pm4.region 0)) := by
  refine ⟨?_, ?_, ?_, ?_, ?_, ?_, ?_⟩
  · decide +kernel
  · decide +kernel
  · decide +kernel
  · decide +kernel
  · decide +kernel
  · exact fun _ => rfl
  · exact calm_of (by decide +kernel)

end Resets

namespace Whole

def i0 : State := C [(Reg.CH_GTRATE.base, 0x80000001), (Reg.RS_WDCFG.base, 0x80000000)] up
def fused : State := { up with chip := { up.chip with boot := { up.chip.boot with
  otp := mapWrite zeroByte [] 0x160 [0xFF, 0, 0, 0, 0, 0, 0, 0, 3] } } }

/-- The chip watchdog reaches its timeout at the coming edge. -/
def i1 : State := { C [(Reg.RS_WDCFG.base, 0x80000000), (Reg.RS_WDTO.base, 3), (Reg.RS_WDCNT.base, 2)] up with
  time := { up.time with pclk := 24414 } }

/-- The hypotheses of IdleStep. -/
theorem witness_IdleStep :
    (State.reset.pending = [] ∧ clockGoodBit 2 State.reset = false)
      ∧ (i1.pending = [] ∧ clockGoodBit 2 i1 = true ∧ wdDue none i1 ∧ max 1 (i1.chipReg Reg.RS_WDTO.base).toNat ≤
        (i1.chipReg Reg.RS_WDCNT.base).toNat + 1)
      ∧ (i0.pending = [] ∧ clockGoodBit 2 i0 = true ∧ ¬ wdDue none i0) := by
  refine ⟨?_, ?_, ?_⟩
  · decide +kernel
  · exact ⟨rfl, by decide +kernel, ⟨by decide +kernel, by decide +kernel, fun _ => by decide +kernel, nofun⟩,
      by decide +kernel⟩
  · exact ⟨rfl, by decide +kernel, fun h => absurd (h.2.2.1 rfl) (by decide +kernel)⟩

/-- The hypotheses of FrontCommand, EveryCommandRuns, DecodeEncode, CanonicalStep and WhatNoCommandDoes. -/
theorem witness_WholeMachine :
    (Instr.nop 0).WellFormed ∧ ¬ (Instr.reservedOpcode 0 0x01000000).WellFormed
      ∧ (Instr.add 0 1 2 3).WellFormed ∧ (instrWord (.add 0 1 2 3)).isSome = true
      ∧ up.canonical ∧ (∃ t, step { up with pending := [.clockGood 0] } = .next t)
      ∧ (∃ t, exec .gtimeStepApply fused = .next t) ∧ (∃ t, exec .powerOnReset fused = .next t)
      ∧ otpBit fused.chip.boot 0x160 0 = true
      ∧ slotProvisioned fused.chip.boot 0 = true ∧ slotRevoked fused.chip.boot 0 = true := by
  refine ⟨trivial, ?_, trivial, rfl, ?_, ⟨_, rfl⟩, ⟨_, rfl⟩, ⟨_, rfl⟩, ?_, ?_, ?_⟩
  all_goals try simp only [Instr.WellFormed, State.canonical]
  all_goals decide +kernel

end Whole

end Sys2Proof.Tests
end

section
/-!
PROOFS. Laws that several obligations use: repetition, chip registers of an updated state, the chip reset.
-/

namespace Sys2Proof.Machine

/-! ## Repetition, and the chip registers of an updated state -/

theorem foldN_succ {α : Type} (n : Nat) (f : Nat → α → α) (a : α) : foldN (n + 1) f a = f n (foldN n f a) := by
  simp [foldN, List.range_succ]

theorem mapGet_foldN_mapSet {α : Type} [DecidableEq α] (d : Nat → α) (f : Nat → α) (m : FMap α) (k n : Nat) :
    mapGet d (foldN n (fun i m => mapSet d m i (f i)) m) k = if k < n then f k else mapGet d m k := by
  induction n with
  | zero => rfl
  | succ n ih =>
    rw [foldN_succ]
    by_cases h : k = n
    · subst h; simp
    · rw [mapGet_mapSet_of_ne _ _ h, ih]
      simp [show k < n + 1 ↔ k < n by omega]

@[simp] theorem State.chipReg_setRegion (s : State) (r a : Nat) (R : Region) : (s.setRegion r R).chipReg a = s.chipReg a := rfl
@[simp] theorem State.chipReg_onRegion (s : State) (r a : Nat) (f : Ctx → Region → Region) :
    (s.onRegion r f).chipReg a = s.chipReg a := rfl
@[simp] theorem State.chipReg_setChipReg (s : State) (a : Nat) (v : Word) : (s.setChipReg a v).chipReg a = v :=
  Chip.reg_setReg ..
theorem State.chipReg_setChipReg_of_ne (s : State) {a b : Nat} (h : b ≠ a) (v : Word) :
    (s.setChipReg a v).chipReg b = s.chipReg b := Chip.reg_setReg_of_ne _ h _

/-! ## The chip reset -/

theorem inputsStay_keeps {α : Type} (f : Region → α) (hreg : ∀ R a v, f (Region.setReg R a v) = f R)
    (htrp : ∀ R i l, f (Region.setTrpLine R i l) = f R) (hlev : ∀ R i b, f (Region.setTrpLevel R i b) = f R)
    (hfb : ∀ R u b, f (Region.setFb R u b) = f R) (hpin : ∀ R p b, f (Region.setFpin R p b) = f R) (R Q : Region) :
    f (inputsStay R Q) = f Q := by
  unfold inputsStay
  refine foldN_keeps (f · = f Q) _ (fun p a h => ?_) _ (foldN_keeps (f · = f Q) _ (fun u a h => ?_) _
    (foldN_keeps (f · = f Q) _ (fun i a h => ?_) _ rfl))
  · simp [pinLevel, Region.setBit, hreg, hpin, h]
  · simp [Region.setField, hreg, hfb, h]
  · simp [hlev, htrp, h]

theorem Region.inReset_afterChipReset (R : Region) : R.afterChipReset.inReset = true :=
  inputsStay_keeps Region.inReset (fun _ _ _ => rfl) (fun _ _ _ => rfl) (fun _ _ _ => rfl) (fun _ _ _ => rfl) (fun _ _ _ => rfl) ..

theorem State.region_chipReset (c : Nat) (s : State) (r : Nat) :
    (chipReset c s).region r = if r < 8 then (s.region r).afterChipReset else regionInit :=
  mapGet_foldN_mapSet _ (fun r => (s.region r).afterChipReset) [] r 8

theorem inReset_chipReset (c : Nat) (s : State) (r : Nat) : ((chipReset c s).region r).inReset = true := by
  rw [State.region_chipReset]
  split
  · exact Region.inReset_afterChipReset _
  · rfl

@[simp] theorem time_chipReset (c : Nat) (s : State) : (chipReset c s).time = timeInit := rfl

end Sys2Proof.Machine
end

section
/-!
PROOFS. The state after reset (O56).
-/

namespace Sys2Proof.Machine

theorem State.region_reset (r : Nat) : State.reset.region r = regionInit := rfl

theorem Region.reg_regionInit (a : Nat) : regionInit.reg a = regionDefault a := rfl

theorem byteAt_regionInit (p : Place) : byteAt p regionInit = 0 := by cases p <;> rfl

theorem Region.cell_regionInit (i : Nat) : regionInit.cell i = cellInit := rfl

theorem regionDefault_fallow : ∀ b : Fin 8, regionDefault (blk Reg.BK_FALLOW b) = 0x8000 := by decide

theorem regionDefault_threshold : ∀ i : Fin 128, regionDefault (regAt Reg.IC_THR i 0) = 0xF := by decide

theorem chipDefault_vectorControl : ∀ v : Fin 64, regAt Reg.CH_MSIX_TAB v 3 ≠ Reg.RS_CAUSE.base
    ∧ (chipDefault (regAt Reg.CH_MSIX_TAB v 3)).getLsbD 0 = true := by decide

theorem State.chipReg_reset (a : Nat) :
    State.reset.chipReg a = if a = Reg.RS_CAUSE.base then 1 else chipDefault a := rfl

theorem msixMasked_reset (v : Fin 64) : msixMasked v State.reset.chip = true := by
  obtain ⟨hne, hmask⟩ := chipDefault_vectorControl v
  have h : msixEntry v 3 State.reset.chip = chipDefault (regAt Reg.CH_MSIX_TAB v 3) :=
    (State.chipReg_reset _).trans (if_neg hne)
  simp [msixMasked, h, hmask]

theorem Cell.g_cellInit (q : RegNo) : cellInit.g q = 0 := ite_self _

/-- Settles O56: nothing is listed in the reset state but RS_CAUSE, so everything reads as its default. -/
theorem resetState : Obligations.ResetState := by
  unfold Obligations.ResetState
  refine ⟨rfl, rfl, rfl, rfl, State.chipReg_reset, fun _ => rfl, fun _ => ⟨rfl, Region.reg_regionInit, byteAt_regionInit, rfl⟩,
    fun _ => ⟨rfl, rfl, rfl, Cell.g_cellInit, rfl, rfl⟩, fun _ b => ?_, fun _ i => ?_, msixMasked_reset⟩
  · exact regionDefault_fallow b
  · exact regionDefault_threshold i

end Sys2Proof.Machine
end

section
/-!
PROOFS. The idle step (O55).
-/

namespace Sys2Proof.Machine

/-! ## What the work of the regions at a PCLK edge leaves unchanged -/

/-- A chip register that the tick of some region writes: the cause, count and warnings of its reset controller. -/
def tickReg (a : Nat) : Prop :=
  ∃ q, a = regAt Reg.RS_RG_CAUSE q 0 ∨ a = regAt Reg.RS_RG_WDCNT q 0 ∨ a = regAt Reg.RS_RG_WDWARN q 0

/-- What a region's tick leaves unchanged: time, queue, output, and of the chip registers all but those of `tickReg`; and
the regions that `keep` names. -/
structure TickKeeps (keep : Nat → Prop) (s t : State) : Prop where
  pending : t.pending = s.pending
  out : t.out = s.out
  time : t.time = s.time
  taken : t.chip.wdTaken = s.chip.wdTaken
  chipReg : ∀ a, ¬ tickReg a → t.chipReg a = s.chipReg a
  region : ∀ r, keep r → t.region r = s.region r

namespace TickKeeps

variable {keep : Nat → Prop} {s t u : State}

theorem refl (s : State) : TickKeeps keep s s := ⟨rfl, rfl, rfl, rfl, fun _ _ => rfl, fun _ _ => rfl⟩

theorem trans (h : TickKeeps keep s t) (k : TickKeeps keep t u) : TickKeeps keep s u :=
  ⟨k.pending.trans h.pending, k.out.trans h.out, k.time.trans h.time, k.taken.trans h.taken,
    fun a ha => (k.chipReg a ha).trans (h.chipReg a ha), fun r hr => (k.region r hr).trans (h.region r hr)⟩

theorem onRegion {q : Nat} (hq : ¬ keep q) (s : State) (f : Ctx → Region → Region) : TickKeeps keep s (s.onRegion q f) :=
  ⟨rfl, rfl, rfl, rfl, fun _ _ => rfl, fun _ hr => State.region_onRegion_of_ne _ (by rintro rfl; exact hq hr) _⟩

theorem setRegion {q : Nat} (hq : ¬ keep q) (s : State) (R : Region) : TickKeeps keep s (s.setRegion q R) :=
  ⟨rfl, rfl, rfl, rfl, fun _ _ => rfl, fun _ hr => State.region_setRegion_of_ne _ (by rintro rfl; exact hq hr) _⟩

theorem setChipReg {a : Nat} (ha : tickReg a) (s : State) (v : Word) : TickKeeps keep s (s.setChipReg a v) :=
  ⟨rfl, rfl, rfl, rfl, fun _ hb => State.chipReg_setChipReg_of_ne _ (by rintro rfl; exact hb ha) _, fun _ _ => rfl⟩

theorem free (s : State) (n : Nat) : TickKeeps keep s { s with free := n } :=
  ⟨rfl, rfl, rfl, rfl, fun _ _ => rfl, fun _ _ => rfl⟩

theorem ite {c : Prop} [Decidable c] (h : TickKeeps keep s t) (k : TickKeeps keep s u) : TickKeeps keep s (if c then t else u) := by
  split
  · exact h
  · exact k

theorem regionResetFor {q : Nat} (hq : ¬ keep q) (bit : Nat) (s : State) : TickKeeps keep s (regionResetFor q bit s) :=
  ((setChipReg ⟨q, .inl rfl⟩ s _).trans (onRegion hq _ _)).trans (free _ _)

theorem awake {q : Nat} (hq : ¬ keep q) (s : State) : TickKeeps keep s (s.awake q) := by
  unfold State.awake
  split
  · exact refl s
  · exact ((setChipReg ⟨q, .inl rfl⟩ s _).trans (setRegion hq _ _)).trans (free _ _)
  · exact setRegion hq _ _

theorem post {q : Nat} (hq : ¬ keep q) (s : State) (src : Nat) : TickKeeps keep s (s.post q src) :=
  (awake hq s).trans (onRegion hq _ _)

theorem wdWarn {q : Nat} (hq : ¬ keep q) (s : State) : TickKeeps keep s (wdWarn (some q) s) := by
  have h : TickKeeps keep s { s with chip := s.chip.count (watchdog (some q)).warn } :=
    setChipReg ⟨q, .inr (.inr rfl)⟩ s _
  unfold Machine.wdWarn
  dsimp only
  split
  · exact h.trans (post hq _ _)
  · exact h

theorem wdEdge {q : Nat} (hq : ¬ keep q) (s : State) : TickKeeps keep s (wdEdge (some q) s) := by
  have h (v : Word) : TickKeeps keep s (s.setChipReg (watchdog (some q)).cnt v) := setChipReg ⟨q, .inr (.inl rfl)⟩ s v
  exact ite ((h _).trans (regionResetFor hq _ _)) (ite ((h _).trans (wdWarn hq _)) (h _))

theorem wdTick {q : Nat} (hq : ¬ keep q) (s : State) : TickKeeps keep s (wdTick (some q) s) := by
  unfold Machine.wdTick
  split
  · exact wdEdge hq s
  · exact refl s

theorem regionTick {q : Nat} (hq : ¬ keep q) (s : State) : TickKeeps keep s (regionTick q s) := by
  unfold Machine.regionTick
  dsimp only
  split
  · exact refl s
  · exact (onRegion hq s _).trans (wdTick hq _)

/-- The ticks of all regions. -/
theorem regionTicks (s : State) : TickKeeps (fun _ => False) s (foldN 8 Machine.regionTick s) :=
  foldN_keeps (TickKeeps _ s) _ (fun _ _ h => h.trans (regionTick id _)) 8 (refl s)

theorem regionTicks_before (s : State) {r : Nat} : ∀ n, n ≤ r → TickKeeps (· = r) s (foldN n Machine.regionTick s)
  | 0, _ => refl s
  | n + 1, h => by
    rw [foldN_succ]
    exact (regionTicks_before s n (by omega)).trans (regionTick (by omega) _)

/-- Region `r` changes by its own tick only, which starts from a state that differs from the first in other regions. -/
theorem regionTicks_at (s : State) (r : Nat) : ∀ n, r < n →
    ∃ u, TickKeeps (· = r) s u ∧ TickKeeps (· = r) (Machine.regionTick r u) (foldN n Machine.regionTick s)
  | n + 1, h => by
    rw [foldN_succ]
    by_cases hr : r = n
    · subst hr
      exact ⟨_, regionTicks_before s r (Nat.le_refl r), refl _⟩
    · obtain ⟨u, hu, hut⟩ := regionTicks_at s r n (by omega)
      exact ⟨u, hu, hut.trans (regionTick (fun e => hr e.symm) _)⟩

end TickKeeps

/-! ## The count edge of the chip watchdog -/

/-- The coming edge of KCLK is a count edge of the chip watchdog, at which it reaches its timeout. -/
def chipExpiry (s : State) : Prop :=
  (wdCounts none s && !s.chip.wdTaken.contains 8) = true ∧ wdTimeout none s ≤ wdNext none s

/-- Beside the chip watchdog a KCLK edge changes the chip alone. -/
theorem kclkTick_eq (s : State) : ∃ h, kclkTick s = { wdTick none s with chip := h } :=
  if hk : (wdTick none s).chip.kclk + 1 < 32768 then ⟨_, if_pos hk⟩ else ⟨_, if_neg hk⟩

theorem time_kclkTick (s : State) : (kclkTick s).time = (wdTick none s).time := by
  obtain ⟨h, e⟩ := kclkTick_eq s
  rw [e]

theorem regions_kclkTick (s : State) : (kclkTick s).regions = (wdTick none s).regions := by
  obtain ⟨h, e⟩ := kclkTick_eq s
  rw [e]

theorem queues_kclkTick (s : State) :
    (kclkTick s).pending = (wdTick none s).pending ∧ (kclkTick s).out = (wdTick none s).out := by
  obtain ⟨h, e⟩ := kclkTick_eq s
  rw [e]
  exact ⟨rfl, rfl⟩

theorem wdTick_of_expiry {s : State} (h : chipExpiry s) : wdTick none s = chipReset 0x08 (s.setChipReg (watchdog none).cnt 0) := by
  obtain ⟨hc, hn⟩ := h
  unfold wdTick wdEdge
  dsimp only
  rw [Option.getD_none, if_pos hc, if_pos hn]
  rfl

theorem wdWarn_queues (s : State) :
    (wdWarn none s).pending = s.pending ∧ (wdWarn none s).out = s.out ∧ (wdWarn none s).time = s.time := by
  unfold wdWarn
  dsimp only
  split
  · have k (u : State) (q src : Nat) := TickKeeps.post (keep := fun _ => False) (q := q) id u src
    exact ⟨(k _ _ _).pending, (k _ _ _).out, (k _ _ _).time⟩
  · exact ⟨rfl, rfl, rfl⟩

/-- Short of its timeout the chip watchdog counts, and may warn. -/
theorem wdTick_of_not_expiry {s : State} (h : ¬ chipExpiry s) :
    (wdTick none s).pending = s.pending ∧ (wdTick none s).out = s.out ∧ (wdTick none s).time = s.time := by
  unfold wdTick
  by_cases hc : (wdCounts none s && !s.chip.wdTaken.contains 8) = true
  · rw [Option.getD_none, if_pos hc, wdEdge, if_neg (fun hn => h ⟨hc, hn⟩)]
    by_cases hw : wdNext none s = wdWarnAt none (s.setChipReg (watchdog none).cnt (BitVec.ofNat 32 (wdNext none s)))
    · dsimp only
      rw [if_pos hw]
      exact wdWarn_queues _
    · dsimp only
      rw [if_neg hw]
      exact ⟨rfl, rfl, rfl⟩
  · rw [Option.getD_none, if_neg hc]
    exact ⟨rfl, rfl, rfl⟩

theorem wdTick_of_disabled {s : State} (h : (s.chipReg (watchdog none).cfg).getLsbD 31 = false) : wdTick none s = s := by
  have hc : wdCounts none s = false := by rw [wdCounts, h, Bool.false_and]
  simp [wdTick, hc]

/-! ## GTIME at the edge -/

theorem chip_gtApply (s : State) : (gtApply s).chip = s.chip := by
  fun_cases gtApply <;> rfl

theorem regions_gtApply (s : State) : (gtApply s).regions = s.regions := by
  fun_cases gtApply <;> rfl

theorem queues_gtApply (s : State) : (gtApply s).pending = s.pending ∧ (gtApply s).out = s.out := by
  fun_cases gtApply <;> exact ⟨rfl, rfl⟩

theorem edge_gtApply (s : State) : (gtApply s).time.frac = s.time.frac ∧ (gtApply s).time.pclk = s.time.pclk
    ∧ (gtApply s).time.past = s.time.past := by
  fun_cases gtApply <;> exact ⟨rfl, rfl, rfl⟩

theorem anyArmed_iff (s : State) : anyArmed s = true ↔ ∃ (r : RegionId) (g : Fin 8), sgArmed g (s.region r) = true := by
  simp only [anyArmed, List.any_eq_true, List.mem_range]
  exact ⟨fun ⟨r, hr, g, hg, h⟩ => ⟨⟨r, hr⟩, ⟨g, hg⟩, h⟩, fun ⟨r, g, h⟩ => ⟨r, r.isLt, g, g.isLt, h⟩⟩

/-- No step acts where none waits, or where a sample group is armed. -/
theorem gtApply_of_waits {s : State} (h : s.time.step = none ∨ anyArmed s = true) : gtApply s = s := by
  unfold gtApply
  split
  · rfl
  · rw [if_pos (h.resolve_left (by simp [*]))]

theorem gtApply_of_due {s : State} {d : Ticks} (h : s.time.step = some d) (ha : anyArmed s = false) :
    gtApply s = { s with time := { s.time with gtime := s.time.gtime + d, step := none } } := by
  simp [gtApply, h, ha]

theorem gtimeTick_time (s : State) {x : Int} {v : Ticks} (hx : x = (s.time.frac.toNat : Int) + (s.chipReg Reg.CH_GTRATE.base).toInt)
    (hv : v = BitVec.ofInt 64 (16 + x / 2 ^ 40)) :
    (gtimeTick s).time = ⟨s.time.gtime + v, BitVec.ofInt 40 x, s.time.step, s.time.pclk + 1,
      ((s.time.gtime, v) :: s.time.past).take 264⟩ := by
  subst hv hx
  simp [gtimeTick, Time.tick, advance, pastKept, BitVec.add_comm s.time.gtime]

/-! ## The idle step -/

/-- The state after time and the regions have passed the edge. -/
def ticked (s : State) : State := foldN 8 regionTick (gtApply (gtimeTick s))

/-- With the timebase good, the edge is that of KCLK too where one falls; no count edge stays taken. -/
theorem pclkEdge_of_good {s : State} (h : clockGoodBit 2 s = true) :
    ∃ t, (kclkEdge s.time.pclk = true → t = kclkTick (ticked s)) ∧ (kclkEdge s.time.pclk = false → t = ticked s)
      ∧ pclkEdge s = { t with chip := { t.chip with wdTaken := [] } } :=
  ⟨if kclkEdge s.time.pclk then kclkTick (ticked s) else ticked s, fun hk => if_pos hk, fun hk => if_neg (by simp [hk]), if_pos h⟩

theorem ticked_keeps (s : State) : TickKeeps (fun _ => False) (gtApply (gtimeTick s)) (ticked s) := TickKeeps.regionTicks _

theorem chipReg_ticked {s : State} {a : Nat} (h : ¬ tickReg a) : (ticked s).chipReg a = s.chipReg a := by
  rw [(ticked_keeps s).chipReg a h]
  exact congrArg (Chip.reg · a) (chip_gtApply _)

theorem watchdog_untouched : ¬ tickReg (watchdog none).cfg ∧ ¬ tickReg (watchdog none).limit ∧ ¬ tickReg (watchdog none).cnt := by
  simp only [tickReg, watchdog, regAt, Reg.RS_RG_CAUSE, Reg.RS_RG_WDCNT, Reg.RS_RG_WDWARN, Reg.RS_WDCFG, Reg.RS_WDTO, Reg.RS_WDCNT]
  omega

theorem chipExpiry_ticked (s : State) : (kclkEdge s.time.pclk = true ∧ chipExpiry (ticked s)) ↔
    (wdDue none s ∧ max 1 (s.chipReg Reg.RS_WDTO.base).toNat ≤ (s.chipReg Reg.RS_WDCNT.base).toNat + 1) := by
  obtain ⟨hcfg, hto, hcnt⟩ := watchdog_untouched
  have ht : (ticked s).chip.wdTaken = s.chip.wdTaken := (ticked_keeps s).taken.trans (congrArg Chip.wdTaken (chip_gtApply _))
  simp only [chipExpiry, wdCounts, wdTimeout, wdNext, chipReg_ticked hcfg, chipReg_ticked hto, chipReg_ticked hcnt, ht, wdDue]
  simp only [watchdog, Bool.and_true, Bool.and_eq_true, Bool.not_eq_true', Option.getD_none, reduceCtorEq, false_implies,
    implies_true, and_true, forall_const]
  exact ⟨fun ⟨hk, ⟨hc, ht⟩, hn⟩ => ⟨⟨hc, ht, hk⟩, hn⟩, fun ⟨⟨hc, ht, hk⟩, hn⟩ => ⟨hk, ⟨hc, ht⟩, hn⟩⟩

theorem State.region_congr {s t : State} (h : s.regions = t.regions) (r : Nat) : s.region r = t.region r := by
  unfold State.region
  rw [h]

theorem time_ticked (s : State) : (ticked s).time = (gtApply (gtimeTick s)).time := (ticked_keeps s).time

/-- What the edge leaves where the chip watchdog does not expire at it. -/
theorem pclkEdge_of_no_expiry {s : State} (hgood : clockGoodBit 2 s = true)
    (h : ¬ (kclkEdge s.time.pclk = true ∧ chipExpiry (ticked s))) :
    (pclkEdge s).pending = s.pending ∧ (pclkEdge s).out = s.out ∧ (pclkEdge s).time = (gtApply (gtimeTick s)).time := by
  obtain ⟨hp, ho⟩ := queues_gtApply (gtimeTick s)
  have hpend : (ticked s).pending = s.pending := (ticked_keeps s).pending.trans hp
  have hout : (ticked s).out = s.out := (ticked_keeps s).out.trans ho
  obtain ⟨t, hedge, hno, e⟩ := pclkEdge_of_good hgood
  have ht : t.pending = s.pending ∧ t.out = s.out ∧ t.time = (gtApply (gtimeTick s)).time := by
    cases hk : kclkEdge s.time.pclk with
    | true =>
      obtain ⟨kp, ko, kt⟩ := wdTick_of_not_expiry (s := ticked s) (fun he => h ⟨hk, he⟩)
      obtain ⟨qp, qo⟩ := queues_kclkTick (ticked s)
      rw [hedge hk]
      exact ⟨qp.trans (kp.trans hpend), qo.trans (ko.trans hout), (time_kclkTick _).trans (kt.trans (time_ticked s))⟩
    | false =>
      rw [hno hk]
      exact ⟨hpend, hout, time_ticked s⟩
  rw [e]
  exact ht

theorem pclkEdge_of_expiry {s : State} (hgood : clockGoodBit 2 s = true)
    (h : kclkEdge s.time.pclk = true ∧ chipExpiry (ticked s)) :
    (pclkEdge s).time = timeInit ∧ ∀ r : RegionId, ((pclkEdge s).region r).inReset = true := by
  obtain ⟨hk, he⟩ := h
  obtain ⟨t, hedge, -, e⟩ := pclkEdge_of_good hgood
  have htime := time_kclkTick (ticked s)
  have hregions := regions_kclkTick (ticked s)
  rw [← hedge hk, wdTick_of_expiry he] at htime hregions
  rw [e]
  refine ⟨htime, fun r => ?_⟩
  have hr : t.region r = (chipReset 0x08 ((ticked s).setChipReg (watchdog none).cnt 0)).region r := State.region_congr hregions r
  exact (congrArg Region.inReset hr).trans (inReset_chipReset ..)

/-- With the chip watchdog disabled the edge leaves the regions as their own ticks do. -/
theorem region_pclkEdge {s : State} (hgood : clockGoodBit 2 s = true) (hw : (s.chipReg (watchdog none).cfg).getLsbD 31 = false)
    (r : Nat) : (pclkEdge s).region r = (ticked s).region r := by
  have hw' : ((ticked s).chipReg (watchdog none).cfg).getLsbD 31 = false := by
    rw [chipReg_ticked watchdog_untouched.1]; exact hw
  obtain ⟨t, hedge, hno, e⟩ := pclkEdge_of_good hgood
  have ht : t.regions = (ticked s).regions := by
    cases hk : kclkEdge s.time.pclk with
    | true => rw [hedge hk, regions_kclkTick, wdTick_of_disabled hw']
    | false => rw [hno hk]
  rw [e]
  exact State.region_congr ht r

theorem rate_untouched : ¬ tickReg Reg.CH_GTRATE.base := by
  simp only [tickReg, regAt, Reg.RS_RG_CAUSE, Reg.RS_RG_WDCNT, Reg.RS_RG_WDWARN, Reg.CH_GTRATE]
  omega

theorem xevCfg_untouched {c : Nat} : ¬ tickReg (regAt Reg.CH_XEV_CFG c 0) := by
  simp only [tickReg, regAt, Reg.RS_RG_CAUSE, Reg.RS_RG_WDCNT, Reg.RS_RG_WDWARN, Reg.CH_XEV_CFG]
  omega

theorem regionWatchdog_untouched (r : Nat) : ¬ tickReg (watchdog (some r)).cfg := by
  simp only [tickReg, watchdog, regAt, Reg.RS_RG_CAUSE, Reg.RS_RG_WDCNT, Reg.RS_RG_WDWARN, Reg.RS_RG_WDCFG]
  omega

/-- The state in which region `r` comes to its own tick: as after the step of time, but for the regions before it. -/
theorem region_ticked (s : State) (r : RegionId) : ∃ u, u.region r = s.region r ∧ u.time = (gtApply (gtimeTick s)).time
    ∧ (∀ a, ¬ tickReg a → u.chipReg a = s.chipReg a) ∧ (ticked s).region r = (regionTick r u).region r := by
  obtain ⟨u, hu, hut⟩ := TickKeeps.regionTicks_at (gtApply (gtimeTick s)) r 8 r.isLt
  refine ⟨u, (hu.region r rfl).trans (State.region_congr (regions_gtApply _) r), hu.time, fun a ha => ?_,
    hut.region r rfl⟩
  exact (hu.chipReg a ha).trans (congrArg (Chip.reg · a) (chip_gtApply _))

theorem regionTick_of_off {r : Nat} {s : State} (h : (s.region r).inReset = true ∨ pmState (s.region r) = 4) : regionTick r s = s := by
  unfold regionTick
  exact if_pos (by simpa using h)

theorem region_regionTick {r : Nat} {s : State} (hr : (s.region r).inReset = false) (hp : pmState (s.region r) ≠ 4)
    (hw : (s.chipReg (watchdog (some r)).cfg).getLsbD 31 = false) :
    (regionTick r s).region r = edgeWork (s.ctx r) (s.region r) := by
  have hc : wdCounts (some r) (s.onRegion r edgeWork) = false := by
    rw [wdCounts, State.chipReg_onRegion, hw, Bool.false_and]
  unfold regionTick
  dsimp only
  rw [if_neg (by simp [hr, hp])]
  simp [wdTick, hc]

/-- Settles O55: the ticks of the regions leave time, queue and the chip watchdog's registers alone, and a region its
neighbours; so what the edge does is what time, region `r` and the chip watchdog do on their own. -/
theorem idleStep : Obligations.IdleStep := by
  unfold Obligations.IdleStep
  intro s x v hpend hx hv
  have hstep : step s = .next (pclkEdge s) := by unfold step; rw [hpend]
  refine ⟨fun hbad => ?_, fun hgood hdue hto => ?_, fun hgood hno => ?_⟩
  · rw [hstep, pclkEdge, if_neg (by simp [hbad])]
  · exact ⟨_, hstep, pclkEdge_of_expiry hgood ((chipExpiry_ticked s).2 ⟨hdue, hto⟩)⟩
  · obtain ⟨hp, ho, ht⟩ := pclkEdge_of_no_expiry hgood (fun h => hno ((chipExpiry_ticked s).1 h))
    obtain ⟨hfrac, hpclk, hpast⟩ := edge_gtApply (gtimeTick s)
    have htaken : (pclkEdge s).chip.wdTaken = [] := by obtain ⟨t, -, -, e⟩ := pclkEdge_of_good hgood; rw [e]
    have hg := gtimeTick_time s hx hv
    have hstepKept : (gtimeTick s).time.step = s.time.step := by rw [hg]
    rw [hg] at hfrac hpclk hpast
    refine ⟨_, hstep, hp.trans hpend, ho, htaken, by rw [ht, hfrac], by rw [ht, hpclk],
      by rw [ht, hpast], fun hwait => ?_, fun d hd hfree => ?_, fun r hw => ?_⟩
    · rw [ht, gtApply_of_waits (by rw [hstepKept]; exact hwait.imp_right (anyArmed_iff s).2), hg]
      exact ⟨rfl, rfl⟩
    · have ha : anyArmed (gtimeTick s) = false := by
        rw [← Bool.not_eq_true]
        exact fun h => by obtain ⟨r, g, h⟩ := (anyArmed_iff s).1 h; rw [hfree] at h; cases h
      rw [ht, gtApply_of_due (hstepKept.trans hd) ha]
      exact ⟨by dsimp only; rw [hg], rfl⟩
    · obtain ⟨u, hR, htime, hchip, hreg⟩ := region_ticked s r
      rw [region_pclkEdge hgood hw, hreg]
      refine ⟨fun hoff => ?_, fun hres hpm hwr => ?_⟩
      · rw [regionTick_of_off (by rw [hR]; exact hoff), hR]
      · refine ⟨u.ctx r, rfl, htime.trans ht.symm, ?_, fun c _ => hchip _ xevCfg_untouched, ?_⟩
        · exact congrArg BitVec.toInt (hchip _ rate_untouched)
        · rw [region_regionTick (by rw [hR]; exact hres) (by rw [hR]; exact hpm)
            (by rw [hchip _ (regionWatchdog_untouched r)]; exact hwr), hR]

end Sys2Proof.Machine
end

section
/-!
PROOFS. Snapshots and GTIME steps (O21).
-/

namespace Sys2Proof.Machine

/-! ## A change of each region in turn -/

/-- Repeating a change of region after region, each to what `G` makes of it, changes every one of them so. -/
theorem region_foldN {F : Nat → State → State} {G : Nat → Ctx → Region → Region}
    (hstate : ∀ q s, F q s = { s with regions := (F q s).regions })
    (hother : ∀ q s r, r ≠ q → (F q s).region r = s.region r)
    (hself : ∀ q s, (F q s).region q = G q (s.ctx q) (s.region q)) (n : Nat) (s : State) :
    foldN n F s = { s with regions := (foldN n F s).regions }
      ∧ ∀ r, (foldN n F s).region r = if r < n then G r (s.ctx r) (s.region r) else s.region r := by
  induction n with
  | zero => exact ⟨rfl, fun _ => rfl⟩
  | succ n ih =>
    obtain ⟨hs, hr⟩ := ih
    rw [foldN_succ]
    refine ⟨by rw [hstate n, hs], fun r => ?_⟩
    by_cases h : r = n
    · subst h
      have hctx : (foldN r F s).ctx r = s.ctx r := by rw [hs]; rfl
      rw [hself, hctx, hr, if_neg (Nat.lt_irrefl r), if_pos (Nat.lt_succ_self r)]
    · rw [hother n _ r h, hr]
      simp [show r < n + 1 ↔ r < n by omega]

theorem region_foldN_onRegion (G : Nat → Ctx → Region → Region) (n : Nat) (s : State) :
    foldN n (fun r s => s.onRegion r (G r)) s = { s with regions := (foldN n (fun r s => s.onRegion r (G r)) s).regions }
      ∧ ∀ r, (foldN n (fun r s => s.onRegion r (G r)) s).region r = if r < n then G r (s.ctx r) (s.region r) else s.region r :=
  region_foldN (F := fun r s => s.onRegion r (G r)) (fun _ _ => rfl) (fun _ _ _ h => State.region_onRegion_of_ne _ h _)
    (fun _ _ => State.region_onRegion ..) n s

/-! ## Copies from register to register -/

/-- Each pair's first register takes the value of its second, in turn. -/
def copyRegs (l : List (Nat × Nat)) (R : Region) : Region := l.foldl (fun R p => R.setReg p.1 (R.reg p.2)) R

@[simp] theorem copyRegs_cons (p : Nat × Nat) (l : List (Nat × Nat)) (R : Region) :
    copyRegs (p :: l) R = copyRegs l (R.setReg p.1 (R.reg p.2)) := rfl

theorem copyRegs_append (l m : List (Nat × Nat)) (R : Region) : copyRegs (l ++ m) R = copyRegs m (copyRegs l R) :=
  List.foldl_append

theorem copyRegs_flatMap (n : Nat) (f : Nat → List (Nat × Nat)) (R : Region) :
    copyRegs ((List.range n).flatMap f) R = foldN n (fun i R => copyRegs (f i) R) R := List.foldl_flatMap

theorem copyRegs_map (n : Nat) (f : Nat → Nat × Nat) (R : Region) :
    copyRegs ((List.range n).map f) R = foldN n (fun i R => R.setReg (f i).1 (R.reg (f i).2)) R := List.foldl_map

theorem reg_copyRegs_of_not_mem {a : Nat} {l : List (Nat × Nat)} (h : ∀ lo, (a, lo) ∉ l) (R : Region) :
    (copyRegs l R).reg a = R.reg a := by
  induction l generalizing R with
  | nil => rfl
  | cons p l ih =>
    have hp : a ≠ p.1 := fun e => h p.2 (by simp [e])
    rw [copyRegs_cons, ih (fun lo hm => h lo (List.mem_cons_of_mem _ hm)), Region.reg_setReg_of_ne _ hp]

/-- Where no source is a target, and a target has one source, every target ends with its source's value. -/
theorem reg_copyRegs_of_mem {hi lo : Nat} {l : List (Nat × Nat)} (hs : ∀ p ∈ l, ∀ q ∈ l, p.2 ≠ q.1)
    (hf : ∀ p ∈ l, ∀ q ∈ l, p.1 = q.1 → p.2 = q.2) (hm : (hi, lo) ∈ l) (R : Region) : (copyRegs l R).reg hi = R.reg lo := by
  induction l generalizing R with
  | nil => cases hm
  | cons p l ih =>
    have hlo : lo ≠ p.1 := hs _ hm p List.mem_cons_self
    by_cases h : (hi, lo) ∈ l
    · rw [copyRegs_cons, ih (fun p hp q hq => hs p (.tail _ hp) q (.tail _ hq))
        (fun p hp q hq => hf p (.tail _ hp) q (.tail _ hq)) h, Region.reg_setReg_of_ne _ hlo]
    · have hnot : ∀ lo', (hi, lo') ∉ l := fun lo' hm' => by
        have e : lo' = lo := hf _ (.tail _ hm') _ hm rfl
        exact h (e ▸ hm')
      obtain rfl : (hi, lo) = p := (List.mem_cons.1 hm).resolve_right h
      rw [copyRegs_cons, reg_copyRegs_of_not_mem hnot, Region.reg_setReg]

/-- Registers that a function of the index fills, each with a value that does not depend on them. -/
theorem reg_foldN_setReg {dst : Nat → Nat} {val : Nat → Region → Word} (hinj : ∀ i j, dst i = dst j → i = j)
    (hval : ∀ i j v R, val i (Region.setReg R (dst j) v) = val i R) (n : Nat) (R : Region) :
    (∀ i, val i (foldN n (fun i R => R.setReg (dst i) (val i R)) R) = val i R)
      ∧ (∀ i, i < n → (foldN n (fun i R => R.setReg (dst i) (val i R)) R).reg (dst i) = val i R)
      ∧ ∀ a, (∀ i, i < n → a ≠ dst i) → (foldN n (fun i R => R.setReg (dst i) (val i R)) R).reg a = R.reg a := by
  induction n with
  | zero => exact ⟨fun _ => rfl, fun i h => absurd h (Nat.not_lt_zero i), fun _ _ => rfl⟩
  | succ n ih =>
    obtain ⟨hv, hd, ho⟩ := ih
    simp only [foldN_succ]
    refine ⟨fun i => by rw [hval, hv], fun i hi => ?_, fun a ha => ?_⟩
    · by_cases h : i = n
      · subst h; rw [Region.reg_setReg, hv]
      · rw [Region.reg_setReg_of_ne _ (fun e => h (hinj _ _ e)), hd i (by omega)]
    · rw [Region.reg_setReg_of_ne _ (ha n (Nat.lt_succ_self n)), ho a (fun i hi => ha i (Nat.lt_succ_of_lt hi))]

theorem append_halves (v : BitVec 64) : (((v >>> 32).truncate 32 : Word) ++ (v.truncate 32 : Word) : BitVec 64) = v := by
  refine BitVec.eq_of_getLsbD_eq fun i hi => ?_
  simp only [BitVec.truncate_eq_setWidth, BitVec.getLsbD_append, BitVec.getLsbD_setWidth, BitVec.getLsbD_ushiftRight]
  split
  · simp [*]
  · rw [show 32 + (i - 32) = i by omega]
    simp [show i - 32 < 32 by omega]

theorem Region.pairVal_setPair (R : Region) {lo hi : Nat} (h : lo ≠ hi) (v : BitVec 64) : (R.setPair lo hi v).pairVal lo hi = v := by
  rw [Region.pairVal, Region.setPair, Region.reg_setReg, Region.reg_setReg_of_ne _ h, Region.reg_setReg, append_halves]

theorem Chip.pair_setPair (h : Chip) {lo hi : Nat} (hne : lo ≠ hi) (v : BitVec 64) :
    ((h.setPair lo hi v).reg hi ++ (h.setPair lo hi v).reg lo : BitVec 64) = v := by
  rw [Chip.setPair, Chip.reg_setReg, Chip.reg_setReg_of_ne _ hne, Chip.reg_setReg, append_halves]

/-! ## The holding registers of a snapshot (R47) -/

/-- Holding registers and their counters, in the order in which they are copied, timers apart. -/
def snapPairs : List (Nat × Nat) :=
  (List.range 8).flatMap (fun u => (regAt Reg.FB_UN_SNAP_L u 0, regAt Reg.FB_UN_POS_L u 0)
      :: if fbWide u then [(regAt Reg.FB_UN_SNAP_H u 0, regAt Reg.FB_UN_POS_H u 0)] else [])
    ++ (List.range 64).map (fun a => (regAt Reg.AD_CH_ACC_SNAPCNT (a / 4) (a % 4), regAt Reg.AD_CH_ACC_SCOUNT (a / 4) (a % 4)))
    ++ [(Reg.AD_DIAG_SNAPCNT.base, Reg.AD_DIAG_SCOUNT.base)]
    ++ (List.range 8).flatMap (fun b => (List.range 11).map (fun w => (regAt Reg.TL_B_SNAP b w, regAt Reg.TL_B_RUN b w)))

/-- The counters of the timers, copied. -/
def snapTimers (R : Region) : Region := foldN 64 (fun n R => R.setReg (regAt Reg.TM_CH_SNAP n 0) (snapCount n R)) R

theorem snapCopy_eq (x : Ctx) (R : Region) :
    snapCopy x R = (copyRegs snapPairs (snapTimers R)).setPair Reg.RG_SNAPGT_L.base Reg.RG_SNAPGT_H.base x.gt := by
  have hwide (u : Nat) (R : Region) (p : Nat × Nat) : copyRegs (if fbWide u then [p] else []) R
      = if fbWide u then R.setReg p.1 (R.reg p.2) else R := by split <;> rfl
  unfold snapPairs
  rw [copyRegs_append, copyRegs_append, copyRegs_append, copyRegs_flatMap, copyRegs_map, copyRegs_flatMap]
  simp only [copyRegs_map, copyRegs_cons, hwide]
  rfl

theorem mem_snapPairs {lo hi : Nat} : (hi, lo) ∈ snapPairs ↔ SnapPair lo hi := by
  simp only [snapPairs, SnapPair, List.mem_append, List.mem_flatMap, List.mem_map, List.mem_range, List.mem_cons,
    List.mem_ite_nil_right, Prod.mk.injEq, List.not_mem_nil, or_false]
  constructor
  · rintro (((⟨u, hu, ⟨rfl, rfl⟩ | ⟨hw, rfl, rfl⟩⟩ | ⟨a, ha, rfl, rfl⟩) | ⟨rfl, rfl⟩) | ⟨b, hb, w, hw, rfl, rfl⟩)
    · exact .inl ⟨⟨u, hu⟩, rfl, rfl⟩
    · exact .inr (.inl ⟨⟨u, hu⟩, hw, rfl, rfl⟩)
    · exact .inr (.inr (.inl ⟨⟨a / 4, by omega⟩, ⟨a % 4, by omega⟩, rfl, rfl⟩))
    · exact .inr (.inr (.inr (.inl ⟨rfl, rfl⟩)))
    · exact .inr (.inr (.inr (.inr ⟨⟨b, hb⟩, ⟨w, hw⟩, rfl, rfl⟩)))
  · rintro (⟨u, rfl, rfl⟩ | ⟨u, hw, rfl, rfl⟩ | ⟨c, k, rfl, rfl⟩ | ⟨rfl, rfl⟩ | ⟨b, w, rfl, rfl⟩)
    · exact .inl (.inl (.inl ⟨u, u.isLt, .inl ⟨rfl, rfl⟩⟩))
    · exact .inl (.inl (.inl ⟨u, u.isLt, .inr ⟨hw, rfl, rfl⟩⟩))
    · have hdiv : (4 * c.val + k.val) / 4 = c := by omega
      have hmod : (4 * c.val + k.val) % 4 = k := by omega
      exact .inl (.inl (.inr ⟨4 * c.val + k.val, by omega, by rw [hdiv, hmod], by rw [hdiv, hmod]⟩))
    · exact .inl (.inr ⟨rfl, rfl⟩)
    · exact .inr ⟨b, b.isLt, w, w.isLt, rfl, rfl⟩

/-- The offsets of holding registers, and those of the counters they copy, as sets of numbers. -/
theorem SnapPair.ranges {lo hi : Nat} (h : SnapPair lo hi) :
    (∃ u, u < 8 ∧ hi = 0x40040 + 0x80 * u ∧ lo = 0x40008 + 0x80 * u) ∨ (∃ u, u < 8 ∧ hi = 0x40044 + 0x80 * u ∧ lo = 0x4000C + 0x80 * u)
      ∨ (∃ c k, c < 16 ∧ k < 4 ∧ hi = 0x11018 + 0x80 * c + 0x20 * k ∧ lo = 0x11014 + 0x80 * c + 0x20 * k)
      ∨ (hi = 0x11818 ∧ lo = 0x11814)
      ∨ (∃ b w, b < 8 ∧ w < 11 ∧ hi = 0xB0300 + 0x40 * b + 4 * w ∧ lo = 0xB0100 + 0x40 * b + 4 * w) := by
  rcases h with ⟨u, rfl, rfl⟩ | ⟨u, -, rfl, rfl⟩ | ⟨c, k, rfl, rfl⟩ | ⟨rfl, rfl⟩ | ⟨b, w, rfl, rfl⟩
  · exact .inl ⟨u, u.isLt, rfl, rfl⟩
  · exact .inr (.inl ⟨u, u.isLt, rfl, rfl⟩)
  · exact .inr (.inr (.inl ⟨c, k, c.isLt, k.isLt, rfl, rfl⟩))
  · exact .inr (.inr (.inr (.inl ⟨rfl, rfl⟩)))
  · exact .inr (.inr (.inr (.inr ⟨b, w, b.isLt, w.isLt, rfl, rfl⟩)))

/-- No counter is a holding register. -/
theorem SnapPair.source_ne {lo hi lo' hi' : Nat} (h : SnapPair lo hi) (h' : SnapPair lo' hi') : lo ≠ hi' := by
  obtain ⟨u, _, _, _⟩ | ⟨u, _, _, _⟩ | ⟨c, k, _, _, _, _⟩ | ⟨_, _⟩ | ⟨b, w, _, _, _, _⟩ := h.ranges <;>
  obtain ⟨u', _, _, _⟩ | ⟨u', _, _, _⟩ | ⟨c', k', _, _, _, _⟩ | ⟨_, _⟩ | ⟨b', w', _, _, _, _⟩ := h'.ranges <;> omega

/-- A holding register copies one counter. -/
theorem SnapPair.source_eq {lo lo' hi : Nat} (h : SnapPair lo hi) (h' : SnapPair lo' hi) : lo = lo' := by
  obtain ⟨u, _, _, _⟩ | ⟨u, _, _, _⟩ | ⟨c, k, _, _, _, _⟩ | ⟨_, _⟩ | ⟨b, w, _, _, _, _⟩ := h.ranges <;>
  obtain ⟨u', _, _, _⟩ | ⟨u', _, _, _⟩ | ⟨c', k', _, _, _, _⟩ | ⟨_, _⟩ | ⟨b', w', _, _, _, _⟩ := h'.ranges <;> omega

/-- The registers of timers and those of the snapshot's own state are in no pair. -/
theorem SnapPair.apart {lo hi a : Nat} (h : SnapPair lo hi) (ha : a < 0x30 ∨ 0x20000 ≤ a ∧ a < 0x30000) : lo ≠ a ∧ hi ≠ a := by
  obtain ⟨u, _, _, _⟩ | ⟨u, _, _, _⟩ | ⟨c, k, _, _, _, _⟩ | ⟨_, _⟩ | ⟨b, w, _, _, _, _⟩ := h.ranges <;> omega

/-! ## The timers' counters (R258) -/

theorem timerSnap_range (n : Nat) : regAt Reg.TM_CH_SNAP n 0 = 0x21014 + 0x40 * n := rfl

/-- The count at a snapshot does not depend on the holding registers. -/
theorem snapCount_setReg (n m : Nat) (v : Word) (R : Region) :
    snapCount n (R.setReg (regAt Reg.TM_CH_SNAP m 0) v) = snapCount n R := by
  have hcfg : regAt Reg.TM_CH_CFG n 0 ≠ regAt Reg.TM_CH_SNAP m 0 := by simp [regAt, Reg.TM_CH_CFG, Reg.TM_CH_SNAP]; omega
  have hcnt : regAt Reg.TM_CH_CNT n 0 ≠ regAt Reg.TM_CH_SNAP m 0 := by simp [regAt, Reg.TM_CH_CNT, Reg.TM_CH_SNAP]; omega
  have hrel : regAt Reg.TM_CH_RELOAD n 0 ≠ regAt Reg.TM_CH_SNAP m 0 := by simp [regAt, Reg.TM_CH_RELOAD, Reg.TM_CH_SNAP]; omega
  have hne : regAt Reg.TM_CH_RELOAD n 0 ≠ regAt Reg.TM_CH_CNT n 0 := by simp [regAt, Reg.TM_CH_RELOAD, Reg.TM_CH_CNT]
  have hlinked : (R.setReg (regAt Reg.TM_CH_SNAP m 0) v).linked n = R.linked n := by
    simp [Region.linked, Region.bit, Region.reg_setReg_of_ne _ hcfg]
  have hdue : (R.setReg (regAt Reg.TM_CH_SNAP m 0) v).countDue n = R.countDue n := by
    have hfield : (R.setReg (regAt Reg.TM_CH_SNAP m 0) v).field (regAt Reg.TM_CH_CFG n 0) 7 0 = R.field (regAt Reg.TM_CH_CFG n 0) 7 0 :=
      congrArg (bitsOf · 7 0) (Region.reg_setReg_of_ne _ hcfg v)
    rw [Region.countDue, hlinked, hfield]
    rfl
  unfold snapCount
  rw [hlinked, hdue]
  cases R.countDue n <;>
    simp [nextCount, Region.cnt, Region.tmRun, Region.reg_setReg_of_ne _ hcnt, Region.reg_setReg_of_ne _ hrel,
      Region.reg_setReg_of_ne _ hne]

theorem snapTimers_rest (R : Region) : { snapTimers R with regs := [] } = { R with regs := [] } := by
  refine foldN_keeps (fun Q : Region => { Q with regs := [] } = { R with regs := [] }) _ ?_ 64 rfl
  exact fun _ _ h => h

theorem reg_snapTimers (R : Region) :
    (∀ n, n < 64 → (snapTimers R).reg (regAt Reg.TM_CH_SNAP n 0) = snapCount n R)
      ∧ ∀ a, (∀ n, n < 64 → a ≠ regAt Reg.TM_CH_SNAP n 0) → (snapTimers R).reg a = R.reg a :=
  (reg_foldN_setReg (dst := fun n => regAt Reg.TM_CH_SNAP n 0) (val := snapCount)
    (fun i j h => by simpa [regAt, Reg.TM_CH_SNAP] using h) snapCount_setReg 64 R).2

/-! ## A region's snapshot -/

theorem copyRegs_rest (l : List (Nat × Nat)) (R : Region) : { copyRegs l R with regs := [] } = { R with regs := [] } := by
  induction l generalizing R with
  | nil => rfl
  | cons p l ih => exact ih _

theorem snapCopy_rest (x : Ctx) (R : Region) : { snapCopy x R with regs := [] } = { R with regs := [] } := by
  have hpair (Q : Region) (lo hi : Nat) (v : BitVec 64) : { Q.setPair lo hi v with regs := [] } = { Q with regs := [] } := rfl
  rw [snapCopy_eq, hpair, copyRegs_rest, snapTimers_rest]

/-- The registers after a snapshot: pairs, timers, the stamp, and all others. -/
theorem reg_snapCopy (x : Ctx) (R : Region) :
    (∀ lo hi, SnapPair lo hi → (snapCopy x R).reg hi = R.reg lo)
      ∧ (∀ n, n < 64 → (snapCopy x R).reg (regAt Reg.TM_CH_SNAP n 0) = snapCount n R)
      ∧ (snapCopy x R).pairVal Reg.RG_SNAPGT_L.base Reg.RG_SNAPGT_H.base = x.gt
      ∧ ∀ a, (∀ lo, ¬ SnapPair lo a) → (∀ n, n < 64 → a ≠ regAt Reg.TM_CH_SNAP n 0) →
        a ∉ [Reg.RG_SNAPGT_L.base, Reg.RG_SNAPGT_H.base] → (snapCopy x R).reg a = R.reg a := by
  obtain ⟨htimer, hother⟩ := reg_snapTimers R
  have hstamp {a : Nat} (h : a ∉ [Reg.RG_SNAPGT_L.base, Reg.RG_SNAPGT_H.base]) (Q : Region) :
      (Q.setPair Reg.RG_SNAPGT_L.base Reg.RG_SNAPGT_H.base x.gt).reg a = Q.reg a := by
    simp only [List.mem_cons, List.not_mem_nil, or_false, not_or] at h
    rw [Region.setPair, Region.reg_setReg_of_ne _ h.2, Region.reg_setReg_of_ne _ h.1]
  have hpair {lo hi : Nat} (h : SnapPair lo hi) (Q : Region) : (copyRegs snapPairs Q).reg hi = Q.reg lo :=
    reg_copyRegs_of_mem (fun p hp q hq => (mem_snapPairs.1 hp).source_ne (mem_snapPairs.1 hq))
      (fun p hp q hq e => (mem_snapPairs.1 hp).source_eq (by rw [e]; exact mem_snapPairs.1 hq)) (mem_snapPairs.2 h) Q
  have hkept {a : Nat} (h : ∀ lo, ¬ SnapPair lo a) (Q : Region) : (copyRegs snapPairs Q).reg a = Q.reg a :=
    reg_copyRegs_of_not_mem (fun lo hm => h lo (mem_snapPairs.1 hm)) Q
  rw [snapCopy_eq]
  refine ⟨fun lo hi h => ?_, fun n hn => ?_, ?_, fun a hp ht hs => ?_⟩
  · rw [hstamp (by simp [(h.apart (a := Reg.RG_SNAPGT_L.base) (by decide)).2, (h.apart (a := Reg.RG_SNAPGT_H.base) (by decide)).2]),
      hpair h, hother _ (fun n hn => (h.apart (by rw [timerSnap_range]; omega)).1)]
  · rw [hstamp (by rw [timerSnap_range]; simp [Reg.RG_SNAPGT_L, Reg.RG_SNAPGT_H]; omega),
      hkept (fun lo h => (h.apart (by rw [timerSnap_range]; omega)).2 rfl), htimer n hn]
  · exact Region.pairVal_setPair _ (by decide) _
  · rw [hstamp hs, hkept hp, hother a ht]

theorem snapCount_of_unlinked {n : Nat} {R : Region} (h : (R.linked n && R.tmRun n) = false) : snapCount n R = R.cnt n := by
  rw [snapCount, h]; rfl

theorem snapCount_of_linked {n : Nat} {R : Region} (hl : R.linked n = true) (hr : R.tmRun n = true) (hd : R.countDue n = false) :
    snapCount n R = if R.tm.carryNext.contains n then (nextCount n R).1 else R.cnt n := by
  rw [snapCount, hl, hr, hd]; rfl

/-- A snapshot taken, as the region's state then is. -/
theorem snapTaken_of_copy (wide : Nat) (x : Ctx) (R : Region) :
    SnapTaken (wide != 0) x.gt R ((snapCopy x R).setReg Reg.RG_SNAPSTAT.base (BitVec.ofNat 32 (if wide = 0 then 1 else 3))) := by
  obtain ⟨hpair, htimer, hstamp, hother⟩ := reg_snapCopy x R
  have hn (n : Nat) : regAt Reg.TM_CH_SNAP n 0 ≠ Reg.RG_SNAPSTAT.base := by rw [timerSnap_range]; simp [Reg.RG_SNAPSTAT]; omega
  refine ⟨fun lo hi h => ?_, fun n h => ?_, fun n hl hr hd => ?_, ?_, ?_, fun a hp ht hs => ?_⟩
  · rw [Region.reg_setReg_of_ne _ (h.apart (by decide)).2, hpair lo hi h]
  · rw [Region.reg_setReg_of_ne _ (hn n), htimer n n.isLt, snapCount_of_unlinked h]; rfl
  · rw [Region.reg_setReg_of_ne _ (hn n), htimer n n.isLt, snapCount_of_linked hl hr hd]; rfl
  · rw [Region.reg_setReg]
    rcases Nat.eq_zero_or_pos wide with h | h
    · simp [h]
    · simp [show wide ≠ 0 by omega, show (wide != 0) = true by simp; omega]
  · rw [← hstamp, Region.pairVal, Region.reg_setReg_of_ne _ (by decide), Region.reg_setReg_of_ne _ (by decide)]; rfl
  · simp only [List.mem_cons, not_or] at hs
    rw [Region.reg_setReg_of_ne _ hs.1, hother a hp (fun n hn => ht ⟨n, hn⟩) (by simpa using hs.2)]

/-! ## The snapshot edge -/

theorem Region.setReg_rest (R : Region) (a : Nat) (v : Word) : { R.setReg a v with regs := [] } = { R with regs := [] } := rfl

/-- The commands of its own that an edge answers, and the region with them answered. -/
def snapWaiting (own : Bool) (R : Region) : Nat := if own then R.snapReq else 0
def snapCleared (own : Bool) (R : Region) : Region := if own then { R with snapReq := 0 } else R

theorem snapArrive_of_none {own : Bool} {wide : Nat} {R : Region} (h : snapWaiting own R + wide = 0 ∨ R.inReset = true) (x : Ctx) :
    snapArrive own wide x R = snapCleared own R := by
  refine if_pos ?_
  rw [Bool.or_eq_true, beq_iff_eq]
  exact h.symm.imp_left (fun hr => by cases own <;> exact hr)

theorem snapArrive_of_busy {own : Bool} {wide : Nat} {R : Region} (hn : snapWaiting own R + wide ≠ 0) (hr : R.inReset = false)
    (hb : R.bit Reg.RG_SNAPSTAT.base 0 = true) (x : Ctx) :
    snapArrive own wide x R = (snapCleared own R).count Reg.RG_SNAP_DROP.base (snapWaiting own R + wide) := by
  refine (if_neg ?_).trans (if_pos ?_)
  · rw [Bool.or_eq_true, beq_iff_eq, not_or]
    exact ⟨by cases own <;> simp [hr], hn⟩
  · cases own <;> exact hb

theorem snapArrive_of_free {own : Bool} {wide : Nat} {R : Region} (hn : snapWaiting own R + wide ≠ 0) (hr : R.inReset = false)
    (hb : R.bit Reg.RG_SNAPSTAT.base 0 = false) (x : Ctx) : snapArrive own wide x R
      = (snapCopy x (snapCleared own R)).setReg Reg.RG_SNAPSTAT.base (BitVec.ofNat 32 (if wide = 0 then 1 else 3)) := by
  refine (if_neg ?_).trans (if_neg ?_)
  · rw [Bool.or_eq_true, beq_iff_eq, not_or]
    exact ⟨by cases own <;> simp [hr], hn⟩
  · cases own <;> exact Bool.eq_false_iff.1 hb

/-- An arrival changes nothing in a region but registers and the commands that wait. -/
theorem snapArrive_rest (own : Bool) (wide : Nat) (x : Ctx) (R : Region) :
    { snapArrive own wide x R with regs := [] } = { snapCleared own R with regs := [] } := by
  by_cases h : snapWaiting own R + wide = 0 ∨ R.inReset = true
  · rw [snapArrive_of_none h]
  · obtain ⟨hn, hr⟩ := not_or.1 h
    rw [Bool.not_eq_true] at hr
    cases hb : R.bit Reg.RG_SNAPSTAT.base 0 with
    | true => rw [snapArrive_of_busy hn hr hb, Region.count, Region.setReg_rest]
    | false => rw [snapArrive_of_free hn hr hb, Region.setReg_rest, snapCopy_rest]

theorem rest_of_cleared {own : Bool} {R t : Region} (h : { t with regs := [] } = { snapCleared own R with regs := [] }) :
    ({ t with regs := [], snapReq := 0 } : Region) = { R with regs := [], snapReq := 0 }
      ∧ t.snapReq = if own then 0 else R.snapReq := by
  refine ⟨(congrArg (fun Q : Region => { Q with snapReq := 0 }) h).trans ?_, (congrArg Region.snapReq h).trans ?_⟩ <;>
    cases own <;> rfl

theorem reg_snapCleared (own : Bool) (R : Region) (a : Nat) : (snapCleared own R).reg a = R.reg a := by cases own <;> rfl

theorem SnapTaken.of_cleared {own wide : Bool} {gt : Ticks} {R t : Region} (h : SnapTaken wide gt (snapCleared own R) t) :
    SnapTaken wide gt R t := by cases own <;> exact h

/-- The chip's own part of a snapshot edge. -/
def snapChip (chip : Bool) (s : State) : Chip :=
  let n := if chip then s.chip.snapReq else 0
  let h := if chip then { s.chip with snapReq := 0 } else s.chip
  if n = 0 then h
  else if (s.chipReg Reg.CH_SNAPSTAT.base).getLsbD 0 then h.count Reg.CH_SNAP_DROP.base n
  else (h.setReg Reg.CH_SNAPSTAT.base 1).setPair Reg.CH_SNAPGT_L.base Reg.CH_SNAPGT_H.base s.time.gtime

theorem snapEdge_eq (m : BitVec 8) (chip : Bool) (s : State) {wide : Nat}
    (hw : wide = if (s.chipReg Reg.CH_SNAPSTAT.base).getLsbD 0 then 0 else if chip then s.chip.snapReq else 0) :
    snapEdge m chip s
      = foldN 8 (fun r s => s.onRegion r (snapArrive (m.getLsbD r) wide)) { s with chip := snapChip chip s } := by
  subst hw
  unfold snapEdge snapChip
  cases chip with
  | false => rfl
  | true =>
    by_cases hn : s.chip.snapReq = 0
    · simp [hn]
    · cases hb : (s.chipReg Reg.CH_SNAPSTAT.base).getLsbD 0 <;> simp [hn]

/-- The chip registers that a snapshot edge changes. -/
def snapChipRegs (n : Nat) (busy : Bool) : List Nat :=
  if n = 0 then [] else if busy then [Reg.CH_SNAP_DROP.base]
    else [Reg.CH_SNAPSTAT.base, Reg.CH_SNAPGT_L.base, Reg.CH_SNAPGT_H.base]

/-- The three outcomes of the edge for the chip: no command of its own, one dropped, or one taken. -/
theorem snapChip_spec (chip busy : Bool) (n : Nat) (s : State) (hn : n = if chip then s.chip.snapReq else 0)
    (hb : busy = (s.chipReg Reg.CH_SNAPSTAT.base).getLsbD 0) :
    ({ snapChip chip s with regs := [], snapReq := 0 } : Chip) = { s.chip with regs := [], snapReq := 0 }
      ∧ (snapChip chip s).snapReq = (if chip then 0 else s.chip.snapReq)
      ∧ ChipRegsBut (snapChipRegs n busy) s.chip (snapChip chip s)
      ∧ (n ≠ 0 → busy = true → (snapChip chip s).reg Reg.CH_SNAP_DROP.base = satAdd 0xFFFF (s.chipReg Reg.CH_SNAP_DROP.base) n)
      ∧ (n ≠ 0 → busy = false → (snapChip chip s).reg Reg.CH_SNAPSTAT.base = 1
        ∧ ((snapChip chip s).reg Reg.CH_SNAPGT_H.base ++ (snapChip chip s).reg Reg.CH_SNAPGT_L.base : BitVec 64) = s.time.gtime) := by
  unfold snapChip
  rw [← hn, ← hb]
  have hreg (a : Nat) : (if chip then { s.chip with snapReq := 0 } else s.chip).reg a = s.chip.reg a := by cases chip <;> rfl
  dsimp only
  generalize hh : (if chip then { s.chip with snapReq := 0 } else s.chip) = h at hreg ⊢
  have hrest : ({ h with regs := [], snapReq := 0 } : Chip) = { s.chip with regs := [], snapReq := 0 } := by
    subst hh; cases chip <;> rfl
  have hreq : h.snapReq = if chip then 0 else s.chip.snapReq := by subst hh; cases chip <;> rfl
  by_cases h0 : n = 0
  · rw [if_pos h0]
    exact ⟨hrest, hreq, fun a _ => hreg a, fun hne => absurd h0 hne, fun hne => absurd h0 hne⟩
  · rw [if_neg h0]
    cases busy with
    | true =>
      refine ⟨hrest, hreq, fun a ha => ?_, fun _ _ => ?_, fun _ hne => by cases hne⟩
      · rw [snapChipRegs, if_neg h0] at ha
        exact (Chip.reg_setReg_of_ne h (by simpa using ha) _).trans (hreg a)
      · exact (Chip.reg_setReg ..).trans (by rw [hreg]; rfl)
    | false =>
      refine ⟨hrest, hreq, fun a ha => ?_, fun _ hne => (by cases hne), fun _ _ => ⟨?_, ?_⟩⟩
      · rw [snapChipRegs, if_neg h0] at ha
        simp only [List.mem_cons, not_or, reduceIte, Bool.false_eq_true] at ha
        obtain ⟨hstat, hlo, hhi, -⟩ := ha
        rw [if_neg (by decide), Chip.setPair, Chip.reg_setReg_of_ne _ hhi, Chip.reg_setReg_of_ne _ hlo,
          Chip.reg_setReg_of_ne _ hstat, hreg]
      · rw [if_neg (by decide), Chip.setPair, Chip.reg_setReg_of_ne _ (by decide), Chip.reg_setReg_of_ne _ (by decide), Chip.reg_setReg]
      · exact Chip.pair_setPair _ (by decide) _

/-- Region `r` after a snapshot edge. -/
theorem region_snapEdge (m : BitVec 8) (chip : Bool) (s : State) {wide : Nat}
    (hw : wide = if (s.chipReg Reg.CH_SNAPSTAT.base).getLsbD 0 then 0 else if chip then s.chip.snapReq else 0) (r : RegionId) :
    ∃ x : Ctx, x.gt = s.time.gtime ∧ (snapEdge m chip s).region r = snapArrive (m.getLsbD r) wide x (s.region r) := by
  refine ⟨{ s with chip := snapChip chip s }.ctx r, rfl, ?_⟩
  rw [snapEdge_eq m chip s hw, (region_foldN_onRegion (fun r => snapArrive (m.getLsbD r) wide) 8 _).2, if_pos r.isLt]
  rfl

theorem state_snapEdge (m : BitVec 8) (chip : Bool) (s : State) :
    snapEdge m chip s = { s with chip := snapChip chip s, regions := (snapEdge m chip s).regions } := by
  have h := (region_foldN_onRegion (fun r => snapArrive (m.getLsbD r) (if (s.chipReg Reg.CH_SNAPSTAT.base).getLsbD 0 then 0
    else if chip then s.chip.snapReq else 0)) 8 { s with chip := snapChip chip s }).1
  rw [snapEdge_eq m chip s rfl]
  exact h

/-- What the edge makes of a region, by the number of commands that reach it and whether it is busy. -/
theorem snapArrive_spec (own : Bool) (wide : Nat) (x : Ctx) (R : Region) :
    (snapWaiting own R + wide = 0 ∨ R.inReset = true → RegsBut [] R (snapArrive own wide x R))
      ∧ (snapWaiting own R + wide ≠ 0 → R.inReset = false → R.bit Reg.RG_SNAPSTAT.base 0 = true →
        RegsBut [Reg.RG_SNAP_DROP.base] R (snapArrive own wide x R)
          ∧ (snapArrive own wide x R).reg Reg.RG_SNAP_DROP.base
            = satAdd 0xFFFF (R.reg Reg.RG_SNAP_DROP.base) (snapWaiting own R + wide))
      ∧ (snapWaiting own R + wide ≠ 0 → R.inReset = false → R.bit Reg.RG_SNAPSTAT.base 0 = false →
        SnapTaken (wide != 0) x.gt R (snapArrive own wide x R)) := by
  refine ⟨fun h a _ => ?_, fun hn hr hb => ⟨fun a ha => ?_, ?_⟩, fun hn hr hb => ?_⟩
  · rw [snapArrive_of_none h, reg_snapCleared]
  · rw [snapArrive_of_busy hn hr hb, Region.reg_count_of_ne _ (by simpa using ha), reg_snapCleared]
  · rw [snapArrive_of_busy hn hr hb, Region.reg_count, reg_snapCleared]
  · rw [snapArrive_of_free hn hr hb]
    exact (snapTaken_of_copy wide x _).of_cleared

/-- BUSY falls in a region that has completed (R48). -/
def snapOver (done : Bool) (R : Region) : Region := if done then R.setBit Reg.RG_SNAPSTAT.base 0 false else R

theorem snapDone_spec (m : BitVec 8) (chip : Bool) (s : State) :
    snapDone m chip s = { (if chip then s.setChipReg Reg.CH_SNAPSTAT.base 0 else s) with regions := (snapDone m chip s).regions }
      ∧ ∀ r : RegionId, (snapDone m chip s).region r = snapOver (m.getLsbD r) (s.region r) := by
  obtain ⟨hs, hr⟩ := region_foldN (F := fun r s => if m.getLsbD r then s.onRegion r (fun _ R => R.setBit Reg.RG_SNAPSTAT.base 0 false) else s)
    (G := fun r _ R => snapOver (m.getLsbD r) R) (fun r s => by split <;> rfl)
    (fun q s r h => by split <;> [exact State.region_onRegion_of_ne _ h _; rfl])
    (fun r s => by unfold snapOver; split <;> [exact State.region_onRegion ..; rfl])
    8 (if chip then s.setChipReg Reg.CH_SNAPSTAT.base 0 else s)
  refine ⟨hs, fun r => (hr r).trans ?_⟩
  rw [if_pos r.isLt]
  cases chip <;> rfl

theorem snapOver_spec (done : Bool) (R : Region) :
    ({ snapOver done R with regs := [] } : Region) = { R with regs := [] } ∧ RegsBut [Reg.RG_SNAPSTAT.base] R (snapOver done R)
      ∧ (snapOver done R).reg Reg.RG_SNAPSTAT.base =
        if done then setBit (R.reg Reg.RG_SNAPSTAT.base) 0 false else R.reg Reg.RG_SNAPSTAT.base := by
  cases done with
  | false => exact ⟨rfl, fun _ _ => rfl, rfl⟩
  | true => exact ⟨rfl, fun a ha => Region.reg_setBit_of_ne _ (by simpa using ha) _ _, Region.reg_setBit ..⟩

/-- The chip's own BUSY falls. -/
def snapChipDone (chip : Bool) (h : Chip) : Chip := if chip then h.setReg Reg.CH_SNAPSTAT.base 0 else h

theorem snapChipDone_spec (chip : Bool) (h : Chip) :
    ({ snapChipDone chip h with regs := [] } : Chip) = { h with regs := [] }
      ∧ ChipRegsBut [Reg.CH_SNAPSTAT.base] h (snapChipDone chip h)
      ∧ (snapChipDone chip h).reg Reg.CH_SNAPSTAT.base = if chip then 0 else h.reg Reg.CH_SNAPSTAT.base := by
  cases chip with
  | false => exact ⟨rfl, fun _ _ => rfl, rfl⟩
  | true => exact ⟨rfl, fun a ha => Chip.reg_setReg_of_ne _ (by simpa using ha) _, Chip.reg_setReg ..⟩

theorem gtArm_time (v : Word) (s : State) :
    (gtArm v s).time = { s.time with step := some (v ++ s.chipReg Reg.CH_GTSTEP_L.base : BitVec 64) } := by
  have h : (s.setChipReg Reg.CH_GTSTEP_H.base v).chipReg Reg.CH_GTSTEP_L.base = s.chipReg Reg.CH_GTSTEP_L.base :=
    State.chipReg_setChipReg_of_ne _ (by decide) _
  simp [gtArm, h]

/-! ## The obligation -/

/-- A completed snapshot edge, in the obligation's words. -/
theorem snapshotEdge_completes (m : BitVec 8) (chip busy : Bool) (n : Nat) (s : State) (hn : n = (if chip then s.chip.snapReq else 0))
    (hb : busy = (s.chipReg Reg.CH_SNAPSTAT.base).getLsbD 0) :
    ChipBut (fun h => { h with snapReq := 0 }) (snapChipRegs n busy) { s with regions := (snapEdge m chip s).regions } (snapEdge m chip s)
      ∧ ∀ (r : RegionId) (wide : Nat), wide = (if busy then 0 else n) → ∃ x : Ctx, x.gt = s.time.gtime
        ∧ (snapEdge m chip s).region r = snapArrive (m.getLsbD r) wide x (s.region r) := by
  obtain ⟨hrest, -, hregs, -⟩ := snapChip_spec chip busy n s hn hb
  have hchip : (snapEdge m chip s).chip = snapChip chip s := congrArg State.chip (state_snapEdge m chip s)
  refine ⟨⟨?_, by rw [hchip]; exact hrest, by rw [hchip]; exact hregs⟩, fun r wide hw => ?_⟩
  · rw [OnlyChip, hchip]; exact state_snapEdge m chip s
  · subst hb hn
    exact region_snapEdge m chip s hw r

/-- Settles O21: a region's arrival of commands has three outcomes (`snapArrive_of_none`, `_of_busy`, `_of_free`); in the
last the copies do not disturb one another, for no counter is a holding register. -/
theorem snapshotsAndTimeSteps : Obligations.SnapshotsAndTimeSteps := by
  unfold Obligations.SnapshotsAndTimeSteps
  refine ⟨⟨fun r s hl => ⟨_, rfl, ?_⟩, fun s => ⟨_, rfl, rfl⟩, fun m chip busy n s hn hb => ⟨_, rfl, ?_⟩,
    fun m chip s => ⟨_, rfl, ?_⟩⟩, fun v s => ⟨_, rfl, ?_⟩, fun d s hd => ⟨fun hfree => ⟨_, rfl, ?_⟩, fun harmed => ⟨_, rfl, ?_⟩⟩⟩
  · rw [regionAccess_live hl]
    exact ⟨OnlyRegion.onRegion .., State.region_onRegion ..⟩
  · obtain ⟨hbut, hregion⟩ := snapshotEdge_completes m chip busy n s hn hb
    obtain ⟨-, hreq, -, hdrop, htaken⟩ := snapChip_spec chip busy n s hn hb
    have hchip : (snapEdge m chip s).chip = snapChip chip s := congrArg State.chip (state_snapEdge m chip s)
    refine ⟨hbut, by rw [hchip]; exact hreq, ?_, ?_, fun r own wide hown hwide => ?_⟩
    · rw [State.chipReg, hchip]; exact hdrop
    · rw [State.chipReg, State.chipReg, State.chipReg, hchip]; exact htaken
    · obtain ⟨x, hx, hr⟩ := hregion r wide hwide
      obtain ⟨hrest, hwait⟩ := rest_of_cleared (snapArrive_rest (m.getLsbD r) wide x (s.region r))
      have hspec := snapArrive_spec (m.getLsbD r) wide x (s.region r)
      rw [← hr] at hrest hwait hspec
      rw [hx, show snapWaiting (m.getLsbD r) (s.region r) = own from hown.symm] at hspec
      exact ⟨hrest, hwait, hspec⟩
  · obtain ⟨hs, hr⟩ := snapDone_spec m chip s
    have hchip : (snapDone m chip s).chip = snapChipDone chip s.chip := by rw [hs]; cases chip <;> rfl
    obtain ⟨hrest, hregs, hstat⟩ := snapChipDone_spec chip s.chip
    refine ⟨⟨?_, by rw [hchip]; exact hrest, by rw [hchip]; exact hregs⟩, by rw [State.chipReg, hchip]; exact hstat, fun r => ?_⟩
    · rw [OnlyChip, hchip]
      refine hs.trans ?_
      cases chip <;> rfl
    · rw [hr r]
      exact snapOver_spec ..
  · exact ⟨rfl, ⟨rfl, rfl, fun a ha => Chip.reg_setReg_of_ne _ (by simpa using ha) _⟩, Chip.reg_setReg .., gtArm_time v s⟩
  · refine gtApply_of_due hd ?_
    rw [← Bool.not_eq_true, anyArmed_iff]
    rintro ⟨r, g, h⟩
    rw [hfree r g] at h
    cases h
  · exact gtApply_of_waits (.inr ((anyArmed_iff s).2 harmed))

end Sys2Proof.Machine
end

section
/-!
PROOFS. Plain register writes (O35): FP_OUT, which the statement lists as plain, keeps the bits that timed actions of the
edge made (R389).
-/

namespace Sys2Proof.Machine

/-- A region out of reset and in L0 whose field pin 0 a timed action of the coming edge has driven low. -/
def pinActed : Region := { regionInit with inReset := false, fp := [(0, { fieldPinInit with acted := some 0 })] }

def pinActedState : State := State.reset.setRegion 0 pinActed

theorem live_pinActedState : Live 0 pinActedState := ⟨by decide, by decide⟩

/-- A write of 1 to FP_OUT leaves pin 0 as the timed action made it. -/
theorem pinActed_keeps :
    ((pinActedState.writeReg false (some 0) Reg.FP_OUT.base 1).2.region 0).reg Reg.FP_OUT.base = 0 := by decide

/-- Refutes O35: with pin 0 driven low by a timed action of the coming edge, a write of 1 to FP_OUT leaves bit 0 at 0. -/
theorem not_registerWrites : ¬ Obligations.RegisterWrites := by
  unfold Obligations.RegisterWrites
  rintro ⟨hplain, -⟩
  obtain ⟨t, ht, -, hreg⟩ := hplain 0 Reg.FP_OUT 0 0 Reg.FP_OUT.base 1 pinActedState live_pinActedState (by decide)
    (by decide) (by decide) rfl
  obtain rfl : (pinActedState.writeReg false (some 0) Reg.FP_OUT.base 1).2 = t := by
    rw [show exec (.registerWrite (some 0) Reg.FP_OUT.base 1) pinActedState
      = .next (pinActedState.writeReg false (some 0) Reg.FP_OUT.base 1).2 from rfl] at ht
    injection ht
  have hkept : ((pinActedState.writeReg false (some 0) Reg.FP_OUT.base 1).2.region (0 : RegionId)).reg Reg.FP_OUT.base = 0 :=
    pinActed_keeps
  rw [hkept] at hreg
  exact absurd hreg (by decide)

end Sys2Proof.Machine
end

section
/-!
PROOFS. The lasting parts of the state - queue, GTIME, one-time store - and what leaves them alone in regions, cells,
the journal (O60).
-/

namespace Sys2Proof.Machine

/-! ## O60: what no command does -/

/-- The parts of the state that commands leave alone but for a few: the queue, GTIME and the one-time store. -/
def State.lasting (s : State) : List Instr × Ticks × FMap Byte := (s.pending, s.time.gtime, s.chip.boot.otp)

/-- Reads of these parts, in one spelling; for goals that spell out a state field by field. -/
theorem State.lasting_parts (s : State) :
    s.pending = s.lasting.1 ∧ s.time.gtime = s.lasting.2.1 ∧ s.chip.boot.otp = s.lasting.2.2 := ⟨rfl, rfl, rfl⟩

@[simp] theorem State.lasting_mk (p : List Instr) (n : Nat) (t : Time) (h : Chip) (m : FMap Region) (o : List Out)
    (a : Option HostAnswer) : (State.mk p n t h m o a).lasting = (p, t.gtime, h.boot.otp) := rfl

@[simp] theorem lasting_ite (c : Prop) [Decidable c] (s t : State) :
    (if c then s else t).lasting = if c then s.lasting else t.lasting := apply_ite ..

@[simp] theorem lasting_setRegion (s : State) (r : Nat) (R : Region) : (s.setRegion r R).lasting = s.lasting := (rfl)
@[simp] theorem lasting_setCell (s : State) (c : Nat) (k : Cell) : (s.setCell c k).lasting = s.lasting := (rfl)
@[simp] theorem lasting_onRegion (s : State) (r : Nat) (f : Ctx → Region → Region) :
    (s.onRegion r f).lasting = s.lasting := (rfl)
@[simp] theorem lasting_onCell (s : State) (c : Nat) (f : Cell → Cell) : (s.onCell c f).lasting = s.lasting := (rfl)
@[simp] theorem lasting_setChipReg (s : State) (a : Nat) (v : Word) : (s.setChipReg a v).lasting = s.lasting := (rfl)
@[simp] theorem lasting_answer (s : State) (a : HostAnswer) : (s.answer a).lasting = s.lasting := (rfl)
@[simp] theorem lasting_took (s : State) (n : Nat) : (s.took n).lasting = s.lasting := (rfl)
@[simp] theorem lasting_setEthPort (s : State) (p : Nat) (e : EthPort) : (s.setEthPort p e).lasting = s.lasting := (rfl)
@[simp] theorem lasting_setXlPort (s : State) (p : Nat) (e : XlPort) : (s.setXlPort p e).lasting = s.lasting := (rfl)
@[simp] theorem lasting_onXl (s : State) (p : Nat) (f : XlPort → XlPort) : (s.onXl p f).lasting = s.lasting := (rfl)

@[simp] theorem lasting_foldN {f : Nat → State → State} (hf : ∀ i s, (f i s).lasting = s.lasting) (n : Nat) (s : State) :
    (foldN n f s).lasting = s.lasting :=
  foldN_keeps (fun t => t.lasting = s.lasting) f (fun i a h => (hf i a).trans h) n rfl

@[simp] theorem lasting_foldl {α : Type} {f : State → α → State} (hf : ∀ s x, (f s x).lasting = s.lasting) :
    ∀ (l : List α) (s : State), (l.foldl f s).lasting = s.lasting
  | [], _ => rfl
  | x :: l, s => (lasting_foldl hf l (f s x)).trans (hf s x)

@[simp] theorem otp_ite (c : Prop) [Decidable c] (h k : Chip) :
    (if c then h else k).boot.otp = if c then h.boot.otp else k.boot.otp := by split <;> rfl

@[simp] theorem otp_foldN {f : Nat → Chip → Chip} (hf : ∀ i h, (f i h).boot.otp = h.boot.otp) (n : Nat) (h : Chip) :
    (foldN n f h).boot.otp = h.boot.otp :=
  foldN_keeps (fun k => k.boot.otp = h.boot.otp) f (fun i a e => (hf i a).trans e) n rfl

/-! ### Regions, memories -/

@[simp] theorem lasting_regionResetFor (r bit : Nat) (s : State) : (regionResetFor r bit s).lasting = s.lasting := (rfl)

@[simp] theorem lasting_rclkLost (r : Nat) (s : State) : (rclkLost r s).lasting = s.lasting := (rfl)

@[simp] theorem lasting_pllSet (r : Nat) (v : Word) (s : State) : (pllSet r v s).lasting = s.lasting := by
  simp [pllSet, State.lasting_parts]

@[simp] theorem lasting_awake (s : State) (r : Nat) : (s.awake r).lasting = s.lasting := by
  unfold State.awake
  split <;> simp [State.lasting_parts]

@[simp] theorem lasting_readRegion (s : State) (r a : Nat) : (s.readRegion r a).2.lasting = s.lasting := by
  simp [State.readRegion]

@[simp] theorem lasting_writeRegion (s : State) (host : Bool) (r a : Nat) (v : Word) :
    (s.writeRegion host r a v).2.lasting = s.lasting := by simp [State.writeRegion, State.lasting_parts]

@[simp] theorem lasting_readMem (s : State) (r : Nat) (p : Place) (n : Nat) :
    (s.readMem r p n).2.lasting = s.lasting := by
  simp [State.readMem]

@[simp] theorem lasting_writeMem (s : State) (r : Nat) (p : Place) (bs : List Byte) :
    (s.writeMem r p bs).2.lasting = s.lasting := by simp [State.writeMem]

/-- The state that a computation leaves, once its result is known. -/
theorem lasting_of_eq {α : Type} {p : α × State} {s : State} (hp : p.2.lasting = s.lasting) {a : α} {t : State} (h : p = (a, t)) :
    t.lasting = s.lasting := by subst h; exact hp

@[simp] theorem lasting_rmem (s : State) (r o n : Nat) : (s.rmem r o n).2.lasting = s.lasting := by
  unfold State.rmem
  split <;> exact lasting_of_eq (lasting_readMem ..) ‹_›

@[simp] theorem lasting_setRmem (s : State) (r o : Nat) (bs : List Byte) : (s.setRmem r o bs).lasting = s.lasting := by
  simp [State.setRmem]

@[simp] theorem lasting_post (s : State) (r src : Nat) : (s.post r src).lasting = s.lasting := by simp [State.post]

/-! ### Cells -/

@[simp] theorem lasting_dmRead (s : State) (c a n : Nat) :
    (s.dmRead c a n).2.lasting = s.lasting := by simp [State.dmRead]

@[simp] theorem lasting_dmWrite (s : State) (c a seq : Nat) (bs : List Byte) :
    (s.dmWrite c a seq bs).lasting = s.lasting := by
  have h := lasting_writeMem s (c / 128) (.dmem (c % 128) a) bs
  unfold State.dmWrite
  split <;> simpa [*] using h

@[simp] theorem lasting_storeOut (c : Nat) (e : StoreEntry) (s : State) : (storeOut c e s).lasting = s.lasting := by
  unfold storeOut
  split <;> simp

@[simp] theorem lasting_storeLeave (c : Nat) (s : State) : (storeLeave c s).lasting = s.lasting := by
  unfold storeLeave
  split <;> simp

theorem lasting_drainDmem (c : Nat) :
    ∀ (l : List StoreEntry) {s t : State}, drainDmem c l s = some t → t.lasting = s.lasting
  | [], s, t, h => by cases h; rfl
  | e :: l, s, t, h => by
    unfold drainDmem at h
    split at h
    · split at h
      · simpa using lasting_drainDmem c l h
      · cases h
    · cases h; rfl

theorem lasting_settle {c : Nat} {s t : State} (h : settle c s = some t) :
    t.lasting = s.lasting := lasting_drainDmem c _ h

@[simp] theorem lasting_excTop (c : Nat) (s : State) : (excTop c s).2.lasting = s.lasting := by
  unfold excTop
  split <;> exact lasting_of_eq (lasting_dmRead ..) ‹_›

@[simp] theorem lasting_frameTop (c : Nat) (s : State) : (frameTop c s).2.lasting = s.lasting := by
  unfold frameTop
  dsimp only
  split <;> simp

@[simp] theorem lasting_writeFrame (c top : Nat) (fpc : BitVec 13) (cause addr instr : Word) (s : State) :
    (writeFrame c top fpc cause addr instr s).lasting = s.lasting := by simp [writeFrame]

@[simp] theorem lasting_enterAt (c top vector : Nat) (stat : Word) (s : State) :
    (enterAt c top vector stat s).lasting = s.lasting := (rfl)

@[simp] theorem lasting_escalate (c detail evec edet flags : Nat) (fpc : BitVec 13) (addr instr : Word) (s : State) :
    (escalate c detail evec edet flags fpc addr instr s).lasting = s.lasting := by simp [escalate]

@[simp] theorem lasting_enterSync (c top : Nat) (e : Exc) (dslot : Bool) (fpc : BitVec 13) (instr : Word) (s : State) :
    (enterSync c top e dslot fpc instr s).lasting = s.lasting := by simp [enterSync]

@[simp] theorem lasting_takeSync (c : Nat) (e : Exc) (dslot : Bool) (fpc : BitVec 13) (instr : Word) (s : State) :
    (takeSync c e dslot fpc instr s).lasting = s.lasting := by
  unfold takeSync
  dsimp only
  split
  · rfl
  split
  · rfl
  rename_i t ht
  have ht := lasting_drainDmem _ _ ht
  cases e.report <;> dsimp only <;> split <;> simp [ht]

@[simp] theorem lasting_takeFault (c : Nat) (e : Exc) (word : Word) (s : State) :
    (takeFault c e word s).lasting = s.lasting := by
  fun_cases takeFault <;> simp

@[simp] theorem lasting_takeInterrupt (c level src : Nat) (fpc : BitVec 13) (s : State) :
    (takeInterrupt c level src fpc s).lasting = s.lasting := by
  unfold takeInterrupt
  split
  · rfl
  rename_i t ht
  have ht := lasting_drainDmem _ _ ht
  dsimp only
  split <;> simp [ht]

@[simp] theorem lasting_takeAdmitted (c : Nat) (s : State) : (takeAdmitted c s).lasting = s.lasting := by
  unfold takeAdmitted
  split
  · split <;> simp
  · rfl

@[simp] theorem lasting_parityRecover (c : Nat) (dt : Bool) (set index : Nat) (s : State) :
    (parityRecover c dt set index s).lasting = s.lasting := by
  unfold parityRecover
  dsimp only
  split
  · rfl
  · split <;> simp [apply_ite Prod.snd]

@[simp] theorem lasting_dispatchRead (c d i : Nat) (s : State) : (dispatchRead c d i s).2.lasting = s.lasting := by
  simp [dispatchRead, apply_ite Prod.snd]

/-! ### Snapshots, lifetime counters and the journal -/

@[simp] theorem otp_dirSave (l : List DirEntry) (h : Chip) : (dirSave l h).boot.otp = h.boot.otp := (rfl)
@[simp] theorem otp_onJn (h : Chip) (f : Journal → Journal) : (h.onJn f).boot.otp = h.boot.otp := (rfl)
@[simp] theorem otp_jnAnchor (h : Chip) : (jnAnchor h).boot.otp = h.boot.otp := (rfl)
@[simp] theorem otp_setJnBit (i : Nat) (b : Bool) (h : Chip) : (setJnBit i b h).boot.otp = h.boot.otp := (rfl)
@[simp] theorem otp_lifeSave (h : Chip) : (lifeSave h).boot.otp = h.boot.otp := (rfl)
@[simp] theorem otp_laneRetire (p lane : Nat) (h : Chip) : (laneRetire p lane h).boot.otp = h.boot.otp := (rfl)

@[simp] theorem otp_snapChip (chip : Bool) (s : State) :
    (snapChip chip s).boot.otp = s.chip.boot.otp := by simp [snapChip]

@[simp] theorem lasting_snapEdge (regions : BitVec 8) (chip : Bool) (s : State) :
    (snapEdge regions chip s).lasting = s.lasting := by
  simp [snapEdge_eq regions chip s rfl, State.lasting_parts]

@[simp] theorem lasting_snapDone (regions : BitVec 8) (chip : Bool) (s : State) :
    (snapDone regions chip s).lasting = s.lasting := by
  simp [snapDone]

@[simp] theorem lasting_lifeMinute (s : State) : (lifeMinute s).lasting = s.lasting := (rfl)

@[simp] theorem lasting_gtArm (v : Word) (s : State) : (gtArm v s).lasting = s.lasting := (rfl)

@[simp] theorem lasting_mramRead (s : State) (o n : Nat) : (s.mramRead o n).2.lasting = s.lasting := (rfl)

@[simp] theorem otp_jnAppend (type : Nat) (payload : List Byte) (h : Chip) :
    (jnAppend type payload h).boot.otp = h.boot.otp := by
  unfold jnAppend
  split <;> simp

theorem otp_jnNewHead {h k : Chip} (hk : jnNewHead h = some k) : k.boot.otp = h.boot.otp := by
  obtain ⟨n, -, rfl⟩ := Option.map_eq_some_iff.1 hk
  simp

theorem otp_jnPlace {type : Nat} {payload : List Byte} {h k : Chip} (hk : jnPlace type payload h = some k) :
    k.boot.otp = h.boot.otp := by
  unfold jnPlace at hk
  split at hk
  · cases hk
    simp
  · obtain ⟨g, hg, rfl⟩ := Option.map_eq_some_iff.1 hk
    simp [otp_jnNewHead hg]

@[simp] theorem otp_jnCode (n : Nat) (h : Chip) : (jnCode n h).boot.otp = h.boot.otp := by simp [jnCode]

@[simp] theorem otp_jnWatch (h : Chip) : (jnWatch h).boot.otp = h.boot.otp := by simp [jnWatch]

@[simp] theorem otp_jnCommit (h : Chip) : (jnCommit h).boot.otp = h.boot.otp := by simp [jnCommit]

@[simp] theorem lasting_jnPayload (v : Word) (n : Nat) (s : State) : (jnPayload v n s).2.lasting = s.lasting := by
  simp [jnPayload, apply_ite Prod.snd]

@[simp] theorem lasting_jnDone (s : State) : (jnDone s).lasting = s.lasting := by
  unfold jnDone
  split
  · rfl
  dsimp only
  split
  · simp [State.lasting_parts]
  · split
    · simp [State.lasting_parts]
    · simp [State.lasting_parts, otp_jnPlace ‹_›]

@[simp] theorem otp_jnBoot (type : Nat) (payload : List Byte) (h : Chip) :
    (jnBoot type payload h).2.boot.otp = h.boot.otp := by
  unfold jnBoot
  split
  · simp [otp_jnPlace ‹_›]
  · rfl

@[simp] theorem lasting_jnFlog (s : State) : (jnFlog s).lasting = s.lasting := by
  unfold jnFlog
  dsimp only
  split
  · simp [State.lasting_parts]
  · split <;> simp [State.lasting_parts]

theorem otp_gleanOne {e : DirEntry} {h k : Chip} (hk : gleanOne e h = some k) : k.boot.otp = h.boot.otp := by
  unfold gleanOne at hk
  split at hk
  · cases hk
    rfl
  · exact otp_jnPlace hk

theorem otp_gleanAll : ∀ {l : List DirEntry} {h k : Chip}, gleanAll l h = some k → k.boot.otp = h.boot.otp
  | [], _, _, hk => by cases hk; rfl
  | _ :: _, _, _, hk => by
    obtain ⟨g, hg, hk⟩ := Option.bind_eq_some_iff.1 hk
    exact (otp_gleanAll hk).trans (otp_gleanOne hg)

@[simp] theorem otp_jnGlean (h : Chip) : (jnGlean h).boot.otp = h.boot.otp := by
  unfold jnGlean
  split
  · dsimp only
    split
    · simp
    · simp [otp_gleanAll ‹_›]
  · simp

@[simp] theorem otp_jnGleanCmd (h : Chip) : (jnGleanCmd h).boot.otp = h.boot.otp := by simp [jnGleanCmd]

@[simp] theorem lasting_jnCtl (v : Word) (s : State) : (jnCtl v s).lasting = s.lasting := by
  simp [jnCtl, State.lasting_parts]

@[simp] theorem lasting_reRetire (c : Nat) (s : State) : (reRetire c s).lasting = s.lasting := (rfl)

@[simp] theorem lasting_jnRetirements (l : List DirEntry) (s : State) : (jnRetirements l s).lasting = s.lasting := by
  unfold jnRetirements
  dsimp only
  rw [lasting_foldl (by simp [State.lasting_parts])]
  split
  · rfl
  · simp [State.lasting_parts]

@[simp] theorem lasting_calRestore (s : State) : (calRestore s).lasting = s.lasting := by
  simp [calRestore]

@[simp] theorem lasting_calRecord (r : Nat) (s : State) : (calRecord r s).lasting = s.lasting := by
  simp [calRecord, State.lasting_parts]

@[simp] theorem lasting_calEnds (r j : Nat) (inRange : Bool) (s : State) :
    (calEnds r j inRange s).lasting = s.lasting := by
  simp [calEnds]

@[simp] theorem lasting_jnReplay (s : State) :
    (jnReplay s).lasting = s.lasting := by simp [jnReplay, State.lasting_parts]

@[simp] theorem lasting_pfwOn (s : State) : (pfwOn s).lasting = s.lasting := by simp [pfwOn, State.lasting_parts]

@[simp] theorem lasting_pfwOff (s : State) : (pfwOff s).lasting = s.lasting := by simp [pfwOff, State.lasting_parts]

end Sys2Proof.Machine
end

section
/-!
PROOFS. What leaves the lasting parts alone in the boot unit, DMA, Ethernet and Xesum (O60).
-/

namespace Sys2Proof.Machine

/-! ### The boot unit -/

@[simp] theorem lasting_onBoot (s : State) (f : Boot → Boot) :
    (s.onBoot f).lasting = (s.pending, s.time.gtime, (f s.chip.boot).otp) := (rfl)

@[simp] theorem otp_setBtField (hi lo v : Nat) (h : Chip) : (setBtField hi lo v h).boot.otp = h.boot.otp := (rfl)

@[simp] theorem lasting_hostBlock (v : Word) (s : State) : (hostBlock v s).lasting = s.lasting := by
  simp [hostBlock, State.lasting_parts]

@[simp] theorem otp_hwinWrite (w : Nat) (v : Word) (h : Chip) : (hwinWrite w v h).boot.otp = h.boot.otp := by
  simp [hwinWrite]

@[simp] theorem lasting_uartBlock (data : List Byte) (s : State) : (uartBlock data s).lasting = s.lasting := by
  simp [uartBlock, State.lasting_parts]

@[simp] theorem lasting_sourceTimeout (s : State) : (sourceTimeout s).lasting = s.lasting := by
  simp [sourceTimeout, State.lasting_parts]

@[simp] theorem lasting_placeAll (f : ImageFrom) (seen l : List Segment) (s : State) :
    (placeAll f seen l s).2.lasting = s.lasting := by
  induction l generalizing seen s with
  | nil => rfl
  | cons g l ih => simp [placeAll, apply_ite Prod.snd, ih]

@[simp] theorem lasting_applyPairs (r n : Nat) (l : List Byte) (s : State) :
    (applyPairs r n l s).2.lasting = s.lasting := by
  induction n generalizing l s with
  | zero => rfl
  | succ n ih => simp [applyPairs, apply_ite Prod.snd, ih]

@[simp] theorem lasting_applyConfigs (f : ImageFrom) (l : List Segment) (s : State) :
    (applyConfigs f l s).2.lasting = s.lasting := by
  induction l generalizing s with
  | nil => rfl
  | cons g l ih => simp [applyConfigs, apply_ite Prod.snd, ih]

@[simp] theorem lasting_goldLoad (g : Segment) (l : List Nat) (s : State) : (goldLoad g l s).2.lasting = s.lasting := by
  induction l generalizing s with
  | nil => rfl
  | cons i l ih => simp [goldLoad, apply_ite Prod.snd, ih]

@[simp] theorem lasting_goldLoads (l : List Segment) (s : State) : (goldLoads l s).2.lasting = s.lasting := by
  induction l generalizing s with
  | nil => rfl
  | cons g l ih => simp [goldLoads, apply_ite Prod.snd, ih]

@[simp] theorem lasting_dmemInit (f : ImageFrom) (s : State) (g : Segment) : (dmemInit f s g).lasting = s.lasting := by
  simp [dmemInit]

@[simp] theorem lasting_bodyCheck (f : ImageFrom) (s : State) : (bodyCheck f s).2.lasting = s.lasting := by
  simp [bodyCheck, apply_ite Prod.snd]

@[simp] theorem lasting_regionsFresh (s : State) : (regionsFresh s).lasting = s.lasting := by
  simp [regionsFresh, State.lasting_parts]

@[simp] theorem lasting_reject (code : Nat) (f : ImageFrom) (s : State) : (reject code f s).lasting = s.lasting := by
  unfold reject
  split <;> simp [State.lasting_parts]

@[simp] theorem lasting_accept (f : ImageFrom) (trial fallback : Bool) (s : State) :
    (accept f trial fallback s).lasting = s.lasting := by
  unfold accept
  dsimp only
  rw [lasting_ite, lasting_foldN (by simp), ite_self]
  simp [State.lasting_parts]

theorem otp_qclkSet (f : ImageFrom) (b : Boot) : (qclkSet f b).otp = b.otp := by
  unfold qclkSet
  split <;> rfl

@[simp] theorem lasting_attempt (f : ImageFrom) (trial fallback : Bool) (s : State) :
    (attempt f trial fallback s).lasting = s.lasting := by
  unfold attempt
  dsimp only
  split <;> simp [otp_qclkSet, State.lasting_parts]

@[simp] theorem lasting_bootAttempt (s : State) : (bootAttempt s).lasting = s.lasting := by
  fun_cases bootAttempt <;> simp [State.lasting_parts]

@[simp] theorem lasting_btDone (code : Nat) (s : State) : (btDone code s).lasting = s.lasting := (rfl)

@[simp] theorem lasting_xRead (o n : Nat) (s : State) : (xRead o n s).2.lasting = s.lasting := by
  simp [xRead, apply_ite Prod.snd]

@[simp] theorem lasting_btTrial (s : State) : (btTrial s).lasting = s.lasting := by
  unfold btTrial
  split <;> rfl

@[simp] theorem lasting_btConfirm (s : State) : (btConfirm s).lasting = s.lasting := by
  unfold btConfirm
  split <;> rfl

@[simp] theorem otp_btRecord (type v : Nat) (h : Chip) : (btRecord type v h).2.boot.otp = h.boot.otp := by
  simp [btRecord, apply_ite Prod.snd]

@[simp] theorem lasting_btArbadv (s : State) :
    (btArbadv s).lasting = s.lasting := by simp [btArbadv, State.lasting_parts]

@[simp] theorem lasting_lmsReserve (s : State) : (lmsReserve s).2.lasting = s.lasting := by
  simp [lmsReserve, apply_ite Prod.snd, State.lasting_parts]

@[simp] theorem lasting_btAttest (s : State) : (btAttest s).lasting = s.lasting := by
  unfold btAttest
  dsimp only
  split
  · simp
  have h := lasting_xRead 0 48 s
  split
  · simpa [*] using h
  · next nonce t ht =>
    rw [ht] at h
    have k := lasting_lmsReserve t
    split
    · next hu =>
      rw [hu] at k
      simpa using k.trans h
    · next u hu =>
      rw [hu] at k
      simpa [State.lasting_parts] using k.trans h

@[simp] theorem lasting_btChallenge (s : State) : (btChallenge s).lasting = s.lasting := by
  unfold btChallenge
  dsimp only
  rw [lasting_btDone, State.lasting_mk, otp_foldN (by simp)]
  rfl

@[simp] theorem lasting_btCertificate (cert : List Byte) (s : State) :
    (btCertificate cert s).2.lasting = s.lasting := by
  fun_cases btCertificate <;> rfl

@[simp] theorem lasting_btUnlock (s : State) : (btUnlock s).lasting = s.lasting := by
  have h := lasting_xRead 0 324 s
  unfold btUnlock
  split
  · simpa [*] using h
  · next l t ht =>
    rw [ht] at h
    have k := lasting_xRead 324 (leNat (l.drop 320)) t
    split
    · next u hu => simpa [hu] using k.trans h
    · next hu => simpa [hu] using k.trans h

/-! ### The DMA channels -/

@[simp] theorem lasting_onDma (s : State) (r c : Nat) (f : Dma → Dma) : (s.onDma r c f).lasting = s.lasting := (rfl)

@[simp] theorem lasting_dmaErrAddr (r c a : Nat) (s : State) : (dmaErrAddr r c a s).lasting = s.lasting := (rfl)

@[simp] theorem lasting_dmaReadRegs (r o n : Nat) (s : State) : (dmaReadRegs r o n s).2.lasting = s.lasting := by
  induction n generalizing o s with
  | zero => rfl
  | succ n ih =>
    have h := lasting_readRegion s r o
    unfold dmaReadRegs
    split
    · exact lasting_of_eq h ‹_›
    · next t ht =>
      have k := (ih (o + 4) t).trans (lasting_of_eq h ht)
      split <;> exact lasting_of_eq k ‹_›

@[simp] theorem lasting_dmaWriteRegs (r o : Nat) (l : List Nat) (s : State) :
    (dmaWriteRegs r o l s).2.lasting = s.lasting := by
  induction l generalizing o s with
  | nil => rfl
  | cons v l ih =>
    have h := lasting_writeRegion s false r o (BitVec.ofNat 32 v)
    unfold dmaWriteRegs
    split
    · exact lasting_of_eq h ‹_›
    · exact (ih ..).trans (lasting_of_eq h ‹_›)

@[simp] theorem lasting_dmaReadChunk (r a n : Nat) (s : State) : (dmaReadChunk r a n s).2.lasting = s.lasting := by
  unfold dmaReadChunk
  split
  · rfl
  split
  · rfl
  split
  · split <;> exact lasting_of_eq (lasting_readMem ..) ‹_›
  · simp [apply_ite Prod.snd]

@[simp] theorem lasting_dmaWriteChunk (r a : Nat) (bs : List Byte) (s : State) :
    (dmaWriteChunk r a bs s).2.lasting = s.lasting := by
  unfold dmaWriteChunk
  split
  · rfl
  split
  · rfl
  split
  · split <;> exact lasting_of_eq (lasting_writeMem ..) ‹_›
  · simp [apply_ite Prod.snd]

@[simp] theorem lasting_dmaReadRuns (r : Nat) (l : List (Nat × Nat)) (s : State) :
    (dmaReadRuns r l s).2.lasting = s.lasting := by
  induction l generalizing s with
  | nil => rfl
  | cons e l ih =>
    unfold dmaReadRuns
    split
    · exact lasting_of_eq (lasting_dmaReadChunk ..) ‹_›
    · exact (ih _).trans (lasting_of_eq (lasting_dmaReadChunk ..) ‹_›)

@[simp] theorem lasting_dmaWriteRuns (r : Nat) (l : List (Nat × List Byte)) (s : State) :
    (dmaWriteRuns r l s).2.lasting = s.lasting := by
  induction l generalizing s with
  | nil => rfl
  | cons e l ih =>
    unfold dmaWriteRuns
    split
    · exact lasting_of_eq (lasting_dmaWriteChunk ..) ‹_›
    · exact (ih _).trans (lasting_of_eq (lasting_dmaWriteChunk ..) ‹_›)

@[simp] theorem lasting_dmaFetch (r c : Nat) (s : State) : (dmaFetch r c s).lasting = s.lasting := by
  unfold dmaFetch
  dsimp only
  split
  · have h := lasting_rmem s r ((s.region r).field (regAt Reg.DM_CH_CUR c 0) 19 5 * 32) 32
    split
    · simpa using lasting_of_eq h ‹_›
    · simpa using lasting_of_eq h ‹_›
  · rfl

@[simp] theorem lasting_dmaRead (r : Nat) (l : List Nat) (s : State) : (dmaRead r l s).2.lasting = s.lasting := by
  simp [dmaRead]

@[simp] theorem lasting_dmaIdxBurst (r c : Nat) (d : Dma) (s : State) : (dmaIdxBurst r c d s).lasting = s.lasting := by
  unfold dmaIdxBurst
  dsimp only
  split
  · rfl
  · split <;> simp

@[simp] theorem lasting_dmaDataBurst (r c n : Nat) (d : Dma) (s : State) :
    (dmaDataBurst r c n d s).lasting = s.lasting := by
  unfold dmaDataBurst
  dsimp only
  split <;> simp

@[simp] theorem lasting_dmaBurstDone (r c : Nat) (s : State) : (dmaBurstDone r c s).lasting = s.lasting := by
  unfold dmaBurstDone
  dsimp only
  split
  · rfl
  split
  · simp
  · split <;> simp

/-! ### Ethernet -/

@[simp] theorem lasting_dmaBurst (r c : Nat) (s : State) : (dmaBurst r c s).lasting = s.lasting := by simp [dmaBurst]

@[simp] theorem lasting_dmaDone (r c : Nat) (s : State) : (dmaDone r c s).lasting = s.lasting := by simp [dmaDone]

@[simp] theorem lasting_descRead (r : Nat) (ring : Word) (i : Nat) (s : State) :
    (descRead r ring i s).2.lasting = s.lasting := by
  simp [descRead]

@[simp] theorem lasting_descWrite (r : Nat) (ring : Word) (i : Nat) (d : List Word) (w0 : Word) (status : Option Word)
    (stamp : Option Ticks) (s : State) :
    (descWrite r ring i d w0 status stamp s).lasting = s.lasting := by
  simp [descWrite]

@[simp] theorem lasting_doorbell (db : Word) (r : Nat) (s : State) : (doorbell db r s).lasting = s.lasting := by
  simp [doorbell]

@[simp] theorem lasting_setEnReg (d : RegDef) (p : Nat) (v : Word) (s : State) :
    (setEnReg d p v s).lasting = s.lasting := by
  simp [setEnReg]

@[simp] theorem lasting_enCount (d : RegDef) (p n : Nat) (s : State) : (enCount d p n s).lasting = s.lasting := (rfl)

@[simp] theorem lasting_enNext (idx ring : RegDef) (p n : Nat) (s : State) :
    (enNext idx ring p n s).lasting = s.lasting := by
  simp [enNext]

@[simp] theorem lasting_rxBack (p : Nat) (d : List Word) (w0 : Word) (status : Option Word) (stamp : Option Ticks)
    (s : State) :
    (rxBack p d w0 status stamp s).lasting = s.lasting := by
  simp [rxBack]

@[simp] theorem lasting_rxWait (p : Nat) (s : State) : (rxWait p s).lasting = s.lasting := by simp [rxWait]

@[simp] theorem lasting_rxDeliver (p n : Nat) (s : State) : (rxDeliver p n s).lasting = s.lasting := by
  induction n generalizing s with
  | zero => rfl
  | succ n ih =>
    unfold rxDeliver
    split
    · rfl
    dsimp only
    split
    · rfl
    split
    · simp
    split
    · simp
    split <;> simp [ih]

@[simp] theorem lasting_rxRun (p : Nat) (s : State) : (rxRun p s).lasting = s.lasting := by simp [rxRun]

@[simp] theorem lasting_txBytes (r : Nat) (d : List Word) (s : State) : (txBytes r d s).2.lasting = s.lasting := by
  unfold txBytes
  dsimp only
  split
  · rfl
  split
  · rfl
  split
  · rfl
  · split <;> simp

@[simp] theorem lasting_txGather (r : Nat) (ring : Word) (n i : Nat) (s : State) :
    (txGather r ring n i s).2.lasting = s.lasting := by
  induction n generalizing i s with
  | zero => rfl
  | succ n ih =>
    unfold txGather
    dsimp only
    split
    · simp
    split
    · simp
    split <;> simp [ih]

@[simp] theorem lasting_txBack (p code : Nat) (stamp : Option Ticks) (zero : Bool) (l : List (Option Nat)) (s : State) :
    (txBack p code stamp zero l s).lasting = s.lasting := by
  induction l generalizing s with
  | nil => rfl
  | cons c l ih => simp [txBack, ih]

@[simp] theorem lasting_txFetch (p n : Nat) (s : State) : (txFetch p n s).lasting = s.lasting := by
  induction n generalizing s with
  | zero => rfl
  | succ n ih =>
    unfold txFetch
    dsimp only
    split
    · rfl
    split
    · simp
    split
    · simp [ih]
    split <;> simp [ih]

@[simp] theorem lasting_txRun (p : Nat) (s : State) : (txRun p s).lasting = s.lasting := by simp [txRun]

@[simp] theorem lasting_ethKickTx (p : Nat) (s : State) : (ethKickTx p s).lasting = s.lasting := by simp [ethKickTx]

@[simp] theorem lasting_ethKickRx (p : Nat) (s : State) : (ethKickRx p s).lasting = s.lasting := by simp [ethKickRx]

@[simp] theorem lasting_frameReceived (p : Nat) (data : List Byte) (line : Bool) (stamp : Ticks) (s : State) :
    (frameReceived p data line stamp s).lasting = s.lasting := by
  simp [frameReceived]

@[simp] theorem lasting_frameLaunch (p : Nat) (s : State) : (frameLaunch p s).lasting = s.lasting := by
  unfold frameLaunch
  dsimp only
  split <;> simp [State.lasting_parts]

@[simp] theorem lasting_transmitDone (p : Nat) (stamp : Ticks) (s : State) :
    (transmitDone p stamp s).lasting = s.lasting := by
  unfold transmitDone
  dsimp only
  split <;> simp

@[simp] theorem lasting_enAbort (p : Nat) (s : State) : (enAbort p s).lasting = s.lasting := by
  unfold enAbort
  dsimp only
  split <;> simp

@[simp] theorem lasting_portReconfigure (p k : Nat) (v : Word) (s : State) :
    (portReconfigure p k v s).lasting = s.lasting := by
  simp [portReconfigure]

@[simp] theorem lasting_ethLink (p : Nat) (link done : Bool) (s : State) :
    (ethLink p link done s).lasting = s.lasting := by
  simp [ethLink]

/-- A write of an Ethernet register either is a plain one or leaves the lasting parts alone. -/
theorem enWrite_plain_or_lasting (a : Nat) (v : Word) (plain : State → State) (s : State) :
    enWrite a v plain s = plain s ∨ (enWrite a v plain s).lasting = s.lasting := by
  unfold enWrite
  split <;> simp

/-! ### Xesum -/

@[simp] theorem lasting_setXlReg (d : RegDef) (p : Nat) (v : Word) (s : State) :
    (setXlReg d p v s).lasting = s.lasting := by
  simp [setXlReg]

@[simp] theorem lasting_xlCount (d : RegDef) (p : Nat) (s : State) : (xlCount d p s).lasting = s.lasting := (rfl)

@[simp] theorem lasting_xlOut (p : Nat) (b : List Byte) (s : State) : (xlOut p b s).lasting = s.lasting := (rfl)

@[simp] theorem lasting_sendAck (p type : Nat) (s : State) : (sendAck p type s).lasting = s.lasting := by simp [sendAck]

@[simp] theorem lasting_xlDeliver (p v n : Nat) (s : State) : (xlDeliver p v n s).lasting = s.lasting := by
  induction n generalizing s with
  | zero => rfl
  | succ n ih =>
    unfold xlDeliver
    dsimp only
    split
    · rfl
    split
    · rfl
    split
    · simp
    split
    · simp
    · rw [lasting_ite, ih, ih]
      simp

@[simp] theorem lasting_xlRxRun (p v : Nat) (s : State) : (xlRxRun p v s).lasting = s.lasting := by simp [xlRxRun]

@[simp] theorem lasting_xlSendVc (p v n : Nat) (s : State) : (xlSendVc p v n s).lasting = s.lasting := by
  induction n generalizing s with
  | zero => rfl
  | succ n ih =>
    unfold xlSendVc
    dsimp only
    split
    · rfl
    rw [lasting_ite, lasting_setXlPort, lasting_descRead]
    refine ite_eq_iff'.2 ⟨fun _ => rfl, fun _ => ?_⟩
    split <;> simp [ih]

@[simp] theorem lasting_xlSend (p : Nat) (s : State) : (xlSend p s).lasting = s.lasting := by simp [xlSend]

@[simp] theorem lasting_xlReleased (p : Nat) (f : XlTx) (s : State) : (xlReleased p f s).lasting = s.lasting := by
  simp [xlReleased]

@[simp] theorem lasting_xlRelease (p seq credits : Nat) (s : State) :
    (xlRelease p seq credits s).lasting = s.lasting := by
  simp [xlRelease]

@[simp] theorem lasting_xlResend (p : Nat) (s : State) : (xlResend p s).lasting = s.lasting := by simp [xlResend]

@[simp] theorem lasting_setLock (p lock : Nat) (s : State) : (setLock p lock s).lasting = s.lasting := by simp [setLock]

@[simp] theorem lasting_trainStart (p : Nat) (s : State) : (trainStart p s).lasting = s.lasting := by simp [trainStart]

@[simp] theorem lasting_lockLanes (p : Nat) (s : State) : (lockLanes p s).lasting = s.lasting := by
  simp [lockLanes, State.lasting_parts]

@[simp] theorem lasting_trainSend (p : Nat) (s : State) : (trainSend p s).lasting = s.lasting := by
  simp [trainSend, State.lasting_parts]

@[simp] theorem lasting_trainAgree (p : Nat) (s : State) : (trainAgree p s).lasting = s.lasting := by
  unfold trainAgree
  split <;> simp

@[simp] theorem lasting_trainReceived (p lane : Nat) (f : TrainFrame) (s : State) :
    (trainReceived p lane f s).lasting = s.lasting := by
  simp [trainReceived]

@[simp] theorem lasting_trainTimeout (p : Nat) (s : State) : (trainTimeout p s).lasting = s.lasting := by
  simp [trainTimeout]

@[simp] theorem lasting_trainRetry (p : Nat) (s : State) : (trainRetry p s).lasting = s.lasting := by simp [trainRetry]

@[simp] theorem lasting_laneRetired (p lane : Nat) (s : State) : (laneRetired p lane s).lasting = s.lasting := by
  simp [laneRetired, State.lasting_parts]

@[simp] theorem lasting_codeError (p lane : Nat) (lost : Bool) (s : State) :
    (codeError p lane lost s).lasting = s.lasting := by
  simp [codeError, State.lasting_parts]

@[simp] theorem lasting_unretire (p : Nat) (lanes : Nat) (s : State) : (unretire p lanes s).lasting = s.lasting := by
  simp [unretire]

@[simp] theorem lasting_xlEpisode (p : Nat) (s : State) : (xlEpisode p s).lasting = s.lasting := by
  unfold xlEpisode
  dsimp only
  split
  · rfl
  · rw [lasting_ite, lasting_trainStart, ite_self]
    simp

@[simp] theorem lasting_bootFrame (payload : List Byte) (user : Nat) (s : State) :
    (bootFrame payload user s).lasting = s.lasting := by
  unfold bootFrame
  dsimp only
  rw [lasting_ite]
  refine ite_eq_iff'.2 ⟨fun _ => ?_, fun _ => ?_⟩
  · rw [State.lasting_mk]
    rfl
  · rw [State.lasting_mk]
    rfl

@[simp] theorem lasting_xlData (p : Nat) (data : List Byte) (stamp : Ticks) (s : State) :
    (xlData p data stamp s).lasting = s.lasting := by
  simp [xlData]

@[simp] theorem lasting_xlTime (p : Nat) (data : List Byte) (stamp : Ticks) (s : State) :
    (xlTime p data stamp s).lasting = s.lasting := by
  simp [xlTime]

@[simp] theorem lasting_xlHeard (p h : Nat) (s : State) : (xlHeard p h s).lasting = s.lasting := by simp [xlHeard]

@[simp] theorem lasting_xlReceive (p : Nat) (lanes : List (List LineChar)) (stamp : Ticks) (s : State) :
    (xlReceive p lanes stamp s).lasting = s.lasting := by
  fun_cases xlReceive <;> simp

@[simp] theorem lasting_ackDue (p : Nat) (s : State) : (ackDue p s).lasting = s.lasting := by simp [ackDue]

@[simp] theorem lasting_retryTimeout (p : Nat) (s : State) : (retryTimeout p s).lasting = s.lasting := by
  simp [retryTimeout]

@[simp] theorem lasting_timeSend (p : Nat) (s : State) : (timeSend p s).lasting = s.lasting := by simp [timeSend]

@[simp] theorem lasting_xlKick (p : Nat) (v : Word) (s : State) : (xlKick p v s).lasting = s.lasting := by simp [xlKick]

@[simp] theorem lasting_xlAbort (p : Nat) (s : State) : (xlAbort p s).lasting = s.lasting := by simp [xlAbort]

@[simp] theorem lasting_xlCfgWrite (p : Nat) (v : Word) (s : State) : (xlCfgWrite p v s).lasting = s.lasting := by
  simp [xlCfgWrite]

@[simp] theorem lasting_xlCtl (p : Nat) (v : Word) (s : State) : (xlCtl p v s).lasting = s.lasting := by simp [xlCtl]

/-- A write of a Xesum register either is a plain one or leaves the lasting parts alone. -/
theorem xlWrite_plain_or_lasting (a : Nat) (v : Word) (plain : State → State) (s : State) :
    xlWrite a v plain s = plain s ∨ (xlWrite a v plain s).lasting = s.lasting := by
  unfold xlWrite
  split <;> simp

end Sys2Proof.Machine
end

section
/-!
PROOFS. What every command keeps; the chip reset, the one-time store, register writes, host and debug port (O60).
-/

namespace Sys2Proof.Machine

/-! ### The chip register space -/

@[simp] theorem lasting_msixRaise (v : Nat) (s : State) : (msixRaise v s).lasting = s.lasting := by
  fun_cases msixRaise <;> rfl

@[simp] theorem lasting_msixSend (v : Nat) (s : State) : (msixSend v s).lasting = s.lasting := by
  unfold msixSend
  split <;> rfl

@[simp] theorem lasting_negotiate (v : Word) (s : State) : (negotiate v s).lasting = s.lasting := by
  simp [negotiate, State.lasting_parts]

@[simp] theorem lasting_rgCtlWrite (r : Nat) (v : Word) (s : State) : (rgCtlWrite r v s).lasting = s.lasting := by
  simp [rgCtlWrite]

@[simp] theorem otp_bkClear (h : Chip) : (bkClear h).boot.otp = h.boot.otp := by
  unfold bkClear
  split <;> rfl

@[simp] theorem lasting_wdTake (region : Option Nat) (s : State) : (wdTake region s).lasting = s.lasting := (rfl)

@[simp] theorem lasting_wdKick (region : Option Nat) (v : Word) (s : State) :
    (wdKick region v s).lasting = s.lasting := by
  simp [wdKick]

@[simp] theorem lasting_chipPlain (a : Nat) (v : Word) (s : State) : (chipPlain a v s).lasting = s.lasting := by
  unfold chipPlain
  split <;> simp

@[simp] theorem lasting_chipWide (c : Nat) (s : State) : (chipWide c s).lasting = s.lasting := by
  unfold chipWide
  split
  · rfl
  · rw [lasting_foldN (by simp)]
    rfl

/-! ### Release, watchdogs, and what reaches regions -/

@[simp] theorem lasting_sourceOpen (s : State) : (sourceOpen s).lasting = s.lasting := by simp [sourceOpen]

@[simp] theorem lasting_fuseCatchUp (s : State) : (fuseCatchUp s).lasting = s.lasting := by
  simp [fuseCatchUp, State.lasting_parts]

@[simp] theorem lasting_startCells (s : State) : (startCells s).lasting = s.lasting := by simp [startCells]

@[simp] theorem otp_noteError (h : Chip) (i : Nat) : (h.noteError i).boot.otp = h.boot.otp := (rfl)
@[simp] theorem otp_setReg (h : Chip) (a : Nat) (v : Word) : (h.setReg a v).boot.otp = h.boot.otp := (rfl)
@[simp] theorem otp_backupRecord (h : Chip) : (backupRecord h).boot.otp = h.boot.otp := by
  unfold backupRecord
  dsimp only
  rw [otp_setReg, otp_setReg, otp_setReg, otp_foldN (by simp), otp_setReg]

@[simp] theorem otp_backupErase (h : Chip) : (backupErase h).boot.otp = h.boot.otp := by
  unfold backupErase
  rw [otp_foldN (by simp)]
  simp

@[simp] theorem lasting_chipRelease (s : State) : (chipRelease s).lasting = s.lasting := by
  unfold chipRelease
  dsimp only
  split
  · simp [State.lasting_parts]
  · simp [State.lasting_parts]
  · rfl
  · rw [lasting_ite]; exact ite_eq_iff'.2 ⟨fun _ => (rfl), fun _ => (rfl)⟩
  · rw [lasting_ite]; exact ite_eq_iff'.2 ⟨fun _ => (rfl), fun _ => (rfl)⟩
  · simp
  · rw [lasting_ite]; exact ite_eq_iff'.2 ⟨fun _ => by rw [State.lasting_mk]; exact lasting_startCells s, fun _ => (rfl)⟩
  · rfl

@[simp] theorem lasting_replayStep (s : State) : (replayStep s).lasting = s.lasting := by simp [replayStep]

@[simp] theorem lasting_regionReleaseStep (r : Nat) (s : State) : (regionReleaseStep r s).lasting = s.lasting := by
  simp [regionReleaseStep]

@[simp] theorem lasting_wdWarn (region : Option Nat) (s : State) : (wdWarn region s).lasting = s.lasting := by
  simp [wdWarn, State.lasting_parts]

@[simp] theorem lasting_regionAccess (r : RegionId) (f : Ctx → Region → Region) (s : State) :
    (regionAccess r f s).lasting = s.lasting := by
  simp [regionAccess]

@[simp] theorem lasting_blockAccess (r : RegionId) (b : BlockId) (f : Ctx → Region → Region) (s : State) :
    (blockAccess r b f s).lasting = s.lasting := by
  simp [blockAccess]

@[simp] theorem lasting_regionEvent (r : RegionId) (f : Ctx → Region → Region) (s : State) :
    (regionEvent r f s).lasting = s.lasting := by
  simp [regionEvent]

@[simp] theorem lasting_regionAnswer (r : RegionId) (f : Ctx → Region → Word × Region) (s : State) :
    (regionAnswer r f s).lasting = s.lasting := by
  simp [regionAnswer]

@[simp] theorem lasting_cellAccess (c : CellId) (f : Cell → Cell) (s : State) :
    (cellAccess c f s).lasting = s.lasting := by
  simp [cellAccess]

@[simp] theorem lasting_trpInput (r : RegionId) (i : Nat) (asserted : Bool) (s : State) :
    (trpInput r i asserted s).lasting = s.lasting := by
  simp [trpInput]

@[simp] theorem lasting_feedbackLines (r : RegionId) (u w : Nat) (s : State) :
    (feedbackLines r u w s).lasting = s.lasting := by
  simp [feedbackLines]

@[simp] theorem lasting_calibrationEnds (r : RegionId) (j : Nat) (inRange : Bool) (s : State) :
    (calibrationEnds r j inRange s).lasting = s.lasting := by
  simp [calibrationEnds]

@[simp] theorem lasting_boundaryArrive (c : Nat) (s : State) : (boundaryArrive c s).lasting = s.lasting := by
  simp [boundaryArrive]

@[simp] theorem lasting_fallowRelease (r : RegionId) (b : Nat) (s : State) :
    (fallowRelease r b s).lasting = s.lasting := by
  unfold fallowRelease
  split <;> simp

@[simp] theorem lasting_generatorPost (r : RegionId) (s : State) : (generatorPost r s).lasting = s.lasting := by
  simp [generatorPost]

@[simp] theorem lasting_sweepComplete (r : RegionId) (s : State) : (sweepComplete r s).lasting = s.lasting := by
  simp [sweepComplete]

@[simp] theorem lasting_railOf (r : RegionId) (rail : Nat) (good v18 : Bool) (s : State) :
    (railOf r rail good v18 s).lasting = s.lasting := by
  simp [railOf]

@[simp] theorem lasting_pinInput (r : RegionId) (p : Nat) (b : Bool) (e : Ctx → Nat) (s : State) :
    (pinInput r p b e s).lasting = s.lasting := by
  simp [pinInput]

@[simp] theorem lasting_regionHold (r : Nat) (hold : Bool) (s : State) : (regionHold r hold s).lasting = s.lasting := by
  simp [regionHold]

@[simp] theorem lasting_readReg (s : State) (region : Option Nat) (a : Nat) :
    (s.readReg region a).2.lasting = s.lasting := by
  unfold State.readReg
  split <;> simp

@[simp] theorem lasting_debugGo (single : Bool) (c : Nat) (s : State) : (debugGo single c s).lasting = s.lasting := by
  simp [debugGo]

@[simp] theorem lasting_hostEnd (read : Bool) (e : HostEnd) (data : List Byte) (s : State) :
    (hostEnd read e data s).lasting = s.lasting := by
  unfold hostEnd
  split <;> simp [State.lasting_parts]

@[simp] theorem lasting_pcieLink (width speed : Nat) (s : State) : (pcieLink width speed s).lasting = s.lasting := by
  simp [pcieLink]

/-! ## What every command keeps -/

/-- The chip stands as after a chip-reach reset: GTIME begins again, every region is in reset, no cell carries out a
routine. -/
structure State.WasReset (s : State) : Prop where
  time : s.time = timeInit
  regions : ∀ r, (s.region r).inReset = true
  cells : ∀ c, (s.cell c).micro = none

/-- `t` follows `s` with the queue and GTIME the same, and no bit of the fuses and slot states back at 0. -/
structure Stays (s t : State) : Prop where
  pending : t.pending = s.pending
  blown : ∀ i, i < 72 → otpBit s.chip.boot 0x160 i = true → otpBit t.chip.boot 0x160 i = true
  gtime : t.time.gtime = s.time.gtime

/-- The same, but that the chip may have been reset. -/
structure Keeps (s t : State) : Prop where
  pending : t.pending = s.pending
  blown : ∀ i, i < 72 → otpBit s.chip.boot 0x160 i = true → otpBit t.chip.boot 0x160 i = true
  gtime : t.time.gtime = s.time.gtime ∨ t.WasReset

section

variable {s t u : State}

theorem State.pending_of_lasting (h : t.lasting = s.lasting) : t.pending = s.pending := congrArg Prod.fst h
theorem State.gtime_of_lasting (h : t.lasting = s.lasting) : t.time.gtime = s.time.gtime := congrArg (·.2.1) h
theorem State.otp_of_lasting (h : t.lasting = s.lasting) : t.chip.boot.otp = s.chip.boot.otp := congrArg (·.2.2) h

theorem otpBit_congr {b c : Boot} (h : c.otp = b.otp) (o i : Nat) : otpBit c o i = otpBit b o i := by
  unfold otpBit
  rw [h]

theorem Stays.of_lasting (h : t.lasting = s.lasting) : Stays s t :=
  ⟨State.pending_of_lasting h, fun i _ hb => by rwa [otpBit_congr (State.otp_of_lasting h)], State.gtime_of_lasting h⟩

theorem Stays.refl (s : State) : Stays s s := .of_lasting rfl

theorem Stays.trans (h : Stays s t) (k : Stays t u) : Stays s u :=
  ⟨k.pending.trans h.pending, fun i hi hb => k.blown i hi (h.blown i hi hb), k.gtime.trans h.gtime⟩

theorem Stays.keeps (h : Stays s t) : Keeps s t := ⟨h.pending, h.blown, .inl h.gtime⟩

theorem Keeps.of_lasting (h : t.lasting = s.lasting) : Keeps s t := (Stays.of_lasting h).keeps

theorem Keeps.refl (s : State) : Keeps s s := .of_lasting rfl

theorem Stays.trans_keeps (h : Stays s t) (k : Keeps t u) : Keeps s u :=
  ⟨k.pending.trans h.pending, fun i hi hb => k.blown i hi (h.blown i hi hb), k.gtime.imp (·.trans h.gtime) id⟩

/-- What leaves the lasting parts alone may come first. -/
theorem Keeps.after (h : t.lasting = s.lasting) (k : Keeps t u) : Keeps s u := (Stays.of_lasting h).trans_keeps k

/-- What leaves the lasting parts alone, and a chip just reset as it is, may follow. -/
theorem Keeps.before (k : Keeps s t) (h : u.lasting = t.lasting) (hr : t.WasReset → u.WasReset) : Keeps s u :=
  ⟨(State.pending_of_lasting h).trans k.pending,
    fun i hi hb => by rw [otpBit_congr (State.otp_of_lasting h)]; exact k.blown i hi hb,
    k.gtime.imp ((State.gtime_of_lasting h).trans ·) hr⟩

theorem Stays.ite {c : Prop} [Decidable c] (h : Stays s t) (h' : Stays s u) : Stays s (if c then t else u) := by
  split
  · exact h
  · exact h'

theorem Keeps.ite {c : Prop} [Decidable c] (h : Keeps s t) (h' : Keeps s u) : Keeps s (if c then t else u) := by
  split
  · exact h
  · exact h'

/-- Time and regions alone say that a chip was reset. -/
theorem State.WasReset.congr (h : t.WasReset) (htime : u.time = t.time) (hreg : ∀ r, u.region r = t.region r) :
    u.WasReset :=
  ⟨htime.trans h.time, fun r => by rw [hreg]; exact h.regions r, fun c => by
    unfold State.cell
    rw [hreg]
    exact h.cells c⟩

theorem Keeps.answer (k : Keeps s t) (a : HostAnswer) : Keeps s (t.answer a) :=
  k.before (by simp) (·.congr rfl fun _ => rfl)

theorem hostEnd_regions (read : Bool) (e : HostEnd) (data : List Byte) (s : State) :
    (hostEnd read e data s).time = s.time ∧ ∀ r, (hostEnd read e data s).region r = s.region r := by
  unfold hostEnd
  split <;> exact ⟨by dsimp only, fun r => by dsimp only [State.region]⟩

theorem Keeps.hostEnd (k : Keeps s t) (read : Bool) (e : HostEnd) (data : List Byte) :
    Keeps s (hostEnd read e data t) :=
  k.before (by simp) (·.congr (hostEnd_regions ..).1 (hostEnd_regions ..).2)

end

/-! ### The chip reset -/

theorem micro_afterChipReset (R : Region) (c : Nat) : (R.afterChipReset.cell c).micro = none := by
  refine (inputsStay_keeps (fun R => (R.cell c).micro) (fun _ _ _ => rfl) (fun _ _ _ => rfl) (fun _ _ _ => rfl)
    (fun _ _ _ => rfl) (fun _ _ _ => rfl) ..).trans ?_
  dsimp only [Region.cell]
  rw [mapGet_foldN_mapSet]
  split <;> rfl

theorem wasReset_chipReset (c : Nat) (s : State) : (chipReset c s).WasReset := by
  refine ⟨rfl, inReset_chipReset c s, fun i => ?_⟩
  unfold State.cell
  rw [State.region_chipReset]
  split
  · exact micro_afterChipReset ..
  · rfl

theorem otp_chipReset (c : Nat) (s : State) : (chipReset c s).chip.boot.otp = s.chip.boot.otp := by
  unfold chipReset
  dsimp only
  rw [otp_setReg]
  rfl

theorem keeps_chipReset (c : Nat) (s : State) : Keeps s (chipReset c s) :=
  ⟨rfl, fun i _ hb => by rwa [otpBit_congr (otp_chipReset c s)], .inr (wasReset_chipReset c s)⟩

theorem keeps_rstchipReset (s : State) : Keeps s (rstchipReset s) := .ite (keeps_chipReset ..) (.refl s)

theorem keeps_criticalError (s : State) : Keeps s (criticalError s) := by
  unfold criticalError
  exact (keeps_chipReset _ s).before rfl (·.congr rfl fun _ => rfl)

theorem keeps_swChipReset (v : Word) (s : State) : Keeps s (swChipReset v s) := .ite (keeps_chipReset ..) (.refl s)

/-! ### The watchdogs -/

theorem keeps_wdExpire (w : Option Nat) (s : State) : Keeps s (wdExpire w s) := by
  cases w with
  | none => exact .after (lasting_setChipReg ..) (keeps_chipReset ..)
  | some r => exact .of_lasting (by simp [wdExpire])

theorem keeps_wdEdge (w : Option Nat) (s : State) : Keeps s (wdEdge w s) :=
  .ite (keeps_wdExpire w s) (.of_lasting (by simp))

theorem keeps_wdWarning (w : Option Nat) (s : State) : Keeps s (wdWarning w s) :=
  .ite (.after (lasting_wdTake w s) (keeps_wdEdge ..)) (.refl s)

theorem keeps_wdExpiry (w : Option Nat) (s : State) : Keeps s (wdExpiry w s) :=
  .ite (.after (lasting_wdTake w s) (keeps_wdEdge ..)) (.refl s)

/-! ### The one-time store -/

theorem otpBit_otpSet_of_out {o n i : Nat} {l : List Byte} {b : Boot} (h : n + l.length ≤ o) :
    otpBit (otpSet n l b) o i = otpBit b o i := by
  unfold otpBit otpSet
  rw [mapGet_mapWrite_of_out _ _ _ _ (.inr (by omega))]

/-- A blown bit leaves every other bit that is set as it is. -/
theorem otpBit_otpBlow {o n j i : Nat} {b : Boot} (h : otpBit b o i = true) : otpBit (otpBlow n j b) o i = true := by
  unfold otpBit at h ⊢
  unfold otpBlow otpSet
  by_cases he : o + i / 8 = n + j / 8
  · rw [he] at h ⊢
    simp [mapWrite, h]
  · simpa [mapWrite, mapGet_mapSet_of_ne _ _ he] using h

/-- A change of the boot unit that clears no bit of the fuses and slot states. -/
theorem stays_onBoot {f : Boot → Boot} (s : State)
    (h : ∀ i, i < 72 → otpBit s.chip.boot 0x160 i = true → otpBit (f s.chip.boot) 0x160 i = true) : Stays s (s.onBoot f) :=
  ⟨rfl, h, rfl⟩

theorem stays_fuseBlown (s : State) : Stays s { s with chip := fuseBlown s.chip } := by
  refine ⟨rfl, fun i _ hb => ?_, rfl⟩
  dsimp only
  unfold fuseBlown
  dsimp only
  split
  · exact hb
  split
  · exact hb
  · exact otpBit_otpBlow hb

theorem length_readMem {s t : State} {r n : Nat} {p : Place} {l : List Byte} (h : s.readMem r p n = (.ok l, t)) :
    l.length = n := by
  have hq : (memRead ((s.awake r).ctx r) p n ((s.awake r).region r)).1 = .ok l := congrArg Prod.fst h
  unfold memRead at hq
  split at hq
  · cases hq
  dsimp only at hq
  split at hq
  · cases hq
  split at hq
  · cases hq
    cases p <;> simp [rawRead]
  · cases hq

theorem length_rmem {s t : State} {r o n : Nat} {l : List Byte} (h : s.rmem r o n = (some l, t)) : l.length = n := by
  unfold State.rmem at h
  split at h
  · cases h
    exact length_readMem ‹_›
  · cases h

theorem length_xRead {s t : State} {o n : Nat} {l : List Byte} (h : xRead o n s = (some l, t)) : l.length = n := by
  unfold xRead at h
  dsimp only at h
  split at h
  · cases h
  · exact length_rmem h

/-- The keys of a slot lie below the fuses. -/
theorem stays_btProvision (s : State) : Stays s (btProvision s) := by
  unfold btProvision
  split
  · exact .of_lasting (by simp)
  · next k hk =>
    have hk : k < 4 := List.mem_range.1 (List.mem_of_find?_eq_some hk)
    have h := lasting_xRead 0 64 s
    split
    · exact .of_lasting (by simp)
    split
    · next l t ht =>
      have hl := length_xRead ht
      have hf : Stays t (t.onBoot fun b => otpBlow 0x168 (2 * k) (otpSet (0x40 + 0x40 * k) l b)) :=
        stays_onBoot t fun i _ hb => otpBit_otpBlow (by rwa [otpBit_otpSet_of_out (by omega)])
      exact (Stays.of_lasting (lasting_of_eq h ht)).trans (hf.trans (.of_lasting (lasting_btDone ..)))
    · exact .of_lasting (by simpa using lasting_of_eq h ‹_›)

theorem otpBit_revoke (k i : Nat) (b : Boot) (hb : otpBit b 0x160 i = true) :
    otpBit (foldN 4 (fun j b => if j < k ∧ slotProvisioned b j then otpBlow 0x168 (2 * j + 1) b else b) b) 0x160 i = true := by
  refine foldN_keeps (fun b => otpBit b 0x160 i = true) _ (fun j b h => ?_) _ hb
  split
  · exact otpBit_otpBlow h
  · exact h

theorem stays_btRevoke (s : State) : Stays s (btRevoke s) :=
  .ite (.of_lasting (by simp)) ((stays_onBoot s fun i _ hb => otpBit_revoke _ i _ hb).trans (.of_lasting (lasting_btDone ..)))

theorem stays_btAct (i : Nat) (s : State) : Stays s (btAct i s) := by
  unfold btAct
  split
  · exact .of_lasting (by simp)
  · exact .of_lasting (by simp)
  · exact .of_lasting (by simp)
  · exact .of_lasting (by simp)
  · exact .of_lasting (by simp)
  · exact .of_lasting (by simp)
  · exact stays_btProvision s
  · exact stays_btRevoke s

theorem stays_btCtl (v : Word) (s : State) : Stays s (btCtl v s) := by
  unfold btCtl btCommand
  split
  · exact .ite (.refl s) (stays_btAct ..)
  · exact .refl s

/-! ### Writes to registers -/

theorem stays_btWrite (a : Nat) (v : Word) {plain : State → State} {s : State} (h : (plain s).lasting = s.lasting) :
    Stays s (btWrite a v plain s) := by
  refine .ite (stays_btCtl v s) (.ite (.of_lasting (by simp)) ?_)
  split
  · exact .of_lasting (by simp [State.lasting_parts])
  · exact .of_lasting h

@[simp] theorem otp_wdCfgWrite (d : RegDef) (a : Nat) (v : Word) (h : Chip) :
    (wdCfgWrite d a v h).boot.otp = h.boot.otp := otp_setReg ..

theorem stays_rsWrite {a : Nat} (ha : a ≠ Reg.RS_SWRST.base) (v : Word) {plain : State → State} {s : State}
    (h : (plain s).lasting = s.lasting) : Stays s (rsWrite a v plain s) := by
  unfold rsWrite
  rw [if_neg ha]
  refine .ite (.of_lasting ?_) (.ite (.of_lasting (by simp)) (.ite (.of_lasting ?_) ?_))
  · rw [State.lasting_mk, otp_wdCfgWrite]
    rfl
  · rw [lasting_ite, State.lasting_mk, otp_bkClear]
    exact ite_self _
  split
  · exact .of_lasting (by simp)
  · refine .of_lasting ?_
    rw [State.lasting_mk, otp_wdCfgWrite]
    rfl
  · exact .of_lasting (by simp)
  · exact .of_lasting h

theorem stays_chipUnitWrite {a : Nat} (ha : a ≠ Reg.RS_SWRST.base) (v : Word) (s : State) :
    Stays s (chipUnitWrite a v s) := by
  have h := lasting_chipPlain a v s
  unfold chipUnitWrite
  split
  · exact .of_lasting (by simp [chWrite, State.lasting_parts])
  · exact stays_rsWrite ha v h
  · split <;> exact .of_lasting (by simp)
  · exact stays_btWrite a v h
  · exact .of_lasting (by simp)
  · exact .of_lasting (by simp)
  · exact (enWrite_plain_or_lasting a v _ s).elim (fun e => .of_lasting (by rw [e, h])) .of_lasting
  · exact (xlWrite_plain_or_lasting a v _ s).elim (fun e => .of_lasting (by rw [e, h])) .of_lasting
  · exact .of_lasting (by simp)

theorem keeps_chipUnitWrite (a : Nat) (v : Word) (s : State) : Keeps s (chipUnitWrite a v s) := by
  by_cases ha : a = Reg.RS_SWRST.base
  · subst ha
    exact keeps_swChipReset v s
  · exact (stays_chipUnitWrite ha v s).keeps

/-- Among the writes to registers only one of RS_SWRST can reset the chip. -/
theorem stays_writeReg (s : State) (host : Bool) {q : Option Nat} {a : Nat} (h : q = none → a ≠ Reg.RS_SWRST.base) (v : Word) :
    Stays s (s.writeReg host q a v).2 := by
  cases q with
  | none =>
    unfold State.writeReg State.writeChip
    dsimp only
    split
    · exact stays_chipUnitWrite (h rfl) v s
    · exact .refl s
  | some r => exact .of_lasting (lasting_writeRegion ..)

theorem keeps_writeReg (s : State) (host : Bool) (q : Option Nat) (a : Nat) (v : Word) :
    Keeps s (s.writeReg host q a v).2 := by
  cases q with
  | none =>
    unfold State.writeReg State.writeChip
    dsimp only
    split
    · exact keeps_chipUnitWrite a v s
    · exact .refl s
  | some r => exact .of_lasting (lasting_writeRegion ..)

/-! ### Host requests -/

@[simp] theorem lasting_bar0Read (a n : Nat) (s : State) : (bar0Read a n s).2.lasting = s.lasting := by
  induction n generalizing a s with
  | zero => rfl
  | succ n ih =>
    unfold bar0Read
    split
    · simp [ih]
    · rfl

/-- The register after RS_SWRST is none, so that a request ends at a reset that it makes. -/
theorem bar0Write_after_swrst (l : List Nat) (s : State) : (bar0Write (Reg.RS_SWRST.base + 4) l s).2 = s := by
  cases l with
  | nil => rfl
  | cons v l =>
    have hc : bar0Check (Reg.RS_SWRST.base + 4) s = .unsupported := by
      have hn : chipReg (Reg.RS_SWRST.base + 4) = none := by decide +kernel
      have ha : bar0At (Reg.RS_SWRST.base + 4) = some (none, Reg.RS_SWRST.base + 4) := rfl
      simp [bar0Check, ha, hn]
    unfold bar0Write
    rw [hc]

theorem eq_of_bar0At {a o : Nat} (h : bar0At a = some (none, o)) : a = o := by
  unfold bar0At at h
  split at h
  · exact congrArg Prod.snd (Option.some.inj h)
  · split at h <;> cases h

theorem keeps_bar0Write (a : Nat) (l : List Nat) (s : State) : Keeps s (bar0Write a l s).2 := by
  induction l generalizing a s with
  | nil => exact .refl s
  | cons v l ih =>
    unfold bar0Write
    split
    · next q o _ ho =>
      by_cases h : q = none ∧ o = Reg.RS_SWRST.base
      · obtain ⟨rfl, rfl⟩ := h
        rw [eq_of_bar0At ho, bar0Write_after_swrst]
        exact keeps_writeReg ..
      · exact (stays_writeReg s true (fun hq ho => h ⟨hq, ho⟩) _).trans_keeps (ih ..)
    · exact .refl s

@[simp] theorem lasting_bar2Read (l : List (Nat × Nat)) (s : State) : (bar2Read l s).2.lasting = s.lasting := by
  induction l generalizing s with
  | nil => rfl
  | cons e l ih =>
    unfold bar2Read
    split
    · rfl
    split
    · exact (ih _).trans (lasting_of_eq (lasting_readMem ..) ‹_›)
    · exact lasting_of_eq (lasting_readMem ..) ‹_›

@[simp] theorem lasting_bar2Write (data : List Byte) (l : List (Nat × Nat)) (s : State) :
    (bar2Write data l s).2.lasting = s.lasting := by
  induction l generalizing data s with
  | nil => rfl
  | cons e l ih =>
    unfold bar2Write
    split
    · rfl
    · simp [ih]

@[simp] theorem lasting_hostRead (space : HostSpace) (addr len : Nat) (s : State) :
    (hostRead space addr len s).lasting = s.lasting := by
  unfold hostRead hostReadGo
  cases space <;> simp

theorem keeps_hostWrite (space : HostSpace) (addr : Nat) (data : List Byte) (s : State) :
    Keeps s (hostWrite space addr data s) := by
  refine .ite (.ite (.of_lasting (by simp)) ?_) (.refl s)
  cases space with
  | bar0 => exact .ite ((keeps_bar0Write ..).hostEnd ..) (.of_lasting (by simp))
  | bar2 => exact .of_lasting (by simp)
  | msixControl => exact .of_lasting (by simp [State.lasting_parts])
  | deviceId => exact .of_lasting (by simp)
  | classCode => exact .of_lasting (by simp)
  | powerState => exact .of_lasting (by simp [State.lasting_parts])
  | errorStatus => exact .of_lasting (by simp [State.lasting_parts])

/-! ### The debug port -/

theorem Keeps.debugDo {i : Nat} {f : State → State} {s : State} (h : Keeps s (f s)) : Keeps s (debugDo i f s) :=
  .ite h (.of_lasting (by simp))

theorem Keeps.debugCell {c : Nat} {f : State → State} {s : State} (h : Keeps s (f s)) : Keeps s (debugCell c f s) :=
  .ite (.of_lasting (by simp)) h

theorem keeps_jtagAccess (op : JtagOp) (s : State) : Keeps s (jtagAccess op s) := by
  cases op with
  | idcode => exact .of_lasting (by simp [jtagAccess])
  | dbgchal => exact .of_lasting (by simp [jtagAccess])
  | dbgcert data => exact .of_lasting (by simp [jtagAccess])
  | halt c => exact .debugDo (.debugCell (.of_lasting (by simp)))
  | resume c => exact .debugDo (.debugCell (.of_lasting (by simp)))
  | single c => exact .debugDo (.debugCell (.of_lasting (by simp)))
  | readCell c r => exact .debugDo (.debugCell (.of_lasting (by simp)))
  | writeCell c r v => exact .debugDo (.debugCell (.of_lasting (by simp)))
  | readReg region offset =>
    unfold jtagAccess
    refine Keeps.debugDo ?_
    have h := lasting_readReg s (region.map fun r => r.val) offset
    split <;> exact .of_lasting (by simpa using lasting_of_eq h ‹_›)
  | writeReg region offset v =>
    unfold jtagAccess
    exact Keeps.debugDo ((keeps_writeReg s false (region.map fun r => r.val) offset v).answer _)

end Sys2Proof.Machine
end

section
/-!
PROOFS. What the instructions of a cell keep (O60).
-/

namespace Sys2Proof.Machine

/-! ## Instructions of a cell -/

/-- The state that an access leaves. -/
def Acc.state : Acc → State
  | .done s => s
  | .stay s => s
  | .fault s _ => s

@[simp] theorem Acc.state_done (s : State) : (Acc.done s).state = s := rfl
@[simp] theorem Acc.state_stay (s : State) : (Acc.stay s).state = s := rfl
@[simp] theorem Acc.state_fault (s : State) (e : Exc) : (Acc.fault s e).state = s := rfl
@[simp] theorem Acc.lasting_ite (c : Prop) [Decidable c] (a b : Acc) :
    (if c then a else b).state.lasting = if c then a.state.lasting else b.state.lasting := apply_ite (fun a : Acc => a.state.lasting) ..

/-- An instruction's own part leaves the lasting parts as in `s`; what then acts outside the cell keeps what every command
keeps. -/
def Did.Leaves (s : State) : Did → Prop
  | .ok t => t.lasting = s.lasting
  | .jump t _ => t.lasting = s.lasting
  | .branch t _ _ => t.lasting = s.lasting
  | .fault t _ => t.lasting = s.lasting
  | .after t f => t.lasting = s.lasting ∧ ∀ u, Keeps u (f u)
  | .stay t => t.lasting = s.lasting

@[simp] theorem Did.leaves_ok (s t : State) : (Did.ok t).Leaves s ↔ t.lasting = s.lasting := .rfl
@[simp] theorem Did.leaves_jump (s t : State) (pc : BitVec 13) :
    (Did.jump t pc).Leaves s ↔ t.lasting = s.lasting := .rfl
@[simp] theorem Did.leaves_branch (s t : State) (b : Slot) (annul : Bool) :
    (Did.branch t b annul).Leaves s ↔ t.lasting = s.lasting := .rfl
@[simp] theorem Did.leaves_fault (s t : State) (e : Exc) : (Did.fault t e).Leaves s ↔ t.lasting = s.lasting := .rfl
@[simp] theorem Did.leaves_after (s t : State) (f : State → State) :
    (Did.after t f).Leaves s ↔ t.lasting = s.lasting ∧ ∀ u, Keeps u (f u) := .rfl
@[simp] theorem Did.leaves_stay (s t : State) : (Did.stay t).Leaves s ↔ t.lasting = s.lasting := .rfl

theorem Did.Leaves.ite {c : Prop} [Decidable c] {s : State} {d e : Did} (h : d.Leaves s) (h' : e.Leaves s) :
    (if c then d else e).Leaves s := by
  split
  · exact h
  · exact h'

/-- What leaves the lasting parts alone may come first. -/
theorem Did.Leaves.of_lasting {s t : State} {d : Did} (hd : d.Leaves t) (h : t.lasting = s.lasting) : d.Leaves s := by
  unfold Did.Leaves at *
  rwa [← h]

theorem Acc.leaves_did {a : Acc} {s : State} (h : a.state.lasting = s.lasting) : a.did.Leaves s := by
  cases a <;> exact h

/-- The own part of an instruction, whatever the state. -/
def Op.Kept (o : Op) : Prop := ∀ s, (o.body s).Leaves s

/-! ### What becomes of the cell -/

theorem Did.Leaves.finish {s : State} {d : Did} (h : d.Leaves s) (c : Nat) (word : Word) (old : Cell) :
    Keeps s (finish c word old d) := by
  cases d with
  | after t f => exact .after (((lasting_onCell ..)).trans h.1) (h.2 _)
  | ok t => exact .of_lasting ((lasting_onCell ..).trans h)
  | jump t pc => exact .of_lasting ((lasting_takeAdmitted ..).trans ((lasting_onCell ..).trans h))
  | branch t b annul => exact .of_lasting ((lasting_onCell ..).trans h)
  | fault t e => exact .of_lasting ((lasting_takeFault ..).trans h)
  | stay t => exact .of_lasting h

theorem leaves_withUses {c : Nat} {regs : List RegNo} {acc : Bool} {body : State → Did} {s : State} (h : (body s).Leaves s) :
    (withUses c regs acc body s).Leaves s := by
  unfold withUses
  dsimp only
  split
  · exact rfl
  · exact .ite rfl h

theorem leaves_dispatchBase {c : Nat} {word : Word} {body : State → Did} (h : ∀ s, (body s).Leaves s) (s : State) :
    (dispatchBase c word body s).Leaves s := by
  have hm := lasting_readMem s (c / 128) (.imem (c % 128) (s.cell c).pc.toNat) 4
  unfold dispatchBase
  dsimp only
  split
  · next t ht =>
    refine .of_lasting (.ite rfl (.ite ?_ (.ite ((h _).of_lasting ?_) ?_))) (lasting_of_eq hm ht)
    · exact lasting_dispatchRead ..
    · exact lasting_dispatchRead ..
    · exact lasting_dispatchRead ..
  · exact lasting_of_eq hm ‹_›

theorem keeps_runInstr {c : Nat} {regs : List RegNo} {acc : Bool} {body : State → Did} (h : ∀ s, (body s).Leaves s) (word : Word)
    (s : State) : Keeps s (runInstr c word regs acc body s) := by
  refine .ite (.refl s) ?_
  split
  · exact .of_lasting (by simp)
  · exact (leaves_dispatchBase (fun t => leaves_withUses (h t)) s).finish ..

/-! ### Registers, block operations -/

@[simp] theorem kept_cellOp (c : CellId) (regs : List RegNo) (acc : Bool) (f : Cell → Cell) :
    (cellOp c regs acc f).Kept :=
  fun s => lasting_onCell s c.val f

@[simp] theorem kept_faultOp (e : Exc) : (faultOp e).Kept := fun _ => rfl

@[simp] theorem kept_longOp (c : CellId) (q : LongKind) (d a b : RegNo) (regs : List RegNo) :
    (longOp c q d a b regs).Kept :=
  fun _ => .ite (lasting_onCell ..) rfl

@[simp] theorem kept_brevOp (c : CellId) (d a : RegNo) (lanes : Fin 4) : (brevOp c d a lanes).Kept := by
  unfold brevOp
  split
  · exact kept_cellOp _ _ _ _
  · exact kept_faultOp _

@[simp] theorem kept_crcsOp (c : CellId) (d a : RegNo) (n : Fin 4) : (crcsOp c d a n).Kept := by
  unfold crcsOp
  split
  · exact kept_cellOp _ _ _ _
  · exact kept_faultOp _

@[simp] theorem kept_mac64Op (c : CellId) (a b : RegNo) : (mac64Op c a b).Kept := by
  unfold mac64Op
  split
  · exact fun _ => .ite (lasting_onCell ..) rfl
  · exact kept_faultOp _

theorem lasting_crcRun (c n : Nat) (p : Progress) (s : State) : (crcRun c n p s).2.2.lasting = s.lasting := by
  induction n generalizing p s with
  | zero => rfl
  | succ n ih =>
    unfold crcRun
    dsimp only
    split
    · rfl
    split
    · rfl
    split
    · exact (ih ..).trans (lasting_of_eq (lasting_dmRead ..) ‹_›)
    · exact lasting_of_eq (lasting_dmRead ..) ‹_›

theorem leaves_blockEnd (c : Nat) (a b d : RegNo) {r : Progress × Option Exc × State} {s : State}
    (h : r.2.2.lasting = s.lasting) : (blockEnd c a b d r).Leaves s := by
  unfold blockEnd
  dsimp only
  split
  · exact (lasting_onCell ..).trans h
  · exact .ite ((lasting_onCell ..).trans h) ((lasting_onCell ..).trans h)

theorem leaves_crcbBody (c n : Nat) (a b d : RegNo) (s : State) : (crcbBody c n a b d s).Leaves s := by
  refine .ite rfl (.ite rfl ?_)
  split
  · exact rfl
  · exact leaves_blockEnd c a b d ((lasting_crcRun ..).trans (lasting_settle ‹_›))

theorem lasting_blkRead (c a n : Nat) (s : State) : (blkRead c a n s).2.lasting = s.lasting := by
  unfold blkRead
  dsimp only
  split
  · split <;> exact lasting_of_eq (lasting_dmRead ..) ‹_›
  · split <;> exact lasting_of_eq (lasting_readMem ..) ‹_›
  · simp [apply_ite Prod.snd]
  · rfl

theorem lasting_blkWrite (c a : Nat) (bs : List Byte) (s : State) : (blkWrite c a bs s).2.lasting = s.lasting := by
  unfold blkWrite
  dsimp only
  split
  · split <;> exact lasting_of_eq (lasting_writeMem ..) ‹_›
  · split <;> exact lasting_of_eq (lasting_writeMem ..) ‹_›
  · rfl

theorem lasting_blkRun (c n : Nat) (p : Progress) (s : State) : (blkRun c n p s).2.2.lasting = s.lasting := by
  induction n generalizing p s with
  | zero => rfl
  | succ n ih =>
    unfold blkRun
    dsimp only
    split
    · rfl
    split
    · rfl
    split
    · exact lasting_of_eq (lasting_blkRead ..) ‹_›
    · next ht =>
      have ht := lasting_of_eq (lasting_blkRead ..) ht
      split
      · exact (lasting_of_eq (lasting_blkWrite ..) ‹_›).trans ht
      · exact (ih ..).trans ((lasting_of_eq (lasting_blkWrite ..) ‹_›).trans ht)

theorem leaves_blkmovBody (c n : Nat) (a b d : RegNo) (s : State) : (blkmovBody c n a b d s).Leaves s := by
  refine .ite rfl (.ite rfl (.ite rfl ?_))
  split
  · exact rfl
  · exact leaves_blockEnd c a b d ((lasting_blkRun ..).trans (lasting_settle ‹_›))

/-! ### Loads and stores -/

@[simp] theorem lasting_queueLoad (c : Nat) (dst : Dest) (addr : Word) (data : Option Word) (s : State) :
    (queueLoad c dst addr data s).lasting = s.lasting := (rfl)

@[simp] theorem lasting_loadAccess (c : Nat) (q : LoadKind) (dst : Dest) (ea : Word) (s : State) :
    (loadAccess c q dst ea s).state.lasting = s.lasting := by
  unfold loadAccess
  split
  · split
    · exact (lasting_onCell ..).trans (lasting_of_eq (lasting_dmRead ..) ‹_›)
    · exact lasting_of_eq (lasting_dmRead ..) ‹_›
  · split
    · split <;> exact (lasting_queueLoad ..).trans (lasting_of_eq (lasting_readMem ..) ‹_›)
    · rfl
  · simp
  · rfl

@[simp] theorem lasting_loadGo (c : Nat) (q : LoadKind) (dst : Dest) (ea : Word) (s : State) :
    (loadGo c q dst ea s).state.lasting = s.lasting := by
  unfold loadGo
  split
  · rfl
  split <;> simp

@[simp] theorem lasting_storeGo (c : Nat) (bs : List Byte) (ea : Word) (s : State) :
    (storeGo c bs ea s).state.lasting = s.lasting := by
  unfold storeGo
  split
  · rfl
  split
  · rfl
  · rfl
  · split <;> rfl

@[simp] theorem lasting_atomicAt (r : Nat) (p : Place) (f : Word → Word) (s : State) :
    (atomicAt r p f s).2.lasting = s.lasting := by
  unfold atomicAt
  split
  · next ht =>
    have ht := lasting_of_eq (lasting_readMem ..) ht
    dsimp only
    split <;> next hu => exact (lasting_of_eq (lasting_writeMem ..) hu).trans ht
  · exact lasting_of_eq (lasting_readMem ..) ‹_›

@[simp] theorem lasting_atomicGo (c : Nat) (f : Word → Word) (dst : Dest) (ea : Word) (s : State) :
    (atomicGo c f dst ea s).state.lasting = s.lasting := by
  unfold atomicGo
  split
  · rfl
  split
  · rfl
  · rfl
  · rfl
  · simp

@[simp] theorem kept_loadOp (c : CellId) (q : LoadKind) (d a : RegNo) (imm : BitVec 16) : (loadOp c q d a imm).Kept :=
  fun _ => Acc.leaves_did (lasting_loadGo ..)

@[simp] theorem kept_storeOp (c : CellId) (n : Nat) (d a : RegNo) (imm : BitVec 16) : (storeOp c n d a imm).Kept :=
  fun _ => Acc.leaves_did (lasting_storeGo ..)

/-! ### I/O space -/

@[simp] theorem lasting_ioPerform (q : IoAt) (s : State) : (ioPerform q s).2.lasting = s.lasting := by
  cases q <;> simp [ioPerform]

@[simp] theorem lasting_inGo (c : Nat) (dst : Dest) (a : Nat) (s : State) :
    (inGo c dst a s).state.lasting = s.lasting := by
  unfold inGo
  dsimp only
  split
  · rfl
  split
  · rfl
  split
  · split <;> rfl
  · simp

@[simp] theorem lasting_outGo (c : Nat) (posted : Bool) (a : Nat) (v : Word) (s : State) :
    (outGo c posted a v s).state.lasting = s.lasting := by
  unfold outGo
  dsimp only
  split
  · rfl
  split
  · rfl
  split <;> simp

/-- A write that fails has left the lasting parts alone. -/
theorem keeps_ioStore (q : IoAt) (v : Word) (s : State) :
    Keeps s (ioStore q v s).2 ∧ ((ioStore q v s).1 = false → (ioStore q v s).2.lasting = s.lasting) := by
  cases q with
  | own o => exact ⟨.refl s, fun _ => rfl⟩
  | region r o => exact ⟨.of_lasting (lasting_writeRegion ..), fun _ => lasting_writeRegion ..⟩
  | chip o =>
    dsimp only [ioStore, State.writeChip]
    split
    · exact ⟨keeps_chipUnitWrite .., nofun⟩
    · exact ⟨.refl s, fun _ => rfl⟩
  | none => exact ⟨.refl s, fun _ => rfl⟩

theorem keeps_outReach (c a seq : Nat) (v : Word) (s : State) : Keeps s (outReach c a seq v s) := by
  unfold outReach
  split
  · exact .refl s
  · obtain ⟨hk, hf⟩ := keeps_ioStore (ioAt c a) v s
    dsimp only
    split
    · exact hk
    · next hn => exact .of_lasting ((lasting_onCell ..).trans (hf (by simpa using hn)))

theorem leaves_outBody (c : Nat) (posted : Bool) (a : Nat) (v : Word) (s : State) :
    (outBody c posted a v s).Leaves s := by
  have h := lasting_outGo c posted a v s
  unfold outBody
  split <;> next ht => rw [ht] at h; simpa [keeps_outReach] using h

@[simp] theorem lasting_iwrGo (c : Nat) (addr : Option Nat) (full : Nat) (v : Word) (s : State) :
    (iwrGo c addr full v s).state.lasting = s.lasting := by
  unfold iwrGo
  dsimp only
  split
  · rfl
  split
  · rfl
  split
  · rfl
  split <;> exact lasting_of_eq (lasting_writeMem ..) ‹_›

/-! ### Branches and the return stack -/

@[simp] theorem kept_condBranch (c : CellId) (word : Word) (regs : List RegNo) (cond : Cell → Bool) (annul : Bool) (off : BitVec 15) :
    (condBranch c word regs cond annul off).Kept := fun _ => .ite rfl rfl

/-- The state that a push or pop leaves. -/
def Stacked.state : Stacked → State
  | .ok s _ => s
  | .popped s _ => s
  | .stay s => s
  | .fault s _ => s

@[simp] theorem Stacked.state_ok (s : State) (l : List (Nat × List Byte)) : (Stacked.ok s l).state = s := rfl
@[simp] theorem Stacked.state_popped (s : State) (t : BitVec 13) : (Stacked.popped s t).state = s := rfl
@[simp] theorem Stacked.state_stay (s : State) : (Stacked.stay s).state = s := rfl
@[simp] theorem Stacked.state_fault (s : State) (e : Exc) : (Stacked.fault s e).state = s := rfl

theorem lasting_rsPush (c : Nat) (ret : BitVec 13) (s : State) : (rsPush c ret s).state.lasting = s.lasting := by
  unfold rsPush
  dsimp only
  split
  · rfl
  split
  · rfl
  split
  · rfl
  · simpa using lasting_settle ‹_›

theorem lasting_rsPop (c : Nat) (s : State) : (rsPop c s).state.lasting = s.lasting := by
  unfold rsPop
  dsimp only
  split
  · rfl
  split
  · rfl
  split
  · rfl
  · next ht =>
    have ht := lasting_settle ht
    split
    · next hu =>
      have hu := (lasting_of_eq (lasting_dmRead ..) hu).trans ht
      split
      · exact hu
      · simpa using hu
    · exact (lasting_of_eq (lasting_dmRead ..) ‹_›).trans ht

theorem leaves_callTo (c : Nat) (word : Word) (target : BitVec 13) (s : State) : (callTo c word target s).Leaves s := by
  have h := lasting_rsPush c ((s.cell c).pc + 8) s
  unfold callTo
  dsimp only
  split <;> next ht => rw [ht] at h; exact h

@[simp] theorem kept_retOp (c : CellId) : (retOp c).Kept := fun s => by
  have h := lasting_rsPop c.val s
  unfold retOp
  dsimp only
  split <;> next ht => rw [ht] at h; exact h

/-! ### Events, barriers, checkpoints, gates -/

@[simp] theorem lasting_portFire (c p : Nat) (s : State) : (portFire c p s).lasting = s.lasting := (rfl)

@[simp] theorem lasting_eventArrive (c p : Nat) (stamp : Ticks) (s : State) :
    (eventArrive c p stamp s).lasting = s.lasting := by
  simp [eventArrive]

@[simp] theorem lasting_exceptionEntry (c : Nat) (s : State) : (exceptionEntry c s).lasting = s.lasting := by
  simp [exceptionEntry]

@[simp] theorem kept_waitOp (c : CellId) (p : Fin 4) :
    (waitOp c p).Kept := fun _ => .ite (lasting_onCell ..) (lasting_onCell ..)

theorem leaves_barrier {c v : Nat} {clear : Cell → Bool} {body : State → Did} {s : State} (h : (body s).Leaves s) :
    (barrier c v clear body s).Leaves s := by
  refine .ite rfl ?_
  split
  · exact rfl
  · exact h

theorem leaves_ckptBody (c : Nat) (s : State) : (ckptBody c s).Leaves s := by
  refine .ite rfl (.ite rfl (.ite rfl ?_))
  split
  · next l t ht =>
    have ht : t.lasting = s.lasting := lasting_of_eq (lasting_dmRead ..) ht
    dsimp only
    split <;> next hu =>
      have hu := lasting_of_eq (lasting_writeMem ..) hu
      rw [lasting_setRegion] at hu
      exact hu.trans ht
  · next ht => exact lasting_of_eq (lasting_dmRead ..) ht

theorem leaves_gateEnter (c n : Nat) (e : GateEntry) (s : State) : (gateEnter c n e s).Leaves s := by simp [gateEnter]

theorem leaves_gateCheck (c n : Nat) (e : GateEntry) (s : State) : (gateCheck c n e s).Leaves s := by
  refine .ite rfl (.ite rfl (.ite rfl (leaves_withUses ?_)))
  dsimp only
  split
  · exact rfl
  · exact .ite rfl (leaves_gateEnter ..)

theorem leaves_gateBody (c n : Nat) (s : State) : (gateBody c n s).Leaves s := by
  refine .ite rfl (.ite rfl ?_)
  split
  · exact rfl
  · next t ht =>
    have ht := lasting_settle ht
    split
    · next hu => exact (leaves_gateCheck ..).of_lasting ((lasting_of_eq (lasting_dmRead ..) hu).trans ht)
    · next hu => exact (lasting_of_eq (lasting_dmRead ..) hu).trans ht

theorem leaves_retsGo (c : Nat) (l : List Byte) (top : Bool) (s : State) : (retsGo c l top s).Leaves s :=
  .ite rfl (lasting_onCell ..)

theorem leaves_retsBody (c : Nat) (s : State) : (retsBody c s).Leaves s := by
  refine .ite rfl ?_
  split
  · split
    · exact rfl
    · next t ht =>
      have ht := lasting_settle ht
      split
      · next hu => exact (leaves_retsGo ..).of_lasting ((lasting_of_eq (lasting_dmRead ..) hu).trans ht)
      · next hu => exact (lasting_of_eq (lasting_dmRead ..) hu).trans ht
  · exact rfl

theorem leaves_reteGo (c : Nat) (l : List Byte) (s : State) : (reteGo c l s).Leaves s := .ite rfl (lasting_onCell ..)

theorem leaves_reteBody (c : Nat) (s : State) : (reteBody c s).Leaves s := by
  refine .ite rfl (.ite rfl ?_)
  split
  · exact rfl
  · next t ht =>
    have ht := lasting_settle ht
    split
    · next hu => exact (leaves_reteGo ..).of_lasting ((lasting_of_eq (lasting_dmRead ..) hu).trans ht)
    · next hu => exact (lasting_of_eq (lasting_dmRead ..) hu).trans ht

@[simp] theorem kept_mfsOp (c : CellId) (d : RegNo) (sr : Fin 64) : (mfsOp c d sr).Kept := fun _ => by
  refine .ite rfl ?_
  split
  · exact lasting_onCell ..
  · exact rfl

@[simp] theorem kept_mtsOp (c : CellId) (a : RegNo) (sr : Fin 64) : (mtsOp c a sr).Kept := fun _ =>
  .ite rfl (.ite ⟨lasting_onCell .., fun _ => .of_lasting (by simp)⟩ rfl)

@[simp] theorem kept_haltOp (c : CellId) : (haltOp c).Kept := fun _ => .ite rfl (.ite (lasting_onCell ..) rfl)

theorem leaves_idleBody (c : Nat) (s : State) : (idleBody c s).Leaves s :=
  .ite ⟨rfl, fun _ => .of_lasting (lasting_takeAdmitted ..)⟩ (lasting_onCell ..)

theorem keeps_runIdle (c : Nat) (word : Word) (s : State) : Keeps s (runIdle c word s) :=
  .ite (.refl s) ((leaves_dispatchBase (leaves_idleBody c) s).finish ..)

/-! ### Base instructions -/

/-- The value of the register may be no word address. -/
@[simp] theorem kept_jrOp (c : CellId) (a : RegNo) : (jrOp c a).Kept := fun _ => .ite rfl rfl

@[simp] theorem kept_callrOp (c : CellId) (a : RegNo) : (callrOp c a).Kept := fun _ => .ite rfl (leaves_callTo ..)

@[simp] theorem kept_crcbOp (c : CellId) (a b d : RegNo) :
    (crcbOp c a b d).Kept := fun _ => (leaves_crcbBody ..).of_lasting rfl

@[simp] theorem kept_blkmovOp (c : CellId) (a b d : RegNo) :
    (blkmovOp c a b d).Kept := fun _ => (leaves_blkmovBody ..).of_lasting rfl

@[simp] theorem kept_swpOp (c : CellId) (d a b : RegNo) :
    (swpOp c d a b).Kept := fun _ => Acc.leaves_did (lasting_atomicGo ..)

@[simp] theorem kept_ldaOp (c : CellId) (d a b : RegNo) :
    (ldaOp c d a b).Kept := fun _ => Acc.leaves_did (lasting_atomicGo ..)

@[simp] theorem kept_inOp (c : CellId) (d a : RegNo) (port : BitVec 16) : (inOp c d a port).Kept := fun _ =>
  Acc.leaves_did (lasting_inGo ..)

@[simp] theorem kept_iwrOp (c : CellId) (d a : RegNo) (imm : BitVec 16) : (iwrOp c d a imm).Kept := fun _ =>
  Acc.leaves_did (lasting_iwrGo ..)

@[simp] theorem kept_fireOp (c : CellId) (p : Fin 4) : (fireOp c p).Kept := fun _ => lasting_portFire ..

@[simp] theorem kept_mbarOp (c : CellId) : (mbarOp c).Kept := fun s => by
  have h : (mbarGo c.val .ok s).Leaves s := leaves_barrier rfl
  exact h

@[simp] theorem kept_lbarOp (c : CellId) : (lbarOp c).Kept := fun s => by
  have h : (lbarGo c.val .ok s).Leaves s := leaves_barrier rfl
  exact h

@[simp] theorem kept_outOp (c : CellId) (d a : RegNo) (port : BitVec 16) :
    (outOp c d a port).Kept := fun _ => leaves_outBody ..

@[simp] theorem kept_outpOp (c : CellId) (d a : RegNo) (port : BitVec 16) :
    (outpOp c d a port).Kept := fun _ => leaves_outBody ..

@[simp] theorem kept_jmpOp (c : CellId) (target : BitVec 24) : (jmpOp c target).Kept := fun _ => rfl

@[simp] theorem kept_callOp (c : CellId) (target : BitVec 24) : (callOp c target).Kept := fun _ => leaves_callTo ..

@[simp] theorem kept_ckptOp (c : CellId) : (ckptOp c).Kept := leaves_ckptBody c.val

@[simp] theorem kept_gateOp (c : CellId) (n : Byte) : (gateOp c n).Kept := leaves_gateBody c.val n.toNat

@[simp] theorem kept_retsOp (c : CellId) : (retsOp c).Kept := leaves_retsBody c.val

@[simp] theorem kept_reteOp (c : CellId) : (reteOp c).Kept := leaves_reteBody c.val

@[simp] theorem kept_idleOp (c : CellId) : (idleOp c).Kept := leaves_idleBody c.val

/-- Every base instruction is of one of the forms above. -/
theorem kept_baseOp {c : CellId} {i : Instr} {o : Op} (h : baseOp c i = some o) : o.Kept := by
  cases i <;> simp only [baseOp, reduceCtorEq, Option.some.injEq] at h <;> subst h
  all_goals
    simp [
      addOp, addiOp, addsOp, addsiOp, andOp, andiOp, andnOp, beqOp, beqzOp, bgeOp, bgeuOp, bgezOp, bltOp,
      bltuOp, bltzOp, bneOp, bnezOp, clzOp, cmovnzOp, cmovzOp, divOp, divuOp, evtstOp, iflushOp, ldbOp, ldbuOp,
      ldhOp, ldhuOp, ldwOp, luiOp, macOp, macsOp, mtacOp, mulOp, mulhOp, mulhuOp, nopOp, orOp, oriOp, parOp,
      popcOp, qmulOp, rdacOp, remOp, remuOp, rorOp, roriOp, selOp, sllOp, slliOp, sltOp, sltiOp, sltiuOp,
      sltuOp, sqrtOp, sraOp, sraiOp, srlOp, srliOp, stbOp, sthOp, stwOp, subOp, subsOp, xorOp, xoriOp, branch1,
      branch2, alu2, alu3]

end Sys2Proof.Machine
end

section
/-!
PROOFS. What microwords and routines keep (O60).
-/

namespace Sys2Proof.Machine

/-! ## Microwords -/

/-- An effect of a microword leaves the lasting parts as in `s`; what then acts outside the cell is as `P` says. -/
def UOut.Leaves (P : (State → State) → Prop) (s : State) : UOut → Prop
  | .done t f => t.lasting = s.lasting ∧ P f
  | .hold => True
  | .part t => t.lasting = s.lasting
  | .fault t _ => t.lasting = s.lasting

/-- Nothing acts outside the cell. -/
def NoReach (f : State → State) : Prop := f = id

/-- What acts outside the cell keeps what every command keeps. -/
def Reaches (f : State → State) : Prop := ∀ s, Keeps s (f s)

theorem UOut.Leaves.ite {P : (State → State) → Prop} {c : Prop} [Decidable c] {s : State} {u v : UOut} (h : u.Leaves P s)
    (h' : v.Leaves P s) : (if c then u else v).Leaves P s := by
  split
  · exact h
  · exact h'

/-- One effect after another, where what acts outside the cell is as `R` says. -/
theorem UOut.Leaves.bind {P Q R : (State → State) → Prop} {s : State} {u : UOut} {f : State → UOut} (hu : u.Leaves P s)
    (hf : ∀ t, (f t).Leaves Q t) (hR : ∀ g h, P g → Q h → R fun s => h (g s)) : (u.bind f).Leaves R s := by
  cases u with
  | done t g =>
    obtain ⟨ht, hg⟩ := hu
    have h := hf t
    unfold UOut.bind
    dsimp only
    split <;> simp_all [UOut.Leaves]
  | hold => trivial
  | part t => exact hu
  | fault t e => exact hu

theorem NoReach.comp {g h : State → State} (hg : NoReach g) (hh : NoReach h) : NoReach fun s => h (g s) := by
  cases hg
  cases hh
  rfl

theorem NoReach.comp_reaches {g h : State → State} (hg : NoReach g) (hh : Reaches h) : Reaches fun s => h (g s) := by
  cases hg
  exact hh

theorem Reaches.comp_noReach {g h : State → State} (hg : Reaches g) (hh : NoReach h) : Reaches fun s => h (g s) := by
  cases hh
  exact hg

theorem reaches_id : Reaches id := Keeps.refl

theorem UOut.leaves_cell (c : Nat) (f : Cell → Cell) (s : State) : (UOut.cell c f s).Leaves NoReach s :=
  ⟨lasting_onCell .., rfl⟩

theorem Acc.leaves_uout {a : Acc} {s : State} (h : a.state.lasting = s.lasting) : a.uout.Leaves NoReach s := by
  cases a with
  | done t => exact ⟨h, rfl⟩
  | stay t => trivial
  | fault t e => exact h

theorem leaves_memEffect (c : Nat) (f : MicroWord) (o : MicroArgs) (s : State) :
    (memEffect c f o s).Leaves NoReach s := by
  unfold memEffect
  split
  · exact ⟨rfl, rfl⟩
  all_goals exact Acc.leaves_uout (by simp)

theorem leaves_iopEffect (c : Nat) (f : MicroWord) (o : MicroArgs) (s : State) :
    (iopEffect c f o s).Leaves Reaches s := by
  have hid {a : Acc} (h : a.state.lasting = s.lasting) : a.uout.Leaves Reaches s := by
    cases a with
    | done t => exact ⟨h, reaches_id⟩
    | stay t => trivial
    | fault t e => exact h
  unfold iopEffect
  dsimp only
  split
  · exact hid (by simp)
  · have h := lasting_outGo c false (o.r.toNat % 0x1000000) o.v s
    split <;> simp_all [UOut.Leaves, Reaches, keeps_outReach]
  · have h := lasting_outGo c true (o.r.toNat % 0x1000000) o.v s
    split <;> simp_all [UOut.Leaves, Reaches, keeps_outReach]
  · exact hid (by simp)
  · exact ⟨rfl, reaches_id⟩

theorem leaves_stkEffect (c : Nat) (f : MicroWord) (o : MicroArgs) (s : State) :
    (stkEffect c f o s).Leaves NoReach s := by
  unfold stkEffect
  dsimp only
  split
  · have h := lasting_rsPush c (o.a.truncate 13 &&& 0x1FFC) s
    split <;> simp_all [UOut.Leaves, UOut.cell, NoReach]
  · refine .ite ((Acc.leaves_uout (lasting_storeGo ..)).bind (fun t => UOut.leaves_cell c _ t) fun _ _ => NoReach.comp) rfl
  · refine .ite ((Acc.leaves_uout (lasting_loadGo ..)).bind (fun t => UOut.leaves_cell c _ t) fun _ _ => NoReach.comp) rfl
  · exact ⟨rfl, rfl⟩

theorem leaves_lngEffect (c : Nat) (word : Word) (f : MicroWord) (o : MicroArgs) (s : State) :
    (lngEffect c word f o s).Leaves NoReach s := by
  have issue (q : Cell → Cell) : (if (s.cell c).longRoom then UOut.cell c q s else .hold).Leaves NoReach s :=
    .ite (UOut.leaves_cell ..) trivial
  unfold lngEffect
  dsimp only
  split
  · exact ⟨rfl, rfl⟩
  · exact issue _
  · exact issue _
  · exact issue _
  · exact issue _
  · exact issue _
  · exact issue _
  · exact issue _
  · have h := leaves_crcbBody c 0x2001 (regField word 20) (regField word 16) (regField word 12) s
    split <;> simp_all [UOut.Leaves, NoReach]
  · have h := leaves_blkmovBody c ((s.cell c).g (regField word 16)).toNat (regField word 20) (regField word 16)
      (regField word 12) s
    split <;> simp_all [UOut.Leaves, NoReach]

theorem leaves_brEffect (c : Nat) (m : Micro) (f : MicroWord) (o : MicroArgs) (cnd : Bool) (s : State) :
    (brEffect c m f o cnd s).Leaves NoReach s := by
  unfold brEffect
  dsimp only
  split
  · exact UOut.leaves_cell ..
  · exact UOut.leaves_cell ..
  · have h := lasting_rsPop c s
    split <;> simp_all [UOut.Leaves, UOut.cell, NoReach]
  · exact ⟨rfl, rfl⟩

theorem leaves_evtEffect (c : Nat) (word : Word) (f : MicroWord) (s : State) :
    (evtEffect c word f s).Leaves NoReach s := by
  unfold evtEffect
  dsimp only
  split
  · exact ⟨rfl, rfl⟩
  · exact UOut.leaves_cell ..
  · exact ⟨lasting_portFire .., rfl⟩
  · exact .ite (UOut.leaves_cell ..) ⟨lasting_portFire .., rfl⟩

/-- Of the effects of a microword only that in I/O space acts outside the cell. -/
theorem leaves_microEffects (c : Nat) (m : Micro) (f : MicroWord) (o : MicroArgs) (write cnd : Bool) (s : State) :
    (microEffects c m f o write cnd s).Leaves Reaches s := by
  have hmem := (leaves_lngEffect c m.word f o s).bind (leaves_memEffect c f o) fun _ _ => NoReach.comp
  have hiop := hmem.bind (leaves_iopEffect c f o) fun _ _ => NoReach.comp_reaches
  have hbr := hiop.bind (leaves_brEffect c m f o cnd) fun _ _ => Reaches.comp_noReach
  have hstk := hbr.bind (leaves_stkEffect c f o) fun _ _ => Reaches.comp_noReach
  have hevt := hstk.bind (leaves_evtEffect c m.word f) fun _ _ => Reaches.comp_noReach
  exact hevt.bind (UOut.leaves_cell c _) fun _ _ => Reaches.comp_noReach

theorem leaves_oprGo (c : Nat) (f : MicroWord) (s : State) : (oprGo c f s).Leaves NoReach s := by
  unfold oprGo
  dsimp only
  split
  · have h : (barrier c 5 memoryQuiet .ok s).Leaves s := leaves_barrier rfl
    split <;> simp_all [UOut.Leaves, NoReach]
  · have h : (barrier c 9 (fun k => k.longOps.isEmpty) .ok s).Leaves s := leaves_barrier rfl
    split <;> simp_all [UOut.Leaves, NoReach]
  · exact ⟨rfl, rfl⟩

/-! ### Vendor entry points -/

theorem leaves_onCell (c : Nat) (f : Cell → Cell) {d : Did} {s : State} (h : d.Leaves s) : (d.onCell c f).Leaves s := by
  cases d with
  | after t f => exact ⟨(lasting_onCell ..).trans h.1, h.2⟩
  | _ => simpa [Did.onCell] using h

theorem leaves_forUser (m : Micro) {d : Did} {s : State} (h : d.Leaves s) : (d.forUser m).Leaves s := by
  cases d <;> exact h

theorem keeps_vendorEnd (c : Nat) (m : Micro) {d : Did} {s : State} (h : d.Leaves s) : Keeps s (vendorEnd c m d s) := by
  unfold vendorEnd
  dsimp only
  split
  · exact .of_lasting ((lasting_onCell ..).trans h)
  · exact .after ((lasting_onCell ..).trans h.1) (h.2 _)
  · exact .of_lasting h
  · exact .of_lasting ((lasting_takeFault ..).trans h)
  · exact (leaves_forUser m (leaves_onCell c _ h)).finish ..

theorem keeps_vendorRun (c : CellId) (m : Micro) (op : Nat) (s : State) : Keeps s (vendorRun c m op s) := by
  refine keeps_vendorEnd _ _ ?_
  split
  · exact leaves_withUses (kept_baseOp ‹_› s)
  · exact rfl

theorem keeps_vendorStk (c : Nat) (m : Micro) (f : MicroWord) (s : State) : Keeps s (vendorStk c m f s) :=
  keeps_vendorEnd _ _ (.ite (leaves_reteBody ..) (leaves_gateBody ..))

/-! ### Routines -/

/-- What one microword leaves; the routine goes on only where the chip was not reset. -/
def UStep.Keeps (s : State) (p : UStep) : Prop := Machine.Keeps s p.2 ∧ (p.1 = true → Stays s p.2)

theorem UStep.keeps_stop {s t : State} (h : Machine.Keeps s t) : UStep.Keeps s (false, t) := ⟨h, nofun⟩

theorem UStep.Keeps.ite {c : Prop} [Decidable c] {s : State} {p q : UStep} (h : UStep.Keeps s p) (h' : UStep.Keeps s q) :
    UStep.Keeps s (if c then p else q) := by
  split
  · exact h
  · exact h'

theorem UStep.keeps_microFault (c : Nat) (word : Word) (e : Exc) {s t : State} (h : t.lasting = s.lasting) :
    UStep.Keeps s (microFault c word e t) := UStep.keeps_stop (.of_lasting ((lasting_takeFault ..).trans h))

/-- A cell that is still within its routine shows that the chip was not reset. -/
theorem Keeps.stays_of_midSegment {s t : State} (h : Keeps s t) {c : Nat} (hm : midSegment (t.cell c) = true) :
    Stays s t := by
  refine ⟨h.pending, h.blown, h.gtime.resolve_right fun hr => ?_⟩
  simp [midSegment, hr.cells c] at hm

theorem keeps_microSeq (c n : Nat) (m : Micro) (f : MicroWord) (next : Option (BitVec 10)) (cnd : Bool) {s t : State}
    {after : State → State} (ht : t.lasting = s.lasting) (ha : Reaches after) : UStep.Keeps s (microSeq c n m f next cnd t after) := by
  have h (g : Cell → Cell) : Keeps s (after (t.onCell c g)) := .after ((lasting_onCell ..).trans ht) (ha _)
  exact .ite (UStep.keeps_stop (h _)) ⟨h _, (h _).stays_of_midSegment⟩

theorem keeps_microExec (c n : Nat) (m : Micro) (f : MicroWord) (o : MicroArgs) (write cnd : Bool) (next : Option (BitVec 10))
    (s : State) : UStep.Keeps s (microExec c n m f o write cnd next s) := by
  have h := (leaves_oprGo c f s).bind (leaves_microEffects c m f o write cnd) fun _ _ => NoReach.comp_reaches
  unfold microExec
  split
  · exact UStep.keeps_stop (.refl s)
  · next he => rw [he] at h; exact UStep.keeps_stop (.of_lasting h)
  · next he =>
    rw [he] at h
    refine UStep.keeps_microFault _ _ _ ?_
    split
    · exact h
    · rfl
  · next he =>
    rw [he] at h
    exact keeps_microSeq c n m f next cnd ((lasting_onCell ..).trans h.1) h.2

theorem keeps_microRun (c n : Nat) (m : Micro) (f : MicroWord) (s : State) : UStep.Keeps s (microRun c n m f s) := by
  have hfault (e : Exc) : UStep.Keeps s (microFault c m.word e s) := UStep.keeps_microFault _ _ _ rfl
  unfold microRun
  dsimp only
  split
  · exact hfault _
  split
  · exact hfault _
  · exact .ite (UStep.keeps_stop (keeps_vendorStk ..)) (.ite (hfault _) (.ite (.ite (hfault _)
      (.ite (UStep.keeps_stop (.of_lasting (lasting_parityRecover ..))) (.ite (hfault _) (keeps_microExec ..))))
      (keeps_microExec ..)))

theorem keeps_microStep (c : CellId) (s : State) : UStep.Keeps s (microStep c s) := by
  unfold microStep
  dsimp only
  split
  · exact UStep.keeps_stop (.refl s)
  refine .ite (UStep.keeps_stop (.of_lasting (lasting_parityRecover ..))) (.ite (UStep.keeps_microFault _ _ _ rfl) ?_)
  split
  · exact UStep.keeps_stop (keeps_vendorRun ..)
  refine .ite (UStep.keeps_stop (.of_lasting (by simp))) ?_
  split
  · exact UStep.keeps_microFault _ _ _ rfl
  · exact UStep.keeps_microFault _ _ _ rfl
  · exact .ite (UStep.keeps_stop (.refl s)) (keeps_microRun ..)

theorem keeps_microLoop (c : CellId) (n : Nat) (s : State) : Keeps s (microLoop c n s) := by
  induction n generalizing s with
  | zero => exact .refl s
  | succ n ih =>
    obtain ⟨hk, hs⟩ := keeps_microStep c s
    unfold microLoop
    dsimp only
    split
    · next hp => exact (hs hp).trans_keeps (ih _)
    · exact hk

theorem keeps_userDispatch (c : CellId) (word : Word) (s : State) : Keeps s (userDispatch c word s) := by
  have hm := lasting_readMem s (c.val / 128) (.imem (c.val % 128) (s.cell c.val).pc.toNat) 4
  have hfault (e : Exc) {t : State} (h : t.lasting = s.lasting) : Keeps s (takeFault c.val e word t) :=
    .of_lasting ((lasting_takeFault ..).trans h)
  unfold userDispatch
  dsimp only
  split
  · next t ht =>
    have ht := lasting_of_eq hm ht
    have hd := (lasting_dispatchRead c.val (s.cell c.val).ds (opcodeOf word) t).trans ht
    exact .ite (hfault _ ht) (.ite (hfault _ ht) (.ite (.of_lasting hd)
      (.ite (.after (by simpa [State.lasting_parts] using hd) (keeps_microLoop ..)) (hfault _ hd))))
  · next ht => exact hfault _ (lasting_of_eq hm ht)

theorem keeps_userRun (c : CellId) (word : Word) (s : State) : Keeps s (userRun c word s) := by
  refine .ite (.refl s) ?_
  split
  · exact .ite (.of_lasting (lasting_takeInterrupt ..)) (.refl s)
  · exact .ite (keeps_microLoop ..) (.refl s)
  · exact .of_lasting (lasting_takeInterrupt ..)
  · exact keeps_userDispatch ..

@[simp] theorem lasting_safePointWatchdog (c : Nat) (s : State) : (safePointWatchdog c s).lasting = s.lasting := by
  unfold safePointWatchdog
  dsimp only
  split
  · rfl
  · simp

@[simp] theorem lasting_parityRecovery (c : Nat) (dt : Bool) (set index : Nat) (s : State) :
    (parityRecovery c dt set index s).lasting = s.lasting := by simp [parityRecovery]

end Sys2Proof.Machine
end

section
/-!
PROOFS. What every command keeps (O60).
-/

namespace Sys2Proof.Machine

/-! ## Commands -/

@[simp] theorem otp_clockIsGood (k : Nat) (h : Chip) : (clockIsGood k h).boot.otp = h.boot.otp := otp_setReg ..

@[simp] theorem otp_vbatLost (h : Chip) : (vbatLost h).boot.otp = h.boot.otp := otp_backupErase h

@[simp] theorem lasting_btCommand {f : State → State} (hf : ∀ s, (f s).lasting = s.lasting) (s : State) :
    (btCommand f s).lasting = s.lasting := by
  unfold btCommand
  split
  · rfl
  · exact hf s

theorem keeps_runOp {c : CellId} {i : Instr} {o : Op} {s t : State} (h : runOp c i o s = .next t) (ho : o.Kept) :
    Keeps s t := by
  cases h
  exact keeps_runInstr ho ..

theorem keeps_execReservedOpcode {c : CellId} {w : Word} {s t : State} (h : execReservedOpcode c w s = .next t) :
    Keeps s t := by
  unfold execReservedOpcode at h
  split at h
  · cases h
    exact keeps_runInstr (body := reservedOp.body) (fun _ => rfl) ..
  · cases h

/-- Every command but the application of a GTIME step keeps the queue, what is blown, and GTIME unless it resets the
chip. -/
theorem keeps_exec {i : Instr} (hi : i ≠ .gtimeStepApply) {s t : State} (h : exec i s = .next t) : Keeps s t := by
  have hbase : ∀ c o, baseOp c i = some o → o.Kept := fun _ _ => kept_baseOp
  cases i
  case nop | add | sub | adds | subs | and | or | xor | andn | sll | srl | sra | ror | slt | sltu | clz | popc | brev | par
      | sel | cmovz | cmovnz | addi | addsi | andi | ori | xori | lui | slli | srli | srai | rori | slti | sltiu | mul | mulh
      | mulhu | qmul | mac | macs | mtac | rdac | div | divu | rem | remu | sqrt | mac64 | crcs | crcb | blkmov | ldw | ldh
      | ldhu | ldb | ldbu | stw | sth | stb | lda | swp | in_ | out | outp | iwr | iflush | beq | bne | blt | bge | bltu | bgeu
      | beqz | bnez | bltz | bgez | jmp | call | jr | callr | ret | wait | fire | evtst | ckpt | gate | rets | rete | mfs | mts
      | halt | mbar | lbar => exact keeps_runOp h (hbase _ _ rfl)
  case gtimeStepApply => exact absurd rfl hi
  case idle => cases h; exact keeps_runIdle ..
  case reservedOpcode => exact keeps_execReservedOpcode h
  case userOpcode => cases h; exact keeps_userRun ..
  case powerOnReset | brownOut | nreset | chipClockLoss => cases h; exact keeps_chipReset ..
  case rstchip => cases h; exact keeps_rstchipReset s
  case criticalStateError => cases h; exact keeps_criticalError s
  case softwareChipReset => cases h; exact keeps_swChipReset ..
  case chipWatchdogExpiry | regionWatchdogExpiry => cases h; exact keeps_wdExpiry ..
  case watchdogWarning => cases h; exact keeps_wdWarning ..
  case fuseBlown => cases h; exact (stays_fuseBlown s).keeps
  case provision => cases h; exact .ite (.refl s) (stays_btProvision s).keeps
  case revoke => cases h; exact .ite (.refl s) (stays_btRevoke s).keeps
  case hostWrite => cases h; exact keeps_hostWrite ..
  case registerWrite => cases h; exact keeps_writeReg ..
  case jtagDebugAccess => cases h; exact keeps_jtagAccess ..
  all_goals
    cases h
    refine .of_lasting ?_
    simp [State.lasting_parts]

/-! ## What no command does -/

/-- The slot states stand behind the 64 fuses. -/
theorem otpBit_slots (b : Boot) (j : Nat) : otpBit b 0x168 j = otpBit b 0x160 (64 + j) := by
  unfold otpBit
  rw [show 0x160 + (64 + j) / 8 = 0x168 + j / 8 by omega, show (64 + j) % 8 = j % 8 by omega]

/-- Fuses and slots of two states of which the second has lost no bit. -/
theorem slots_of_blown {s t : State}
    (h : ∀ i, i < 72 → otpBit s.chip.boot 0x160 i = true → otpBit t.chip.boot 0x160 i = true) {k : Nat} (hk : k < 4) :
    (slotProvisioned s.chip.boot k = true → slotProvisioned t.chip.boot k = true)
      ∧ (slotRevoked s.chip.boot k = true → slotRevoked t.chip.boot k = true) := by
  unfold slotProvisioned slotRevoked
  rw [otpBit_slots, otpBit_slots, otpBit_slots, otpBit_slots]
  exact ⟨h _ (by omega), h _ (by omega)⟩

/-- Settles O60: every command but GTIME_STEP_APPLY keeps what `Keeps` says, by cases on the command; that one changes
GTIME alone. -/
theorem whatNoCommandDoes : Obligations.WhatNoCommandDoes := by
  intro c s t h
  by_cases hc : c = .gtimeStepApply
  · subst hc
    cases h
    rw [chip_gtApply]
    exact ⟨(queues_gtApply s).1, fun _ _ hb => hb, fun _ _ => ⟨id, id⟩, .inr (.inl rfl)⟩
  · obtain ⟨hpending, hblown, hgtime⟩ := keeps_exec hc h
    exact ⟨hpending, fun i hi => hblown i (by omega), fun k hk => slots_of_blown hblown hk,
      hgtime.imp id fun hr => .inr ⟨hr.time, fun r => hr.regions r⟩⟩

end Sys2Proof.Machine
end

section
/-!
PROOFS. Stores and atomics (O4): what the store buffer, the drain of its oldest entry, an acknowledgement and an atomic
do to a cell and to the memories.
-/

namespace Sys2Proof.Machine

/-! ## What retirement leaves of a cell's queues and memories -/

@[simp] theorem retire_storeBuf (o k : Cell) : (retire o k).storeBuf = k.storeBuf :=
  (congrArg Cell.storeBuf (retire_fixed o k) :)
@[simp] theorem retire_loadQ (o k : Cell) : (retire o k).loadQ = k.loadQ :=
  (congrArg Cell.loadQ (retire_fixed o k) :)
@[simp] theorem retire_imem (o k : Cell) : (retire o k).imem = k.imem :=
  (congrArg Cell.imem (retire_fixed o k) :)
@[simp] theorem retire_dmem (o k : Cell) : (retire o k).dmem = k.dmem :=
  (congrArg Cell.dmem (retire_fixed o k) :)

/-- Retirement leaves the fixed part of a cell alone, also where more of it is blanked out. -/
theorem retire_fixed_but {but : Cell → Cell} (hbut : ∀ k : Cell, (but k).fixed = but k.fixed) (o k : Cell) :
    (but (retire o k)).fixed = (but k).fixed := by
  rw [hbut, hbut, retire_fixed]

/-! ## The data-space map -/

theorem dataAt_dmem (c : Nat) {a : Nat} (h : a < 0x2000) : dataAt c a = .dmem a := if_pos h

/-- The place lies in region or block memory. -/
def Place.banked : Place → Prop
  | .rmem _ | .bmem _ _ => True
  | .dmem _ _ | .imem _ _ => False

/-- A mapped address outside DMEM and the MRAM window leads into region or block memory, and so does all of its word. -/
theorem dataAt_mem_word {c a r : Nat} {p : Place} (h : dataAt c a = .mem r p) :
    p.banked ∧ ∀ j, a % 4 + j < 4 → (p.plus j).inside := by
  unfold dataAt at h
  split_ifs at h
  all_goals
    obtain ⟨-, rfl⟩ := DataAt.mem.inj h
    refine ⟨trivial, fun j hj => ?_⟩
    simp only [Place.plus, Place.inside]
    omega

/-- So does every byte of an aligned access there. -/
theorem dataAt_mem_bytes {c a n r : Nat} {p : Place} (h : dataAt c a = .mem r p) (hn : n = 1 ∨ n = 2 ∨ n = 4)
    (ha : a % n = 0) : p.banked ∧ ∀ j, j < n → (p.plus j).inside := by
  obtain ⟨hp, hin⟩ := dataAt_mem_word h
  exact ⟨hp, fun j hj => hin j (by rcases hn with rfl | rfl | rfl <;> omega)⟩

/-- A cell that holds fewer than its own 32 tags gets one (R34). -/
theorem tagFree_of_lt {s : State} {c : Nat} (h : (s.cell c).tags < 32) : s.tagFree c = true := by
  have h' : ((s.region (c / 128)).cell (c % 128)).tags < 32 := h
  simp [State.tagFree, tagFree, h']

theorem loadRoom_of_hasRoom {s : State} {c : Nat} (h : HasRoom (s.cell c)) : loadRoom c s = true := by
  simp [loadRoom, h.2, tagFree_of_lt h.1]

/-! ## Bytes of a register -/

/-- Little-endian bytes are the bytes of the number by rising place. -/
theorem leBytes_eq_map (n v : Nat) : leBytes n v = (List.range n).map (fun j => BitVec.ofNat 8 (v >>> (8 * j))) := by
  induction n generalizing v with
  | zero => rfl
  | succ n ih =>
    rw [List.range_succ_eq_map, leBytes, ih, List.map_cons, List.map_map]
    refine congrArg (_ :: ·) (List.map_congr_left fun j _ => ?_)
    rw [Function.comp, Nat.mul_succ, Nat.add_comm, Nat.shiftRight_add, Nat.shiftRight_eq_div_pow v 8]

theorem leBytes_word (n : Nat) (v : Word) :
    leBytes n v.toNat = (List.range n).map (fun j => v.extractLsb' (8 * j) 8) := leBytes_eq_map n v.toNat

@[simp] theorem leBytes_length (n v : Nat) : (leBytes n v).length = n := by simp [leBytes_eq_map]

/-! ## A store enters the buffer -/

/-- The cell with a store behind those of its buffer. -/
def Cell.buffered (ea : Word) (bs : List Byte) (k : Cell) : Cell :=
  { k.issued with storeBuf := k.storeBuf ++ [⟨k.seq, ea, bs⟩] }

theorem Cell.buffered_fixed (ea : Word) (bs : List Byte) (k : Cell) :
    ({ k.buffered ea bs with storeBuf := [], seq := 0 } : Cell).fixed
      = ({ k with storeBuf := [], seq := 0 } : Cell).fixed := rfl

/-- Retirement changes neither a cell's store buffer nor its place in issue order. -/
theorem retire_fixed_unbuffered (o k : Cell) :
    ({ retire o k with storeBuf := [], seq := 0 } : Cell).fixed = ({ k with storeBuf := [], seq := 0 } : Cell).fixed :=
  retire_fixed_but (but := fun k => { k with storeBuf := [], seq := 0 }) (fun _ => rfl) o k

/-- An aligned store to DMEM or to a block or region memory enters a buffer with room. -/
theorem storeGo_enters {c : Nat} {bs : List Byte} {ea : Word} {s : State} (ha : ea.toNat % bs.length = 0)
    (hd : (∃ o, dataAt c ea.toNat = .dmem o) ∨ ∃ r p, dataAt c ea.toNat = .mem r p)
    (hl : (s.cell c).storeBuf.length < 4) : storeGo c bs ea s = .done (s.onCell c (Cell.buffered ea bs)) := by
  rw [storeGo, if_neg (not_not.mpr ha)]
  obtain ⟨o, hd⟩ | ⟨r, p, hd⟩ := hd
  · rw [hd]; exact if_neg (Nat.not_le.mpr hl)
  · rw [hd]; exact if_neg (Nat.not_le.mpr hl)

/-- A store instruction and its form. -/
theorem exec_storeForm {i : Instr} {c : CellId} {op : Nat} {d a : RegNo} {imm : BitVec 16} {n : Nat}
    (h : storeForm i = some (c, op, d, a, imm, n)) (s : State) :
    exec i s = runOp c i (storeOp c n d a imm) s ∧ opcodeOf (wordOf i) = op := by
  unfold storeForm at h
  split at h
  · cases h; exact ⟨rfl, opcode_wordI _ _ _ (by decide)⟩
  · cases h; exact ⟨rfl, opcode_wordI _ _ _ (by decide)⟩
  · cases h; exact ⟨rfl, opcode_wordI _ _ _ (by decide)⟩
  · cases h

/-- STW, STH and STB at an aligned address of DMEM or of a block or region memory. -/
theorem store_completes {i : Instr} {c : CellId} {op : Nat} {d a : RegNo} {imm : BitVec 16} {n : Nat} {ea : Word}
    {s : State} (hi : storeForm i = some (c, op, d, a, imm, n)) (hea : ea = eaOf (s.cell c) a imm)
    (hal : ea.toNat % n = 0) (h : Ready c op [d, a] false s) (hl : (s.cell c).storeBuf.length < 4)
    (hd : (∃ o, dataAt c ea.toNat = .dmem o) ∨ ∃ r p, dataAt c ea.toNat = .mem r p) :
    Completes i s (fun t => PlainBut (fun k => { k with storeBuf := [], seq := 0 }) [] c s t
      ∧ SameRegs (s.cell c) (t.cell c) ∧ (t.cell c).acc = (s.cell c).acc
      ∧ (t.cell c).storeBuf = (s.cell c).storeBuf ++
        [⟨(s.cell c).seq, ea, (List.range n).map (fun j => ((s.cell c).g d).extractLsb' (8 * j) 8)⟩]) := by
  obtain ⟨he, hop⟩ := exec_storeForm hi s
  have hgo : storeGo c.val (leBytes n ((s.cell c.val).g d).toNat) ea s = _ :=
    storeGo_enters (by rwa [leBytes_length]) hd hl
  have hbody : (storeOp c n d a imm).body s
      = .ok (s.onCell c.val (Cell.buffered ea (leBytes n ((s.cell c).g d).toNat))) := by
    rw [show ea = effAddr ((s.cell c.val).g a) imm from hea] at hgo ⊢
    exact congrArg Acc.did hgo
  refine ⟨_, he.trans ((runOp_ready hop rfl rfl h).trans (by rw [hbody, finish_ok])),
    cell_plain retire_fixed_unbuffered (Cell.buffered_fixed ..) (fun _ _ => rfl) rfl rfl, ?_, ?_, ?_⟩
  · intro q
    rw [State.cell_onCell, retire_g, State.cell_onCell]
    rfl
  · rw [State.cell_onCell, retire_acc, State.cell_onCell]
    rfl
  · rw [State.cell_onCell, retire_storeBuf, State.cell_onCell, ← leBytes_word]
    rfl

/-! ## The oldest entry leaves, to DMEM -/

theorem exec_storeBufferDrain (c : CellId) (s : State) : exec (.storeBufferDrain c) s = .next (storeLeave c s) := rfl

/-- The cell with `l` left in its store buffer. -/
def Cell.popped (l : List StoreEntry) (k : Cell) : Cell := { k with storeBuf := l }

/-- The oldest entry `e` leaves a buffer, `l` behind it, where it goes to DMEM or a tag is free. -/
theorem storeLeave_eq {c : Nat} {e : StoreEntry} {l : List StoreEntry} {s : State}
    (hb : (s.cell c).storeBuf = e :: l) (h : isLocal c e = true ∨ s.tagFree c = true) :
    storeLeave c s = storeOut c e (s.onCell c (Cell.popped l)) := by
  rw [storeLeave, hb]
  exact if_pos (Bool.or_eq_true_iff.mpr h)

/-- The cell with bytes written in its DMEM. -/
def Cell.written (o : Nat) (bs : List Byte) (k : Cell) : Cell := { k with dmem := mapWrite zeroByte k.dmem o bs }

/-- The entry `e` leaves to DMEM. -/
theorem storeLeave_dmem {c : Nat} {e : StoreEntry} {l : List StoreEntry} {s : State}
    (hb : (s.cell c).storeBuf = e :: l) (hne : e.bytes ≠ []) (ha : e.addr.toNat < 0x2000) (h : Steady (c / 128) s) :
    storeLeave c s = (s.onCell c (Cell.popped l)).onCell c (Cell.written e.addr.toNat e.bytes) := by
  have hd := dataAt_dmem c ha
  rw [storeLeave_eq hb (.inl (by rw [isLocal, hd])), storeOut, hd]
  exact dmWrite_steady (h.onCell c _) _ _ hne

theorem EntryOk.ne_nil {e : StoreEntry} (h : EntryOk e) : e.bytes ≠ [] := by
  intro h'
  simp [EntryOk, h'] at h

/-- STORE_BUFFER_DRAIN of a DMEM entry. -/
theorem drain_dmem {c : CellId} {e : StoreEntry} {l : List StoreEntry} {s : State} (hb : (s.cell c).storeBuf = e :: l)
    (he : EntryOk e) (ha : e.addr.toNat < 0x2000) (h : Steady (c / 128) s) :
    Completes (.storeBufferDrain c) s (fun t => OnlyCell c s t
      ∧ ({ t.cell c with dmem := [] } : Cell) = { s.cell c with storeBuf := l, dmem := [] }
      ∧ (∀ j, j < e.bytes.length → mapGet zeroByte (t.cell c).dmem (e.addr.toNat + j) = e.bytes.getD j 0)
      ∧ ∀ o, (o < e.addr.toNat ∨ e.addr.toNat + e.bytes.length ≤ o) →
        mapGet zeroByte (t.cell c).dmem o = mapGet zeroByte (s.cell c).dmem o) := by
  refine ⟨_, (exec_storeBufferDrain c s).trans (congrArg _ (storeLeave_dmem hb he.ne_nil ha h)),
    (OnlyCell.onCell ..).trans (OnlyCell.onCell ..), ?_⟩
  rw [State.cell_onCell, State.cell_onCell]
  exact ⟨rfl, fun j hj => mapGet_written _ _ j _ hj, fun o ho => mapGet_mapWrite_of_out _ _ _ _ ho⟩

/-! ## An acknowledgement returns -/

/-- The acknowledgement found is taken out, and its error is held pending. -/
theorem ackReturn_found {p : AckEntry → Bool} {i j : Nat} {e : AckEntry} {k : Cell} (hj : ackPlace p i k.acks = some j)
    (he : k.acks[j]? = some e) : ackReturn p i k = { k with
      acks := k.acks.eraseIdx j
      imp := k.imp ++ (if e.err then [⟨e.seq, 5, 4, e.addr, none, false⟩] else []) } := by
  unfold ackReturn
  rw [hj]
  dsimp only
  rw [he]
  cases herr : e.err <;> simp [Cell.addImp, herr]

/-! ## A write at a bank -/

/-- A write to region or block memory changes the banks alone. -/
theorem rawWrite_banked {p : Place} (hp : p.banked) (bs : List Byte) (R : Region) :
    rawWrite p bs R = { R with banks := (rawWrite p bs R).banks } := by
  cases p with
  | rmem o => rfl
  | bmem b o => rfl
  | dmem i o => exact hp.elim
  | imem i o => exact hp.elim

theorem rawWrite_banked_reg {p : Place} (hp : p.banked) (bs : List Byte) (R : Region) (a : Nat) :
    (rawWrite p bs R).reg a = R.reg a := (congrArg (Region.reg · a) (rawWrite_banked hp bs R) :)

theorem rawWrite_banked_cell {p : Place} (hp : p.banked) (bs : List Byte) (R : Region) (i : Nat) :
    (rawWrite p bs R).cell i = R.cell i := (congrArg (Region.cell · i) (rawWrite_banked hp bs R) :)

/-- What an access of cell `c` that stores bytes at a place of region `r` changes: the bytes there, and the cell. -/
structure StoredFor (c r : Nat) (p : Place) (bs : List Byte) (s t : State) : Prop where
  stored : Stored p bs (s.region r) (t.region r)
  regs : ∀ q a, (t.region q).reg a = (s.region q).reg a
  only : t = { s with regions := t.regions }
  others : ∀ q, q ≠ r → q ≠ c / 128 → t.region q = s.region q
  cells : ∀ q, q ≠ c → t.cell q = s.cell q

/-- The bytes are written in region `r`. -/
def State.stored (r : Nat) (p : Place) (bs : List Byte) (s : State) : State :=
  s.setRegion r (rawWrite p bs (s.region r))

theorem State.cell_stored {p : Place} (hp : p.banked) (r : Nat) (bs : List Byte) (s : State) (q : Nat) :
    (s.stored r p bs).cell q = s.cell q := by
  unfold State.cell State.stored
  rw [State.region_setRegion_ite]
  split
  · next h => rw [rawWrite_banked_cell hp, h]
  · rfl

theorem StoredFor.write (c r : Nat) (s : State) {p : Place} {bs : List Byte} (hp : p.banked)
    (hin : ∀ j, j < bs.length → (p.plus j).inside) : StoredFor c r p bs s (s.stored r p bs) where
  stored := by
    rw [State.stored, State.region_setRegion]
    exact rawWrite_stored hin
  regs q a := by
    rw [State.stored, State.region_setRegion_ite]
    split
    · next h => rw [rawWrite_banked_reg hp, h]
    · rfl
  only := rfl
  others q hr _ := State.region_setRegion_of_ne s hr _
  cells q _ := State.cell_stored hp r bs s q

/-- A byte depends on the banks and the cells' memories alone. -/
theorem byteAt_congr {R R' : Region} (hb : R'.banks = R.banks)
    (hc : ∀ i, (R'.cell i).imem = (R.cell i).imem ∧ (R'.cell i).dmem = (R.cell i).dmem) (p : Place) :
    byteAt p R' = byteAt p R := by
  cases p <;> simp [byteAt, rawRead, hb, hc]

/-- A change of a cell that keeps its memories. -/
def KeepsMemory (f : Cell → Cell) : Prop := ∀ k : Cell, (f k).imem = k.imem ∧ (f k).dmem = k.dmem

theorem keepsMemory_popped (l : List StoreEntry) : KeepsMemory (Cell.popped l) := fun _ => ⟨rfl, rfl⟩

theorem keepsMemory_retire (o : Cell) : KeepsMemory (retire o) := fun k => ⟨retire_imem o k, retire_dmem o k⟩

/-- A change of a cell that keeps its memories keeps every byte. -/
theorem byteAt_onCell {s : State} {c : Nat} {f : Cell → Cell} (hf : KeepsMemory f) (r : Nat) (p : Place) :
    byteAt p ((s.onCell c f).region r) = byteAt p (s.region r) := by
  by_cases hr : r = c / 128
  · subst hr
    rw [State.region_onCell]
    refine byteAt_congr (Region.onCell_banks ..) (fun i => ?_) p
    by_cases hi : i = c % 128
    · subst hi
      rw [Region.cell_onCell]
      exact hf _
    · rw [Region.onCell, Region.cell_setCell_of_ne _ hi]
      exact ⟨rfl, rfl⟩
  · rw [State.region_onCell_of_ne s hr]

theorem reg_onCell (s : State) (c r : Nat) (f : Cell → Cell) (a : Nat) :
    ((s.onCell c f).region r).reg a = (s.region r).reg a := by
  rw [region_onCell_but]
  rfl

/-- The cell may change after the access, but for its memories. -/
theorem StoredFor.onCell {c r : Nat} {p : Place} {bs : List Byte} {s t : State} (h : StoredFor c r p bs s t)
    {f : Cell → Cell} (hf : KeepsMemory f) : StoredFor c r p bs s (t.onCell c f) where
  stored := by simpa only [Stored, byteAt_onCell hf] using h.stored
  regs q a := (reg_onCell t c q f a).trans (h.regs q a)
  only := congrArg (fun u : State => { u with regions := (t.onCell c f).regions }) h.only
  others q hr hq := (State.region_onCell_of_ne t hq f).trans (h.others q hr hq)
  cells q hq := (State.cell_onCell_of_ne t hq f).trans (h.cells q hq)

/-- So it may before it. -/
theorem StoredFor.of_onCell {c r : Nat} {p : Place} {bs : List Byte} {s t : State} {f : Cell → Cell}
    (h : StoredFor c r p bs (s.onCell c f) t) (hf : KeepsMemory f) : StoredFor c r p bs s t where
  stored := by simpa only [Stored, byteAt_onCell hf] using h.stored
  regs q a := (h.regs q a).trans (reg_onCell s c q f a)
  only := h.only
  others q hr hq := (h.others q hr hq).trans (State.region_onCell_of_ne s hq f)
  cells q hq := (h.cells q hq).trans (State.cell_onCell_of_ne s hq f)

/-! ## The oldest entry leaves, to a block or region memory -/

/-- The cell with a store among those that await their acknowledgement. -/
def Cell.awaits (e : StoreEntry) (k : Cell) : Cell := { k with acks := k.acks ++ [⟨e.seq, .store, false, e.addr⟩] }

theorem keepsMemory_awaits (e : StoreEntry) : KeepsMemory (Cell.awaits e) := fun _ => ⟨rfl, rfl⟩

/-- The entry `e` leaves to its bank and awaits its acknowledgement. -/
theorem storeLeave_bank {c r : Nat} {p : Place} {e : StoreEntry} {l : List StoreEntry} {s : State}
    (hb : (s.cell c).storeBuf = e :: l) (hne : e.bytes ≠ []) (hd : dataAt c e.addr.toNat = .mem r p)
    (h : Served r p e.bytes.length s) (ht : (s.cell c).tags < 32) :
    storeLeave c s = ((s.onCell c (Cell.popped l)).stored r p e.bytes).onCell c (Cell.awaits e) := by
  rw [storeLeave_eq hb (.inr (tagFree_of_lt ht)), storeOut, hd]
  dsimp only
  rw [writeMem_served hne (h.onCell c _)]
  rfl

/-- STORE_BUFFER_DRAIN of an entry for a block or region memory in service. -/
theorem drain_bank {c : CellId} {e : StoreEntry} {l : List StoreEntry} {r : Nat} {p : Place} {s : State}
    (hb : (s.cell c).storeBuf = e :: l) (he : EntryOk e) (hd : dataAt c e.addr.toNat = .mem r p)
    (h : Served r p e.bytes.length s) (ht : (s.cell c).tags < 32) :
    Completes (.storeBufferDrain c) s (fun t => StoredFor c r p e.bytes s t
      ∧ t.cell c
        = { s.cell c with storeBuf := l, acks := (s.cell c).acks ++ [⟨e.seq, .store, false, e.addr⟩] }) := by
  obtain ⟨hp, hin⟩ := dataAt_mem_bytes hd he.1 he.2
  have hw := StoredFor.write c.val r (s.onCell c (Cell.popped l)) hp hin
  refine ⟨_, (exec_storeBufferDrain c s).trans (congrArg _ (storeLeave_bank hb he.ne_nil hd h ht)),
    (hw.onCell (keepsMemory_awaits e)).of_onCell (keepsMemory_popped l), ?_⟩
  rw [State.cell_onCell, State.cell_stored hp, State.cell_onCell]
  rfl

/-! ## Atomics -/

/-- An atomic at a place in service gives the old word and stores the new one. -/
theorem atomicAt_served {r : Nat} {p : Place} {s : State} (h : Served r p 4 s) (f : Word → Word) :
    atomicAt r p f s = (some (BitVec.ofNat 32 (leNat (rawRead p 4 (s.region r)))),
      s.stored r p (leBytes 4 (f (BitVec.ofNat 32 (leNat (rawRead p 4 (s.region r))))).toNat)) := by
  have hecc : s.onRegion r (fun _ R => setEcc (placeCode p + placeOff p / 8) none R) = s := by
    obtain ⟨-, ⟨hecc, -⟩, hwf⟩ := h.1
    rw [State.onRegion, setEcc_clean hecc, State.setRegion_self hwf]
  unfold atomicAt
  rw [readMem_served h]
  dsimp only
  rw [hecc, writeMem_served (by simp [leBytes]) (by rwa [leBytes_length])]
  rfl

/-- The cell with an access behind those of its load queue. -/
def Cell.queued (dst : Dest) (ea : Word) (data : Option Word) (k : Cell) : Cell :=
  { k.issued with loadQ := k.loadQ ++ [⟨k.seq, dst, data, ea⟩] }

theorem keepsMemory_queued (dst : Dest) (ea : Word) (data : Option Word) : KeepsMemory (Cell.queued dst ea data) :=
  fun _ => ⟨rfl, rfl⟩

/-- An atomic of a cell with room and no store in its buffer stores the new word, and the old one waits to return. -/
theorem atomicGo_served {c r : Nat} {p : Place} {ea old : Word} {s : State} (hal : ea.toNat % 4 = 0)
    (hd : dataAt c ea.toNat = .mem r p) (h : Served r p 4 s) (hr : HasRoom (s.cell c)) (hb : (s.cell c).storeBuf = [])
    (hold : old = BitVec.ofNat 32 (leNat (rawRead p 4 (s.region r)))) (f : Word → Word) (dst : Dest) :
    atomicGo c f dst ea s
      = .done ((s.stored r p (leBytes 4 (f old).toNat)).onCell c (Cell.queued dst ea (some old))) := by
  simp only [atomicGo, hal, hd, hb, loadRoom_of_hasRoom hr, atomicAt_served h, ← hold]
  rfl

/-- SWP or LDA. -/
def atomicInstr (swap : Bool) (c : CellId) (d a b : RegNo) : Instr := if swap then .swp c d a b else .lda c d a b

/-- The word that SWP or LDA stores over `old`. -/
def atomicNew (swap : Bool) (b old : Word) : Word := if swap then b else old + b

/-- A ready cell performs its atomic. -/
theorem exec_atomic {swap : Bool} {c : CellId} {d a b : RegNo} {s : State}
    (h : Ready c (if swap then 0x4D else 0x4C) [d, a, b] false s) :
    exec (atomicInstr swap c d a b) s = .next (finish c.val (wordOf (atomicInstr swap c d a b)) (s.cell c.val)
      (atomicGo c.val (atomicNew swap ((s.cell c.val).g b)) (.gpr d) ((s.cell c.val).g a) s).did) := by
  cases swap
  · exact runOp_ready (o := ldaOp c d a b) (opcode_wordA _ _ _ (by decide) (by decide)) rfl rfl h
  · exact runOp_ready (o := swpOp c d a b) (opcode_wordA _ _ _ (by decide) (by decide)) rfl rfl h

/-- LDA and SWP at a word of a block or region memory in service. -/
theorem atomic_completes {swap : Bool} {c : CellId} {d a b : RegNo} {r : Nat} {p : Place} {s : State}
    (h : Ready c (if swap then 0x4D else 0x4C) [d, a, b] false s) (hal : ((s.cell c).g a).toNat % 4 = 0)
    (hd : dataAt c ((s.cell c).g a).toNat = .mem r p) (hs : Served r p 4 s) (hr : HasRoom (s.cell c))
    (hb : (s.cell c).storeBuf = []) {old : Word} (hold : old = BitVec.ofNat 32 (leNat (rawRead p 4 (s.region r)))) :
    Completes (atomicInstr swap c d a b) s (fun t =>
      StoredFor c r p (leBytes 4 (atomicNew swap ((s.cell c).g b) old).toNat) s t
        ∧ ({ t.cell c with loadQ := [], seq := 0 } : Cell).fixed
          = ({ s.cell c with loadQ := [], seq := 0 } : Cell).fixed
        ∧ SameRegs (s.cell c) (t.cell c) ∧ (t.cell c).acc = (s.cell c).acc ∧ IoBut [] (s.cell c) (t.cell c)
        ∧ Follows (s.cell c) (t.cell c)
        ∧ (t.cell c).loadQ = (s.cell c).loadQ ++ [⟨(s.cell c).seq, .gpr d, some old, (s.cell c).g a⟩]) := by
  obtain ⟨hp, hin⟩ := dataAt_mem_bytes hd (n := 4) (by decide) hal
  have hgo := exec_atomic h
  rw [atomicGo_served hal hd hs hr hb hold, Acc.did, finish_ok] at hgo
  have hw := StoredFor.write c.val r s (bs := leBytes 4 (atomicNew swap ((s.cell c).g b) old).toNat) hp
    (by rwa [leBytes_length])
  refine ⟨_, hgo, (hw.onCell (keepsMemory_queued _ _ _)).onCell (keepsMemory_retire _), ?_⟩
  rw [State.cell_onCell, State.cell_onCell, State.cell_stored hp]
  refine ⟨retire_fixed_but (but := fun k => { k with loadQ := [], seq := 0 }) (fun _ => rfl) _ _, fun q => retire_g ..,
    retire_acc .., fun _ ha hl => retire_io _ _ _ ha hl, retire_follows _ _ rfl, ?_⟩
  rw [retire_loadQ]
  rfl

/-- Settles O4: stores by `store_completes`, `drain_dmem` and `drain_bank`, acknowledgements by `ackReturn_found`, LDA
and SWP by `atomic_completes`. -/
theorem storesAndAtomics : Obligations.StoresAndAtomics := by
  refine ⟨?stores, ⟨?dmem, ?bank, ?ack⟩, ?atomics⟩
  case stores =>
    intro i c op d a imm n ea s hi hea hal h hl hd
    exact store_completes hi hea hal h hl hd
  case dmem =>
    intro c e l s hb he ha h
    exact drain_dmem hb he ha h
  case bank =>
    intro c e l r p s hb he hd h ht
    obtain ⟨t, ht, ⟨hstored, hregs, honly, hothers, hcells⟩, hcell⟩ := drain_bank hb he hd h ht
    exact ⟨t, ht, hstored, hregs, honly, hothers, hcell, hcells⟩
  case ack =>
    intro c i j e s hj he
    exact ⟨_, rfl, OnlyCell.onCell .., (State.cell_onCell ..).trans (ackReturn_found hj he)⟩
  case atomics =>
    intro c d a b swap r p s h hal hd hs hr hb
    obtain ⟨t, ht, ⟨hstored, hregs, honly, hothers, hcells⟩, hcell⟩ := atomic_completes h hal hd hs hr hb rfl
    rw [leBytes_word] at hstored
    exact ⟨t, ht, hstored, hregs, honly, hothers, hcells, hcell⟩

end Sys2Proof.Machine
end

section
/-!
PROOFS. The load engine (O16).
-/

namespace Sys2Proof.Machine

/-! ## Parts of a read -/

/-- A read in two parts. -/
theorem mapRead_add {α : Type} (d : Nat → α) (m : FMap α) (n : Nat) :
    ∀ a k, mapRead d m k (a + n) = mapRead d m k a ++ mapRead d m (k + a) n
  | 0, k => by simp [mapRead]
  | a + 1, k => by
    rw [show a + 1 + n = a + n + 1 by omega, mapRead, mapRead_add d m n a (k + 1),
      show k + 1 + a = k + (a + 1) by omega, mapRead, List.cons_append]

/-- The first bytes of a read. -/
theorem mapRead_take {α : Type} (d : Nat → α) (m : FMap α) {a n : Nat} (h : a ≤ n) (k : Nat) :
    (mapRead d m k n).take a = mapRead d m k a := by
  obtain ⟨b, rfl⟩ := Nat.exists_eq_add_of_le h
  rw [mapRead_add, List.take_left' (mapRead_length d m a k)]

/-- What stands behind them. -/
theorem mapRead_drop {α : Type} (d : Nat → α) (m : FMap α) {a n : Nat} (h : a ≤ n) (k : Nat) :
    (mapRead d m k n).drop a = mapRead d m (k + a) (n - a) := by
  obtain ⟨b, rfl⟩ := Nat.exists_eq_add_of_le h
  rw [mapRead_add, List.drop_left' (mapRead_length d m a k), Nat.add_sub_cancel_left]

/-! ## Reads of region memory in service -/

/-- Region memory has no check-bit error, and its banks serve `n` bytes from `o`. -/
structure RmemUp (o n : Nat) (R : Region) : Prop where
  outOfReset : R.inReset = false
  clean : R.banks.ecc = []
  serves : ∀ b ∈ placeBanks (.rmem o) n, bankServes b R = true

theorem RmemUp.memRead {o n : Nat} {R : Region} (h : RmemUp o n R) (x : Ctx) :
    memRead x (.rmem o) n R = (.ok (rawRead (.rmem o) n R), R) := by
  simp [Machine.memRead, h.outOfReset, placeInReset, placeServed_of h.serves, eccTouchN_clean x h.clean]

theorem RmemUp.rmemBytes {o n : Nat} {R : Region} (h : RmemUp o n R) (x : Ctx) :
    rmemBytes x o n R = (some (rawRead (.rmem o) n R), R) := by
  rw [Machine.rmemBytes, h.memRead x]

/-- Bytes of region memory lie in its 16 banks (R326). -/
theorem mem_placeBanks_rmem {b o n : Nat} (h : b ∈ placeBanks (.rmem o) n) (hn : 0 < n) (ho : o + n ≤ 0x100000) :
    b < 16 := by
  simp only [placeBanks, List.mem_map, List.mem_range] at h
  obtain ⟨j, hj, rfl⟩ := h
  omega

/-! ## Registers of a block -/

/-- Two registers of a block that differ in their base are different registers. -/
theorem blk_ne {d e : RegDef} (b : Nat) (h : d.base ≠ e.base) (hs : d.s1 = e.s1 := by rfl) : blk d b ≠ blk e b := by
  simp only [blk, regAt, hs]
  omega

theorem cgold_ne_ldctl (b c : Nat) : blk Reg.BK_CGOLD b c ≠ blk Reg.BK_LDCTL b := by
  simp only [blk, regAt, Reg.BK_CGOLD, Reg.BK_LDCTL]
  omega

/-- The power register of a region memory bank is no register of a block. -/
theorem pwrKey_ne_blk_ldctl {k : Nat} (hk : k < 16) (b : Nat) : pwrKey k ≠ blk Reg.BK_LDCTL b := by
  simp only [pwrKey, show k < 64 by omega, if_true, blk, regAt, Reg.MB_BANK_PWR, Reg.BK_LDCTL]
  omega

/-- The section-valid bits stand in BK_LDSECT0 and BK_LDSECT1 (R139). -/
theorem sectAt_ne_blk {d : RegDef} (b c : Nat) (h0 : Reg.BK_LDSECT0.base ≠ d.base) (h1 : Reg.BK_LDSECT1.base ≠ d.base)
    (hs : 0x1000 = d.s1 := by rfl) : (sectAt b c).1 ≠ blk d b := by
  unfold sectAt
  dsimp only
  split
  · exact blk_ne b h0 hs
  · exact blk_ne b h1 hs

theorem sectAt_ne_ldstat (b c : Nat) : (sectAt b c).1 ≠ blk Reg.BK_LDSTAT b := sectAt_ne_blk b c (by decide) (by decide)
theorem sectAt_ne_ldfail (b c : Nat) : (sectAt b c).1 ≠ blk Reg.BK_LDFAIL b := sectAt_ne_blk b c (by decide) (by decide)
theorem ldfail_ne_ldstat (b : Nat) : blk Reg.BK_LDFAIL b ≠ blk Reg.BK_LDSTAT b := blk_ne b (by decide)
theorem ldstat_ne_ldctl (b : Nat) : blk Reg.BK_LDSTAT b ≠ blk Reg.BK_LDCTL b := blk_ne b (by decide)
theorem ldfail_ne_ldctl (b : Nat) : blk Reg.BK_LDFAIL b ≠ blk Reg.BK_LDCTL b := blk_ne b (by decide)

/-! ## The registers a change leaves alone -/

theorem regsBut_setReg (R : Region) (a : Nat) (v : Word) : RegsBut [a] R (R.setReg a v) := fun _ hc =>
  Region.reg_setReg_of_ne R (by simpa using hc) v

/-- Two changes leave alone what neither of them names. -/
theorem regsBut_trans {l l' m : List Nat} {R R' R'' : Region} (h : RegsBut l R R') (h' : RegsBut l' R' R'')
    (hl : l ⊆ m) (hl' : l' ⊆ m) : RegsBut m R R'' := fun c hc =>
  (h' c (fun hm => hc (hl' hm))).trans (h c (fun hm => hc (hl hm)))

/-! ## The result of a load -/

theorem loadResult_zero (b c : Nat) (R : Region) :
    loadResult b c 0 R = R.setReg (blk Reg.BK_LDSTAT b) (BitVec.ofNat 32 (16 * c)) := by
  simp [loadResult, Nat.mul_comm]

theorem loadResult_fails (b c : Nat) {n : Nat} (hn : n ≠ 0) (R : Region) : loadResult b c n R =
    (R.setReg (blk Reg.BK_LDSTAT b) (BitVec.ofNat 32 (16 * c + 2 * n))).count (blk Reg.BK_LDFAIL b) := by
  rw [loadResult, if_pos hn, Nat.mul_comm c, Nat.mul_comm n]

/-- A failure shows in BK_LDSTAT and is counted in BK_LDFAIL (R139), and changes nothing else. -/
theorem loadResult_fails_reg (b c : Nat) {n : Nat} (hn : n ≠ 0) (R : Region) :
    (loadResult b c n R).reg (blk Reg.BK_LDSTAT b) = BitVec.ofNat 32 (16 * c + 2 * n)
      ∧ (loadResult b c n R).reg (blk Reg.BK_LDFAIL b) = satAdd 0xFFFF (R.reg (blk Reg.BK_LDFAIL b)) 1
      ∧ RegsBut [blk Reg.BK_LDSTAT b, blk Reg.BK_LDFAIL b] R (loadResult b c n R) := by
  rw [loadResult_fails b c hn]
  refine ⟨?_, ?_, regsBut_trans (regsBut_setReg _ _ _) (regsBut_setReg _ _ _) (by simp) (by simp)⟩
  · rw [Region.reg_count_of_ne _ (ldfail_ne_ldstat b).symm, Region.reg_setReg]
  · rw [Region.reg_count, Region.reg_setReg_of_ne _ (ldfail_ne_ldstat b)]

/-- What a result leaves beside the registers. -/
theorem loadResult_rest (b c n : Nat) (R : Region) :
    loadResult b c n R = { R with regs := (loadResult b c n R).regs } := by
  unfold loadResult
  split <;> rfl

theorem loadResult_cells (b c n : Nat) (R : Region) : (loadResult b c n R).cells = R.cells :=
  (congrArg Region.cells (loadResult_rest b c n R) :)

/-! ## The start of a load -/

theorem regionReg_ldctl : ∀ b : BlockId, regionReg (blk Reg.BK_LDCTL b) = some Reg.BK_LDCTL := by decide

/-- The region once BK_LDCTL of block `b` holds what is written. -/
def ldCtlHeld (b : Nat) (v : Word) (R : Region) : Region :=
  R.setReg (blk Reg.BK_LDCTL b) (maskWrite Reg.BK_LDCTL.mask (R.reg (blk Reg.BK_LDCTL b)) v)

theorem ldCtlHeld_regsBut (b : Nat) (v : Word) (R : Region) : RegsBut [blk Reg.BK_LDCTL b] R (ldCtlHeld b v R) :=
  regsBut_setReg _ _ _

theorem ldCtlHeld_reg (b : Nat) (v : Word) (R : Region) {a : Nat} (h : a ≠ blk Reg.BK_LDCTL b) :
    (ldCtlHeld b v R).reg a = R.reg a := Region.reg_setReg_of_ne R h _

theorem exec_loadStart (r : RegionId) (bk : BlockId) (v : Word) (s : State) : exec (.loadStart r bk v) s = .next
    (blockAccess r bk (fun x R => ldCtlWrite x bk.val v (plainWrite (blk Reg.BK_LDCTL bk) v) R) s) := rfl

/-- GO starts the load engine of a live block that is not in reset, on cell CELL and the sections selected (R139). -/
theorem exec_loadStart_go {r : RegionId} {bk : BlockId} {v : Word} {s : State} (hl : Live r s)
    (hb : (s.region r).blockReset.contains bk.val = false) (hgo : v.getLsbD 0 = true) :
    exec (.loadStart r bk v) s = .next (s.onRegion r fun x R =>
      loadStart x bk (bitsOf v 7 4) (bitsOf v 11 8) true (ldCtlHeld bk v R)) := by
  rw [exec_loadStart, blockAccess_live hl hb]
  simp only [ldCtlWrite, plainWrite, regionReg_ldctl, hgo, if_true, ldCtlHeld]

/-- Bit 3 of the sections of a software start is CSB. -/
theorem sections_csb (v : Word) : (bitsOf v 11 8).testBit 3 = v.getLsbD 11 := by
  rw [bitsOf, Nat.testBit_mod_two_pow, Nat.testBit_shiftRight]
  rfl

/-- The region with the engine of block `b` busy with load `l`. -/
def loadBegun (b : Nat) (l : Load) (R : Region) : Region :=
  { R.setReg (blk Reg.BK_LDSTAT b) (BitVec.ofNat 32 (16 * l.cell + 1)) with load := mapSet noneAt R.load b (some l) }

theorem loadBegun_ldstat (b : Nat) (l : Load) (R : Region) :
    (loadBegun b l R).reg (blk Reg.BK_LDSTAT b) = BitVec.ofNat 32 (16 * l.cell + 1) := Region.reg_setReg ..

theorem loadBegun_regsBut (b : Nat) (l : Load) (R : Region) : RegsBut [blk Reg.BK_LDSTAT b] R (loadBegun b l R) :=
  regsBut_setReg R _ _

theorem loadBegun_load (b : Nat) (l : Load) (R : Region) : mapGet noneAt (loadBegun b l R).load b = some l :=
  mapGet_mapSet_self noneAt R.load b (some l)

section
variable {x : Ctx} {b c sel : Nat} {R : Region}

/-- On a running cell a load is refused with result 3 (R137). -/
theorem loadStart_running {software : Bool} (hidle : R.bit (blk Reg.BK_LDSTAT b) 0 = false)
    (hrun : (R.cell (16 * b + c)).running = true) : loadStart x b c sel software R = loadResult b c 3 R := by
  simp [loadStart, hidle, hrun]

/-- With the base section selected by software it is refused with result 4. -/
theorem loadStart_base (hidle : R.bit (blk Reg.BK_LDSTAT b) 0 = false)
    (hrun : (R.cell (16 * b + c)).running = false) (hsel : sel.testBit 3 = true) :
    loadStart x b c sel true R = loadResult b c 4 R := by
  simp [loadStart, hidle, hrun, hsel]

/-- The header's parts lie in the 64 bytes read of it (R135). -/
theorem headerOk_of_good {base : Nat} (h : HeaderGood base R) : headerOk base (rawRead (.rmem base) 0x40 R) = true := by
  obtain ⟨hmagic, hformat, hlength, hplace⟩ := h
  simp only [rawRead] at hmagic hformat hlength
  simp only [headerOk, rawRead, mapRead_drop _ _ (show 4 ≤ 0x40 by decide),
    mapRead_drop _ _ (show 8 ≤ 0x40 by decide), mapRead_take _ _ (show 4 ≤ 0x40 by decide),
    mapRead_take _ _ (show 1 ≤ 0x40 - 4 by decide),
    mapRead_take _ _ (show 4 ≤ 0x40 - 8 by decide), hmagic, hformat, hlength, hplace]
  rfl

/-- So does its CRC. -/
theorem header_crc (base : Nat) :
    ((rawRead (.rmem base) 0x40 R).drop 12).take 4 = rawRead (.rmem (base + 12)) 4 R := by
  simp only [rawRead, mapRead_drop _ _ (show 12 ≤ 0x40 by decide), mapRead_take _ _ (show 4 ≤ 0x40 - 12 by decide)]

/-- On a stopped cell with a good golden copy in service the engine becomes busy (R137). -/
theorem loadStart_busy {base : Nat} (hidle : R.bit (blk Reg.BK_LDSTAT b) 0 = false)
    (hrun : (R.cell (16 * b + c)).running = false) (hsel : sel.testBit 3 = false) (hbase : base = goldBase b c R)
    (hread : RmemUp base 0x40 R) (hgood : HeaderGood base R) :
    loadStart x b c sel true R = loadBegun b
      ⟨c, sel, true, base, BitVec.ofNat 32 (leNat (rawRead (.rmem (base + 12)) 4 R)), false⟩ R := by
  simp only [loadStart, hidle, hrun, hsel, ← hbase, hread.memRead x, headerOk_of_good hgood, header_crc, Nat.mul_comm c]
  rfl

end

/-- A read in service stays so when BK_LDCTL is written. -/
theorem RmemUp.ldCtlHeld {o n : Nat} {R : Region} (h : RmemUp o n R) (hn : 0 < n) (ho : o + n ≤ 0x100000) (b : Nat)
    (v : Word) : RmemUp o n (ldCtlHeld b v R) where
  outOfReset := h.outOfReset
  clean := h.clean
  serves k hk := by
    have hreg := ldCtlHeld_reg b v R (pwrKey_ne_blk_ldctl (mem_placeBanks_rmem hk hn ho) b)
    have hserves := h.serves k hk
    unfold bankServes bankCur Region.field at hserves ⊢
    rw [hreg]
    exact hserves

theorem goldBase_ldCtlHeld (b c : Nat) (v : Word) (R : Region) : goldBase b c (ldCtlHeld b v R) = goldBase b c R := by
  rw [goldBase, Region.field, ldCtlHeld_reg b v R (cgold_ne_ldctl b c), goldBase, Region.field]

section
variable {r : RegionId} {bk : BlockId} {v : Word} {s : State}

/-- A refused start shows its result, is counted, and changes nothing else. -/
theorem refusal_completes {c n : Nat} (hn : n ≠ 0) (hl : Live r s)
    (hb : (s.region r).blockReset.contains bk.val = false) (hgo : v.getLsbD 0 = true)
    (hstart : loadStart (s.ctx r) bk (bitsOf v 7 4) (bitsOf v 11 8) true (ldCtlHeld bk v (s.region r))
      = loadResult bk c n (ldCtlHeld bk v (s.region r))) :
    Completes (.loadStart r bk v) s (fun t => OnlyRegion r s t
      ∧ (t.region r).reg (blk Reg.BK_LDSTAT bk) = BitVec.ofNat 32 (16 * c + 2 * n)
      ∧ (t.region r).reg (blk Reg.BK_LDFAIL bk) = satAdd 0xFFFF ((s.region r).reg (blk Reg.BK_LDFAIL bk)) 1
      ∧ RegsBut [blk Reg.BK_LDCTL bk, blk Reg.BK_LDSTAT bk, blk Reg.BK_LDFAIL bk] (s.region r) (t.region r)
      ∧ (t.region r).cells = (s.region r).cells) := by
  refine ⟨_, exec_loadStart_go hl hb hgo, OnlyRegion.onRegion .., ?_⟩
  rw [State.region_onRegion, hstart]
  obtain ⟨hstat, hfail, hregs⟩ := loadResult_fails_reg bk c hn (ldCtlHeld bk v (s.region r))
  refine ⟨hstat, ?_, regsBut_trans (ldCtlHeld_regsBut _ _ _) hregs (by simp) (by simp), loadResult_cells ..⟩
  rw [hfail, ldCtlHeld_reg _ _ _ (ldfail_ne_ldctl bk)]

/-- A start on a stopped cell with a good golden copy makes the engine busy. -/
theorem start_completes {base : Nat} (hl : Live r s) (hb : (s.region r).blockReset.contains bk.val = false)
    (hgo : v.getLsbD 0 = true) (hidle : (ldCtlHeld bk v (s.region r)).bit (blk Reg.BK_LDSTAT bk) 0 = false)
    (hrun : ((s.region r).cell (16 * bk.val + bitsOf v 7 4)).running = false) (hcsb : v.getLsbD 11 = false)
    (hbase : base = goldBase bk (bitsOf v 7 4) (s.region r)) (hserved : Served r (.rmem base) 64 s)
    (hgood : HeaderGood base (s.region r)) :
    Completes (.loadStart r bk v) s (fun t => OnlyRegion r s t
      ∧ (t.region r).reg (blk Reg.BK_LDSTAT bk) = BitVec.ofNat 32 (16 * bitsOf v 7 4 + 1)
      ∧ mapGet noneAt (t.region r).load bk.val = some ⟨bitsOf v 7 4, bitsOf v 11 8, true, base,
          BitVec.ofNat 32 (leNat (rawRead (.rmem (base + 12)) 4 (s.region r))), false⟩
      ∧ RegsBut [blk Reg.BK_LDCTL bk, blk Reg.BK_LDSTAT bk] (s.region r) (t.region r)
      ∧ (t.region r).cells = (s.region r).cells) := by
  have ⟨_, _, _, hplace⟩ := hgood
  obtain ⟨⟨-, ⟨hecc, -⟩, -⟩, -, hserves⟩ := hserved
  have hread : RmemUp base 64 (ldCtlHeld bk v (s.region r)) :=
    RmemUp.ldCtlHeld ⟨hl.1, hecc, hserves⟩ (by decide) (by omega) bk v
  have hbusy := loadStart_busy (x := s.ctx r) hidle hrun ((sections_csb v).trans hcsb)
    (hbase.trans (goldBase_ldCtlHeld ..).symm) hread hgood
  refine ⟨_, exec_loadStart_go hl hb hgo, OnlyRegion.onRegion .., ?_⟩
  rw [State.region_onRegion, hbusy]
  exact ⟨loadBegun_ldstat .., loadBegun_load ..,
    regsBut_trans (ldCtlHeld_regsBut _ _ _) (loadBegun_regsBut _ _ _) (by simp) (by simp), rfl⟩

end

/-! ## The end of a load -/

/-- The region with the engine of block `b` free. -/
def loadFreed (b : Nat) (R : Region) : Region := { R with load := mapSet noneAt R.load b none }

/-- The region once the body of load `l` of block `b` has passed: the engine is free, the selected sections written. -/
def loadPassed (b : Nat) (l : Load) (body : List Byte) (R : Region) : Region :=
  (loadFreed b R).onCell (16 * b + l.cell) (loadSections l.sections body)

theorem RmemUp.freed {o n : Nat} {R : Region} (h : RmemUp o n R) (b : Nat) : RmemUp o n (loadFreed b R) :=
  ⟨h.outOfReset, h.clean, h.serves⟩

section
variable {x : Ctx} {b : Nat} {l : Load} {body : List Byte} {R : Region}

@[simp] theorem loadPassed_takeover (k : Nat) : (loadPassed b l body R).takeover k = R.takeover k := rfl

theorem loadPassed_load : mapGet noneAt (loadPassed b l body R).load b = none :=
  mapGet_mapSet_self noneAt R.load b none

theorem loadPassed_cell :
    (loadPassed b l body R).cell (16 * b + l.cell) = loadSections l.sections body (R.cell (16 * b + l.cell)) :=
  Region.cell_onCell ..

theorem loadPassed_cell_of_ne {q : Nat} (h : q ≠ 16 * b + l.cell) : (loadPassed b l body R).cell q = R.cell q :=
  Region.cell_setCell_of_ne _ h _

/-- The end of a load whose header and body had no uncorrectable error: its CRC decides (R137). -/
theorem loadEnd_of_read (hload : mapGet noneAt R.load b = some l) (hbad : l.bad = false)
    (hecc : R.banks.ecc = [] ∧ R.banks.dbeFresh = true) (hlow : RmemUp (l.base + 0x40) 0x800 R)
    (hhigh : RmemUp (l.base + 0x1000) 0x6000 R)
    (hbody : body = rawRead (.rmem (l.base + 0x40)) 0x800 R ++ rawRead (.rmem (l.base + 0x1000)) 0x6000 R) :
    loadEnd x b R = if crc32c body = l.crc then loadResult b l.cell 0
        (setSections b l.cell (sections b l.cell R ||| sectMask l.sections) (loadPassed b l body R))
      else loadResult b l.cell 1 (loadSpoil b l.cell l.sections (loadPassed b l body R)) := by
  have hlow' := (hlow.freed b).rmemBytes x
  have hhigh' := (hhigh.freed b).rmemBytes x
  rw [loadFreed] at hlow' hhigh'
  simp only [loadEnd, hload, hlow', hhigh', hbad, Option.getD_some, eccWritten_clean, Region.onCell_banks, hecc,
    and_self, ite_self]
  subst hbody
  rfl

theorem setSections_loadPassed_reg (c v a : Nat) :
    (setSections b c v (loadPassed b l body R)).reg a = (setSections b c v R).reg a := rfl

theorem setSections_loadPassed_regsBut (c v : Nat) :
    RegsBut [(sectAt b c).1] R (setSections b c v (loadPassed b l body R)) :=
    regsBut_setReg (loadPassed b l body R) _ _

/-- The registers of a failed load: the selected section-valid bits are clear. -/
theorem loadSpoil_loadPassed_reg (c sel a : Nat) : (loadSpoil b c sel (loadPassed b l body R)).reg a
    = (setSections b c (sections b c R &&& (15 - sectMask sel)) R).reg a := rfl

theorem loadSpoil_loadPassed_regsBut (c sel : Nat) :
    RegsBut [(sectAt b c).1] R (loadSpoil b c sel (loadPassed b l body R)) :=
    regsBut_setReg (loadPassed b l body R) _ _

theorem loadSpoil_cell_of_ne {c sel q : Nat} (h : q ≠ 16 * b + c) : (loadSpoil b c sel R).cell q = R.cell q :=
  Region.cell_setCell_of_ne _ h _

@[simp] theorem setSections_takeover (c v k : Nat) : (setSections b c v R).takeover k = R.takeover k := rfl

@[simp] theorem loadSpoil_takeover (c sel k : Nat) : (loadSpoil b c sel R).takeover k = R.takeover k := rfl

@[simp] theorem loadResult_takeover (c n k : Nat) : (loadResult b c n R).takeover k = R.takeover k :=
  (congrArg (Region.takeover · k) (loadResult_rest b c n R) :)

end

theorem exec_loadComplete (r : RegionId) (bk : BlockId) (s : State) :
    exec (.loadComplete r bk) s = .next (regionEvent r (fun x R => loadDone x bk.val R) s) := rfl

/-- No takeover of the block waits for its load: the load's end is all. -/
theorem loadDone_of_no_takeover {x : Ctx} {b : Nat} {l : Load} {R : Region} (hload : mapGet noneAt R.load b = some l)
    (hphase : ((loadEnd x b R).takeover b).phase ≠ .load) : loadDone x b R = loadEnd x b R := by
  simp only [loadDone, hload, hphase, false_and, if_false]

/-- Block `bk` runs load `l`, of a golden copy that can be read whole and has the body `body`; no takeover waits for
it. -/
structure Finishes (r : RegionId) (bk : BlockId) (l : Load) (body : List Byte) (s : State) : Prop where
  steady : Steady r s
  running : mapGet noneAt (s.region r).load bk.val = some l
  good : l.bad = false
  inside : l.base + 0x7000 ≤ 0x100000
  serves : ∀ b, b < 16 → bankServes b (s.region r) = true
  noTakeover : ((s.region r).takeover bk.val).phase ≠ .load
  bytes : body
    = rawRead (.rmem (l.base + 0x40)) 0x800 (s.region r) ++ rawRead (.rmem (l.base + 0x1000)) 0x6000 (s.region r)

section
variable {r : RegionId} {bk : BlockId} {l : Load} {body : List Byte} {s : State}

theorem Finishes.live (h : Finishes r bk l body s) : Live r s :=
  have ⟨hlive, _, _⟩ := h.steady
  hlive

theorem Finishes.clean (h : Finishes r bk l body s) :
    (s.region r).banks.ecc = [] ∧ (s.region r).banks.dbeFresh = true :=
  have ⟨_, hclean, _⟩ := h.steady
  hclean

/-- Every part of the golden copy is in service. -/
theorem Finishes.rmemUp (h : Finishes r bk l body s) {o n : Nat} (hn : 0 < n) (ho : o + n ≤ 0x7000) :
    RmemUp (l.base + o) n (s.region r) where
  outOfReset := h.live.1
  clean := h.clean.1
  serves b hb := h.serves b (mem_placeBanks_rmem hb hn (have := h.inside; by omega))

/-- The CRC of the body decides how the load ends. -/
theorem Finishes.loadEnd (h : Finishes r bk l body s) (x : Ctx) : loadEnd x bk (s.region r) =
    if crc32c body = l.crc then loadResult bk l.cell 0 (setSections bk l.cell
        (sections bk l.cell (s.region r) ||| sectMask l.sections) (loadPassed bk l body (s.region r)))
      else loadResult bk l.cell 1 (loadSpoil bk l.cell l.sections (loadPassed bk l body (s.region r))) :=
  loadEnd_of_read h.running h.good h.clean (h.rmemUp (by decide) (by decide))
    (h.rmemUp (by decide) (by decide)) h.bytes

/-- The end of the load is all that LOAD_COMPLETE does. -/
theorem Finishes.exec (h : Finishes r bk l body s) :
    ∃ t, exec (.loadComplete r bk) s = .next t ∧ OnlyRegion r s t
      ∧ t.region r = Machine.loadEnd (s.ctx r) bk (s.region r) := by
  have hphase : ((Machine.loadEnd (s.ctx r) bk (s.region r)).takeover bk).phase ≠ .load := by
    rw [h.loadEnd]
    split <;> simpa using h.noTakeover
  refine ⟨_, (exec_loadComplete r bk s).trans (congrArg _ (regionEvent_live h.live _)), OnlyRegion.onRegion .., ?_⟩
  rw [State.region_onRegion, loadDone_of_no_takeover h.running hphase]

/-- A load whose body has the CRC of its header ends with result 0 and marks its sections valid. -/
theorem Finishes.completes_good (h : Finishes r bk l body s) (hcrc : crc32c body = l.crc) :
    Completes (.loadComplete r bk) s (fun t => OnlyRegion r s t
      ∧ (t.region r).reg (blk Reg.BK_LDSTAT bk) = BitVec.ofNat 32 (16 * l.cell)
      ∧ mapGet noneAt (t.region r).load bk.val = none
      ∧ (t.region r).cell (16 * bk.val + l.cell)
        = loadSections l.sections body ((s.region r).cell (16 * bk.val + l.cell))
      ∧ (∀ q, q ≠ 16 * bk.val + l.cell → (t.region r).cell q = (s.region r).cell q)
      ∧ RegsBut [blk Reg.BK_LDSTAT bk, (sectAt bk l.cell).1] (s.region r) (t.region r)
      ∧ (t.region r).reg (sectAt bk l.cell).1 = (setSections bk l.cell
          (sections bk l.cell (s.region r) ||| sectMask l.sections) (s.region r)).reg (sectAt bk l.cell).1) := by
  obtain ⟨t, hexec, honly, hregion⟩ := h.exec
  rw [h.loadEnd, if_pos hcrc, loadResult_zero] at hregion
  refine ⟨t, hexec, honly, ?_⟩
  rw [hregion]
  refine ⟨Region.reg_setReg .., loadPassed_load (l := l) (body := body), loadPassed_cell,
    fun q hq => loadPassed_cell_of_ne hq, ?_, ?_⟩
  · exact regsBut_trans (setSections_loadPassed_regsBut _ _) (regsBut_setReg _ _ _) (by simp) (by simp)
  · rw [Region.reg_setReg_of_ne _ (sectAt_ne_ldstat bk l.cell), setSections_loadPassed_reg]

/-- With another CRC it ends with result 1, clears them and is counted. -/
theorem Finishes.completes_bad (h : Finishes r bk l body s) (hcrc : crc32c body ≠ l.crc) :
    Completes (.loadComplete r bk) s (fun t => OnlyRegion r s t
      ∧ (t.region r).reg (blk Reg.BK_LDSTAT bk) = BitVec.ofNat 32 (16 * l.cell + 2)
      ∧ (t.region r).reg (blk Reg.BK_LDFAIL bk) = satAdd 0xFFFF ((s.region r).reg (blk Reg.BK_LDFAIL bk)) 1
      ∧ (∀ q, q ≠ 16 * bk.val + l.cell → (t.region r).cell q = (s.region r).cell q)
      ∧ RegsBut [blk Reg.BK_LDSTAT bk, blk Reg.BK_LDFAIL bk, (sectAt bk l.cell).1] (s.region r) (t.region r)
      ∧ (t.region r).reg (sectAt bk l.cell).1 = (setSections bk l.cell
          (sections bk l.cell (s.region r) &&& (15 - sectMask l.sections)) (s.region r)).reg (sectAt bk l.cell).1) := by
  obtain ⟨t, hexec, honly, hregion⟩ := h.exec
  rw [h.loadEnd, if_neg hcrc] at hregion
  refine ⟨t, hexec, honly, ?_⟩
  obtain ⟨hstat, hfail, hregs⟩ := loadResult_fails_reg bk l.cell one_ne_zero
    (loadSpoil bk l.cell l.sections (loadPassed bk l body (s.region r)))
  have hspoil := loadSpoil_loadPassed_regsBut (b := bk) (l := l) (body := body) (R := s.region r) l.cell l.sections
  rw [hregion]
  refine ⟨hstat, ?_, fun q hq => ?_, ?_, ?_⟩
  · rw [hfail, hspoil _ (by simp [(sectAt_ne_ldfail bk l.cell).symm])]
  · rw [Region.cell, loadResult_cells]
    exact (loadSpoil_cell_of_ne hq).trans (loadPassed_cell_of_ne hq)
  · exact regsBut_trans hspoil hregs (by simp) (by simp)
  · rw [hregs _ (by simp [sectAt_ne_ldstat, sectAt_ne_ldfail]), loadSpoil_loadPassed_reg]

end

/-- Settles O16: refused starts by `refusal_completes`, the accepted one by `start_completes`, the ends of a load by
`Finishes.completes_good` and `Finishes.completes_bad`. -/
theorem loadEngine : Obligations.LoadEngine := by
  refine ⟨?starts, ?ends⟩
  case starts =>
    rintro r bk v x base s hl hb hgo rfl hidle
    have hheld : (ldCtlHeld bk v (s.region r)).bit (blk Reg.BK_LDSTAT bk) 0 = false := by
      rwa [Region.bit, ldCtlHeld_reg _ _ _ (ldstat_ne_ldctl bk)]
    refine ⟨fun hrun => ?running, fun hrun hcsb => ?base, fun hrun hcsb hbase hserved hgood => ?good⟩
    case running => exact refusal_completes (n := 3) (by decide) hl hb hgo (loadStart_running hheld hrun)
    case base =>
      exact refusal_completes (n := 4) (by decide) hl hb hgo (loadStart_base hheld hrun (by rwa [sections_csb]))
    case good => exact start_completes hl hb hgo hheld hrun hcsb hbase hserved hgood
  case ends =>
    rintro r bk l base body s hsteady hload rfl hbad hin hserves htk hbody
    have h : Finishes r bk l body s := ⟨hsteady, hload, hbad, hin, hserves, htk, hbody⟩
    exact ⟨h.completes_good, h.completes_bad⟩

end Sys2Proof.Machine
end

section
/-!
PROOFS. Interrupt entry (O9): an IDLE that a micro-routine carries out ends with the redirect that the routine set
(R157), which the statement leaves out.
-/

namespace Sys2Proof.Machine

/-- A user routine that has set a redirect with a delay slot, to 0x200, and then gone on at the entry point of IDLE, as one
with a BR microword before its jump there does. -/
def idleRoutine : Micro where
  word := 0xC0000000
  upc := 0
  m := []
  t := 0
  ustack := []
  count := 1
  redirect := some ⟨slotOf cellInit 0xC0000000 0x200 true false false [], false, false⟩
  dirty := false
  rs := []
  rsptr := 0
  spill := []
  segUpc := 0
  segSeq := 0
  undo := []
  segM := []
  segT := 0
  segStack := []

/-- A cell at supervisor level, its stack top at 0x1000, that holds in the routine's IDLE. -/
def idleCell : Cell :=
  { cellInit with
    halted := false, io := [(Reg.CSTAT.base, 0x10)], gpr := [(15, 0x1000)], hold := .idle, micro := some idleRoutine }

/-- That cell is cell 5 of region 0, and source 70 stands in its slot of level 9. -/
def idleState : State :=
  State.reset.setRegion 0 { regionInit with
    inReset := false, cells := [(5, idleCell)], ev := { eventsInit with slots := [(16 * 5 + 9, some 70)] } }

theorem steady_idleState : Steady 0 idleState := ⟨⟨by decide, by decide⟩, ⟨by decide, by decide⟩, by decide⟩

theorem mayEnter_idleCell : MayEnter idleCell := by
  unfold MayEnter
  decide

/-- IDLE has completed, and the cell stands in the delay slot of the redirect: no interrupt is taken (R86). -/
theorem exceptionEntry_idleState : ((exceptionEntry 5 idleState).cell 5).slot.isSome = true := by decide

/-- Refutes O9: an admitted interrupt meets a cell that holds in an IDLE of a micro-routine. As IDLE completes, the
redirect that the routine set takes effect as a branch with a delay slot, from which the cell is not parted. -/
theorem not_interruptEntry : ¬ Obligations.InterruptEntry := by
  unfold Obligations.InterruptEntry
  intro h
  obtain ⟨t, ht, hentered, -⟩ := h 5 9 70 idleState steady_idleState mayEnter_idleCell (by decide) (by decide)
    (by decide) (by decide) (by decide)
  obtain rfl : exceptionEntry 5 idleState = t := Host.Outcome.next.inj ht
  obtain ⟨hslot, -⟩ := hentered.idle
  have hsome := exceptionEntry_idleState
  rw [show ((exceptionEntry 5 idleState).cell 5).slot = none from hslot] at hsome
  cases hsome

end Sys2Proof.Machine
end

section
/-!
PROOFS. Laws that returns and gate calls share: the fields of a register, the admission of an interrupt, and the
retirement of an instruction that names its successor.
-/

namespace Sys2Proof.Machine

/-! ## Fields of a register -/

theorem outside_and_inside (x y m : Word) : (x &&& ~~~ m) &&& (y &&& m) = 0#32 := by
  ext i hi
  cases hm : m[i] <;> simp [hm]

theorem outside_add_inside (x m : Word) : (x &&& ~~~ m) + (x &&& m) = x := by
  rw [BitVec.add_eq_or_of_and_eq_zero _ _ (outside_and_inside x x m)]
  ext i hi
  cases hm : m[i] <;> simp [hm]

/-- A word with the bits of a mask replaced is the word outside the mask and the new bits inside it. -/
theorem maskBits_eq (x : Word) (m v : Nat) : BitVec.ofNat 32 (x.toNat - (x.toNat &&& m) + (v &&& m))
    = (x &&& ~~~ BitVec.ofNat 32 m) ||| (BitVec.ofNat 32 v &&& BitVec.ofNat 32 m) := by
  have hsub : BitVec.ofNat 32 (x.toNat - (x.toNat &&& m)) = x &&& ~~~ BitVec.ofNat 32 m := by
    refine add_right_cancel (b := x &&& BitVec.ofNat 32 m) ?_
    rw [outside_add_inside, show x &&& BitVec.ofNat 32 m = BitVec.ofNat 32 (x.toNat &&& m) by simp [BitVec.ofNat_and],
      ← BitVec.ofNat_add, Nat.sub_add_cancel Nat.and_le_left, BitVec.ofNat_toNat, BitVec.setWidth_eq]
  rw [BitVec.ofNat_add, hsub, BitVec.ofNat_and, BitVec.add_eq_or_of_and_eq_zero _ _ (outside_and_inside ..)]

/-- A field that is replaced reads the new value's bits, and every other bit is as before. -/
theorem getLsbD_setBits (x : Word) (hi lo v : Nat) {j : Nat} (hj : j < 32) :
    (setBits x hi lo v).getLsbD j = if lo ≤ j ∧ j ≤ hi then v.testBit (j - lo) else x.getLsbD j := by
  have hmask : (BitVec.ofNat 32 ((2 ^ (hi + 1 - lo) - 1) * 2 ^ lo)).getLsbD j = decide (lo ≤ j ∧ j ≤ hi) := by
    rw [BitVec.getLsbD_ofNat, Nat.testBit_mul_two_pow, Nat.testBit_two_pow_sub_one, decide_eq_true hj, Bool.true_and,
      ← Bool.decide_and]
    exact decide_eq_decide.mpr (by omega)
  have hval : (BitVec.ofNat 32 (v * 2 ^ lo)).getLsbD j = (decide (lo ≤ j) && v.testBit (j - lo)) := by
    rw [BitVec.getLsbD_ofNat, Nat.testBit_mul_two_pow, decide_eq_true hj, Bool.true_and]
  rw [setBits, maskBits_eq, BitVec.getLsbD_or, BitVec.getLsbD_and, BitVec.getLsbD_and, BitVec.getLsbD_not, hmask, hval]
  by_cases h : lo ≤ j ∧ j ≤ hi
  · simp [h]
  · simp [h, hj]

theorem getLsbD_setBit (x : Word) (i : Nat) (b : Bool) {j : Nat} (hj : j < 32) :
    (setBit x i b).getLsbD j = if j = i then b else x.getLsbD j := by
  rw [setBit, getLsbD_setBits _ _ _ _ hj]
  by_cases h : j = i
  · subst h; cases b <;> simp
  · rw [if_neg h, if_neg (by omega)]

/-- A word of CSTAT taken from a frame, bit by bit (R56). -/
theorem getLsbD_frameStat (v : Word) (esc : Bool) {j : Nat} (hj : j < 32) :
    (frameStat v esc).getLsbD j = if j = 6 then esc else decide (j < 10) && v.getLsbD j := by
  have hmask : ∀ j : Fin 32, j.val ≠ 6 → (BitVec.ofNat 32 Reg.CSTAT.mask).getLsbD j.val = decide (j.val < 10) := by decide
  rw [frameStat, getLsbD_setBit _ _ _ hj]
  by_cases h : j = 6
  · rw [if_pos h, if_pos h]
  · rw [if_neg h, if_neg h, BitVec.getLsbD_and, hmask ⟨j, hj⟩ h, Bool.and_comm]

/-! ## What the admission of an interrupt depends on (R184) -/

theorem Cell.ml_congr {k k' : Cell} (h : ∀ j, j < 4 → k'.cstat.getLsbD j = k.cstat.getLsbD j) : k'.ml = k.ml := by
  refine Nat.eq_of_testBit_eq fun j => ?_
  simp only [Cell.ml, bitsOf, Nat.shiftRight_zero, Nat.testBit_mod_two_pow]
  by_cases hj : j < 4
  · exact congrArg (_ && ·) (h j hj)
  · simp [hj]

/-- What an instruction changes in its cell admits no other interrupt unless it changes ML or ESC. -/
theorem admittedAt_onlyCell {c : Nat} {s t : State} (h : OnlyCell c s t)
    (hstat : ∀ j, j < 4 ∨ j = 6 → (t.cell c).cstat.getLsbD j = (s.cell c).cstat.getLsbD j) :
    admittedAt c t = admittedAt c s := by
  obtain ⟨-, hrest, -⟩ := h
  have hesc : (t.cell c).esc = (s.cell c).esc := hstat 6 (.inr rfl)
  have hml : (t.cell c).ml = (s.cell c).ml := Cell.ml_congr fun j hj => hstat j (.inl hj)
  have hslots : icAdmitted (c % 128) (s.cell c).ml (t.region (c / 128))
      = icAdmitted (c % 128) (s.cell c).ml (s.region (c / 128)) := by
    rw [hrest]
    rfl
  simp only [admittedAt, hesc, hml, hslots]

theorem takeAdmitted_of_none {c : Nat} {s : State} (h : admittedAt c s = none) : takeAdmitted c s = s := by
  unfold takeAdmitted
  rw [h]
  exact ite_self s

/-- Between instructions EXCEPTION_ENTRY takes what `takeAdmitted` takes. -/
theorem exceptionEntry_between {c : Nat} {s : State} (hhold : (s.cell c).hold = .none) (hmicro : (s.cell c).micro = none) :
    exceptionEntry c s = takeAdmitted c s := by
  have hsafe : atSafePoint (s.cell c) = ((s.cell c).running && (s.cell c).slot.isNone) := by
    rw [atSafePoint, hmicro, Bool.and_true]
  rw [exceptionEntry, hsafe, hhold]
  cases hadm : admittedAt c s with
  | none => rw [takeAdmitted_of_none hadm]; simp
  | some e =>
    by_cases hrun : ((s.cell c).running && (s.cell c).slot.isNone) = true
    · simp [hrun]
    · simp [hrun, takeAdmitted]

theorem thenInterrupt_takeAdmitted {c : CellId} {u : State} (hhold : (u.cell c).hold = .none)
    (hmicro : (u.cell c).micro = none) : ThenInterrupt c u (takeAdmitted c u) :=
  ⟨congrArg Host.Outcome.next (exceptionEntry_between hhold hmicro), takeAdmitted_of_none⟩

/-! ## An instruction that names its successor retires -/

theorem retireTo_io (p : BitVec 13) (o k : Cell) : IoBut [] k (retireTo p o k) := retire_io o k

theorem retireTo_cstat (p : BitVec 13) (o k : Cell) : (retireTo p o k).cstat = k.cstat :=
  retireTo_io p o k _ (by decide) (by simp)

theorem retireTo_g (p : BitVec 13) (o k : Cell) (q : RegNo) : (retireTo p o k).g q = k.g q := retire_g o k q

theorem retireTo_dmem (p : BitVec 13) (o k : Cell) : (retireTo p o k).dmem = k.dmem := retire_dmem o k

theorem retireTo_shadow (p : BitVec 13) (o k : Cell) : (retireTo p o k).shadow = k.shadow :=
  (congrArg Cell.shadow (retire_fixed o k) :)

theorem retireTo_hold (p : BitVec 13) (o k : Cell) : (retireTo p o k).hold = k.hold :=
  (congrArg Cell.hold (retire_fixed o k) :)

theorem retireTo_micro (p : BitVec 13) (o k : Cell) : (retireTo p o k).micro = k.micro :=
  (congrArg Cell.micro (retire_fixed o k) :)

theorem retireTo_slot (p : BitVec 13) {o k : Cell} (h : k.slot = o.slot) : (retireTo p o k).slot = none :=
  (retire_follows o k h).2

/-- The part of a cell that a return or a gate call leaves alone. -/
def Cell.kept (k : Cell) : Cell := ({ k with dmem := [], shadow := [] } : Cell).fixed

theorem retireTo_kept (p : BitVec 13) (o k : Cell) : (retireTo p o k).kept = k.kept :=
  retire_fixed_but (but := fun k => { k with dmem := [], shadow := [] }) (fun _ => rfl) o k

/-- A return or a gate call that changed the cell as it may, and then retires. -/
theorem ReturnFrame.retireTo {c : Nat} {s t : State} (p : BitVec 13) (honly : OnlyCell c s t)
    (hacc : (t.cell c).acc = (s.cell c).acc) (hio : IoBut [Reg.CSTAT.base] (s.cell c) (t.cell c))
    (hslot : (t.cell c).slot = (s.cell c).slot) (hkept : (t.cell c).kept = (s.cell c).kept) :
    ReturnFrame c s (t.onCell c (retireTo p (s.cell c))) := by
  refine ⟨honly.trans (OnlyCell.onCell ..), ?_⟩
  rw [State.cell_onCell]
  exact ⟨(retire_acc _ _).trans hacc, fun a ha hl => (retireTo_io p _ _ a ha (by simp)).trans (hio a ha hl),
    retireTo_slot p hslot, (retireTo_kept p _ _).trans hkept⟩

/-! ## A ready cell -/

theorem Ready.between {c : CellId} {op : Nat} {regs : List RegNo} {acc : Bool} {s : State} (h : Ready c op regs acc s) :
    (s.cell c).hold = .none ∧ (s.cell c).micro = none := by
  have hruns := h.runs
  simp only [canExecute, Bool.and_eq_true, beq_iff_eq, Option.isNone_iff_eq_none] at hruns
  exact ⟨hruns.1.2, hruns.2⟩

theorem and_not_eq_false {a b : Bool} (h : a = true → b = true) : (a && !b) = false := by
  cases a with
  | false => rfl
  | true => rw [h rfl]; rfl

theorem settle_of_empty {c : Nat} {s : State} (h : (s.cell c).storeBuf = []) : settle c s = some s := by
  rw [settle, h, drainDmem_nil]

end Sys2Proof.Machine
end

section
/-!
PROOFS. Returns (O10): RETE and RETS whose checks pass, and the interrupt that may follow.
-/

namespace Sys2Proof.Machine

/-! ## What a return makes of its cell -/

/-- The cell after a return: the shadow, g15 and CSTAT are those given. -/
def Cell.returned (shadow : List (Bool × Bool)) (sp stat : Word) (k : Cell) : Cell :=
  ({ k with shadow := shadow }.setG 15 sp).setCstat stat

theorem Cell.returned_kept (shadow : List (Bool × Bool)) (sp stat : Word) (k : Cell) : (k.returned shadow sp stat).kept = k.kept :=
  rfl

theorem Cell.returned_io (shadow : List (Bool × Bool)) (sp stat : Word) (k : Cell) :
    IoBut [Reg.CSTAT.base] k (k.returned shadow sp stat) := by
  intro a _ ha
  rw [Cell.returned, Cell.setCstat, Cell.ioReg_setIo_of_ne _ (by simpa using ha), Cell.ioReg_setG]
  rfl

/-- What a return makes of the state: PC, g15, CSTAT and the shadow are those given, and the rest is as before. -/
structure ReturnedTo (c : CellId) (pc : BitVec 13) (sp stat : Word) (shadow : List (Bool × Bool)) (s u : State) : Prop where
  frame : ReturnFrame c s u
  dmem : (u.cell c).dmem = (s.cell c).dmem
  pc : (u.cell c).pc = pc
  stack : Writes 15 sp (s.cell c) (u.cell c)
  stat : (u.cell c).cstat = stat
  shadow : (u.cell c).shadow = shadow

/-- An instruction of a ready cell that ends as a return does: what it restores, and then an interrupt that is admitted. -/
theorem return_completes {i : Instr} {c : CellId} {op : Nat} {regs : List RegNo} {acc : Bool} {s : State} {word sp stat : Word}
    {pc : BitVec 13} {shadow : List (Bool × Bool)} (h : Ready c op regs acc s) (hexec : exec i s
      = .next (finish c word (s.cell c) (.jump (s.onCell c (Cell.returned shadow sp stat)) pc))) :
    Completes i s (fun t => ∃ u, ReturnedTo c pc sp stat shadow s u ∧ ThenInterrupt c u t) := by
  obtain ⟨hhold, hmicro⟩ := h.between
  refine ⟨_, hexec, _, ⟨.retireTo pc (OnlyCell.onCell ..) ?_ ?_ ?_ ?_, ?_, ?_, ?_, ?_, ?_⟩, thenInterrupt_takeAdmitted ?_ ?_⟩
  all_goals simp only [State.cell_onCell]
  · rfl
  · exact Cell.returned_io _ _ _ _
  · rfl
  · exact Cell.returned_kept ..
  · exact retireTo_dmem ..
  · rfl
  · exact fun q => (retireTo_g ..).trans (Cell.g_setG ..)
  · exact (retireTo_cstat ..).trans (Cell.ioReg_setIo ..)
  · exact retireTo_shadow ..
  · exact (retireTo_hold ..).trans hhold
  · exact (retireTo_micro ..).trans hmicro

theorem ReturnedTo.statusFrom {c : CellId} {pc : BitVec 13} {sp v : Word} {esc : Bool} {shadow : List (Bool × Bool)}
    {s u : State} (h : ReturnedTo c pc sp (frameStat v esc) shadow s u) : StatusFrom v esc (u.cell c) := by
  intro j hj
  rw [h.stat, getLsbD_frameStat _ _ hj]

/-! ## The bodies of RETE and RETS -/

/-- RETE whose checks pass reads its frame and returns (R183). -/
theorem reteBody_passes {c f : Nat} {s : State} (hs : Steady (c / 128) s) (hsup : (s.cell c).sup = true)
    (hf : f = ((s.cell c).g 15).toNat) (hal : f % 4 = 0) (hin : f + 32 ≤ 0x2000) (hbuf : (s.cell c).storeBuf = [])
    {l : List Byte} (hl : l = mapRead zeroByte (s.cell c).dmem f 32)
    (hclaim : (wordAt l 4).getLsbD 4 = true → claimCovered (s.cell c) = true) :
    reteBody c s = .jump (s.onCell c (Cell.returned (if (s.cell c).esc then (s.cell c).shadow else (s.cell c).shadow.tail)
      (wordAt l 0x14) (frameStat (wordAt l 4) false))) ((wordAt l 0).truncate 13 &&& 0x1FFC) := by
  have hok : ¬ (f % 4 ≠ 0 ∨ f + 32 > 0x2000) := by omega
  have hcov : ((wordAt l 4).getLsbD 4 && !claimCovered (s.cell c)) = false := and_not_eq_false hclaim
  simp only [reteBody, ← hf, hsup, hok, settle_of_empty hbuf, dmRead_steady hs, ← hl, reteGo, hcov]
  rfl

/-- RETS whose checks pass reads its frame and returns (R175). -/
theorem retsBody_passes {c f : Nat} {s : State} (hs : Steady (c / 128) s) (hsup : (s.cell c).sup = true)
    (hf : f = ((s.cell c).g 15).toNat) (hal : f % 4 = 0) (hin : f + 16 ≤ 0x2000) (hbuf : (s.cell c).storeBuf = [])
    {top : Bool} {shadow : List (Bool × Bool)} (hshadow : (s.cell c).shadow = (top, true) :: shadow)
    {l : List Byte} (hl : l = mapRead zeroByte (s.cell c).dmem f 16) (hclaim : (wordAt l 4).getLsbD 4 = true → top = true) :
    retsBody c s = .jump (s.onCell c (Cell.returned shadow (wordAt l 8) (frameStat (wordAt l 4) (s.cell c).esc)))
      ((wordAt l 0).truncate 13 &&& 0x1FFC) := by
  have hok : (!(s.cell c).sup || f % 4 != 0 || decide (f + 16 > 0x2000)) = false := by
    rw [hsup, hal, decide_eq_false (by omega)]
    rfl
  have hcov : ((wordAt l 4).getLsbD 4 && !top) = false := and_not_eq_false hclaim
  have hgo : retsGo c l top s = .jump (s.onCell c (Cell.returned (s.cell c).shadow.tail (wordAt l 8)
      (frameStat (wordAt l 4) (s.cell c).esc))) ((wordAt l 0).truncate 13 &&& 0x1FFC) := by
    simp only [retsGo, hcov]
    rfl
  rw [hshadow] at hgo
  simp only [retsBody, ← hf, hok, hshadow, settle_of_empty hbuf, dmRead_steady hs, ← hl, hgo]
  rfl

theorem exec_rete {c : CellId} {s : State} (h : Ready c 0x93 [15] false s) :
    exec (.rete c) s = .next (finish c (wordOf (.rete c)) (s.cell c) (reteBody c s)) :=
  runOp_ready (o := reteOp c) (opcode_wordA 0 0 0 (by decide) (by decide)) rfl rfl h

theorem exec_rets {c : CellId} {s : State} (h : Ready c 0x92 [15] false s) :
    exec (.rets c) s = .next (finish c (wordOf (.rets c)) (s.cell c) (retsBody c s)) :=
  runOp_ready (o := retsOp c) (opcode_wordA 0 0 0 (by decide) (by decide)) rfl rfl h

/-- Settles O10: both bodies end in a jump to the frame's PC, and `return_completes` says what such a jump does. -/
theorem returns : Obligations.Returns := by
  refine ⟨?rete, ?rets⟩
  case rete =>
    intro c f s h hsup hf hal hin hbuf hclaim
    have hexec := exec_rete h
    rw [reteBody_passes h.steady hsup hf hal hin hbuf rfl hclaim] at hexec
    obtain ⟨t, ht, u, hu, hthen⟩ := return_completes h hexec
    exact ⟨t, ht, u, hu.frame, hu.dmem, hu.pc, hu.stack, hu.statusFrom, hu.shadow, hthen⟩
  case rets =>
    intro c f top shadow s h hsup hf hal hin hbuf hshadow hclaim
    have hexec := exec_rets h
    rw [retsBody_passes h.steady hsup hf hal hin hbuf hshadow rfl hclaim] at hexec
    obtain ⟨t, ht, u, hu, hthen⟩ := return_completes h hexec
    exact ⟨t, ht, u, hu.frame, hu.dmem, hu.pc, hu.stack, hu.statusFrom, hu.shadow, hthen⟩

end Sys2Proof.Machine
end

section
/-!
PROOFS. The gate call (O11): what a GATE whose checks pass makes of its cell.
-/

namespace Sys2Proof.Machine

/-! ## The arguments of kind 0 are cleared -/

/-- The first `n` arguments are cleared where they are of kind 0. -/
def clearArgs (e : GateEntry) (n : Nat) (k : Cell) : Cell :=
  foldN n (fun i k' => if e.kind i = 0 then k'.setG (argReg i) 0 else k') k

theorem Cell.setG_shape (k : Cell) (r : RegNo) (v : Word) : k.setG r v = { k with gpr := (k.setG r v).gpr } := by
  unfold Cell.setG
  split <;> rfl

theorem clearArgs_shape (e : GateEntry) (n : Nat) (k : Cell) : clearArgs e n k = { k with gpr := (clearArgs e n k).gpr } := by
  refine foldN_keeps (fun k' : Cell => k' = { k with gpr := k'.gpr }) _ (fun i k' h => ?_) n rfl
  split
  · rw [Cell.setG_shape, h]
  · exact h

/-- One argument: g(n + 1) reads zero where it is of kind 0. -/
theorem clearArg_g (e : GateEntry) (k : Cell) (q : RegNo) {n : Nat} (hn : n < 6) :
    (if e.kind n = 0 then k.setG (argReg n) 0 else k).g q = if q.val = n + 1 ∧ e.kind n = 0 then 0 else k.g q := by
  have harg : q = argReg n ↔ q.val = n + 1 := by
    rw [Fin.ext_iff, show (argReg n).val = n + 1 from Nat.mod_eq_of_lt (by omega)]
  by_cases hk : e.kind n = 0
  · rw [if_pos hk, Cell.g_setG]
    refine if_congr ⟨fun h => ⟨harg.mp h.1, hk⟩, fun h => ⟨harg.mpr h.1, fun h0 => ?_⟩⟩ rfl rfl
    rw [h0] at h
    cases h.1
  · rw [if_neg hk, if_neg fun h => hk h.2]

theorem clearArgs_g (e : GateEntry) (k : Cell) (q : RegNo) {n : Nat} (hn : n ≤ 6) : (clearArgs e n k).g q
    = if 1 ≤ q.val ∧ q.val ≤ n ∧ e.kind (q.val - 1) = 0 then 0 else k.g q := by
  induction n with
  | zero => rw [if_neg (by omega)]; rfl
  | succ n ih =>
    rw [clearArgs, foldN_succ, ← clearArgs, clearArg_g e _ q (by omega), ih (by omega)]
    by_cases hq : q.val = n + 1
    · simp [hq]
    · rw [if_neg fun h => hq h.1]
      exact if_congr (by omega) rfl rfl

/-! ## The cell in the service -/

/-- The gate frame of GATE `n` (R174). -/
def gateFrame (n : Nat) (k : Cell) : List Byte :=
  words4 [(k.pc + 4).zeroExtend 32, k.cstat, k.g 15, BitVec.ofNat 32 n]

theorem gateFrame_length (n : Nat) (k : Cell) : (gateFrame n k).length = 16 := rfl

/-- CSTAT in the service: PRIV 1, DS 0 (R173). -/
def gateStat (v : Word) : Word := setBits (setBit v 4 true) 9 8 0

theorem getLsbD_gateStat (v : Word) {j : Nat} (hj : j < 32) :
    (gateStat v).getLsbD j = if j = 4 then true else if j = 8 ∨ j = 9 then false else v.getLsbD j := by
  rw [gateStat, getLsbD_setBits _ _ _ _ hj, getLsbD_setBit _ _ _ hj]
  by_cases h : 8 ≤ j ∧ j ≤ 9
  · rw [if_pos h, if_neg (by omega), if_pos (by omega), Nat.zero_testBit]
  · rw [if_neg h, if_neg (c := j = 8 ∨ j = 9) (by omega)]

/-- The caller `k` in its service, its frame being written: arguments, origin shadow, g15 and CSTAT change. -/
def Cell.called (e : GateEntry) (k k' : Cell) : Cell :=
  ({ clearArgs e 6 k' with shadow := (k.sup, true) :: (clearArgs e 6 k').shadow }.setG 15
    (BitVec.ofNat 32 (gateTop e k - 16))).setCstat (gateStat k.cstat)

section called
variable (e : GateEntry) (k k' : Cell)

theorem Cell.called_kept : (Cell.called e k k').kept = k'.kept := by
  rw [Cell.called, clearArgs_shape]
  rfl

theorem Cell.called_acc : (Cell.called e k k').acc = k'.acc := by
  rw [Cell.called, clearArgs_shape]
  rfl

theorem Cell.called_dmem : (Cell.called e k k').dmem = k'.dmem := by
  rw [Cell.called, clearArgs_shape]
  rfl

theorem Cell.called_slot : (Cell.called e k k').slot = k'.slot := by
  rw [Cell.called, clearArgs_shape]
  rfl

theorem Cell.called_shadow : (Cell.called e k k').shadow = (k.sup, true) :: k'.shadow := by
  rw [Cell.called, clearArgs_shape]
  rfl

theorem Cell.called_io : IoBut [Reg.CSTAT.base] k' (Cell.called e k k') := by
  intro a _ ha
  rw [Cell.called, clearArgs_shape, Cell.setCstat, Cell.ioReg_setIo_of_ne _ (by simpa using ha), Cell.ioReg_setG]
  rfl

theorem Cell.called_cstat : (Cell.called e k k').cstat = gateStat k.cstat := Cell.ioReg_setIo ..

theorem Cell.called_g (q : RegNo) : (Cell.called e k k').g q = if q = 15 then BitVec.ofNat 32 (gateTop e k - 16)
    else if 1 ≤ q.val ∧ q.val ≤ 6 ∧ e.kind (q.val - 1) = 0 then 0 else k'.g q := by
  have hset : (Cell.called e k k').g q
      = if q = 15 ∧ q ≠ 0 then BitVec.ofNat 32 (gateTop e k - 16) else (clearArgs e 6 k').g q := Cell.g_setG ..
  rw [hset, clearArgs_g e k' q (le_refl 6)]
  refine if_congr (and_iff_left_of_imp fun h => ?_) rfl rfl
  rw [h]
  decide

end called

/-! ## The checks of GATE -/

/-- Bits [1:0] of the target are ignored (R172). -/
theorem gateTarget_eq (n : Nat) : BitVec.ofNat 13 n &&& 0x1FFC = BitVec.ofNat 13 (n / 4 * 4) := by
  have hmask : ∀ i : Fin 13, (0x1FFC : BitVec 13).getLsbD i.val = decide (2 ≤ i.val) := by decide
  refine BitVec.eq_of_getLsbD_eq fun i hi => ?_
  rw [BitVec.getLsbD_and, hmask ⟨i, hi⟩, BitVec.getLsbD_ofNat, BitVec.getLsbD_ofNat, show (4 : Nat) = 2 ^ 2 from rfl,
    Nat.testBit_mul_two_pow, Nat.testBit_div_two_pow, decide_eq_true hi, Bool.true_and, Bool.true_and, Bool.and_comm]
  by_cases h : 2 ≤ i
  · rw [Nat.sub_add_cancel h]
  · rw [decide_eq_false h, Bool.false_and, Bool.false_and]

/-- With no imprecise fault held and nothing outstanding, no register keeps an instruction waiting. -/
theorem withUses_free {c : Nat} {s : State} (himp : (s.cell c).imp = []) (hload : (s.cell c).loadQ = [])
    (hlong : (s.cell c).longOps = []) (regs : List RegNo) (body : State → Did) : withUses c regs false body s = body s := by
  have hfault : (s.cell c).oldestImp (impUse regs false) = none := by rw [Cell.oldestImp, himp]; rfl
  have hfree : regs.any (s.cell c).regPending = false := by
    rw [List.any_eq_false]
    intro r _
    simp [Cell.regPending, hload, hlong]
  simp [withUses, hfault, hfree]

/-- What a caller must meet for GATE through entry `e` (R173). -/
structure GateOpen (e : GateEntry) (k : Cell) : Prop where
  valid : e.valid = true
  level : e.supOnly = true → k.sup = true
  room : k.shadow.length < 8
  args : k.sup = false → ∀ j, j < 6 → argOk e k j = true
  aligned : gateTop e k % 4 = 0
  above : 16 ≤ gateTop e k
  below : gateTop e k ≤ 0x2000

/-- The call itself. -/
theorem gateEnter_eq {c n : Nat} {e : GateEntry} {s : State} (hs : Steady (c / 128) s) : gateEnter c n e s
    = .jump ((s.onCell c (Cell.written (gateTop e (s.cell c) - 16) (gateFrame n (s.cell c)))).onCell c
      (Cell.called e (s.cell c))) (BitVec.ofNat 13 e.target &&& 0x1FFC) := by
  have hframe : gateFrame n (s.cell c) ≠ [] := List.ne_nil_of_length_pos (by rw [gateFrame_length]; decide)
  exact congrArg (fun u : State => Did.jump (u.onCell c (Cell.called e (s.cell c))) (BitVec.ofNat 13 e.target &&& 0x1FFC))
    (dmWrite_steady hs (gateTop e (s.cell c) - 16) (s.cell c).seq hframe)

theorem gateCheck_passes {c n : Nat} {e : GateEntry} {s : State} (h : GateOpen e (s.cell c)) (himp : (s.cell c).imp = [])
    (hload : (s.cell c).loadQ = []) (hlong : (s.cell c).longOps = []) : gateCheck c n e s = gateEnter c n e s := by
  have hlevel : (e.supOnly && !(s.cell c).sup) = false := and_not_eq_false h.level
  have hroom : ¬ 8 ≤ (s.cell c).shadow.length := Nat.not_le.mpr h.room
  have hargs : (if (s.cell c).sup then none else (List.range 6).find? (fun i => !argOk e (s.cell c) i)) = none := by
    cases hsup : (s.cell c).sup with
    | true => rfl
    | false =>
      refine List.find?_eq_none.mpr fun i hi => ?_
      rw [h.args hsup i (List.mem_range.mp hi)]
      decide
  have htop : ¬ (gateTop e (s.cell c) % 4 ≠ 0 ∨ gateTop e (s.cell c) < 16 ∨ 0x2000 < gateTop e (s.cell c)) := by
    have := h.aligned; have := h.above; have := h.below
    omega
  simp only [gateCheck, h.valid, hlevel, hroom, withUses_free himp hload hlong, hargs, htop]
  rfl

theorem gateBody_passes {c n a : Nat} {e : GateEntry} {s : State} (hs : Steady (c / 128) s) (hn : n ≠ 0)
    (ha : a = ((s.cell c).ioReg Reg.GATEBASE.base).toNat + 16 * n) (hin : a + 16 ≤ 0x2000)
    (he : e = gateEntry (mapRead zeroByte (s.cell c).dmem a 16)) (h : GateOpen e (s.cell c))
    (hbuf : (s.cell c).storeBuf = []) (himp : (s.cell c).imp = []) (hload : (s.cell c).loadQ = [])
    (hlong : (s.cell c).longOps = []) : gateBody c n s = gateEnter c n e s := by
  have hin' : ¬ a + 16 > 0x2000 := Nat.not_lt.mpr hin
  simp only [gateBody, ← ha, hn, hin', settle_of_empty hbuf, dmRead_steady hs, ← he, gateCheck_passes h himp hload hlong]
  rfl

theorem exec_gate {c : CellId} {n : Byte} {s : State} (h : Ready c 0x91 [] false s) :
    exec (.gate c n) s = .next (finish c (wordOf (.gate c n)) (s.cell c) (gateBody c n.toNat s)) :=
  runOp_ready (o := gateOp c n) (opcode_wordA 0 0 0 (by decide) (by have := n.isLt; omega)) rfl rfl h

/-- The state after a gate call: the caller in its service. -/
def gateCalled (c n : Nat) (e : GateEntry) (s : State) : State :=
  ((s.onCell c (Cell.written (gateTop e (s.cell c) - 16) (gateFrame n (s.cell c)))).onCell c
    (Cell.called e (s.cell c))).onCell c (retireTo (BitVec.ofNat 13 e.target &&& 0x1FFC) (s.cell c))

section gateCalled
variable (c n : Nat) (e : GateEntry) (s : State)

theorem gateCalled_cell : (gateCalled c n e s).cell c = retireTo (BitVec.ofNat 13 e.target &&& 0x1FFC) (s.cell c)
    (Cell.called e (s.cell c) ((s.cell c).written (gateTop e (s.cell c) - 16) (gateFrame n (s.cell c)))) := by
  rw [gateCalled, State.cell_onCell, State.cell_onCell, State.cell_onCell]

theorem gateCalled_frame : ReturnFrame c s (gateCalled c n e s) := by
  refine .retireTo _ ((OnlyCell.onCell ..).trans (OnlyCell.onCell ..)) ?_ ?_ ?_ ?_
  all_goals rw [State.cell_onCell, State.cell_onCell]
  · exact Cell.called_acc ..
  · exact Cell.called_io _ _ _
  · exact Cell.called_slot ..
  · exact Cell.called_kept ..

theorem gateCalled_dmem : ((gateCalled c n e s).cell c).dmem
    = mapWrite zeroByte (s.cell c).dmem (gateTop e (s.cell c) - 16) (gateFrame n (s.cell c)) := by
  rw [gateCalled_cell, retireTo_dmem, Cell.called_dmem]
  rfl

theorem gateCalled_stat {j : Nat} (hj : j < 32) : ((gateCalled c n e s).cell c).cstat.getLsbD j
    = if j = 4 then true else if j = 8 ∨ j = 9 then false else (s.cell c).cstat.getLsbD j := by
  rw [gateCalled_cell, retireTo_cstat, Cell.called_cstat, getLsbD_gateStat _ hj]

/-- A gate call changes neither ML nor ESC, so that it admits no interrupt that was not admitted before. -/
theorem gateCalled_admitted : admittedAt c (gateCalled c n e s) = admittedAt c s := by
  refine admittedAt_onlyCell (gateCalled_frame c n e s).1 fun j hj => ?_
  rw [gateCalled_stat c n e s (by omega), if_neg (by omega), if_neg (by omega)]

end gateCalled

/-- Settles O11: `gateBody_passes` goes through the checks, `gateEnter_eq` and the laws of `gateCalled` say what follows. -/
theorem gateCall : Obligations.GateCall := by
  intro c n a e s h hn ha hin he hvalid hlevel hroom hbuf hload hlong himp hargs haligned habove hbelow
  have hopen : GateOpen e (s.cell c) := ⟨hvalid, hlevel, hroom, hargs, haligned, habove, hbelow⟩
  have hn' : n.toNat ≠ 0 := fun h0 => hn (BitVec.eq_of_toNat_eq h0)
  have hexec : exec (.gate c n) s = .next (gateCalled c n.toNat e s) := by
    rw [exec_gate h, gateBody_passes h.steady hn' ha hin he hopen hbuf himp hload hlong, gateEnter_eq h.steady]
    exact congrArg Host.Outcome.next (takeAdmitted_of_none ((gateCalled_admitted ..).trans h.quiet))
  have hframe : gateFrame n.toNat (s.cell c)
      = words4 [((s.cell c).pc + 4).zeroExtend 32, (s.cell c).cstat, (s.cell c).g 15, n.zeroExtend 32] := by
    rw [gateFrame, BitVec.ofNat_toNat]
  have hlen := gateFrame_length n.toNat (s.cell c)
  refine ⟨_, hexec, gateCalled_frame .., ?_, fun o ho => ?_, ?_, fun q => ?_, fun j hj => gateCalled_stat _ _ _ _ hj, ?_⟩
  · rw [gateCalled_dmem, ← hframe, ← hlen]
    exact mapRead_mapWrite_self ..
  · rw [gateCalled_dmem]
    exact mapGet_mapWrite_of_out _ _ _ _ (by omega)
  · rw [gateCalled_cell]
    exact gateTarget_eq _
  · rw [gateCalled_cell, retireTo_g, Cell.called_g]
    rfl
  · rw [gateCalled_cell, retireTo_shadow, Cell.called_shadow]
    rfl

end Sys2Proof.Machine
end

section
/-!
PROOFS. Laws that events and interrupts share: registers by index, rows of bits, the entries of a canonical map.
-/

namespace Sys2Proof.Machine

/-! ## Members of a register array -/

/-- The index at distance `o` into an array of `n` members `st` apart. -/
def indexAt (n st o : Nat) : Nat := if n = 1 then 0 else min (o / st) (n - 1)

theorem mul_indexAt_le (n st o : Nat) : st * indexAt n st o ≤ o := by
  unfold indexAt
  split
  · simp
  · exact (Nat.mul_le_mul_left st (min_le_left ..)).trans (Nat.mul_div_le o st)

theorem regIdx_eq (d : RegDef) (a : Nat) : regIdx d a =
    if a < d.base then none
    else
      let o := a - d.base
      let o2 := o - d.s1 * indexAt d.n1 d.s1 o
      if o2 - d.s2 * indexAt d.n2 d.s2 o2 = 0 ∧ indexAt d.n1 d.s1 o < d.n1 ∧ indexAt d.n2 d.s2 o2 < d.n2 then
        some (indexAt d.n1 d.s1 o, indexAt d.n2 d.s2 o2)
      else none := rfl

/-- A member found at an address stands there. -/
theorem regAt_of_regIdx {d : RegDef} {a i j : Nat} (h : regIdx d a = some (i, j)) :
    a = regAt d i j ∧ i < d.n1 ∧ j < d.n2 := by
  simp only [regIdx_eq, Option.ite_none_left_eq_some, Option.ite_none_right_eq_some, Option.some.injEq,
    Prod.mk.injEq] at h
  obtain ⟨hbase, ⟨hrest, hi, hj⟩, rfl, rfl⟩ := h
  have h1 := mul_indexAt_le d.n1 d.s1 (a - d.base)
  have h2 := mul_indexAt_le d.n2 d.s2 (a - d.base - d.s1 * indexAt d.n1 d.s1 (a - d.base))
  refine ⟨?_, hi, hj⟩
  unfold regAt
  omega

/-- A member of an array with one index is found at its address. -/
theorem regIdx_regAt {d : RegDef} {i : Nat} (hs : 0 < d.s1) (hn : d.n1 ≠ 1) (hn2 : d.n2 = 1) (hi : i < d.n1) :
    regIdx d (regAt d i 0) = some (i, 0) := by
  have hsub : d.base + d.s1 * i - d.base = d.s1 * i := by omega
  have hmin : min i (d.n1 - 1) = i := by omega
  simp [regIdx, regAt, hn, hn2, hsub, Nat.mul_div_cancel_left _ hs, hmin, hi]

/-! ## Entries of a canonical map -/

theorem lo_le_of_mem {α : Type} [DecidableEq α] {d : Nat → α} {e : Nat × α} :
    ∀ {m : FMap α} {lo : Nat}, mapWfFrom d lo m = true → e ∈ m → lo ≤ e.1
  | c :: m, lo, h, he => by
    simp only [mapWfFrom, Bool.and_eq_true, decide_eq_true_eq] at h
    obtain ⟨⟨hlo, -⟩, hm⟩ := h
    rcases List.mem_cons.1 he with rfl | he
    · exact hlo
    · have := lo_le_of_mem hm he
      omega

/-- The keys of a canonical map rise. -/
theorem mapWfFrom_pairwise {α : Type} [DecidableEq α] {d : Nat → α} :
    ∀ {m : FMap α} {lo : Nat}, mapWfFrom d lo m = true → m.Pairwise (fun e c => e.1 < c.1)
  | [], _, _ => List.Pairwise.nil
  | c :: m, lo, h => by
    simp only [mapWfFrom, Bool.and_eq_true, decide_eq_true_eq] at h
    exact List.pairwise_cons.2 ⟨fun e he => lo_le_of_mem h.2 he, mapWfFrom_pairwise h.2⟩

theorem mapWf_pairwise {α : Type} [DecidableEq α] {d : Nat → α} {m : FMap α} (h : mapWf d m = true) :
    m.Pairwise (fun e c => e.1 < c.1) := mapWfFrom_pairwise h

/-- What a canonical map lists is what it reads as. -/
theorem mapGet_of_mem {α : Type} {d : Nat → α} {e : Nat × α} :
    ∀ {m : FMap α}, m.Pairwise (fun e c => e.1 < c.1) → e ∈ m → mapGet d m e.1 = e.2
  | c :: m, h, he => by
    obtain ⟨hc, hm⟩ := List.pairwise_cons.1 h
    rw [mapGet_cons]
    rcases List.mem_cons.1 he with rfl | he
    · exact if_pos rfl
    · rw [if_neg (hc e he).ne', mapGet_of_mem hm he]

/-- A key that reads as anything but its default is listed. -/
theorem mem_of_mapGet_ne {α : Type} {d : Nat → α} {k : Nat} :
    ∀ {m : FMap α}, mapGet d m k ≠ d k → (k, mapGet d m k) ∈ m
  | [], h => absurd rfl h
  | c :: m, h => by
    rw [mapGet_cons] at h ⊢
    by_cases hk : k = c.1
    · rw [if_pos hk, hk]
      exact List.mem_cons_self
    · rw [if_neg hk] at h ⊢
      exact List.mem_cons_of_mem _ (mem_of_mapGet_ne h)

/-! ## Rows of bits (R211) -/

theorem Region.bit_setBit (R : Region) (a i : Nat) (b : Bool) {j : Nat} (hj : j < 32) :
    (R.setBit a i b).bit a j = if j = i then b else R.bit a j := by
  rw [Region.bit, Region.reg_setBit, getLsbD_setBit _ _ _ hj, Region.bit]

theorem icBit_congr {d : RegDef} {R R' : Region} {j : Nat} (h : R'.reg (regAt d (j / 32) 0) = R.reg (regAt d (j / 32) 0)) :
    icBit d j R' = icBit d j R := by
  rw [icBit, icBit, Region.bit, Region.bit, h]

/-- A bit of a row reads as it was written, and every other bit of the row is as before. -/
theorem icBit_setIcBit {d : RegDef} (hd : d.s1 = 4) (q j : Nat) (b : Bool) (R : Region) :
    icBit d j (setIcBit d q b R) = if j = q then b else icBit d j R := by
  have hj : j % 32 < 32 := Nat.mod_lt _ (by decide)
  by_cases hw : j / 32 = q / 32
  · rw [icBit, setIcBit, hw, Region.bit_setBit _ _ _ _ hj, icBit, hw]
    simp [show j % 32 = q % 32 ↔ j = q by omega]
  · have hne : regAt d (j / 32) 0 ≠ regAt d (q / 32) 0 := by simp only [regAt, hd]; omega
    rw [if_neg (fun h => hw (by rw [h]))]
    exact icBit_congr (Region.reg_setBit_of_ne _ hne _ _)

theorem setIcBit_regsBut (d : RegDef) (q : Nat) (b : Bool) (R : Region) :
    RegsBut [regAt d (q / 32) 0] R (setIcBit d q b R) := regsBut_setReg _ _ _

theorem RegsBut.mono {l m : List Nat} {R R' : Region} (h : RegsBut l R R') (hl : l ⊆ m) : RegsBut m R R' :=
  fun a ha => h a (fun hm => ha (hl hm))

/-- A pend bit that is set: that source pends, and every other one as before. -/
theorem icPending_set (q j : Nat) (R : Region) :
    icPending j (setIcBit Reg.IC_PEND q true R) = (decide (j = q) || icPending j R) := by
  rw [icPending, icBit_setIcBit rfl]
  by_cases h : j = q <;> simp [h, icPending]

/-- A pend bit that is cleared. -/
theorem icPending_clear (q j : Nat) (R : Region) :
    icPending j (setIcBit Reg.IC_PEND q false R) = (!decide (j = q) && icPending j R) := by
  rw [icPending, icBit_setIcBit rfl]
  by_cases h : j = q <;> simp [h, icPending]

end Sys2Proof.Machine
end

section
/-!
PROOFS. Event channels (O17).
-/

namespace Sys2Proof.Machine

/-! ## Lists -/

/-- What `eraseDups` leaves occurs once each. -/
theorem nodup_eraseDups {α : Type} [BEq α] [LawfulBEq α] : ∀ l : List α, l.eraseDups.Nodup
  | [] => by simp
  | a :: l => by
    rw [List.eraseDups_cons, List.nodup_cons]
    exact ⟨by simp, nodup_eraseDups _⟩
termination_by l => l.length
decreasing_by exact Nat.lt_succ_of_le (List.length_filter_le ..)

/-- A fold whose step acts at one element only. -/
theorem foldl_of_one {α β : Type} [DecidableEq β] {f : α → β → α} {n : β} (hother : ∀ a m, m ≠ n → f a m = a) :
    ∀ {l : List β}, l.Nodup → ∀ a, l.foldl f a = if n ∈ l then f a n else a
  | [], _, _ => rfl
  | m :: l, h, a => by
    obtain ⟨hm, hl⟩ := List.nodup_cons.1 h
    rw [List.foldl_cons, foldl_of_one hother hl]
    by_cases hmn : m = n
    · subst hmn
      simp [hm]
    · rw [hother a m hmn]
      simp [Ne.symm hmn]

/-! ## The arrivals of one fire (R193, R195, R206) -/

/-- The channel that an entry of the registers enables. -/
def enabledIn (e : Nat × Word) : Option Nat :=
  match regIdx Reg.EV_CH_CFG e.1 with
  | some (n, _) => if e.2.getLsbD 31 then some n else none
  | none => none

theorem evEnabled_eq (R : Region) : evEnabled R = R.regs.filterMap enabledIn := rfl

theorem enabledIn_eq_some {e : Nat × Word} {n : Nat} :
    enabledIn e = some n ↔ n < 256 ∧ e.1 = regAt Reg.EV_CH_CFG n 0 ∧ e.2.getLsbD 31 = true := by
  unfold enabledIn
  constructor
  · intro h
    split at h
    next m i hm =>
      obtain ⟨hkey, hlt, hi⟩ := regAt_of_regIdx hm
      simp only [Reg.EV_CH_CFG] at hlt hi
      obtain rfl : i = 0 := by omega
      obtain ⟨hbit, hmn⟩ := Option.ite_none_right_eq_some.1 h
      obtain rfl := Option.some.inj hmn
      exact ⟨hlt, hkey, hbit⟩
    next => cases h
  · rintro ⟨hn, hkey, hbit⟩
    rw [hkey, regIdx_regAt (by decide) (by decide) rfl hn]
    exact if_pos hbit

theorem regionDefault_channel : ∀ n : Fin 256, regionDefault (regAt Reg.EV_CH_CFG n 0) = 0 := by decide +kernel

variable {R : Region}

theorem mem_evEnabled (hwf : mapWf regionDefault R.regs = true) {n : Nat} :
    n ∈ evEnabled R ↔ n < 256 ∧ R.bit (regAt Reg.EV_CH_CFG n 0) 31 = true := by
  simp only [evEnabled_eq, List.mem_filterMap, enabledIn_eq_some]
  constructor
  · rintro ⟨e, he, hn, hkey, hbit⟩
    refine ⟨hn, ?_⟩
    rwa [Region.bit, Region.reg, ← hkey, mapGet_of_mem (mapWf_pairwise hwf) he]
  · rintro ⟨hn, hbit⟩
    refine ⟨(regAt Reg.EV_CH_CFG n 0, R.reg (regAt Reg.EV_CH_CFG n 0)), mem_of_mapGet_ne fun hzero => ?_, hn, rfl, hbit⟩
    rw [Region.bit, Region.reg, hzero, regionDefault_channel ⟨n, hn⟩] at hbit
    simp at hbit

theorem nodup_evEnabled (hwf : mapWf regionDefault R.regs = true) : (evEnabled R).Nodup := by
  refine (mapWf_pairwise hwf).filterMap enabledIn fun e c hlt n hn m hm hnm => ?_
  obtain ⟨-, hkey, -⟩ := enabledIn_eq_some.1 hn
  obtain ⟨-, hkey', -⟩ := enabledIn_eq_some.1 hm
  subst hnm
  omega

/-- A fire of channel `n` arrives there and nowhere else. -/
theorem evArrival_fire (n m : Nat) (st : Ticks) (R : Region) :
    evArrival [⟨0x400 + n, st⟩] m R = if m = n then some st else none := by
  have hsrc : evSrc m R < 1024 := Nat.mod_lt _ (by decide)
  have hnone : [(⟨0x400 + n, st⟩ : Pulse)].find? (fun p => p.src == evSrc m R && p.src != 0) = none :=
    List.find?_eq_none.2 fun p hp => by
      obtain rfl := List.mem_singleton.1 hp
      simp [show 0x400 + n ≠ evSrc m R by omega]
  rw [evArrival, hnone]
  by_cases h : m = n
  · subst h
    simp [fireSource]
  · simp [fireSource, h, Ne.symm h]

theorem evEdge_fire (x : Ctx) (e n : Nat) (st : Ticks) (hwf : mapWf regionDefault R.regs = true) :
    evEdge x e [⟨0x400 + n, st⟩] R = if n ∈ evEnabled R then evAccept x e n st R else R := by
  rw [evEdge, foldl_of_one (n := n) ?other (nodup_evEnabled hwf)]
  case other =>
    intro Q m hm
    simp only [evArrival_fire, if_neg hm]
  simp only [evArrival_fire, if_pos]

/-- The region with its arrivals taken. -/
def Region.arrived (R : Region) : Region := { R with ev := { R.ev with fabric := [], accepted := [] } }

theorem evTick_fire (x : Ctx) {n : Nat} {st : Ticks} (hwf : mapWf regionDefault R.regs = true)
    (hfire : R.ev.fabric = [⟨0x400 + n, st⟩]) : evTick x R =
      if n ∈ evEnabled R then evAccept x (x.time.pclk - 1) n st R.arrived else R.arrived := by
  have hedge : firstEdge [] R.ev.fabric = [⟨0x400 + n, st⟩] := by rw [hfire]; rfl
  rw [evTick, hedge, hfire]
  exact evEdge_fire (R := R.arrived) x (x.time.pclk - 1) n st hwf

theorem evAccept_rest (x : Ctx) (e n : Nat) (st : Ticks) (R : Region) :
    (evAccept x e n st R).noArrivals = R.noArrivals ∧ (evAccept x e n st R).ev.fabric = R.ev.fabric := by
  unfold evAccept
  split <;> exact ⟨rfl, rfl⟩

/-- Whatever comes of a fire, only what an arrival concerns changes, and none is left on the fabric. -/
theorem evTick_fire_rest (x : Ctx) {n : Nat} {st : Ticks} (hwf : mapWf regionDefault R.regs = true)
    (hfire : R.ev.fabric = [⟨0x400 + n, st⟩]) :
    (evTick x R).noArrivals = R.noArrivals ∧ (evTick x R).ev.fabric = [] := by
  rw [evTick_fire x hwf hfire]
  split
  · exact evAccept_rest x (x.time.pclk - 1) n st R.arrived
  · exact ⟨rfl, rfl⟩

/-- A fire of a disabled channel is lost. -/
theorem evTick_disabled (x : Ctx) {n : Nat} {st : Ticks} (hwf : mapWf regionDefault R.regs = true)
    (hfire : R.ev.fabric = [⟨0x400 + n, st⟩]) (hoff : R.bit (regAt Reg.EV_CH_CFG n 0) 31 = false) :
    evTick x R = R.arrived := by
  rw [evTick_fire x hwf hfire, if_neg]
  simp [mem_evEnabled hwf, hoff]

theorem evTick_enabled (x : Ctx) {n : Nat} {st : Ticks} (hn : n < 256) (hwf : mapWf regionDefault R.regs = true)
    (hfire : R.ev.fabric = [⟨0x400 + n, st⟩]) (hon : R.bit (regAt Reg.EV_CH_CFG n 0) 31 = true) :
    evTick x R = evAccept x (x.time.pclk - 1) n st R.arrived := by
  rw [evTick_fire x hwf hfire, if_pos ((mem_evEnabled hwf).2 ⟨hn, hon⟩)]

theorem evTick_dropped (x : Ctx) {n : Nat} {st : Ticks} (hn : n < 256) (hwf : mapWf regionDefault R.regs = true)
    (hfire : R.ev.fabric = [⟨0x400 + n, st⟩]) (hon : R.bit (regAt Reg.EV_CH_CFG n 0) 31 = true)
    (hsoon : evAccepts (x.time.pclk - 1) n R = false) : evTick x R = R.arrived.count (regAt Reg.EV_CH_DROP n 0) := by
  rw [evTick_enabled x hn hwf hfire hon]
  exact if_neg (by rw [show evAccepts _ n R.arrived = _ from hsoon]; exact Bool.false_ne_true)

/-- The accepted arrival is registered, and leaves on the chip-wide channels that carry it. -/
def evTaken (x : Ctx) (n : Nat) (st : Ticks) (R : Region) : Region :=
  { R.setReg (regAt Reg.EV_CH_LASTGT n 0) (st.truncate 32) with ev := { R.ev with
    lastAcc := mapSet noneAt R.ev.lastAcc n (some (x.time.pclk - 1))
    accepted := [⟨n, st, if R.bit (regAt Reg.EV_CH_CFG n 0) 30 then some (evSrc n R) else none⟩]
    xout := R.ev.xout ++ (xevOf x n).map (fun c => ⟨c, st, x.time.pclk⟩)
    fabric := [] } }

theorem evTaken_lastAcc (x : Ctx) (n : Nat) (st : Ticks) (R : Region) :
    (evTaken x n st R).ev.lastAcc = mapSet noneAt R.ev.lastAcc n (some (x.time.pclk - 1)) := rfl

theorem evTick_accepted (x : Ctx) {n : Nat} {st : Ticks} (hn : n < 256) (hwf : mapWf regionDefault R.regs = true)
    (hfire : R.ev.fabric = [⟨0x400 + n, st⟩]) (hon : R.bit (regAt Reg.EV_CH_CFG n 0) 31 = true)
    (hdue : evAccepts (x.time.pclk - 1) n R = true) : evTick x R = evTaken x n st R := by
  have hcfg : (R.arrived.setReg (regAt Reg.EV_CH_LASTGT n 0) (st.truncate 32)).reg (regAt Reg.EV_CH_CFG n 0)
      = R.reg (regAt Reg.EV_CH_CFG n 0) :=
    Region.reg_setReg_of_ne R (by simp only [regAt, Reg.EV_CH_CFG, Reg.EV_CH_LASTGT]; omega) _
  rw [evTick_enabled x hn hwf hfire hon, evAccept, if_pos (show evAccepts _ n R.arrived = true from hdue)]
  simp only [Region.bit, evSrc, Region.field, hcfg]
  rfl

theorem exec_evFire {r : RegionId} {s : State} (hl : Live r s) (v : Word) :
    exec (.evFire r v) s = .next (s.onRegion r (fun x R => evFire x (bitsOf v 7 0) R)) :=
  congrArg Host.Outcome.next (regionAccess_live hl _)

/-! ## The triggers of accepted arrivals (R194, R196, R197) -/

theorem addTrigger_fresh {t : Nat} (st : Ticks) :
    ∀ {l : List (Nat × Ticks × Nat)}, (∀ e ∈ l, e.1 ≠ t) → addTrigger t st l = l ++ [(t, st, 1)]
  | [], _ => rfl
  | e :: l, h => by
    rw [addTrigger, if_neg (h e List.mem_cons_self), addTrigger_fresh st fun c hc => h c (List.mem_cons_of_mem _ hc)]
    rfl

/-- Triggers of one arrival for different tasks are gathered one by one. -/
theorem gather_nodup (st : Ticks) : ∀ {ks : List Nat}, ks.Nodup → ∀ l : List (Nat × Ticks × Nat), (∀ e ∈ l, e.1 ∉ ks) →
    ks.foldl (fun l t => addTrigger t st l) l = l ++ ks.map (fun k => (k, st, 1))
  | [], _, l, _ => by simp
  | k :: ks, h, l, hl => by
    obtain ⟨hk, hks⟩ := List.nodup_cons.1 h
    have hfresh : ∀ e ∈ l, e.1 ≠ k := fun e he heq => hl e he (heq ▸ List.mem_cons_self)
    have hrest : ∀ e ∈ l ++ [(k, st, 1)], e.1 ∉ ks := fun e he hmem => by
      rcases List.mem_append.1 he with he | he
      · exact hl e he (List.mem_cons_of_mem _ hmem)
      · rw [List.mem_singleton.1 he] at hmem
        exact hk hmem
    rw [List.foldl_cons, addTrigger_fresh st hfresh, gather_nodup st hks _ hrest]
    simp

theorem nodup_evForks (n : Nat) (R : Region) : (evForks n R).Nodup := nodup_eraseDups _

/-- A trigger for a cell's task leaves for the cell. -/
theorem taskAct_cell (x : Ctx) {t : Nat} (ht : 0x180 ≤ t) (st : Ticks) (R : Region) :
    taskAct x t st R = { R with ev := { R.ev with crossing := R.ev.crossing ++ [⟨t, st⟩] } } := by
  unfold taskAct
  simp only [show ¬ t = 0 by omega, show ¬ t ≤ 0x008 by omega, show ¬ t = 0x009 by omega, show ¬ t < 0x010 by omega,
    show ¬ t ≤ 0x017 by omega, show ¬ t ≤ 0x01F by omega, show ¬ t ≤ 0x02F by omega, show ¬ t ≤ 0x047 by omega,
    show ¬ t < 0x050 by omega, show ¬ t ≤ 0x07F by omega, show ¬ t ≤ 0x0BF by omega, show ¬ t ≤ 0x0FF by omega,
    show ¬ t ≤ 0x13F by omega, show ¬ t ≤ 0x17F by omega, if_false]

/-- The triggers in turn act on their tasks, and merged ones are counted. -/
def actAll (x : Ctx) (trig : List (Nat × Ticks × Nat)) (R : Region) : Region :=
  trig.foldl (fun R e =>
    taskAct x e.1 e.2.1 (if e.2.2 > 1 then R.count (regAt Reg.EV_TK e.1 0) (e.2.2 - 1) else R)) R

theorem actAll_cells (x : Ctx) (st : Ticks) : ∀ {ks : List Nat}, (∀ k ∈ ks, 0x180 ≤ k) → ∀ R : Region,
    actAll x (ks.map (fun k => (k, st, 1))) R
      = { R with ev := { R.ev with crossing := R.ev.crossing ++ ks.map (fun k => ⟨k, st⟩) } }
  | [], _, R => by simp [actAll]
  | k :: ks, h, R => by
    have hact := taskAct_cell x (h k List.mem_cons_self) st R
    have hks := actAll_cells x st (fun j hj => h j (List.mem_cons_of_mem _ hj))
      { R with ev := { R.ev with crossing := R.ev.crossing ++ [⟨k, st⟩] } }
    calc actAll x ((k :: ks).map (fun k => (k, st, 1))) R
        = actAll x (ks.map (fun k => (k, st, 1))) (taskAct x k st R) := rfl
      _ = _ := by rw [hact, hks]; simp

theorem dbRequest_fresh {q : Nat} (h : R.ev.req.contains q = false) :
    dbRequest q R = { R with ev := { R.ev with req := addBit q R.ev.req } } :=
  if_neg (by rw [h]; exact Bool.false_ne_true)

/-- The doorbell request of an arrival, where it has one. -/
def requested (db : Option Nat) (R : Region) : Region :=
  match db with
  | some q => dbRequest q R
  | none => R

theorem evActs_one (x : Ctx) (n : Nat) (st : Ticks) (db : Option Nat) (R : Region) :
    evActs x [⟨n, st, db⟩] R
      = actAll x ((evForks n R).foldl (fun l t => addTrigger t st l) []) (requested db R) := rfl

/-- One arrival sends a trigger to each cell's task of its fork list. -/
theorem evActs_one_cells (x : Ctx) (n : Nat) (st : Ticks) (db : Option Nat) (R : Region)
    (hk : ∀ k ∈ evForks n R, 0x180 ≤ k) : evActs x [⟨n, st, db⟩] R = { requested db R with ev :=
      { (requested db R).ev with crossing := (requested db R).ev.crossing ++ (evForks n R).map (fun k => ⟨k, st⟩) } } := by
  rw [evActs_one, gather_nodup st (nodup_evForks n R) [] (by simp), List.nil_append, actAll_cells x st hk]

/-- Two arrivals for one task merge, with the lesser stamp, and are counted. -/
theorem evActs_merged (x : Ctx) {n m k : Nat} (st su : Ticks) (hn : evForks n R = [k]) (hm : evForks m R = [k])
    (hk : 0x180 ≤ k) : evActs x [⟨n, st, none⟩, ⟨m, su, none⟩] R
      = { (R.count (regAt Reg.EV_TK k 0)) with ev := { R.ev with
        crossing := R.ev.crossing ++ [⟨k, if su.toNat < st.toNat then su else st⟩] } } := by
  have hgather : addTrigger k su (addTrigger k st []) = [(k, if su.toNat < st.toNat then su else st, 2)] := if_pos rfl
  calc evActs x [⟨n, st, none⟩, ⟨m, su, none⟩] R
      = actAll x ((evForks m R).foldl (fun l t => addTrigger t su l)
          ((evForks n R).foldl (fun l t => addTrigger t st l) [])) R := rfl
    _ = actAll x (addTrigger k su (addTrigger k st [])) R := by rw [hn, hm]; rfl
    _ = taskAct x k (if su.toNat < st.toNat then su else st) (R.count (regAt Reg.EV_TK k 0)) := by rw [hgather]; rfl
    _ = _ := taskAct_cell x hk _ _

/-! ## Chip-wide delivery (R206, R207) -/

/-- What region `q` has for chip-wide channel `c`. -/
def carriedAt (c : Nat) (s : State) (q : Nat) : Option Carried := (s.region q).ev.xout.find? (fun e => e.xev == c)

/-- The earlier of the best arrival so far and region `q`'s own. -/
def earlierOf (c : Nat) (s : State) (best : Option (Nat × Carried)) (q : Nat) : Option (Nat × Carried) :=
  match carriedAt c s q, best with
  | none, b => b
  | some e, none => some (q, e)
  | some e, some b => if e.edge < b.2.edge then some (q, e) else some b

theorem earlierOf_none {c q : Nat} {s : State} (h : carriedAt c s q = none) (b : Option (Nat × Carried)) :
    earlierOf c s b q = b := by
  unfold earlierOf
  rw [h]

theorem earlierOf_first {c q : Nat} {s : State} {d : Carried} (h : carriedAt c s q = some d) :
    earlierOf c s none q = some (q, d) := by
  unfold earlierOf
  rw [h]

theorem earlierOf_some {c q : Nat} {s : State} {d : Carried} (h : carriedAt c s q = some d) (b : Nat × Carried) :
    earlierOf c s (some b) q = if d.edge < b.2.edge then some (q, d) else some b := by
  unfold earlierOf
  rw [h]

/-- The best arrival of the first `n` regions. -/
def bestOf (c : Nat) (s : State) (n : Nat) : Option (Nat × Carried) := (List.range n).foldl (earlierOf c s) none

theorem bestOf_succ (c : Nat) (s : State) (n : Nat) : bestOf c s (n + 1) = earlierOf c s (bestOf c s n) n := by
  simp [bestOf, List.range_succ]

theorem chipWideNext_eq (c : Nat) (s : State) : chipWideNext c s = bestOf c s 8 := rfl

variable {c o : Nat} {e : Carried} {s : State}

/-- The arrival of region `o` is the first: no region has an earlier one, and none below it one as early. -/
structure CarriedFirst (c o : Nat) (e : Carried) (s : State) : Prop where
  below : o < 8
  found : carriedAt c s o = some e
  first : ∀ q d, q < 8 → carriedAt c s q = some d → e.edge < d.edge ∨ (e.edge = d.edge ∧ o ≤ q)

/-- Before region `o` every arrival is later than its own, and from then on its own is the best. -/
theorem CarriedFirst.best (h : CarriedFirst c o e s) (n : Nat) (hn : n ≤ 8) :
    if o < n then bestOf c s n = some (o, e) else ∀ b, bestOf c s n = some b → e.edge < b.2.edge := by
  induction n with
  | zero => exact fun _ hb => by cases hb
  | succ n ih =>
    have ih := ih (by omega)
    rw [bestOf_succ]
    generalize bestOf c s n = best at ih
    rcases Nat.lt_trichotomy o n with hlt | rfl | hgt
    case inl =>
      rw [if_pos hlt] at ih
      rw [if_pos (Nat.lt_succ_of_lt hlt), ih]
      cases hd : carriedAt c s n with
      | none => exact earlierOf_none hd _
      | some d =>
        have hlater := h.first n d (by omega) hd
        rw [earlierOf_some hd, if_neg (by simp only; omega)]
    case inr.inl =>
      rw [if_neg (Nat.lt_irrefl o)] at ih
      rw [if_pos (Nat.lt_succ_self o)]
      cases best with
      | none => exact earlierOf_first h.found
      | some b => rw [earlierOf_some h.found, if_pos (ih b rfl)]
    case inr.inr =>
      rw [if_neg (by omega)] at ih ⊢
      cases hd : carriedAt c s n with
      | none => rwa [earlierOf_none hd]
      | some d =>
        have hlater : e.edge < d.edge := by
          have := h.first n d (by omega) hd
          omega
        cases best with
        | none =>
          rw [earlierOf_first hd]
          rintro b ⟨⟩
          exact hlater
        | some b' =>
          rw [earlierOf_some hd]
          split <;> rintro b ⟨⟩
          · exact hlater
          · exact ih _ rfl

theorem CarriedFirst.next (h : CarriedFirst c o e s) : chipWideNext c s = some (o, e) := by
  have hbest := h.best 8 le_rfl
  rwa [if_pos h.below] at hbest

/-- A region without its first arrival on channel `c`. -/
def Region.sent (c : Nat) (R : Region) : Region :=
  { R with ev := { R.ev with xout := R.ev.xout.eraseP (fun e => e.xev == c) } }

/-- The arrival is no longer at its origin, and the channel's registers show its stamp. -/
def chipWideLeft (c o : Nat) (e : Carried) (s : State) : State :=
  { s.onRegion o (fun _ R => R.sent c) with
    chip := s.chip.setPair (regAt Reg.CH_XEV_GT_L c 0) (regAt Reg.CH_XEV_GT_H c 0) e.stamp }

/-- The arrival reaches region `q`, unless that is in reset. -/
def chipWideReach (c : Nat) (e : Carried) (q : Nat) (s : State) : State :=
  if (s.region q).inReset then s else s.onRegion q (fun _ R => R.raiseAt (1 + c) e.stamp)

theorem chipWide_of_first (h : CarriedFirst c o e s) :
    chipWide c s = foldN 8 (chipWideReach c e) (chipWideLeft c o e s) := by
  rw [chipWide, h.next]
  rfl

theorem region_chipWideLeft (c o : Nat) (e : Carried) (s : State) (q : Nat) :
    (chipWideLeft c o e s).region q = if q = o then (s.region q).sent c else s.region q := by
  by_cases h : q = o
  · subst h
    rw [if_pos rfl]
    exact State.region_onRegion s q (fun _ R => R.sent c)
  · rw [if_neg h]
    exact State.region_onRegion_of_ne s h (fun _ R => R.sent c)

/-- What an arrival makes of a region that it is offered to. -/
def Region.reached (c : Nat) (st : Ticks) (R : Region) : Region := if R.inReset then R else R.raiseAt (1 + c) st

theorem Region.reached_eq (c : Nat) (st : Ticks) (R : Region) : R.reached c st = { R with ev := { R.ev with
    fabric := R.ev.fabric ++ if R.inReset = false then [⟨1 + c, st⟩] else [] } } := by
  unfold Region.reached
  split
  next h => rw [if_neg (by simp [h]), List.append_nil]
  next h => rw [if_pos (by simpa using h), Region.raiseAt]

/-- The arrival reaches every region in turn, and nothing else changes. -/
theorem foldN_chipWideReach (c : Nat) (e : Carried) (n : Nat) (s : State) :
    foldN n (chipWideReach c e) s = { s with regions := (foldN n (chipWideReach c e) s).regions }
      ∧ ∀ q, (foldN n (chipWideReach c e) s).region q = if q < n then (s.region q).reached c e.stamp else s.region q := by
  refine region_foldN (F := chipWideReach c e) (G := fun _ _ R => R.reached c e.stamp) (fun q s => ?_) (fun q s r hr => ?_)
    (fun q s => ?_) n s
  all_goals unfold chipWideReach
  · split <;> rfl
  · split
    · rfl
    · exact State.region_onRegion_of_ne _ hr _
  · unfold Region.reached
    split
    · rfl
    · exact State.region_onRegion ..

theorem exec_chipWideDelivery (ch : Fin 16) (s : State) : exec (.chipWideDelivery ch) s = .next (chipWide ch s) := rfl

/-- The first arrival on a channel leaves its origin, shows in the channel's registers and reaches every region. -/
theorem chipWide_delivers (h : CarriedFirst c o e s) :
    chipWide c s = { s with
      regions := (chipWide c s).regions
      chip := s.chip.setPair (regAt Reg.CH_XEV_GT_L c 0) (regAt Reg.CH_XEV_GT_H c 0) e.stamp }
    ∧ ∀ q, (chipWide c s).region q = { s.region q with ev := { (s.region q).ev with
        xout := if q = o then (s.region o).ev.xout.eraseP (fun e => e.xev == c) else (s.region q).ev.xout
        fabric := (s.region q).ev.fabric ++ if q < 8 ∧ (s.region q).inReset = false then [⟨1 + c, e.stamp⟩] else [] } } := by
  obtain ⟨hstate, hregion⟩ := foldN_chipWideReach c e 8 (chipWideLeft c o e s)
  rw [← chipWide_of_first h] at hstate hregion
  refine ⟨hstate, fun q => ?_⟩
  rw [hregion, region_chipWideLeft, Region.reached_eq]
  by_cases ho : q = o
  · have hbelow := h.below
    subst ho
    simp [Region.sent, hbelow]
  · by_cases hq : q < 8 <;> simp [hq, ho]

theorem chipRegsBut_setPair (h : Chip) (lo hi : Nat) (v : BitVec 64) : ChipRegsBut [lo, hi] h (h.setPair lo hi v) :=
  fun a ha => by
    simp only [List.mem_cons, List.not_mem_nil, or_false, not_or] at ha
    rw [Chip.setPair, Chip.reg_setReg_of_ne _ ha.2, Chip.reg_setReg_of_ne _ ha.1]

/-! ## The statement -/

/-- Settles O17: `evTick_disabled`, `evTick_dropped` and `evTick_accepted` for a fire, `evActs_one_cells` and
`evActs_merged` for the edge after, `chipWide_delivers` for a chip-wide channel. -/
theorem eventChannels : Obligations.EventChannels := by
  refine ⟨⟨?fire, ?edge, ?acts, ?merged⟩, ?wide⟩
  case fire =>
    intro r n v s hl hn
    refine ⟨_, exec_evFire hl v, RegionBut.onRegion rfl fun _ _ => rfl, ?_⟩
    rw [State.region_onRegion, hn]
    rfl
  case edge =>
    rintro x n st R R' hwf rfl hfire
    obtain ⟨hrest, hfabric⟩ := evTick_fire_rest x hwf hfire
    refine ⟨hrest, hfabric, fun hoff => ?lost, fun hon hsoon => ?dropped, fun hon hdue => ?accepted⟩
    case lost =>
      rw [evTick_disabled x hwf hfire hoff]
      exact ⟨fun _ _ => rfl, rfl, rfl, rfl⟩
    case dropped =>
      rw [evTick_dropped x n.isLt hwf hfire hon hsoon]
      exact ⟨regsBut_setReg R.arrived _ _, rfl, rfl, rfl, Region.reg_count ..⟩
    case accepted =>
      rw [evTick_accepted x n.isLt hwf hfire hon hdue]
      refine ⟨regsBut_setReg R _ _, Region.reg_setReg R _ _, fun j => ?_, rfl, rfl⟩
      rw [evTaken_lastAcc, mapGet_mapSet]
  case acts =>
    intro x n st db R hreq hk
    rw [evActs_one_cells x n st db R hk]
    cases db with
    | none => rfl
    | some q => rw [requested, dbRequest_fresh (hreq q rfl)]
  case merged => exact fun x n m st su k R hn hm hk => evActs_merged x st su hn hm hk
  case wide =>
    intro ch o e s ho hfound hfirst
    have h : CarriedFirst ch o e s := ⟨ho, hfound, hfirst⟩
    obtain ⟨hstate, hregion⟩ := chipWide_delivers h
    have hne : regAt Reg.CH_XEV_GT_L ch 0 ≠ regAt Reg.CH_XEV_GT_H ch 0 := by
      simp only [regAt, Reg.CH_XEV_GT_L, Reg.CH_XEV_GT_H]
      omega
    have hchip := congrArg State.chip hstate
    refine ⟨_, exec_chipWideDelivery ch s, ⟨?_, ?_, ?_⟩, ?_, ?_, fun q => ?_⟩
    · rw [OnlyChip, hchip]
      exact hstate
    · rw [hchip]
      rfl
    · rw [hchip]
      exact chipRegsBut_setPair _ _ _ _
    · rw [State.chipReg, hchip, Chip.setPair, Chip.reg_setReg_of_ne _ hne, Chip.reg_setReg]
    · rw [State.chipReg, hchip, Chip.setPair, Chip.reg_setReg]
    · rw [hregion]
      exact ⟨rfl, rfl, rfl⟩

end Sys2Proof.Machine
end

section
/-!
PROOFS. The end of an interrupt (O18).
-/

namespace Sys2Proof.Machine

variable {q : Nat} {R : Region}

/-- An active bit that is cleared. -/
theorem icActive_clear (q j : Nat) (R : Region) :
    icActive j (setIcBit Reg.IC_ACT q false R) = (!decide (j = q) && icActive j R) := by
  rw [icActive, icBit_setIcBit rfl]
  by_cases h : j = q <;> simp [h, icActive]

/-- The line of a source does not depend on the registers from IC_PEND on. -/
theorem icLine_setReg {a : Nat} (ha : Reg.IC_PEND.base ≤ a) (hq : q < 4096) (v : Word) :
    icLine q (R.setReg a v) = icLine q R := by
  have hreg : ∀ b, b < Reg.IC_PEND.base → (R.setReg a v).reg b = R.reg b := fun b hb =>
    Region.reg_setReg_of_ne R (by omega) v
  have htrp : ∀ i, i < 4 → (R.setReg a v).trpAsserted i = R.trpAsserted i := fun i hi => by
    rw [Region.trpAsserted, Region.trpAsserted, Region.bit, Region.bit,
      hreg _ (by simp only [regAt, Reg.TM_TRP_CFG, Reg.IC_PEND]; omega)]
    rfl
  unfold icLine
  split
  next h => exact htrp _ (by omega)
  split
  next => rw [Region.bit, Region.bit, hreg _ (by decide)]
  split
  next h =>
    rw [Region.bit, Region.bit, hreg _ (by simp only [regAt, Reg.LP_BAND_STAT, Reg.IC_PEND]; omega)]
  split
  next h => rw [hreg _ (by simp only [regAt, Reg.FB_UN_ILL, Reg.IC_PEND]; omega)]
  split
  next => exact icBit_congr (hreg _ (by simp only [regAt, Reg.IC_LINE, Reg.IC_PEND]; omega))
  next => rfl

/-- The end of its active state leaves what decides whether a source pends again. -/
theorem repends_clear (hq : q < 4096) : (icLevel q (setIcBit Reg.IC_ACT q false R) && icLine q (setIcBit Reg.IC_ACT q false R))
    = (icLevel q R && icLine q R) := by
  have hlevel : icLevel q (setIcBit Reg.IC_ACT q false R) = icLevel q R := by
    rw [icLevel, icLevel, Region.bit, Region.bit,
      setIcBit_regsBut _ _ _ _ _ (by simp only [List.mem_singleton, icCfg, regAt, Reg.IC_SRC_CFG, Reg.IC_ACT]; omega)]
  rw [hlevel, setIcBit, Region.setBit, icLine_setReg (by simp only [regAt, Reg.IC_ACT, Reg.IC_PEND]; omega) hq]

theorem icEoi_inactive (h : icActive q R = false) : icEoi q R = R.count Reg.IC_EOIBAD.base := by
  rw [icEoi, h]
  rfl

theorem icEoi_active (h : icActive q R = true) (hq : q < 4096) : icEoi q R =
    if icLevel q R && icLine q R then setIcBit Reg.IC_PEND q true (setIcBit Reg.IC_ACT q false R)
    else setIcBit Reg.IC_ACT q false R := by
  rw [icEoi, if_pos h]
  simp only [repends_clear hq]

/-- What the end of an active source changes. -/
theorem icEoi_active_spec (h : icActive q R = true) (hq : q < 4096) :
    { icEoi q R with regs := [] } = { R with regs := [] }
      ∧ RegsBut [regAt Reg.IC_ACT (q / 32) 0, regAt Reg.IC_PEND (q / 32) 0] R (icEoi q R)
      ∧ (∀ j, j < 4096 → icActive j (icEoi q R) = (!decide (j = q) && icActive j R))
      ∧ ∀ j, j < 4096 → icPending j (icEoi q R) = (decide (j = q) && icLevel q R && icLine q R || icPending j R) := by
  have hact := setIcBit_regsBut Reg.IC_ACT q false R
  have hpend : ∀ j, j < 4096 → icPending j (setIcBit Reg.IC_ACT q false R) = icPending j R := fun j hj =>
    icBit_congr (hact _ (by simp only [List.mem_singleton, regAt, Reg.IC_PEND, Reg.IC_ACT]; omega))
  rw [icEoi_active h hq]
  cases hline : icLevel q R && icLine q R with
  | false =>
    refine ⟨rfl, hact.mono (by simp), fun j _ => icActive_clear q j R, fun j hj => ?_⟩
    rw [if_neg Bool.false_ne_true, hpend j hj, Bool.and_assoc, hline]
    simp
  | true =>
    rw [if_pos rfl]
    have hset := setIcBit_regsBut Reg.IC_PEND q true (setIcBit Reg.IC_ACT q false R)
    refine ⟨rfl, regsBut_trans hact hset (by simp) (by simp), fun j hj => ?_, fun j hj => ?_⟩
    · have hsame := hset (regAt Reg.IC_ACT (j / 32) 0)
        (by simp only [List.mem_singleton, regAt, Reg.IC_PEND, Reg.IC_ACT]; omega)
      exact (icBit_congr hsame).trans (icActive_clear q j R)
    · rw [icPending_set, hpend j hj, Bool.and_assoc, hline, Bool.and_true]

theorem exec_icEoi {r : RegionId} {s : State} (hl : Live r s) (v : Word) :
    exec (.icEoi r v) s = .next (s.onRegion r (fun _ R => icEoi (bitsOf v 11 0) R)) :=
  congrArg Host.Outcome.next (regionAccess_live hl _)

/-- A write of IC_EOI, from a cell or the host, completes the source that it names. -/
theorem region_writeReg_eoi {r : RegionId} {s : State} (hl : Live r s) (host : Bool) (v : Word) :
    ((s.writeReg host (some r.val) Reg.IC_EOI.base v).2).region r = icEoi (bitsOf v 11 0) (s.region r) := by
  have hnamed : isNamed Reg.IC_EOI.base = true := by decide
  have hcan : canonical Reg.IC_EOI.base = Reg.IC_EOI.base := by decide
  have hreach : accessFails Reg.IC_EOI.base (s.region r) = false := by
    rw [accessFails, hl.1, if_neg (by decide), hnamed]
    rfl
  have hunit : ∀ x R, unitWrite x host Reg.IC_EOI.base v R = icEoi (bitsOf v 11 0) R := fun _ _ => rfl
  simp only [State.writeReg, State.writeRegion, awake_live hl.2, regionWrite, hreach, hcan, hnamed, hunit]
  exact State.region_setRegion ..

/-- Settles O18: `icEoi_inactive` and `icEoi_active_spec` say what the two kinds of source meet. -/
theorem endOfInterrupt : Obligations.EndOfInterrupt := by
  rintro r v q R s hl rfl rfl
  have hq : bitsOf v 11 0 < 4096 := Nat.mod_lt _ (by decide)
  refine ⟨fun h => ⟨_, exec_icEoi hl v, ?_⟩, fun h => ⟨_, exec_icEoi hl v, ?_⟩, fun host => ⟨_, exec_icEoi hl v, ?_⟩⟩
  · beta_reduce
    rw [State.region_onRegion]
    refine ⟨RegionBut.onRegion ?_ ?_, ?_⟩ <;> rw [icEoi_inactive h]
    · rfl
    · exact regsBut_setReg _ _ _
    · rw [Region.reg_count]
  · obtain ⟨hrest, hregs, hact, hpend⟩ := icEoi_active_spec h hq
    rw [State.region_onRegion]
    exact ⟨RegionBut.onRegion hrest hregs, hact, hpend⟩
  · beta_reduce
    rw [region_writeReg_eoi hl, State.region_onRegion]

end Sys2Proof.Machine
end

section
/-!
PROOFS. Doorbell posts, delivery to a slot, and recall (O19).
-/

namespace Sys2Proof.Machine

variable {R : Region}

/-! ## Posts (R212, R213) -/

theorem icPost_rest (q : Nat) (R : Region) : icPost q R = { R with regs := (icPost q R).regs } := by
  unfold icPost
  split
  · rfl
  · split <;> rfl

theorem posted_icPost (q : Nat) (R : Region) : Posted q R (icPost q R) := by
  unfold Posted icPost
  split
  · exact ⟨Region.reg_count .., regsBut_setReg _ _ _⟩
  · split
    · exact ⟨Region.reg_count .., regsBut_setReg _ _ _⟩
    · exact ⟨setIcBit_regsBut _ _ _ _, fun j => icPending_set q j R⟩

theorem exec_icDoorbell {r : RegionId} {s : State} (hl : Live r s) (v : Word) :
    exec (.icDoorbell r v) s = .next (s.onRegion r (fun _ R => icPost (bitsOf v 11 0) R)) :=
  congrArg Host.Outcome.next (regionAccess_live hl _)

/-- The doorbells once the generator has handed over post bit `p`. -/
def postTaken (p : Nat) (R : Region) : Region :=
  { R with ev := { R.ev with post := R.ev.post.filter (fun k => k != p), postPtr := (p + 1) % 1024 } }

theorem dbAccept_of_first {p : Nat} {rest : List Nat}
    (h : R.ev.post.filter (fun k => R.ev.postPtr ≤ k) ++ R.ev.post = p :: rest) :
    dbAccept R = icPost p (postTaken p R) := by
  rw [dbAccept, h]
  rfl

theorem exec_generatorPost {r : RegionId} {s : State} (hl : Live r s) {p : Nat} {rest : List Nat}
    (h : (s.region r).ev.post.filter (fun k => (s.region r).ev.postPtr ≤ k) ++ (s.region r).ev.post = p :: rest) :
    exec (.generatorPost r) s = .next (s.onRegion r (fun _ R => dbAccept R)) := by
  have hpost : (s.region r).ev.post ≠ [] := fun hnil => by
    rw [hnil] at h
    cases h
  refine congrArg Host.Outcome.next ?_
  simp [generatorPost, hl.1, hpost, awake_live hl.2]

/-! ## The pending sources -/

/-- The sources whose pend bits an entry of the registers holds. -/
def pendRow (e : Nat × Word) : List Nat :=
  match regIdx Reg.IC_PEND e.1 with
  | some (w, _) => ((List.range 32).filter (fun j => e.2.getLsbD j)).map (fun j => 32 * w + j)
  | none => []

theorem icPendList_eq (R : Region) : icPendList R = R.regs.flatMap pendRow := rfl

theorem mem_pendRow {q : Nat} {e : Nat × Word} :
    q ∈ pendRow e ↔ q < 4096 ∧ e.1 = regAt Reg.IC_PEND (q / 32) 0 ∧ e.2.getLsbD (q % 32) = true := by
  unfold pendRow
  constructor
  · intro h
    split at h
    next w i hw =>
      obtain ⟨hkey, hlt, hi⟩ := regAt_of_regIdx hw
      obtain ⟨j, hj, rfl⟩ := List.mem_map.1 h
      rw [List.mem_filter, List.mem_range] at hj
      simp only [Reg.IC_PEND] at hlt hi
      obtain rfl : i = 0 := by omega
      rw [show (32 * w + j) / 32 = w by omega, show (32 * w + j) % 32 = j by omega]
      exact ⟨by omega, hkey, hj.2⟩
    next => cases h
  · rintro ⟨hq, hkey, hbit⟩
    rw [hkey, regIdx_regAt (by decide) (by decide) rfl (by simp only [Reg.IC_PEND]; omega)]
    refine List.mem_map.2 ⟨q % 32, List.mem_filter.2 ⟨List.mem_range.2 (Nat.mod_lt _ (by decide)), hbit⟩, ?_⟩
    exact Nat.div_add_mod q 32

theorem regionDefault_pend : ∀ w : Fin 128, regionDefault (regAt Reg.IC_PEND w 0) = 0 := by decide

/-- The list of pending sources holds each source that pends. -/
theorem mem_icPendList (hwf : mapWf regionDefault R.regs = true) {q : Nat} :
    q ∈ icPendList R ↔ q < 4096 ∧ icPending q R = true := by
  simp only [icPendList_eq, List.mem_flatMap, mem_pendRow]
  constructor
  · rintro ⟨e, he, hq, hkey, hbit⟩
    refine ⟨hq, ?_⟩
    rwa [icPending, icBit, Region.bit, Region.reg, ← hkey, mapGet_of_mem (mapWf_pairwise hwf) he]
  · rintro ⟨hq, hbit⟩
    refine ⟨(regAt Reg.IC_PEND (q / 32) 0, R.reg (regAt Reg.IC_PEND (q / 32) 0)), mem_of_mapGet_ne fun hzero => ?_,
      hq, rfl, hbit⟩
    rw [icPending, icBit, Region.bit, Region.reg, hzero, regionDefault_pend ⟨q / 32, by omega⟩] at hbit
    simp at hbit

/-- The pending sources are listed in rising order. -/
theorem icPendList_pairwise (hwf : mapWf regionDefault R.regs = true) : (icPendList R).Pairwise (· < ·) := by
  rw [icPendList_eq, List.pairwise_flatMap]
  refine ⟨fun e _ => ?_, (mapWf_pairwise hwf).imp fun {e c} hlt j hj k hk => ?_⟩
  · unfold pendRow
    split
    · exact (List.pairwise_lt_range.filter _).map _ fun a b hab => by omega
    · exact List.Pairwise.nil
  · obtain ⟨-, hkey, -⟩ := mem_pendRow.1 hj
    obtain ⟨-, hkey', -⟩ := mem_pendRow.1 hk
    simp only [regAt, Reg.IC_PEND] at hkey hkey'
    omega

/-! ## The choice of R214 -/

/-- The pending sources that are neither active nor delivered. -/
def icWaiting (R : Region) : List Nat := (icPendList R).filter (fun s => !icActive s R && !icDelivered s R)

/-- Those with their priorities, in the order in which they are tried. -/
def icRanked (R : Region) : List (Nat × Nat) :=
  (List.range 15).flatMap (fun k => ((icWaiting R).filter (fun s => icPrio s R == 15 - k)).map (fun s => (s, 15 - k)))

theorem icChoice_eq (R : Region) :
    icChoice R = (icRanked R).findSome? (fun e => (icSearch e.1 e.2 R).map (fun i => (e.1, i))) := rfl

theorem mem_icWaiting (hwf : mapWf regionDefault R.regs = true) {q : Nat} : q ∈ icWaiting R ↔
    q < 4096 ∧ icPending q R = true ∧ icActive q R = false ∧ icDelivered q R = false := by
  simp [icWaiting, mem_icPendList hwf, and_assoc]

theorem mem_icRanked {e : Nat × Nat} : e ∈ icRanked R ↔ e.1 ∈ icWaiting R ∧ icPrio e.1 R = e.2 ∧ e.2 ≠ 0 := by
  have hprio : icPrio e.1 R < 16 := Nat.mod_lt _ (by decide)
  simp only [icRanked, List.mem_flatMap, List.mem_range, List.mem_map, List.mem_filter, beq_iff_eq]
  constructor
  · rintro ⟨k, hk, q, ⟨hq, hp⟩, rfl⟩
    exact ⟨hq, hp, by simp only; omega⟩
  · rintro ⟨hq, hp, h0⟩
    exact ⟨15 - e.2, by omega, e.1, ⟨hq, by omega⟩, Prod.ext rfl (by simp only; omega)⟩

/-- The greater priority comes first, and the lesser number among equals. -/
def ranksBefore (e c : Nat × Nat) : Prop := c.2 < e.2 ∨ c.2 = e.2 ∧ e.1 < c.1

theorem icRanked_pairwise (hwf : mapWf regionDefault R.regs = true) : (icRanked R).Pairwise ranksBefore := by
  rw [icRanked, List.pairwise_flatMap]
  refine ⟨fun k _ => ?_, List.pairwise_lt_range.imp_of_mem fun {k l} hk hl hlt e he c hc => ?_⟩
  · exact (((icPendList_pairwise hwf).filter _).filter _).map _ fun a b hab => .inr ⟨rfl, hab⟩
  · obtain ⟨-, -, rfl⟩ := List.mem_map.1 he
    obtain ⟨-, -, rfl⟩ := List.mem_map.1 hc
    rw [List.mem_range] at hk hl
    exact .inl (by simp only; omega)

/-- The search from a source's pointer finds the first eligible cell. -/
theorem icSearch_first {q p d : Nat} (hd : d < 128)
    (hat : icEligible ((R.field (icCfg q) 22 16 + d) % 128) q p R = true)
    (hbefore : ∀ e, e < d → icEligible ((R.field (icCfg q) 22 16 + e) % 128) q p R = false) :
    icSearch q p R = some ((R.field (icCfg q) 22 16 + d) % 128) := by
  have hfind : (List.range 128).find? (fun j => icEligible ((R.field (icCfg q) 22 16 + j) % 128) q p R) = some d :=
    List.find?_range_eq_some.2 ⟨hat, List.mem_range.2 hd, fun e he => by rw [hbefore e he]; rfl⟩
  rw [icSearch, List.find?_map]
  exact congrArg (Option.map _) hfind

theorem icEligible_of_icSearch {q p i : Nat} (h : icSearch q p R = some i) : i < 128 ∧ icEligible i q p R = true := by
  have hfound : icEligible i q p R = true := List.find?_some (p := fun i => icEligible i q p R) h
  obtain ⟨j, -, rfl⟩ := List.mem_map.1 (List.mem_of_find?_eq_some h)
  exact ⟨Nat.mod_lt _ (by decide), hfound⟩

/-- In a list in order, what comes first among those that give something is found. -/
theorem findSome?_of_first {α β : Type} {lt : α → α → Prop} {l : List α} {f : α → Option β} {a : α} {b : β}
    (hl : l.Pairwise lt) (ha : a ∈ l) (hf : f a = some b) (hfirst : ∀ c ∈ l, lt c a → f c = none) :
    l.findSome? f = some b := by
  obtain ⟨before, after, rfl⟩ := List.append_of_mem ha
  obtain ⟨-, -, hlt⟩ := List.pairwise_append.1 hl
  refine List.findSome?_eq_some_iff.2 ⟨before, a, after, rfl, hf, fun c hc => ?_⟩
  exact hfirst c (List.mem_append_left _ hc) (hlt c hc a List.mem_cons_self)

theorem icPrio_ne_zero_of_eligible {i q p : Nat} (h : icEligible i q p R = true) : p ≠ 0 := by
  simp only [icEligible, icTarget, Bool.and_eq_true, bne_iff_ne] at h
  obtain ⟨⟨-, hp⟩, -⟩ := h
  exact hp

/-- Of the sources that wait and have an eligible cell, the greatest priority and then the least number is chosen. -/
theorem icChoice_of_greatest (hwf : mapWf regionDefault R.regs = true) {q i : Nat} (hq : q ∈ icWaiting R)
    (hi : icSearch q (icPrio q R) R = some i)
    (hmax : ∀ j k, j ∈ icWaiting R → k < 128 → icEligible k j (icPrio j R) R = true →
      icPrio j R < icPrio q R ∨ (icPrio j R = icPrio q R ∧ q ≤ j)) : icChoice R = some (q, i) := by
  have hranked : (q, icPrio q R) ∈ icRanked R :=
    mem_icRanked.2 ⟨hq, rfl, icPrio_ne_zero_of_eligible (icEligible_of_icSearch hi).2⟩
  rw [icChoice_eq]
  refine findSome?_of_first (icRanked_pairwise hwf) hranked (by rw [hi]; rfl) fun c hc hbefore => ?_
  obtain ⟨hwaits, hprio, -⟩ := mem_icRanked.1 hc
  cases hsearch : icSearch c.1 c.2 R with
  | none => rfl
  | some k =>
    obtain ⟨hk, helig⟩ := icEligible_of_icSearch hsearch
    have hle := hmax c.1 k hwaits hk (hprio ▸ helig)
    simp only [ranksBefore] at hbefore
    omega

/-! ## Slots (R214, R215) -/

/-- A region with its slots and registers blanked out. -/
def Region.unslotted (R : Region) : Region := { R with regs := [], ev := { R.ev with slots := [] } }

/-- Nothing but slots and the registers `l` differs. -/
structure SlotsAndRegs (l : List Nat) (R R' : Region) : Prop where
  rest : R'.unslotted = R.unslotted
  regs : RegsBut l R R'

theorem SlotsAndRegs.setReg {l : List Nat} {R R' : Region} (h : SlotsAndRegs l R R') {a : Nat} (ha : a ∈ l) (v : Word) :
    SlotsAndRegs l R (R'.setReg a v) :=
  ⟨h.rest, regsBut_trans h.regs (regsBut_setReg R' a v) (List.Subset.refl l) (by simpa using ha)⟩

theorem SlotsAndRegs.setIcSlot {l : List Nat} {R R' : Region} (h : SlotsAndRegs l R R') (i p : Nat) (v : Option Nat) :
    SlotsAndRegs l R (setIcSlot i p v R') := ⟨h.rest, h.regs⟩

theorem SlotsAndRegs.refl (l : List Nat) (R : Region) : SlotsAndRegs l R R := ⟨rfl, fun _ _ => rfl⟩

theorem pend_ne_held {q i : Nat} (hq : q < 4096) : regAt Reg.IC_PEND (q / 32) 0 ≠ regAt Reg.IC_HELD i 0 := by
  simp only [regAt, Reg.IC_PEND, Reg.IC_HELD]
  omega

theorem pend_ne_cfg {q j : Nat} (hq : q < 4096) : regAt Reg.IC_PEND (q / 32) 0 ≠ icCfg j := by
  simp only [icCfg, regAt, Reg.IC_PEND, Reg.IC_SRC_CFG]
  omega

theorem held_ne_cfg {i j : Nat} (hi : i < 128) : regAt Reg.IC_HELD i 0 ≠ icCfg j := by
  simp only [icCfg, regAt, Reg.IC_HELD, Reg.IC_SRC_CFG]
  omega

/-- The region with source `q` in the slot of its priority at cell `i`, its cell and pointer not yet kept. -/
def icSlotted (q i : Nat) (R : Region) : Region :=
  setHeld i (icPrio q R) true (setIcSlot i (icPrio q R) (some q) (setIcBit Reg.IC_PEND q false R))

theorem icSlotted_leaves {q i : Nat} {l : List Nat} (hp : regAt Reg.IC_PEND (q / 32) 0 ∈ l) (hh : regAt Reg.IC_HELD i 0 ∈ l)
    (R : Region) : SlotsAndRegs l R (icSlotted q i R) :=
  (((SlotsAndRegs.refl l R).setReg hp _).setIcSlot i _ _).setReg hh _

@[simp] theorem icSlotted_slots (q i : Nat) (R : Region) :
    (icSlotted q i R).ev.slots = mapSet noneAt R.ev.slots (16 * i + icPrio q R) (some q) := rfl

theorem icSlotted_pending {q j : Nat} (hj : j < 4096) (i : Nat) (R : Region) :
    icPending j (icSlotted q i R) = (!decide (j = q) && icPending j R) :=
  (icBit_congr (Region.reg_setBit_of_ne _ (pend_ne_held hj) _ _)).trans (icPending_clear q j R)

theorem icSlotted_held {q : Nat} (hq : q < 4096) (i : Nat) (R : Region) :
    (icSlotted q i R).reg (regAt Reg.IC_HELD i 0) = setBit (R.reg (regAt Reg.IC_HELD i 0)) (icPrio q R) true := by
  have hsame : (setIcSlot i (icPrio q R) (some q) (setIcBit Reg.IC_PEND q false R)).reg (regAt Reg.IC_HELD i 0)
      = R.reg (regAt Reg.IC_HELD i 0) := Region.reg_setBit_of_ne R (pend_ne_held hq).symm _ _
  rw [icSlotted, setHeld, Region.reg_setBit, hsame]

/-- A delivery keeps the cell and the pointer behind it in the source's register. -/
theorem icDeliver_eq (q i : Nat) (R : Region) : icDeliver q i R =
    ((icSlotted q i R).setField (icCfg q) 31 25 i).setField (icCfg q) 22 16 ((i + 1) % 128) := rfl

/-- A delivery, as it changes the registers and the slots. -/
theorem icDeliver_spec {q i : Nat} (hq : q < 4096) (hi : i < 128) (R : Region) :
    SlotsAndRegs [regAt Reg.IC_PEND (q / 32) 0, regAt Reg.IC_HELD i 0, icCfg q] R (icDeliver q i R)
      ∧ (∀ j, j < 4096 → icPending j (icDeliver q i R) = (!decide (j = q) && icPending j R))
      ∧ (icDeliver q i R).ev.slots = mapSet noneAt R.ev.slots (16 * i + icPrio q R) (some q)
      ∧ (icDeliver q i R).reg (regAt Reg.IC_HELD i 0) = setBit (R.reg (regAt Reg.IC_HELD i 0)) (icPrio q R) true
      ∧ (icDeliver q i R).reg (icCfg q) = setBits (setBits (R.reg (icCfg q)) 31 25 i) 22 16 ((i + 1) % 128) := by
  have hslotted : RegsBut [regAt Reg.IC_PEND (q / 32) 0, regAt Reg.IC_HELD i 0] R (icSlotted q i R) :=
    (icSlotted_leaves (by simp) (by simp) R).regs
  have hkept : ∀ a, a ≠ icCfg q → (icDeliver q i R).reg a = (icSlotted q i R).reg a := fun a ha => by
    rw [icDeliver_eq, Region.reg_setField_of_ne _ ha, Region.reg_setField_of_ne _ ha]
  refine ⟨?_, fun j hj => ?_, ?_, ?_, ?_⟩
  · rw [icDeliver_eq]
    exact ((icSlotted_leaves (by simp) (by simp) R).setReg (by simp) _).setReg (by simp) _
  · rw [icPending, icBit_congr (hkept _ (pend_ne_cfg hj))]
    exact icSlotted_pending hj i R
  · rw [icDeliver_eq, Region.setField_ev, Region.setField_ev, icSlotted_slots]
  · rw [hkept _ (held_ne_cfg hi), icSlotted_held hq]
  · rw [icDeliver_eq, Region.reg_setField, Region.reg_setField,
      hslotted _ (by simp [(pend_ne_cfg hq).symm, (held_ne_cfg hi).symm])]

/-- A source that its cell is no longer a target of leaves the slot and pends again. -/
def icRecalled (q i p : Nat) (R : Region) : Region :=
  setIcBit Reg.IC_PEND q true (setHeld i p false (setIcSlot i p none R))

theorem icRecall_of_stale {q i p : Nat} (hs : icSlot i p R = some q) (ht : icTarget i q p R = false) :
    icRecall i p R = icRecalled q i p R := by
  rw [icRecall, hs]
  exact if_neg (by rw [ht]; exact Bool.false_ne_true)

theorem icRecalled_spec {q i : Nat} (hq : q < 4096) (p : Nat) (R : Region) :
    SlotsAndRegs [regAt Reg.IC_PEND (q / 32) 0, regAt Reg.IC_HELD i 0] R (icRecalled q i p R)
      ∧ (∀ j, j < 4096 → icPending j (icRecalled q i p R) = (decide (j = q) || icPending j R))
      ∧ (icRecalled q i p R).ev.slots = mapSet noneAt R.ev.slots (16 * i + p) none
      ∧ (icRecalled q i p R).reg (regAt Reg.IC_HELD i 0) = setBit (R.reg (regAt Reg.IC_HELD i 0)) p false := by
  have hheld : ∀ a, a ≠ regAt Reg.IC_HELD i 0 → (setHeld i p false (setIcSlot i p none R)).reg a = R.reg a := fun a ha =>
    Region.reg_setBit_of_ne _ ha _ _
  refine ⟨?_, fun j hj => ?_, rfl, ?_⟩
  · exact (((SlotsAndRegs.refl _ R).setIcSlot i p none).setReg (by simp) _).setReg (by simp) _
  · rw [icRecalled, icPending_set, icPending, icBit_congr (hheld _ (pend_ne_held hj)), icPending]
  · rw [icRecalled, setIcBit_regsBut _ _ _ _ _ (by simpa using (pend_ne_held hq).symm)]
    exact Region.reg_setBit ..

/-! ## The statement -/

theorem exec_delivery {r : RegionId} {s : State} (hl : Live r s) :
    exec (.delivery r) s = .next (s.onRegion r (fun _ R => icCycle R)) :=
  congrArg Host.Outcome.next (regionEvent_live hl _)

theorem exec_recallSlot {r : RegionId} {s : State} (hl : Live r s) (i : Fin 128) (p : Fin 16) :
    exec (.recallSlot r i p) s = .next (s.onRegion r (fun _ R => icRecall i p R)) :=
  congrArg Host.Outcome.next (regionEvent_live hl _)

theorem icCycle_of_choice {q i : Nat} (h : icChoice R = some (q, i)) : icCycle R = icDeliver q i R := by
  rw [icCycle, h]

/-- Settles O19: `posted_icPost` for the posts, `icChoice_of_greatest` for what is delivered, and what
`icDeliver` and `icRecalled` change. -/
theorem interruptDelivery : Obligations.InterruptDelivery := by
  refine ⟨?posts, ?slots⟩
  case posts =>
    rintro r v R s hl rfl
    refine ⟨⟨_, exec_icDoorbell hl v, OnlyRegion.onRegion .., ?_⟩, fun p rest hfirst =>
      ⟨_, exec_generatorPost hl hfirst, OnlyRegion.onRegion .., ?_⟩⟩
    · rw [State.region_onRegion]
      exact ⟨icPost_rest .., posted_icPost ..⟩
    · rw [State.region_onRegion, dbAccept_of_first hfirst]
      exact ⟨icPost_rest p (postTaken p (s.region r)), posted_icPost p (postTaken p (s.region r))⟩
  case slots =>
    rintro r R s hl rfl hwf
    refine ⟨?delivered, ?recalled⟩
    case delivered =>
      rintro q p i d hq rfl rfl hd hpend hact hdel helig hbefore hmax
      have hchoice := icChoice_of_greatest hwf ((mem_icWaiting hwf).2 ⟨hq, hpend, hact, hdel⟩)
        (icSearch_first hd helig hbefore) fun j k hj hk he => by
          obtain ⟨hj, hjp, hja, hjd⟩ := (mem_icWaiting hwf).1 hj
          exact hmax j k hj hk hjp hja hjd he
      obtain ⟨⟨hrest, hregs⟩, hpending, hslots, hheld, hcfg⟩ := icDeliver_spec hq (Nat.mod_lt _ (by decide)) (s.region r)
      rw [← icCycle_of_choice hchoice] at hrest hregs hpending hslots hheld hcfg
      refine ⟨_, exec_delivery hl, RegionBut.onRegion hrest hregs, ?_⟩
      rw [State.region_onRegion, hslots]
      exact ⟨hpending, fun k => mapGet_mapSet .., hheld, hcfg⟩
    case recalled =>
      rintro i p q hq hslot hstale
      obtain ⟨⟨hrest, hregs⟩, hpending, hslots, hheld⟩ := icRecalled_spec (i := i) hq p (s.region r)
      rw [← icRecall_of_stale hslot hstale] at hrest hregs hpending hslots hheld
      refine ⟨_, exec_recallSlot hl i p, RegionBut.onRegion hrest hregs, ?_⟩
      rw [State.region_onRegion, hslots]
      exact ⟨hpending, fun k => mapGet_mapSet .., hheld⟩

end Sys2Proof.Machine
end

section
/-!
PROOFS. MSI-X messages (O20).
-/

namespace Sys2Proof.Machine

variable {v : Nat} {s : State}

theorem chipRegsBut_setReg (h : Chip) (a : Nat) (w : Word) : ChipRegsBut [a] h (h.setReg a w) := fun _ hb =>
  Chip.reg_setReg_of_ne h (by simpa using hb) w

/-- A change of one chip register, beside which the state is `s`. -/
theorem ChipRegs.setReg (s : State) (a : Nat) (w : Word) : ChipRegs [a] s { s with chip := s.chip.setReg a w } :=
  ⟨rfl, rfl, chipRegsBut_setReg _ _ _⟩

theorem Chip.reg_count (h : Chip) (a : Nat) : (h.count a).reg a = satAdd 0xFFFF (h.reg a) 1 := Chip.reg_setReg ..

/-- A pending bit reads as it was written, and every other one is as before. -/
theorem msixPending_setMsixPending (j v : Nat) (b : Bool) (h : Chip) :
    msixPending j (setMsixPending v b h) = if j = v then b else msixPending j h := by
  have hj : j % 32 < 32 := Nat.mod_lt _ (by decide)
  by_cases hw : j / 32 = v / 32
  · rw [msixPending, setMsixPending, hw, Chip.reg_setReg, getLsbD_setBit _ _ _ hj, msixPending, hw]
    simp [show j % 32 = v % 32 ↔ j = v by omega]
  · have hne : regAt Reg.CH_MSIX_PBA (j / 32) 0 ≠ regAt Reg.CH_MSIX_PBA (v / 32) 0 := by
      simp only [regAt, Reg.CH_MSIX_PBA]
      omega
    rw [if_neg (fun h => hw (by rw [h])), msixPending, setMsixPending, Chip.reg_setReg_of_ne _ hne, msixPending]

/-! ## What a doorbell meets (R222) -/

theorem msixRaise_disabled (h : s.chip.msixEnable = false) :
    msixRaise v s = { s with chip := s.chip.count Reg.CH_MSIXDROP.base } := by
  rw [msixRaise, h]
  rfl

theorem msixRaise_pending (he : s.chip.msixEnable = true) (hp : msixPending v s.chip = true) :
    msixRaise v s = { s with chip := s.chip.count Reg.CH_MSIXCOAL.base } := by
  rw [msixRaise, he, hp]
  rfl

theorem msixRaise_masked (he : s.chip.msixEnable = true) (hp : msixPending v s.chip = false)
    (hm : msixMasked v s.chip = true) : msixRaise v s = { s with chip := setMsixPending v true s.chip } := by
  rw [msixRaise, he, hp, hm]
  rfl

theorem msixRaise_sent (he : s.chip.msixEnable = true) (hp : msixPending v s.chip = false)
    (hm : msixMasked v s.chip = false) : msixRaise v s = msixMessage v s := by
  rw [msixRaise, he, hp, hm]
  rfl

theorem msixSend_due (he : s.chip.msixEnable = true) (hp : msixPending v s.chip = true)
    (hm : msixMasked v s.chip = false) :
    msixSend v s = { msixMessage v s with chip := setMsixPending v false s.chip } := by
  rw [msixSend, he, hp, hm]
  rfl

theorem exec_msixDoorbell (w : Word) (s : State) : exec (.msixDoorbell w) s = .next (msixRaise (bitsOf w 5 0) s) := rfl

theorem exec_msixSend (v : Fin 64) (s : State) : exec (.msixSend v) s = .next (msixSend v s) := rfl

/-- Settles O20: one case of `msixRaise` each, and `msixSend_due`. -/
theorem messageInterrupts : Obligations.MessageInterrupts := by
  rintro vec v m s hvec rfl
  refine ⟨fun he => ?dropped, fun he hp => ?merged, fun he hp hm => ?left, fun he hp hm => ?sent, fun he hp hm => ?later⟩
  case dropped =>
    refine ⟨_, (exec_msixDoorbell v s).trans (congrArg _ (msixRaise_disabled he)), ?_, Chip.reg_count _ _⟩
    exact ChipRegs.setReg s _ _
  case merged =>
    rw [← hvec] at hp
    refine ⟨_, (exec_msixDoorbell v s).trans (congrArg _ (msixRaise_pending he hp)), ?_, Chip.reg_count _ _⟩
    exact ChipRegs.setReg s _ _
  case left =>
    rw [← hvec] at hp hm ⊢
    refine ⟨_, (exec_msixDoorbell v s).trans (congrArg _ (msixRaise_masked he hp hm)), ChipRegs.setReg s _ _, fun j => ?_⟩
    rw [msixPending_setMsixPending]
    by_cases h : j = bitsOf v 5 0 <;> simp [h]
  case sent =>
    rw [← hvec] at hp hm ⊢
    exact ⟨_, (exec_msixDoorbell v s).trans (congrArg _ (msixRaise_sent he hp hm)), rfl⟩
  case later =>
    refine ⟨_, (exec_msixSend vec s).trans (congrArg _ (msixSend_due he hp hm)), ?_, fun j => ?_⟩
    · exact ⟨rfl, rfl, chipRegsBut_setReg _ _ _⟩
    · rw [msixPending_setMsixPending]
      by_cases h : j = vec.val <;> simp [h]

end Sys2Proof.Machine
end

section
/-!
PROOFS. Calibration and probe (O24): a slice that the calibration after reset retires is recorded, and the record takes
free values (R433, log 42).
-/

namespace Sys2Proof.Machine

/-- A region in L0 whose calibration after reset runs and whose slice 0 was last found out of range. -/
def sliceFailing : Region := { regionInit with inReset := false, regs := [(Reg.AD_STAT.base, 1), (sliceAt 0, 0x100)] }

def sliceFailingState : State := State.reset.setRegion 0 sliceFailing

theorem live_sliceFailingState : Live 0 sliceFailingState := ⟨by decide, by decide⟩

/-- The record of the retirement takes its words from the free values. -/
theorem sliceFailing_recorded : (calibrationEnds 0 0 false sliceFailingState).free = calWords := by decide

/-- Refutes O24: slice 0, out of range a second time in the calibration after reset, is retired and recorded; the record
takes 18 free values, which the statement's frame leaves alone. -/
theorem not_calibrationAndProbe : ¬ Obligations.CalibrationAndProbe := by
  unfold Obligations.CalibrationAndProbe
  rintro ⟨hcal, -⟩
  obtain ⟨-, -, hretires, -⟩ := hcal 0 _ sliceFailingState live_sliceFailingState rfl
  obtain ⟨t, ht, hframe, -⟩ := hretires 0 (by decide) (by decide) (by decide) (by decide) (by decide)
  obtain rfl : calibrationEnds 0 0 false sliceFailingState = t := by
    rw [show exec (.calibrationComplete 0 0 false) sliceFailingState
      = .next (calibrationEnds 0 0 false sliceFailingState) from rfl] at ht
    injection ht
  have hfree := congrArg State.free hframe.only.1
  exact absurd (sliceFailing_recorded.symm.trans hfree) (by decide)

end Sys2Proof.Machine
end

section
/-!
PROOFS. Laws that sample groups, accumulators and trackers share: what a change of a region leaves, parts of a word,
plain writes, and the addresses of the converter's registers.
-/

namespace Sys2Proof.Machine

/-! ## What a change of a region leaves alone -/

/-- From `R` to `R'` nothing changes but the registers `l` and what `but` blanks out. -/
structure Leaves (but : Region → Region) (l : List Nat) (R R' : Region) : Prop where
  rest : but { R' with regs := [] } = but { R with regs := [] }
  regs : RegsBut l R R'

namespace Leaves

variable {but : Region → Region} {l : List Nat} {R R' R'' : Region}

theorem refl (but : Region → Region) (l : List Nat) (R : Region) : Leaves but l R R := ⟨rfl, fun _ _ => rfl⟩

theorem trans (h : Leaves but l R R') (h' : Leaves but l R' R'') : Leaves but l R R'' :=
  ⟨h'.rest.trans h.rest, regsBut_trans h.regs h'.regs (List.Subset.refl l) (List.Subset.refl l)⟩

theorem mono {m : List Nat} (h : Leaves but l R R') (hl : l ⊆ m) : Leaves but m R R' := ⟨h.rest, h.regs.mono hl⟩

/-- A change of parts that `but` blanks out. -/
theorem of_regs (hrest : but { R' with regs := [] } = but { R with regs := [] }) (hregs : R'.regs = R.regs) :
    Leaves but l R R' := ⟨hrest, fun a _ => by rw [Region.reg, Region.reg, hregs]⟩

theorem setReg (h : Leaves but l R R') {a : Nat} (ha : a ∈ l) (v : Word) : Leaves but l R (R'.setReg a v) :=
  h.trans ⟨rfl, (regsBut_setReg R' a v).mono (by simpa using ha)⟩

theorem setField (h : Leaves but l R R') {a : Nat} (ha : a ∈ l) (hi lo v : Nat) :
    Leaves but l R (R'.setField a hi lo v) := h.setReg ha _

theorem setBit (h : Leaves but l R R') {a : Nat} (ha : a ∈ l) (i : Nat) (b : Bool) : Leaves but l R (R'.setBit a i b) :=
  h.setReg ha _

theorem setPair (h : Leaves but l R R') {lo hi : Nat} (hlo : lo ∈ l) (hhi : hi ∈ l) (v : BitVec 64) :
    Leaves but l R (R'.setPair lo hi v) := (h.setReg hlo _).setReg hhi _

theorem onRegion {s : State} {r : Nat} {f : Ctx → Region → Region}
    (h : Leaves but l (s.region r) (f (s.ctx r) (s.region r))) : RegionBut but l r s (s.onRegion r f) :=
  RegionBut.onRegion h.rest h.regs

end Leaves

/-! ## Parts of a word -/

theorem testBit_bitsOf {n : Nat} (x : BitVec n) (hi lo j : Nat) :
    (bitsOf x hi lo).testBit j = (decide (j < hi + 1 - lo) && x.getLsbD (lo + j)) := by
  rw [bitsOf, Nat.testBit_mod_two_pow, Nat.testBit_shiftRight, BitVec.getLsbD]

/-- A field depends on its own bits. -/
theorem bitsOf_congr {x y : Word} {hi lo : Nat} (h : ∀ j, lo ≤ j → j ≤ hi → x.getLsbD j = y.getLsbD j) :
    bitsOf x hi lo = bitsOf y hi lo := by
  refine Nat.eq_of_testBit_eq fun j => ?_
  rw [testBit_bitsOf, testBit_bitsOf]
  by_cases hj : j < hi + 1 - lo
  · rw [h _ (by omega) (by omega)]
  · simp [hj]

/-- Two words with one field have its bits in common. -/
theorem getLsbD_of_bitsOf {x y : Word} {hi lo j : Nat} (h : bitsOf x hi lo = bitsOf y hi lo) (hlo : lo ≤ j) (hhi : j ≤ hi) :
    x.getLsbD j = y.getLsbD j := by
  have := congrArg (fun n => n.testBit (j - lo)) h
  simpa [testBit_bitsOf, show j - lo < hi + 1 - lo by omega, show lo + (j - lo) = j by omega] using this

/-- A field that was set to zero reads zero. -/
theorem bitsOf_setBits_zero (x : Word) {hi lo : Nat} (h : hi < 32) : bitsOf (setBits x hi lo 0) hi lo = 0 := by
  refine Nat.eq_of_testBit_eq fun j => ?_
  rw [testBit_bitsOf, Nat.zero_testBit]
  by_cases hj : j < hi + 1 - lo
  · rw [getLsbD_setBits _ _ _ _ (by omega), if_pos (by omega), Nat.zero_testBit, Bool.and_false]
  · simp [hj]

/-- A bit beyond a field does not change it. -/
theorem bitsOf_setBit_of_lt (x : Word) {hi lo i : Nat} (h : hi < i) (hi' : i < 32) (b : Bool) :
    bitsOf (setBit x i b) hi lo = bitsOf x hi lo :=
  bitsOf_congr fun j _ hj => by rw [getLsbD_setBit _ _ _ (by omega), if_neg (by omega)]

/-- A field that a write mask covers takes the value written. -/
theorem bitsOf_maskWrite {m : Nat} {hi lo : Nat} (h : ∀ j, lo ≤ j → j ≤ hi → m.testBit j = true) (hhi : hi < 32)
    (old v : Word) : bitsOf (maskWrite m old v) hi lo = bitsOf v hi lo :=
  bitsOf_congr fun j hlo hj => by
    have hm : (BitVec.ofNat 32 m).getLsbD j = true := by
      rw [BitVec.getLsbD_ofNat, h j hlo hj, decide_eq_true (by omega : j < 32), Bool.true_and]
    rw [maskWrite, BitVec.getLsbD_or, BitVec.getLsbD_and, BitVec.getLsbD_and, BitVec.getLsbD_not, hm, Bool.not_true,
      Bool.and_false, Bool.and_false, Bool.false_or, Bool.and_true]

/-! ## Plain writes -/

theorem plainWrite_leaves (but : Region → Region) (a : Nat) (v : Word) (R : Region) : Leaves but [a] R (plainWrite a v R) := by
  unfold plainWrite
  split
  · exact (Leaves.refl ..).setReg (by simp) _
  · exact Leaves.refl ..

/-- A plain write changes registers only. -/
theorem plainWrite_eq (a : Nat) (v : Word) (R : Region) : plainWrite a v R = { R with regs := (plainWrite a v R).regs } := by
  unfold plainWrite
  split <;> rfl

@[simp] theorem plainWrite_adc (a : Nat) (v : Word) (R : Region) : (plainWrite a v R).adc = R.adc := by rw [plainWrite_eq]
@[simp] theorem plainWrite_ev (a : Nat) (v : Word) (R : Region) : (plainWrite a v R).ev = R.ev := by rw [plainWrite_eq]

/-! ## Updates of the converter group -/

@[simp] theorem Region.putAdc_reg (R : Region) (f : Adc → Adc) (a : Nat) : (R.putAdc f).reg a = R.reg a := rfl
@[simp] theorem accSum_setBit (a b i : Nat) (v : Bool) (R : Region) : accSum a (R.setBit b i v) = accSum a R := rfl

theorem Region.tracker_setTracker (R : Region) (t j : Nat) (v : Tracker) :
    (R.setTracker t v).tracker j = if j = t then v else R.tracker j := mapGet_mapSet ..

theorem plainWrite_tracker (a : Nat) (v : Word) (R : Region) (t : Nat) : (plainWrite a v R).tracker t = R.tracker t := by
  rw [Region.tracker, plainWrite_adc, Region.tracker]

theorem pairVal_congr {R R' : Region} {lo hi : Nat} (hlo : R'.reg lo = R.reg lo) (hhi : R'.reg hi = R.reg hi) :
    R'.pairVal lo hi = R.pairVal lo hi := by rw [Region.pairVal, hlo, hhi, Region.pairVal]

/-! ## Addresses -/

/-- The register blocks of the accumulators, the diagnostic one behind the others, stand in one row. -/
theorem accBase_eq (a : Nat) : accBase a = 0x11000 + 0x20 * a := by
  unfold accBase regAt
  split
  · simp only [Reg.AD_DIAG_CFG]; omega
  · simp only [Reg.AD_CH_ACC_CFG]; omega

theorem accBase_channel (ch : Fin 16) (k : Fin 4) : accBase (4 * ch + k) = regAt Reg.AD_CH_ACC_CFG ch k := by
  rw [accBase, if_neg (by omega), show (4 * ch.val + k) / 4 = ch by omega, show (4 * ch.val + k) % 4 = k by omega]

theorem trkBase_eq (t : Nat) : trkBase t = 0x12000 + 0x40 * t := by
  simp only [trkBase, regAt, Reg.AD_CH_TRK_CFG]
  omega

theorem trkBase_channel (ch k : Nat) (hk : k < 2) : trkBase (2 * ch + k) = regAt Reg.AD_CH_TRK_CFG ch k := by
  rw [trkBase, show (2 * ch + k) / 2 = ch by omega, show (2 * ch + k) % 2 = k by omega]

end Sys2Proof.Machine
end

section
/-!
PROOFS. Reads, configurations and restarts of accumulators and trackers (O23).
-/

namespace Sys2Proof.Machine

/-! ## Accumulators (R235 to R237) -/

/-- A region without its partial sums. -/
def Region.noSum (R : Region) : Region := { R with adc := { R.adc with sum := [] } }

theorem accClear_leaves (a : Nat) (R : Region) : Leaves Region.noSum [accStatAt a] R (accClear a R) := by
  have hsum : Leaves Region.noSum [accStatAt a] R (R.putAdc (fun d => { d with sum := mapSet (fun _ => 0) d.sum a 0 })) :=
    Leaves.of_regs rfl rfl
  exact hsum.setField (by simp) 7 0 0

theorem accClear_stat (a : Nat) (R : Region) : (accClear a R).reg (accStatAt a) = setBits (R.reg (accStatAt a)) 7 0 0 :=
  Region.reg_setField ..

theorem accClear_sum (a j : Nat) (R : Region) : accSum j (accClear a R) = if j = a then 0 else accSum j R :=
  mapGet_mapSet (fun _ => 0) R.adc.sum a j 0

theorem accStat_ne_base (a : Nat) : accStatAt a ≠ accBase a := by unfold accStatAt; omega

theorem accClear_base (a : Nat) (R : Region) : (accClear a R).reg (accBase a) = R.reg (accBase a) :=
  (accClear_leaves a R).regs _ (by simpa using (accStat_ne_base a).symm)

theorem regionReg_accCfg : ∀ (ch : Fin 16) (k : Fin 4), regionReg (regAt Reg.AD_CH_ACC_CFG ch k) = some Reg.AD_CH_ACC_CFG := by
  decide +kernel

/-- The configuration of an accumulator, as a write leaves it. -/
def accCfgPut (a : Nat) (v : Word) (R : Region) : Region :=
  R.setReg (accBase a) (maskWrite Reg.AD_CH_ACC_CFG.mask (R.reg (accBase a)) v)

theorem plainWrite_accCfg (ch : Fin 16) (k : Fin 4) (v : Word) :
    plainWrite (regAt Reg.AD_CH_ACC_CFG ch k) v = accCfgPut (4 * ch + k) v := by
  funext R
  rw [plainWrite, regionReg_accCfg, accCfgPut, accBase_channel]

theorem accCfgWrite_eq (a : Nat) (plain : Region → Region) (R : Region) : accCfgWrite a plain R
    = (accClear a (plain R)).setBit (accStatAt a) 16 (accMode a (accClear a (plain R)) == 2
      || (accMode a (accClear a (plain R)) == 1 && accMode a R == 1 && accRun a R)) := rfl

theorem accCfg_mode_writable : ∀ j, 30 ≤ j → j ≤ 31 → Nat.testBit Reg.AD_CH_ACC_CFG.mask j = true := by decide

theorem accMode_accCfgPut (a : Nat) (v : Word) (R : Region) : accMode a (accClear a (accCfgPut a v R)) = bitsOf v 31 30 := by
  rw [accMode, Region.field, accClear_base, accCfgPut, Region.reg_setReg]
  exact bitsOf_maskWrite accCfg_mode_writable (by decide) _ _

theorem accCfgWrite_spec (a : Nat) (v : Word) (R : Region) :
    Leaves Region.noSum [accBase a, accStatAt a] R (accCfgWrite a (accCfgPut a v) R)
      ∧ (accCfgWrite a (accCfgPut a v) R).reg (accBase a) = maskWrite Reg.AD_CH_ACC_CFG.mask (R.reg (accBase a)) v
      ∧ (∀ j, accSum j (accCfgWrite a (accCfgPut a v) R) = if j = a then 0 else accSum j R)
      ∧ (accCfgWrite a (accCfgPut a v) R).reg (accStatAt a) = setBit (setBits (R.reg (accStatAt a)) 7 0 0) 16
          (bitsOf v 31 30 == 2 || (bitsOf v 31 30 == 1 && accMode a R == 1 && accRun a R)) := by
  have hput : Leaves Region.noSum [accBase a, accStatAt a] R (accCfgPut a v R) := (Leaves.refl ..).setReg (by simp) _
  rw [accCfgWrite_eq, accMode_accCfgPut]
  refine ⟨(hput.trans ((accClear_leaves _ _).mono (by simp))).setBit (by simp) _ _, ?_, fun j => ?_, ?_⟩
  · rw [Region.reg_setBit_of_ne _ (accStat_ne_base a).symm, accClear_base, accCfgPut, Region.reg_setReg]
  · rw [accSum_setBit, accClear_sum]
    rfl
  · rw [Region.reg_setBit, accClear_stat, accCfgPut, Region.reg_setReg_of_ne _ (accStat_ne_base a)]

/-- The status that a write of the configuration leaves: the count restarts, RUN is as given, the rest stays. -/
theorem accStat_restarted (x : Word) (b : Bool) : bitsOf (setBit (setBits x 7 0 0) 16 b) 7 0 = 0
    ∧ (setBit (setBits x 7 0 0) 16 b).getLsbD 16 = b ∧ (setBit (setBits x 7 0 0) 16 b).getLsbD 17 = x.getLsbD 17 := by
  refine ⟨?_, ?_, ?_⟩
  · rw [bitsOf_setBit_of_lt _ (by decide) (by decide), bitsOf_setBits_zero _ (by decide)]
  · rw [getLsbD_setBit _ _ _ (by decide), if_pos rfl]
  · rw [getLsbD_setBit _ _ _ (by decide), if_neg (by decide), getLsbD_setBits _ _ _ _ (by decide), if_neg (by decide)]

theorem accGo_spec (a : Nat) (R : Region) : Leaves Region.noSum [accStatAt a] R (accGo a R)
    ∧ (∀ j, accSum j (accGo a R) = if j = a ∧ (accMode a R = 1 ∨ accMode a R = 2) then 0 else accSum j R)
    ∧ (accGo a R).reg (accStatAt a) = (if accMode a R = 1 ∨ accMode a R = 2 then
        setBit (setBits (R.reg (accStatAt a)) 7 0 0) 16 true else R.reg (accStatAt a)) := by
  unfold accGo
  split
  next h =>
    refine ⟨(accClear_leaves a R).setBit (by simp) _ _, fun j => ?_, ?_⟩
    · rw [accSum_setBit, accClear_sum]
      simp only [h, and_true]
    · rw [Region.reg_setBit, accClear_stat]
  next h => exact ⟨Leaves.refl .., fun j => by rw [if_neg (fun hj => h hj.2)], rfl⟩

/-! ## Trackers (R239 to R242) -/

/-- The instant at which tracker `t`'s window closes, in tick mode. -/
def trkClose (t : Nat) (R : Region) : Ticks := trkOpen t R + BitVec.ofNat 64 (trkLen t R)

/-- The result of a window (R241). -/
def windowResult (w : Window) : Word :=
  if 2 ≤ w.cnt then (BitVec.ofInt 16 w.max ++ BitVec.ofInt 16 w.min : BitVec 32) else 0x80007FFF

/-- The registers of tracker `t` with the result of its window. -/
def trkReported (t : Nat) (R : Region) : Region :=
  let w := (R.tracker t).cur
  ((((R.setReg (trkBase t + 0x18) (windowResult w)).setReg (trkBase t + 0x1C) (BitVec.ofNat 32 w.cnt)).setPair
    (trkBase t + 0x20) (trkBase t + 0x24) (if trkMode t R = 1 then trkClose t R else w.last)).setBit (trkBase t + 8) 2
    (decide (2 ≤ w.cnt)))

/-- And with the opening of the next window, where windows repeat in tick mode. -/
def trkReopened (t : Nat) (R : Region) : Region :=
  if trkMode t R = 1 ∧ trkRepeat t R = true then
    (trkReported t R).setPair (trkBase t + 0x10) (trkBase t + 0x14) (trkClose t R)
  else trkReported t R

theorem trkReported_repeat (t : Nat) (R : Region) : trkRepeat t (trkReported t R) = trkRepeat t R := by
  unfold trkRepeat Region.bit trkReported Region.setBit Region.setPair
  repeat rw [Region.reg_setReg_of_ne _ (by omega)]

theorem trkReopened_repeat (t : Nat) (R : Region) : trkRepeat t (trkReopened t R) = trkRepeat t R := by
  unfold trkReopened
  split
  · rw [trkRepeat, Region.bit, Region.setPair, Region.reg_setReg_of_ne _ (by omega), Region.reg_setReg_of_ne _ (by omega)]
    exact trkReported_repeat t R
  · exact trkReported_repeat t R

theorem trkEnd_eq (m t : Nat) (R : Region) : trkEnd m t R = ((trkReopened t R).setTracker t
    ((R.tracker t).later.foldl (trkTake t (trkReopened t R)) ⟨trkRepeat t R, windowInit, []⟩)).raiseEdge (aclkEdge m) (0x090 + t) := by
  rw [← trkReopened_repeat t R, trkReopened, ← trkReported_repeat t R]
  simp only [trkEnd, beq_iff_eq, decide_eq_true_eq]
  rfl

theorem trkReopened_leaves (t : Nat) (R : Region) : Leaves id (windowRegs t) R (trkReopened t R) := by
  have hrep : Leaves id (windowRegs t) R (trkReported t R) :=
    ((((Leaves.refl ..).setReg (by simp [windowRegs]) _).setReg (by simp [windowRegs]) _).setPair (by simp [windowRegs])
      (by simp [windowRegs]) _).setBit (by simp [windowRegs]) _ _
  unfold trkReopened
  split
  · exact hrep.setPair (by simp [windowRegs]) (by simp [windowRegs]) _
  · exact hrep

/-- The registers are all that changes before the tracker does. -/
theorem trkReopened_eq (t : Nat) (R : Region) : trkReopened t R = { R with regs := (trkReopened t R).regs } := by
  unfold trkReopened
  split <;> rfl

theorem trkEnd_leaves (m t : Nat) (R : Region) : Leaves Region.noTracker (windowRegs t) R (trkEnd m t R) := by
  rw [trkEnd_eq]
  exact ⟨(congrArg (fun Q : Region => Region.noTracker { Q with regs := [] }) (trkReopened_eq t R) :),
    (trkReopened_leaves t R).regs⟩

theorem trkEnd_reg (m t a : Nat) (R : Region) : (trkEnd m t R).reg a = (trkReopened t R).reg a := by
  rw [trkEnd_eq]
  rfl

theorem trkEnd_tracker (m t j : Nat) (R : Region) : (trkEnd m t R).tracker j =
    if j = t then (R.tracker t).later.foldl (trkTake t (trkEnd m t R)) ⟨trkRepeat t R, windowInit, []⟩ else R.tracker j := by
  have hadc : (trkReopened t R).adc = R.adc := (congrArg Region.adc (trkReopened_eq t R) :)
  have hset : (trkEnd m t R).tracker j = ((trkReopened t R).setTracker t
      ((R.tracker t).later.foldl (trkTake t (trkReopened t R)) ⟨trkRepeat t R, windowInit, []⟩)).tracker j := by
    rw [trkEnd_eq]
    rfl
  have htake : trkTake t (trkEnd m t R) = trkTake t (trkReopened t R) := by
    rw [trkEnd_eq]
    rfl
  rw [hset, Region.tracker_setTracker, htake]
  exact congrArg (fun q => if j = t then _ else q) (congrArg (fun d : Adc => mapGet (fun _ => trackerInit) d.trk j) hadc)

theorem trkReported_own {t a : Nat} {R : Region} (h : a ∉ [8, 0x18, 0x1C, 0x20, 0x24]) :
    (trkReported t R).reg (trkBase t + a) = R.reg (trkBase t + a) := by
  simp only [List.mem_cons, List.not_mem_nil, or_false, not_or] at h
  unfold trkReported Region.setBit Region.setPair
  repeat rw [Region.reg_setReg_of_ne _ (by omega)]

/-- The result registers do not depend on how the next window opens. -/
theorem trkReopened_own {t a : Nat} {R : Region} (h : a ∉ [0x10, 0x14]) :
    (trkReopened t R).reg (trkBase t + a) = (trkReported t R).reg (trkBase t + a) := by
  simp only [List.mem_cons, List.not_mem_nil, or_false, not_or] at h
  unfold trkReopened Region.setPair
  split
  · rw [Region.reg_setReg_of_ne _ (by omega), Region.reg_setReg_of_ne _ (by omega)]
  · rfl

theorem trkReopened_open (t : Nat) (R : Region) : (trkReopened t R).pairVal (trkBase t + 0x10) (trkBase t + 0x14)
    = if trkMode t R = 1 ∧ trkRepeat t R = true then trkClose t R else trkOpen t R := by
  unfold trkReopened
  split
  · exact Region.pairVal_setPair _ (by omega) _
  · exact pairVal_congr (trkReported_own (by decide)) (trkReported_own (by decide))

theorem windowEnded_trkEnd (m t : Nat) (R : Region) : WindowEnded m t R (trkEnd m t R) := by
  have hreg : ∀ a, a ∉ [0x10, 0x14] → (trkEnd m t R).reg (trkBase t + a) = (trkReported t R).reg (trkBase t + a) :=
    fun a ha => (trkEnd_reg ..).trans (trkReopened_own ha)
  have hpair : ∀ lo hi, (trkEnd m t R).pairVal lo hi = (trkReopened t R).pairVal lo hi := fun lo hi =>
    pairVal_congr (trkEnd_reg ..) (trkEnd_reg ..)
  refine ⟨?result, ?count, ?valid, ?stamp, ?tracker, ?opens, ?event⟩
  case result =>
    rw [hreg _ (by decide)]
    simp [trkReported, Region.setBit, Region.setPair, Region.reg_setReg_ite, windowResult]
  case count =>
    rw [hreg _ (by decide)]
    simp [trkReported, Region.setBit, Region.setPair, Region.reg_setReg_ite]
  case valid =>
    rw [Region.bit, hreg _ (by decide), trkReported]
    exact (Region.bit_setBit _ _ _ _ (by decide)).trans (if_pos rfl)
  case stamp =>
    rw [pairVal_congr (hreg _ (by decide)) (hreg _ (by decide)), trkReported]
    rw [pairVal_congr (Region.reg_setBit_of_ne _ (by omega) _ _) (Region.reg_setBit_of_ne _ (by omega) _ _)]
    exact Region.pairVal_setPair _ (by omega) _
  case tracker => exact (trkEnd_tracker ..).trans (if_pos rfl)
  case opens => exact (hpair _ _).trans (trkReopened_open t R)
  case event =>
    rw [trkEnd_eq]
    exact (congrArg (fun Q : Region => Q.ev.sched ++ [(aclkEdge m, 0x090 + t)]) (trkReopened_eq t R) :)

/-- A write of the configuration ends the window where MODE or REPEAT changes. -/
theorem trkCfgWrite_eq (t : Nat) (plain : Region → Region) (R : Region) : trkCfgWrite t plain R =
    if trkMode t (plain R) ≠ trkMode t R ∨ trkRepeat t (plain R) ≠ trkRepeat t R then (plain R).setTracker t trackerInit
    else plain R := by
  have hsplit : bitsOf ((plain R).reg (trkBase t)) 31 29 = bitsOf (R.reg (trkBase t)) 31 29 ↔
      trkMode t (plain R) = trkMode t R ∧ trkRepeat t (plain R) = trkRepeat t R := by
    refine ⟨fun h => ⟨bitsOf_congr fun j hlo hhi => getLsbD_of_bitsOf h (by omega) hhi, getLsbD_of_bitsOf h (by decide) (by decide)⟩,
      fun ⟨hmode, hrep⟩ => bitsOf_congr fun j hlo hhi => ?_⟩
    rcases Nat.eq_or_lt_of_le hlo with rfl | hlt
    · exact hrep
    · exact getLsbD_of_bitsOf hmode hlt hhi
  unfold trkCfgWrite
  by_cases h : trkMode t (plain R) = trkMode t R ∧ trkRepeat t (plain R) = trkRepeat t R
  · rw [if_pos (hsplit.2 h), if_neg (fun hne => hne.elim (· h.1) (· h.2))]
  · rw [if_neg (mt hsplit.1 h), if_pos (not_and_or.1 h)]

theorem trkCfgWrite_spec (t : Nat) (v : Word) {R R1 : Region} (h1 : R1 = plainWrite (trkBase t) v R) :
    Leaves Region.noTracker [trkBase t] R (trkCfgWrite t (plainWrite (trkBase t) v) R)
      ∧ (trkCfgWrite t (plainWrite (trkBase t) v) R).reg (trkBase t) = R1.reg (trkBase t)
      ∧ (trkCfgWrite t (plainWrite (trkBase t) v) R).ev = R.ev
      ∧ ∀ j, (trkCfgWrite t (plainWrite (trkBase t) v) R).tracker j =
          if j = t ∧ (trkMode t R1 ≠ trkMode t R ∨ trkRepeat t R1 ≠ trkRepeat t R) then trackerInit else R.tracker j := by
  have hplain : Leaves Region.noTracker [trkBase t] R R1 := h1 ▸ plainWrite_leaves ..
  have hev : R1.ev = R.ev := h1 ▸ plainWrite_ev ..
  have htrk : ∀ j, R1.tracker j = R.tracker j := h1 ▸ plainWrite_tracker _ v R
  rw [trkCfgWrite_eq, ← h1]
  split
  next h =>
    refine ⟨hplain.trans (Leaves.of_regs rfl rfl), rfl, hev, fun j => ?_⟩
    rw [Region.tracker_setTracker, htrk]
    simp only [h, and_true]
  next h => exact ⟨hplain, rfl, hev, fun j => by rw [if_neg (fun hj => h hj.2), htrk]⟩

theorem trkGo_spec (t : Nat) (R : Region) : Leaves Region.noTracker [] R (trkGo t R) ∧ (trkGo t R).ev = R.ev
    ∧ ∀ j, (trkGo t R).tracker j = if j = t ∧ (trkMode t R = 1 ∨ trkMode t R = 2) then ⟨true, windowInit, []⟩
        else R.tracker j := by
  unfold trkGo
  split
  next h => exact ⟨Leaves.of_regs rfl rfl, rfl, fun j => by rw [Region.tracker_setTracker]; simp only [h, and_true]⟩
  next h => exact ⟨Leaves.refl .., rfl, fun j => by rw [if_neg (fun hj => h hj.2)]⟩

/-! ## The statement -/

variable {r : RegionId} {s : State}

theorem exec_readAccumulatorResult (hl : Live r s) (ch : Fin 16) (k : Fin 4) :
    exec (.readAccumulatorResult r ch k) s = .next ((s.setRegion r (accRead (4 * ch + k) (s.region r)).2).answer
      (.data (words4 [(accRead (4 * ch + k) (s.region r)).1]))) :=
  congrArg Host.Outcome.next (regionAnswer_live hl _)

theorem exec_accumulatorConfigWrite (hl : Live r s) (ch : Fin 16) (k : Fin 4) (v : Word) :
    exec (.accumulatorConfigWrite r ch k v) s
      = .next (s.onRegion r (fun _ R => accCfgWrite (4 * ch + k) (accCfgPut (4 * ch + k) v) R)) := by
  rw [← plainWrite_accCfg]
  exact congrArg Host.Outcome.next (regionAccess_live hl _)

theorem exec_accumulatorGo (hl : Live r s) (ch : Fin 16) (k : Fin 4) :
    exec (.accumulatorGo r ch k) s = .next (s.onRegion r (fun _ R => accGo (4 * ch + k) R)) :=
  congrArg Host.Outcome.next (regionAccess_live hl _)

theorem exec_trackerGo (hl : Live r s) (ch : Fin 16) (k : Fin 2) :
    exec (.trackerGo r ch k) s = .next (s.onRegion r (fun _ R => trkGo (2 * ch + k) R)) :=
  congrArg Host.Outcome.next (regionAccess_live hl _)

theorem exec_trackerWindowEnd (hl : Live r s) (ch : Fin 16) (k : Fin 2) :
    exec (.trackerWindowEnd r ch k) s = .next (s.onRegion r (fun x R => trkEndAt x x.aclkNext (2 * ch + k) R)) :=
  congrArg Host.Outcome.next (regionEvent_live hl _)

/-- A write of CFG. -/
theorem exec_trackerConfigWrite_config (hl : Live r s) (ch : Fin 16) (k : Fin 2) (v : Word) :
    exec (.trackerConfigWrite r ch k 0 v) s
      = .next (s.onRegion r (fun _ R => trkCfgWrite (2 * ch + k) (plainWrite (trkBase (2 * ch + k)) v) R)) := by
  rw [trkBase_channel _ _ k.isLt]
  exact congrArg Host.Outcome.next (regionAccess_live hl _)

/-- A write of LEN or OPEN. -/
theorem exec_trackerConfigWrite_move (hl : Live r s) (ch : Fin 16) (k : Fin 2) {j : Fin 4} (hj : j ≠ 0) (v : Word) :
    exec (.trackerConfigWrite r ch k j v) s = .next (s.onRegion r (fun x R =>
      trkEndAt x x.aclk (2 * ch + k) (plainWrite (regAt (trackerReg j) ch k) v R))) := by
  have hmove : ∀ x R, trackerWrite x ch k j v R = trkEndAt x x.aclk (2 * ch + k) (plainWrite (regAt (trackerReg j) ch k) v R) :=
    fun _ _ => if_neg (by omega)
  simp only [← hmove]
  exact congrArg Host.Outcome.next (regionAccess_live hl _)

/-- A read of an accumulator's result completes (R236). -/
theorem readAccumulatorResult_completes (hl : Live r s) (ch : Fin 16) (k : Fin 4) {a : Nat} (ha : a = 4 * ch.val + k.val) :
    Completes (.readAccumulatorResult r ch k) s (fun t =>
      RegionRegs [accBase a + 0xC, accBase a + 0x10] r { s with host := t.host } t
        ∧ t.host = some (.data (words4 [(s.region r).reg (accRes a)]))
        ∧ (t.region r).pairVal (accBase a + 0xC) (accBase a + 0x10) = mapGet (fun _ => 0) (s.region r).adc.resStamp a) := by
  subst ha
  have hregs : Leaves id [accBase (4 * ch + k) + 0xC, accBase (4 * ch + k) + 0x10] (s.region r)
      (accRead (4 * ch + k) (s.region r)).2 := (Leaves.refl ..).setPair (by simp) (by simp) _
  have hread : ((s.setRegion r (accRead (4 * ch + k) (s.region r)).2).answer
      (.data (words4 [(accRead (4 * ch + k) (s.region r)).1]))).region r = (accRead (4 * ch + k) (s.region r)).2 :=
    State.region_setRegion ..
  refine ⟨_, exec_readAccumulatorResult hl ch k, ⟨⟨rfl, fun q hq => State.region_setRegion_of_ne s hq _⟩, ?_, ?_⟩, rfl, ?_⟩
  · rw [hread]
    exact hregs.rest
  · rw [hread]
    exact hregs.regs
  · rw [hread]
    exact Region.pairVal_setPair _ (by omega) _

/-- What the end of a window at ACLK edge `m`, if it has come, makes of the region. -/
theorem trkEndAt_spec (x : Ctx) (m t : Nat) (R : Region) : (trkPast x m t R = false → trkEndAt x m t R = R)
    ∧ (trkPast x m t R = true → Leaves Region.noTracker (windowRegs t) R (trkEndAt x m t R)
      ∧ WindowEnded (windowEdge m t R) t R (trkEndAt x m t R)
      ∧ ∀ j, j ≠ t → (trkEndAt x m t R).tracker j = R.tracker j) := by
  refine ⟨fun h => by rw [trkEndAt, if_neg (by rw [h]; decide)], fun h => ?_⟩
  rw [trkEndAt, if_pos h]
  exact ⟨trkEnd_leaves .., windowEnded_trkEnd .., fun j hj => (trkEnd_tracker ..).trans (if_neg hj)⟩

/-- Settles O23: `accCfgWrite_spec` and `accGo_spec` for the accumulators; `trkGo_spec`, `trkEndAt_spec` and
`trkCfgWrite_eq` for the trackers. -/
theorem accumulatorsAndTrackers : Obligations.AccumulatorsAndTrackers := by
  rintro r ch R s hl rfl
  refine ⟨?acc, ?trk⟩
  case acc =>
    intro k a ha
    refine ⟨readAccumulatorResult_completes hl ch k ha, ?config, ?go⟩
    case config =>
      rintro v m rfl
      obtain ⟨hleaves, hcfg, hsum, hstat⟩ := accCfgWrite_spec a v (s.region r)
      obtain ⟨hcnt, hrun, hvalid⟩ := accStat_restarted ((s.region r).reg (accStatAt a))
        (bitsOf v 31 30 == 2 || (bitsOf v 31 30 == 1 && accMode a (s.region r) == 1 && accRun a (s.region r)))
      subst ha
      refine ⟨_, exec_accumulatorConfigWrite hl ch k v, hleaves.onRegion, ?_⟩
      rw [State.region_onRegion, accRun, Region.bit, Region.bit, hstat]
      exact ⟨hcfg, hsum, hcnt, hrun, hvalid⟩
    case go =>
      obtain ⟨hleaves, hsum, hstat⟩ := accGo_spec a (s.region r)
      subst ha
      refine ⟨_, exec_accumulatorGo hl ch k, hleaves.onRegion, ?_⟩
      rw [State.region_onRegion]
      exact ⟨hsum, hstat⟩
  case trk =>
    rintro k _ rfl
    refine ⟨?go, fun h => ?early, fun h => ?ended, ?config, ?moved⟩
    case go =>
      obtain ⟨hleaves, hev, htrk⟩ := trkGo_spec (2 * ch.val + k.val) (s.region r)
      refine ⟨_, exec_trackerGo hl ch k, hleaves.onRegion, ?_⟩
      rw [State.region_onRegion]
      exact ⟨hev, htrk⟩
    case early =>
      refine ⟨_, exec_trackerWindowEnd hl ch k, Leaves.onRegion ?_⟩
      rw [(trkEndAt_spec ..).1 h]
      exact Leaves.refl ..
    case ended =>
      obtain ⟨hleaves, hended, hother⟩ := (trkEndAt_spec ..).2 h
      refine ⟨_, exec_trackerWindowEnd hl ch k, hleaves.onRegion, ?_⟩
      rw [State.region_onRegion]
      exact ⟨hended, hother⟩
    case config =>
      rintro v R1 hR1
      obtain ⟨hleaves, hreg, hev, htrk⟩ := trkCfgWrite_spec (2 * ch.val + k.val) v hR1
      refine ⟨_, exec_trackerConfigWrite_config hl ch k v, hleaves.onRegion, ?_⟩
      rw [State.region_onRegion]
      exact ⟨hreg, hev, htrk⟩
    case moved =>
      rintro j v a R1 hj rfl rfl
      have hplain := fun but => plainWrite_leaves but (regAt (trackerReg j) ch k) v (s.region r)
      refine ⟨fun h => ⟨_, exec_trackerConfigWrite_move hl ch k hj v, ?early⟩,
        fun h => ⟨_, exec_trackerConfigWrite_move hl ch k hj v, ?ended⟩⟩
      case early =>
        have hsame := (trkEndAt_spec ..).1 h
        refine ⟨Leaves.onRegion (hsame.symm ▸ hplain id), ?_⟩
        rw [State.region_onRegion, hsame]
      case ended =>
        obtain ⟨hleaves, hended, hother⟩ := (trkEndAt_spec ..).2 h
        refine ⟨Leaves.onRegion (((hplain _).mono (by simp)).trans (hleaves.mono (by simp))), ?_⟩
        rw [State.region_onRegion]
        exact ⟨hended, fun i hi => (hother i hi).trans (plainWrite_tracker ..)⟩

end Sys2Proof.Machine
end

section
/-!
PROOFS. Sample groups: arming, timed starts and apertures (O22).
-/

namespace Sys2Proof.Machine

/-! ## Folds that write one key each -/

/-- A fold whose step `i` gives key `i` of a map its value, where that key still reads as at first. -/
theorem foldN_fills {α β : Type} {d : Nat → β} {put : FMap β → α} {f : Nat → α → α} {v : Nat → β} {m : FMap β} {n : Nat}
    (h : ∀ i l, i < n → mapGet d l i = mapGet d m i →
      ∃ l', f i (put l) = put l' ∧ ∀ j, mapGet d l' j = if j = i then v i else mapGet d l j) :
    ∃ l, foldN n f (put m) = put l ∧ ∀ j, mapGet d l j = if j < n then v j else mapGet d m j := by
  induction n with
  | zero => exact ⟨m, rfl, fun j => (if_neg (Nat.not_lt_zero j)).symm⟩
  | succ n ih =>
    obtain ⟨l, hl, hget⟩ := ih fun i l hi => h i l (by omega)
    obtain ⟨l', hl', hget'⟩ := h n l (Nat.lt_succ_self n) (by rw [hget, if_neg (lt_irrefl n)])
    refine ⟨l', by rw [foldN_succ, hl, hl'], fun j => ?_⟩
    rw [hget', hget]
    by_cases hj : j = n
    · simp [hj]
    · simp [hj, show j < n + 1 ↔ j < n by omega]

theorem foldN_fixed {α : Type} {f : Nat → α → α} {n : Nat} {a : α} (h : ∀ i, i < n → f i a = a) : foldN n f a = a := by
  induction n with
  | zero => rfl
  | succ n ih => rw [foldN_succ, ih fun i hi => h i (by omega), h n (Nat.lt_succ_self n)]

/-! ## What a sample group waits for (R227) -/

/-- A region without what its sample groups wait for. -/
def Region.noWait (R : Region) : Region := { R with adc := { R.adc with wait := [] } }

theorem sgWait_setSgWait (R : Region) (g h : Nat) (w : SgWait) :
    sgWait h (R.setSgWait g w) = if h = g then w else sgWait h R := mapGet_mapSet (fun _ => SgWait.idle) R.adc.wait g h w

theorem setSgWait_leaves (l : List Nat) (R : Region) (g : Nat) (w : SgWait) : Leaves Region.noWait l R (R.setSgWait g w) :=
  Leaves.of_regs rfl rfl

theorem plainWrite_sgWait (a : Nat) (v : Word) (R : Region) (g : Nat) : sgWait g (plainWrite a v R) = sgWait g R := by
  rw [sgWait, plainWrite_adc, sgWait]

/-- The first instant of a series after `b` is at most one period beyond it. -/
theorem series_next {t b per : Nat} (ht : t ≤ b) (hper : per ≠ 0) :
    t + (b - t) / per * per ≤ b ∧ b < t + ((b - t) / per + 1) * per := by
  have hle := Nat.div_mul_le_self (b - t) per
  have hlt := Nat.lt_div_mul_add (a := b - t) (Nat.pos_of_ne_zero hper)
  rw [Nat.succ_mul]
  omega

/-- The judgement of an instant that has passed counts it as missed. -/
theorem sgJudge_past {x : Ctx} {g : Nat} {R : Region} (h : (sgAt g R).toNat ≤ (x.gtAclk x.aclk).toNat) :
    sgJudge x g R = (R.count (regAt Reg.AD_SG_MISS g 0)).setSgWait g (if sgPer g R = 0 then .idle
      else .at (BitVec.ofNat 64 ((sgAt g R).toNat
        + (((x.gtAclk x.aclk).toNat - (sgAt g R).toNat) / (sgPer g R * 40) + 1) * (sgPer g R * 40)))) := by
  have hper : sgPer g (R.count (regAt Reg.AD_SG_MISS g 0)) = sgPer g R := by
    unfold sgPer Region.field
    rw [Region.reg_count_of_ne _ (by simp only [regAt, Reg.AD_SG_PER, Reg.AD_SG_MISS]; omega)]
  unfold sgJudge
  simp only [if_pos h, hper, Nat.mul_eq_zero, OfNat.ofNat_ne_zero, or_false]
  split <;> rfl

theorem sgJudge_future {x : Ctx} {g : Nat} {R : Region} (h : ¬ (sgAt g R).toNat ≤ (x.gtAclk x.aclk).toNat) :
    sgJudge x g R = R.setSgWait g (.at (sgAt g R)) := if_neg h

theorem sgJudge_spec (x : Ctx) (g : Nat) (R : Region) :
    Leaves Region.noWait [regAt Reg.AD_SG_MISS g 0] R (sgJudge x g R)
      ∧ (∀ h, h ≠ g → sgWait h (sgJudge x g R) = sgWait h R) ∧ GroupJudged x g (sgAt g R) R (sgJudge x g R) := by
  by_cases hpast : (sgAt g R).toNat ≤ (x.gtAclk x.aclk).toNat
  · rw [sgJudge_past hpast]
    refine ⟨((Leaves.refl ..).setReg (by simp) _).trans (setSgWait_leaves ..),
      fun h hh => (sgWait_setSgWait ..).trans (if_neg hh), fun hlt => absurd hlt (by omega),
      fun _ => ⟨Region.reg_count .., fun hper => ?_, fun hper => ⟨((x.gtAclk x.aclk).toNat - (sgAt g R).toNat) / (sgPer g R * 40), ?_,
        series_next hpast (by omega)⟩⟩⟩
    · rw [sgWait_setSgWait, if_pos rfl, if_pos hper]
    · rw [sgWait_setSgWait, if_pos rfl, if_neg hper]
  · rw [sgJudge_future hpast]
    exact ⟨setSgWait_leaves .., fun h hh => (sgWait_setSgWait ..).trans (if_neg hh),
      fun _ => ⟨(sgWait_setSgWait ..).trans (if_pos rfl), rfl⟩, fun h => absurd h hpast⟩

/-- A write of CFG, 0, or AT of group `g` writes its register first, and then judges the group or leaves it be. -/
theorem sampleGroupWrite_eq (x : Ctx) (g : Fin 8) (j : Fin 3) (v : Word) {R R1 : Region} (h1 : R1 = plainWrite (groupReg g j) v R) :
    sampleGroupWrite x g j v R =
      if (sgArmed g R1 && sgTimed g R1) = true then
        if j = 0 ∧ (sgArmed g R && sgTimed g R) = true then R1 else sgJudge x g R1
      else if j = 0 then R1.setSgWait g .idle else R1 := by
  subst h1
  match j with
  | 0 => simp only [true_and, if_true]; rfl
  | 1 => simp only [show (1 : Fin 3) ≠ 0 by decide, false_and, if_false]; rfl
  | 2 => simp only [show (2 : Fin 3) ≠ 0 by decide, false_and, if_false]; rfl

theorem groupReg_ne_miss (g : Nat) (j : Fin 3) : groupReg g j ≠ regAt Reg.AD_SG_MISS g 0 := by
  match j with
  | 0 => show regAt Reg.AD_SG_CFG g 0 ≠ _; simp only [regAt, Reg.AD_SG_CFG, Reg.AD_SG_MISS]; omega
  | 1 => show regAt Reg.AD_SG_AT_L g 0 ≠ _; simp only [regAt, Reg.AD_SG_AT_L, Reg.AD_SG_MISS]; omega
  | 2 => show regAt Reg.AD_SG_AT_H g 0 ≠ _; simp only [regAt, Reg.AD_SG_AT_H, Reg.AD_SG_MISS]; omega

/-- What a write of CFG or AT of group `g` makes of the region. -/
theorem sampleGroupWrite_spec (x : Ctx) (g : Fin 8) (j : Fin 3) (v : Word) {R R1 R' : Region}
    (h1 : R1 = plainWrite (groupReg g j) v R) (h' : R' = sampleGroupWrite x g j v R) :
    Leaves Region.noWait [groupReg g j, regAt Reg.AD_SG_MISS g 0] R R' ∧ R'.reg (groupReg g j) = R1.reg (groupReg g j)
      ∧ (∀ h, h ≠ g.val → sgWait h R' = sgWait h R)
      ∧ (sgArmed g R1 = true → sgTimed g R1 = true → (j = 0 → (sgArmed g R && sgTimed g R) = false) →
          GroupJudged x g (sgAt g R1) R1 R')
      ∧ (j = 0 → (sgArmed g R && sgTimed g R && sgArmed g R1 && sgTimed g R1) = true →
          sgWait g R' = sgWait g R ∧ R'.reg (regAt Reg.AD_SG_MISS g 0) = R.reg (regAt Reg.AD_SG_MISS g 0))
      ∧ ((sgArmed g R1 && sgTimed g R1) = false → sgWait g R' = (if j = 0 then .idle else sgWait g R)
          ∧ R'.reg (regAt Reg.AD_SG_MISS g 0) = R.reg (regAt Reg.AD_SG_MISS g 0)) := by
  have hplain : Leaves Region.noWait [groupReg g j, regAt Reg.AD_SG_MISS g 0] R R1 :=
    h1 ▸ (plainWrite_leaves ..).mono (by simp)
  have hwait : ∀ h, sgWait h R1 = sgWait h R := h1 ▸ plainWrite_sgWait _ v R
  have hmiss : R1.reg (regAt Reg.AD_SG_MISS g 0) = R.reg (regAt Reg.AD_SG_MISS g 0) := by
    rw [h1]
    exact (plainWrite_leaves id ..).regs _ (by simpa using (groupReg_ne_miss g j).symm)
  rw [sampleGroupWrite_eq x g j v h1] at h'
  cases hon : sgArmed g R1 && sgTimed g R1 with
  | false =>
    simp only [hon, Bool.false_eq_true, if_false] at h'
    have hboth : ¬ (sgArmed g R1 = true ∧ sgTimed g R1 = true) := by simpa using hon
    rw [h']
    split
    next h0 =>
      exact ⟨hplain.trans (setSgWait_leaves ..), rfl, fun h hh => ((sgWait_setSgWait ..).trans (if_neg hh)).trans (hwait h),
        fun ha ht => absurd ⟨ha, ht⟩ hboth, fun _ hall => absurd (by simp at hall; exact ⟨hall.1.2, hall.2⟩) hboth,
        fun _ => ⟨(sgWait_setSgWait ..).trans (if_pos rfl), hmiss⟩⟩
    next h0 =>
      exact ⟨hplain, rfl, fun h _ => hwait h, fun ha ht => absurd ⟨ha, ht⟩ hboth, fun h => absurd h h0,
        fun _ => ⟨hwait g, hmiss⟩⟩
  | true =>
    simp only [hon, if_true] at h'
    by_cases hkept : j = 0 ∧ (sgArmed g R && sgTimed g R) = true
    · rw [if_pos hkept] at h'
      rw [h']
      exact ⟨hplain, rfl, fun h _ => hwait h, fun _ _ hwas => absurd (hwas hkept.1) (by simp [hkept.2]), fun _ _ => ⟨hwait g, hmiss⟩,
        fun h => absurd h (by decide)⟩
    · rw [if_neg hkept] at h'
      obtain ⟨hleaves, hother, hjudged⟩ := sgJudge_spec x g R1
      rw [h']
      refine ⟨hplain.trans (hleaves.mono (by simp)), hleaves.regs _ (by simpa using groupReg_ne_miss g j),
        fun h hh => (hother h hh).trans (hwait h), fun _ _ _ => hjudged, fun h0 hall => absurd ⟨h0, ?_⟩ hkept,
        fun h => absurd h (by decide)⟩
      simp only [Bool.and_eq_true] at hall
      exact Bool.and_eq_true_iff.2 hall.1.1

/-! ## Timed starts (R225, R228, R229, R231) -/

/-- A region with these conversions in flight. -/
def Region.withConv (R : Region) (l : FMap (List Conv)) : Region := R.putAdc (fun d => { d with conv := l })

theorem conv_withConv (R : Region) (l : FMap (List Conv)) (ch : Nat) : (R.withConv l).conv ch = mapGet (fun _ => []) l ch := rfl

/-- No spare waits for a start. -/
def NoHandover (R : Region) : Prop := ∀ q, q < 2 → (R.calStep q).phase ≠ .handOver ∧ (R.calStep q).phase ≠ .handBack

theorem startSlice_of_noHandover {R : Region} (h : NoHandover R) (ch : Nat) : startSlice ch R = R := by
  refine foldN_fixed fun q hq => ?_
  obtain ⟨hover, hback⟩ := h q hq
  have htake : takeOverStep q R = R := if_neg (by simpa using hover)
  have hgive : giveBackStep q R = R := if_neg (by simpa using hback)
  rw [htake, hgive, ite_self]

/-- Channel `ch` starts: nothing changes but the conversions in flight. -/
theorem chStart_eq {R : Region} (h : NoHandover R) (g m ch : Nat) : chStart g m ch R = R.setConv ch (convStarted g m ch R) := by
  unfold chStart convStarted
  simp only [startSlice_of_noHandover h]
  split <;> rfl

/-- An accepted start puts every channel of the group in conversion (R229, R231). -/
theorem sgStart_accepted {g m : Nat} {R : Region} (hcal : initCal R = false) (hbusy : sgBusy g m R = false) (h : NoHandover R) :
    ∃ l, sgStart g m R = (R.withConv l).putAdc (fun d => { d with opens := d.opens ++ [(g, m)] })
      ∧ ∀ ch, mapGet (fun _ => []) l ch = if ch < 16 ∧ R.bit (sgCfg g) ch = true then convStarted g m ch R else R.conv ch := by
  obtain ⟨l, hl, hget⟩ := foldN_fills (d := fun _ => []) (put := R.withConv) (m := R.adc.conv) (n := 16)
    (f := fun ch R => if R.bit (sgCfg g) ch then chStart g m ch R else R)
    (v := fun ch => if R.bit (sgCfg g) ch then convStarted g m ch R else R.conv ch) (fun ch l _ hch => by
      have hbit : (R.withConv l).bit (sgCfg g) ch = R.bit (sgCfg g) ch := rfl
      have hconv : convStarted g m ch (R.withConv l) = convStarted g m ch R := by
        unfold convStarted
        rw [conv_withConv, hch]
        rfl
      rw [hbit, chStart_eq (R := R.withConv l) h, hconv]
      split
      · exact ⟨_, rfl, fun j => mapGet_mapSet (fun _ => []) l ch j _⟩
      · exact ⟨l, rfl, fun j => by split <;> simp_all [Region.conv]⟩)
  refine ⟨l, ?_, fun ch => ?_⟩
  · rw [sgStart, if_neg (by simp [hcal, hbusy])]
    exact congrArg (fun Q : Region => Q.putAdc (fun d => { d with opens := d.opens ++ [(g, m)] })) hl
  · rw [hget]
    by_cases hch : ch < 16 <;> simp [hch, Region.conv]

theorem sgStart_refused {g m : Nat} {R : Region} (h : initCal R = true ∨ sgBusy g m R = true) :
    sgStart g m R = R.count (regAt Reg.AD_SG_OVR g 0) := if_pos h

theorem sgTimedStart_of_due {x : Ctx} {m g e : Nat} {R : Region} (h : sgDue x m g R = some e) : sgTimedStart x m g R
    = (sgStart g e R).setSgWait g (if sgPer g R = 0 then .idle else .edge (e + sgPer g R)) := by
  rw [sgTimedStart, h]

theorem sgTimedStart_of_not_due {x : Ctx} {m g : Nat} {R : Region} (h : sgDue x m g R = none) : sgTimedStart x m g R = R := by
  rw [sgTimedStart, h]

/-! ## Apertures (R230, R273) -/

/-- A region with these pairs. -/
def Region.withPairs (R : Region) (l : FMap Pair) : Region := { R with tm := { R.tm with pair := l } }

theorem pair_withPairs (R : Region) (l : FMap Pair) (k : Nat) : (R.withPairs l).pair k = mapGet (fun _ => pairInit) l k := rfl

/-- The window of pair `k` closes without a miss, where it is not open or was met on time, and the next one opens. -/
theorem openWindow_met {k : Nat} {R : Region} (h : (R.pair k).window = none ∨ (R.pair k).onTime = true) (a : Ticks)
    (l : FMap Pair) (hl : mapGet (fun _ => pairInit) l k = R.pair k) :
    ∃ l', (closeWindow k (R.withPairs l)).setPwmPair k
          { (closeWindow k (R.withPairs l)).pair k with window := some a, onTime := false } = R.withPairs l'
      ∧ ∀ j, mapGet (fun _ => pairInit) l' j
          = if j = k then { R.pair k with window := some a, onTime := false } else mapGet (fun _ => pairInit) l j := by
  have hpair : (R.withPairs l).pair k = R.pair k := hl
  cases hw : (R.pair k).window with
  | none =>
    have hclose : closeWindow k (R.withPairs l) = R.withPairs l := by
      unfold closeWindow
      simp only [hpair, hw]
    rw [hclose, hpair]
    exact ⟨_, rfl, fun j => mapGet_mapSet (fun _ => pairInit) l k j _⟩
  | some st =>
    have hon : (R.pair k).onTime = true := h.resolve_left (by simp [hw])
    have hclose : closeWindow k (R.withPairs l)
        = R.withPairs (mapSet (fun _ => pairInit) l k { R.pair k with window := none, onTime := false }) := by
      unfold closeWindow
      simp only [hpair, hw, hon, if_true]
      rfl
    rw [hclose, pair_withPairs, mapGet_mapSet_self]
    refine ⟨_, rfl, fun j => (mapGet_mapSet (fun _ => pairInit) _ k j _).trans ?_⟩
    by_cases hj : j = k
    · rw [if_pos hj, if_pos hj]
    · rw [if_neg hj, if_neg hj]
      exact mapGet_mapSet_of_ne _ _ hj _

theorem watches_iff (k g : Nat) (R : Region) : bitsOf (R.reg (regAt Reg.TM_PAIR_DL k 0)) 31 30 ≠ 0
    ∧ bitsOf (R.reg (regAt Reg.TM_PAIR_DL k 0)) 26 24 = g ↔ watches k g R = true := by
  simp [watches, Region.field]

theorem openWindows_spec {g : Nat} {R : Region} (a : Ticks)
    (h : ∀ k, k < 24 → watches k g R = true → (R.pair k).window = none ∨ (R.pair k).onTime = true) :
    ∃ l, openWindows g a R = R.withPairs l ∧ ∀ k, mapGet (fun _ => pairInit) l k
      = if k < 24 ∧ watches k g R = true then { R.pair k with window := some a, onTime := false } else R.pair k := by
  obtain ⟨l, hl, hget⟩ := foldN_fills (d := fun _ => pairInit) (put := R.withPairs) (m := R.tm.pair) (n := 24)
    (f := fun k R => if bitsOf (R.reg (regAt Reg.TM_PAIR_DL k 0)) 31 30 ≠ 0
        ∧ bitsOf (R.reg (regAt Reg.TM_PAIR_DL k 0)) 26 24 = g then
      (closeWindow k R).setPwmPair k { (closeWindow k R).pair k with window := some a, onTime := false } else R)
    (v := fun k => if watches k g R = true then { R.pair k with window := some a, onTime := false } else R.pair k)
    (fun k l hk hl => by
      have hwatch : watches k g (R.withPairs l) = watches k g R := rfl
      simp only [watches_iff, hwatch]
      split
      next hw => exact openWindow_met (h k hk hw) a l hl
      next => exact ⟨l, rfl, fun j => by split <;> simp_all [Region.pair]⟩)
  refine ⟨l, hl, fun k => ?_⟩
  rw [hget]
  by_cases hk : k < 24 <;> simp [hk, Region.pair]

/-- A conversion of group start `m` whose aperture closes with stamp `st`, seen at PCLK edge `e` (R229, R230, R244). -/
def convStamped (e ch m : Nat) (st : Ticks) (R : Region) : List Conv :=
  (R.conv ch).map (fun c => if c.edge = m then { c with
    stamp := some st, probe := if probed ch R then some (probeCode R) else none, free := sampleFree ch e st R } else c)

/-- The stamps that an aperture gives, before the stamp is shown. -/
theorem apertures_spec (x : Ctx) (m : Nat) (st : Ticks) (R : Region) :
    ∃ l, foldN 16 (fun ch R => if (R.conv ch).any (fun k => k.edge == m && k.stamp.isNone) then
        R.setConv ch ((R.conv ch).map (fun k => if k.edge = m then apertureOf x ch st R k else k)) else R) R = R.withConv l
      ∧ ∀ ch, ch < 16 → (∀ c ∈ R.conv ch, c.edge = m → c.stamp = none) →
        mapGet (fun _ => []) l ch = convStamped x.time.pclk ch m st R := by
  obtain ⟨l, hl, hget⟩ := foldN_fills (d := fun _ => []) (put := R.withConv) (m := R.adc.conv) (n := 16)
    (f := fun ch R => if (R.conv ch).any (fun k => k.edge == m && k.stamp.isNone) then
        R.setConv ch ((R.conv ch).map (fun k => if k.edge = m then apertureOf x ch st R k else k)) else R)
    (v := fun ch => if (R.conv ch).any (fun k => k.edge == m && k.stamp.isNone) then convStamped x.time.pclk ch m st R
      else R.conv ch) (fun ch l _ hch => by
      have hconv : (R.withConv l).conv ch = R.conv ch := hch
      rw [hconv]
      split
      next => exact ⟨_, rfl, fun j => mapGet_mapSet (fun _ => []) l ch j _⟩
      next => exact ⟨l, rfl, fun j => by split <;> simp_all [Region.conv]⟩)
  refine ⟨l, hl, fun ch hch hnone => ?_⟩
  rw [hget, if_pos hch]
  split
  next => rfl
  next hany =>
    have hne : ∀ c ∈ R.conv ch, c.edge ≠ m := fun c hc he =>
      hany (List.any_eq_true.2 ⟨c, hc, by simp [he, hnone c hc he]⟩)
    exact (List.map_id' _).symm.trans (List.map_congr_left fun c hc => (if_neg (hne c hc)).symm)

/-- The aperture of a start of group `g` at ACLK edge `m`. -/
theorem sgAperture_spec {x : Ctx} {g m : Nat} {st : Ticks} {R R' : Region} (hst : st = x.gtAclk (m + 3)) (h' : R' = sgAperture x g m R)
    (hmet : ∀ k, k < 24 → watches k g R = true → (R.pair k).window = none ∨ (R.pair k).onTime = true) :
    R'.pairVal (regAt Reg.AD_SG_GT_L g 0) (regAt Reg.AD_SG_GT_H g 0) = st
      ∧ RegsBut [regAt Reg.AD_SG_GT_L g 0, regAt Reg.AD_SG_GT_H g 0] R R'
      ∧ ({ R' with regs := [], adc := { R'.adc with conv := [] }, tm := { R'.tm with pair := [] } } : Region)
        = { R with regs := [], adc := { R.adc with conv := [] }, tm := { R.tm with pair := [] } }
      ∧ (∀ ch, ch < 16 → (∀ c ∈ R.conv ch, c.edge = m → c.stamp = none) → R'.conv ch = convStamped x.time.pclk ch m st R)
      ∧ ∀ k, R'.pair k = if k < 24 ∧ watches k g R = true then { R.pair k with window := some st, onTime := false }
          else R.pair k := by
  obtain ⟨l, hl, hconv⟩ := apertures_spec x m st R
  have hregs : RegsBut [regAt Reg.AD_SG_GT_L g 0, regAt Reg.AD_SG_GT_H g 0] R
      ((R.withConv l).setPair (regAt Reg.AD_SG_GT_L g 0) (regAt Reg.AD_SG_GT_H g 0) st) :=
    ((Leaves.refl id _ (R.withConv l)).setPair (by simp) (by simp) st).regs
  have hwatch : ∀ k, watches k g ((R.withConv l).setPair (regAt Reg.AD_SG_GT_L g 0) (regAt Reg.AD_SG_GT_H g 0) st) = watches k g R :=
    fun k => by
      rw [watches, watches, Region.field, Region.field,
        hregs _ (by simp only [List.mem_cons, List.not_mem_nil, or_false, regAt, Reg.TM_PAIR_DL, Reg.AD_SG_GT_L, Reg.AD_SG_GT_H]; omega)]
      rfl
  obtain ⟨p, hp, hpair⟩ := openWindows_spec (g := g)
    (R := (R.withConv l).setPair (regAt Reg.AD_SG_GT_L g 0) (regAt Reg.AD_SG_GT_H g 0) st) st
    fun k hk hw => hmet k hk ((hwatch k).symm.trans hw)
  have heq : R' = ((R.withConv l).setPair (regAt Reg.AD_SG_GT_L g 0) (regAt Reg.AD_SG_GT_H g 0) st).withPairs p := by
    rw [h', sgAperture, ← hst, hl]
    exact hp
  rw [heq]
  refine ⟨?_, hregs, rfl, hconv, fun k => ?_⟩
  · exact Region.pairVal_setPair _ (by simp only [regAt, Reg.AD_SG_GT_L, Reg.AD_SG_GT_H]; omega) _
  · rw [pair_withPairs, hpair, hwatch]
    rfl

/-! ## The commands of sample groups -/

variable {r : RegionId} {s : State}

theorem exec_sampleGroupArm (hl : Live r s) (g : Fin 8) (j : Fin 3) (v : Word) :
    exec (.sampleGroupArm r g j v) s = .next (s.onRegion r (fun x R => sampleGroupWrite x g j v R)) :=
  congrArg Host.Outcome.next (regionAccess_live hl _)

theorem exec_timedStart (hl : Live r s) (g : Fin 8) :
    exec (.timedStart r g) s = .next (s.onRegion r (fun x R => sgTimedStart x x.aclkNext g R)) :=
  congrArg Host.Outcome.next (regionEvent_live hl _)

/-- A timed start that is due while it must be refused is counted (R225, R228). -/
theorem timedStart_refused (hl : Live r s) {g : Fin 8} {m : Nat} {R : Region} (hR : R = s.region r)
    (hdue : sgDue (s.ctx r) (s.ctx r).aclkNext g R = some m) (h : initCal R = true ∨ sgBusy g m R = true) :
    Completes (.timedStart r g) s (fun t =>
      RegionBut (fun Q => { Q with adc := { Q.adc with wait := [] } }) [regAt Reg.AD_SG_OVR g 0] r s t
        ∧ (t.region r).reg (regAt Reg.AD_SG_OVR g 0) = satAdd 0xFFFF (R.reg (regAt Reg.AD_SG_OVR g 0)) 1
        ∧ ∀ h, sgWait h (t.region r) = if h = g.val then (if sgPer g R = 0 then .idle else .edge (m + sgPer g R))
            else sgWait h R) := by
  subst hR
  have heq := (sgTimedStart_of_due hdue).trans (congrArg (fun Q : Region => Q.setSgWait g _) (sgStart_refused h))
  refine ⟨_, exec_timedStart hl g, Leaves.onRegion (but := Region.noWait) ?_, ?_⟩
  · rw [heq]
    exact ((Leaves.refl ..).setReg (by simp) _).trans (setSgWait_leaves ..)
  · rw [State.region_onRegion, heq]
    exact ⟨Region.reg_count .., fun h => sgWait_setSgWait ..⟩

/-- A timed start that is due and accepted puts the channels of its group in conversion (R229, R231). -/
theorem timedStart_accepted (hl : Live r s) {g : Fin 8} {m : Nat} {R : Region} (hR : R = s.region r)
    (hdue : sgDue (s.ctx r) (s.ctx r).aclkNext g R = some m) (hcal : initCal R = false) (hbusy : sgBusy g m R = false)
    (hhand : NoHandover R) :
    Completes (.timedStart r g) s (fun t =>
      RegionBut (fun Q => { Q with adc := { Q.adc with wait := [], conv := [], opens := [] } }) [] r s t
      ∧ (t.region r).adc.opens = R.adc.opens ++ [(g.val, m)]
      ∧ (∀ ch, (t.region r).conv ch = if ch < 16 ∧ R.bit (sgCfg g) ch = true then convStarted g m ch R else R.conv ch)
      ∧ ∀ h, sgWait h (t.region r) = if h = g.val then (if sgPer g R = 0 then .idle else .edge (m + sgPer g R))
          else sgWait h R) := by
  subst hR
  obtain ⟨l, hl', hconv⟩ := sgStart_accepted hcal hbusy hhand
  have heq := (sgTimedStart_of_due hdue).trans (congrArg (fun Q : Region => Q.setSgWait g _) hl')
  refine ⟨_, exec_timedStart hl g, Leaves.onRegion ?_, ?_⟩
  · rw [heq]
    exact Leaves.of_regs rfl rfl
  · rw [State.region_onRegion, heq]
    exact ⟨rfl, hconv, fun h => sgWait_setSgWait ..⟩

end Sys2Proof.Machine
end

section
/-!
PROOFS. Delivery of samples to band units, accumulators and trackers (O22).
-/

namespace Sys2Proof.Machine

/-- What a frame says holds of a wider one. -/
theorem Leaves.weaken {but but' : Region → Region} {l : List Nat} {R R' : Region} (h : Leaves but l R R')
    (hb : ∀ Q, but' (but Q) = but' Q) : Leaves but' l R R' :=
  ⟨by rw [← hb, h.rest, hb], h.regs⟩

/-! ## Band units (R279, R280, R282) -/

/-- A region without its scheduled pulses and exits. -/
def Region.noExit (Q : Region) : Region := { Q with ev := { Q.ev with sched := [] }, lp := { Q.lp with exits := [] } }

/-- What a sample that band unit `n` judges as `z` does to its registers and the exits (R279, R280, R282). -/
structure BandTook (n m : Nat) (z : Nat × Option Nat) (R R' : Region) : Prop where
  leaves : Leaves Region.noExit [regAt Reg.LP_BAND_STAT n 0, regAt Reg.LP_BAND_XCNT n 0] R R'
  stat : R'.reg (regAt Reg.LP_BAND_STAT n 0) = if R.bit (regAt Reg.LP_BAND_CFG n 0) 31 then BitVec.ofNat 32 z.1
    else R.reg (regAt Reg.LP_BAND_STAT n 0)
  count : R'.reg (regAt Reg.LP_BAND_XCNT n 0) = match z.2 with
    | some 0 => setBits (R.reg (regAt Reg.LP_BAND_XCNT n 0)) 31 16 (R.field (regAt Reg.LP_BAND_XCNT n 0) 31 16 + 1)
    | some _ => setBits (R.reg (regAt Reg.LP_BAND_XCNT n 0)) 15 0 (R.field (regAt Reg.LP_BAND_XCNT n 0) 15 0 + 1)
    | none => R.reg (regAt Reg.LP_BAND_XCNT n 0)
  exits : R'.lp.exits = R.lp.exits ++ z.2.toList.map (fun d => (aclkEdge m, 2 * n + d))
  sched : R'.ev.sched = R.ev.sched ++ z.2.toList.map (fun d => (aclkEdge m, 0x070 + 2 * n + d))

theorem xcnt_ne_stat (n : Nat) : regAt Reg.LP_BAND_XCNT n 0 ≠ regAt Reg.LP_BAND_STAT n 0 := by
  simp only [regAt, Reg.LP_BAND_XCNT, Reg.LP_BAND_STAT]
  omega

/-- What an exit leaves alone. -/
theorem bandExit_leaves (n d m : Nat) (R : Region) : Leaves Region.noExit [regAt Reg.LP_BAND_XCNT n 0] R (bandExit n d m R) := by
  unfold bandExit
  split
  · exact ((Leaves.refl ..).setField (by simp) _ _ _).trans (Leaves.of_regs rfl rfl)
  · exact ((Leaves.refl ..).setField (by simp) _ _ _).trans (Leaves.of_regs rfl rfl)

/-- The count of an exit, 0 above, else below. -/
theorem bandExit_count (n d m : Nat) (R : Region) : (bandExit n d m R).reg (regAt Reg.LP_BAND_XCNT n 0) = match some d with
    | some 0 => setBits (R.reg (regAt Reg.LP_BAND_XCNT n 0)) 31 16 (R.field (regAt Reg.LP_BAND_XCNT n 0) 31 16 + 1)
    | some _ => setBits (R.reg (regAt Reg.LP_BAND_XCNT n 0)) 15 0 (R.field (regAt Reg.LP_BAND_XCNT n 0) 15 0 + 1)
    | none => R.reg (regAt Reg.LP_BAND_XCNT n 0) := by
  cases d <;> exact Region.reg_setField ..

theorem bandExit_exits (n d m : Nat) (R : Region) : (bandExit n d m R).lp.exits = R.lp.exits ++ [(aclkEdge m, 2 * n + d)] := by
  cases d <;> rfl

theorem bandExit_sched (n d m : Nat) (R : Region) :
    (bandExit n d m R).ev.sched = R.ev.sched ++ [(aclkEdge m, 0x070 + 2 * n + d)] := by
  cases d <;> rfl

variable {n m : Nat} {code : Int} {z : Nat × Option Nat} {R : Region}

/-- The zone of a sample is shown, and an exit leaves. -/
theorem bandSample_on (hz : bandJudged n code R = z) (h : R.bit (regAt Reg.LP_BAND_CFG n 0) 31 = true) :
    bandSample n code m R = match z.2 with
      | some d => bandExit n d m (R.setReg (regAt Reg.LP_BAND_STAT n 0) (BitVec.ofNat 32 z.1))
      | none => R.setReg (regAt Reg.LP_BAND_STAT n 0) (BitVec.ofNat 32 z.1) := by
  subst hz
  rw [Region.bit] at h
  unfold bandSample bandJudged
  simp only [h, if_true, true_and]
  split <;> rfl

theorem bandSample_off (hz : bandJudged n code R = z) (h : R.bit (regAt Reg.LP_BAND_CFG n 0) 31 = false) :
    bandSample n code m R = R ∧ z.2 = none := by
  subst hz
  rw [Region.bit] at h
  unfold bandSample bandJudged
  simp only [h, Bool.false_eq_true, if_false, false_and, and_self]

theorem bandSample_took (m : Nat) (hz : bandJudged n code R = z) : BandTook n m z R (bandSample n code m R) := by
  cases hon : R.bit (regAt Reg.LP_BAND_CFG n 0) 31 with
  | false =>
    obtain ⟨hsame, hnone⟩ := bandSample_off (m := m) hz hon
    rw [hsame]
    exact ⟨Leaves.refl .., by simp [hon], by rw [hnone], by simp [hnone], by simp [hnone]⟩
  | true =>
    have hstat : Leaves Region.noExit [regAt Reg.LP_BAND_STAT n 0, regAt Reg.LP_BAND_XCNT n 0] R
        (R.setReg (regAt Reg.LP_BAND_STAT n 0) (BitVec.ofNat 32 z.1)) := (Leaves.refl ..).setReg (by simp) _
    have hcount : (R.setReg (regAt Reg.LP_BAND_STAT n 0) (BitVec.ofNat 32 z.1)).reg (regAt Reg.LP_BAND_XCNT n 0)
        = R.reg (regAt Reg.LP_BAND_XCNT n 0) := Region.reg_setReg_of_ne _ (xcnt_ne_stat n) _
    rw [bandSample_on hz hon]
    obtain ⟨zone, exit⟩ := z
    cases exit with
    | none => exact ⟨hstat, by simp [hon], hcount, by simp, by simp⟩
    | some d =>
      have hleaves := bandExit_leaves n d m (R.setReg (regAt Reg.LP_BAND_STAT n 0) (BitVec.ofNat 32 zone))
      refine ⟨hstat.trans (hleaves.mono (by simp)), ?_, ?_, bandExit_exits .., bandExit_sched ..⟩
      · rw [hon, if_pos rfl]
        exact (hleaves.regs _ (by simpa using (xcnt_ne_stat n).symm)).trans (Region.reg_setReg ..)
      · rw [bandExit_count, Region.field, Region.field, hcount]
        rfl

/-! ## Accumulators (R233 to R235, R238) -/

/-- A region without what a sample changes at an accumulator beside registers. -/
def Region.noAcc (Q : Region) : Region :=
  { Q with adc := { Q.adc with sum := [], resStamp := [] }, ev := { Q.ev with sched := [] }, lp := { Q.lp with rcReady := [] } }

/-- The stamp of the last result of accumulator `a`. -/
def accStamp (a : Nat) (R : Region) : Ticks := mapGet (fun _ => 0) R.adc.resStamp a

/-- Accumulator `a` stands as before. -/
structure AccAlike (a : Nat) (R R' : Region) : Prop where
  sum : accSum a R' = accSum a R
  stamp : accStamp a R' = accStamp a R
  regs : ∀ o ∈ [accBase a, accStatAt a, accRes a, accBase a + 0x14], R'.reg o = R.reg o

namespace AccAlike

variable {a : Nat} {R R' R'' : Region}

theorem trans (h : AccAlike a R R') (h' : AccAlike a R' R'') : AccAlike a R R'' :=
  ⟨h'.sum.trans h.sum, h'.stamp.trans h.stamp, fun o ho => (h'.regs o ho).trans (h.regs o ho)⟩

theorem of_eq (hadc : R'.adc = R.adc) (hregs : R'.regs = R.regs) : AccAlike a R R' :=
  ⟨by rw [accSum, accSum, hadc], by rw [accStamp, accStamp, hadc], fun o _ => by rw [Region.reg, Region.reg, hregs]⟩

theorem base (h : AccAlike a R R') : R'.reg (accBase a) = R.reg (accBase a) := h.regs _ (by simp)
theorem stat (h : AccAlike a R R') : R'.reg (accStatAt a) = R.reg (accStatAt a) := h.regs _ (by simp)
theorem res (h : AccAlike a R R') : R'.reg (accRes a) = R.reg (accRes a) := h.regs _ (by simp)
theorem count (h : AccAlike a R R') : R'.reg (accBase a + 0x14) = R.reg (accBase a + 0x14) := h.regs _ (by simp)

theorem mode (h : AccAlike a R R') : accMode a R' = accMode a R := by
  rw [accMode, Region.field, h.base, accMode, Region.field]

theorem run (h : AccAlike a R R') : accRun a R' = accRun a R := by
  rw [accRun, Region.bit, h.stat, accRun, Region.bit]

theorem takes (h : AccAlike a R R') (groups : Nat) : Machine.takes a groups R' = Machine.takes a groups R := by
  unfold Machine.takes accTaking
  rw [h.mode, h.run, h.base]

theorem fills (h : AccAlike a R R') : Machine.fills a R' = Machine.fills a R := by
  rw [Machine.fills, Machine.fills, h.stat, h.base]

end AccAlike

/-- What a sample does to an accumulator is the same where the accumulator stood alike before. -/
theorem Accumulated.before {a : Nat} {code : Int} {groups : Nat} {st : Ticks} {R R' R0 : Region}
    (h : Accumulated a code groups st R R') (h0 : AccAlike a R0 R) : Accumulated a code groups st R0 R' := by
  have hs : mapGet (fun _ => 0) R.adc.resStamp a = mapGet (fun _ => 0) R0.adc.resStamp a := h0.stamp
  simp only [Accumulated, List.forall_mem_cons, List.not_mem_nil, false_imp_iff, implies_true, and_true,
    h0.takes, h0.fills, h0.sum, h0.base, h0.stat, h0.res, h0.count, h0.run, h0.mode, hs] at h ⊢
  exact h

/-- And it is seen where the accumulator stands alike after. -/
theorem Accumulated.after {a : Nat} {code : Int} {groups : Nat} {st : Ticks} {R R' R1 : Region}
    (h : Accumulated a code groups st R R') (h1 : AccAlike a R' R1) : Accumulated a code groups st R R1 := by
  have hs : mapGet (fun _ => 0) R1.adc.resStamp a = mapGet (fun _ => 0) R'.adc.resStamp a := h1.stamp
  simp only [Accumulated, List.forall_mem_cons, List.not_mem_nil, false_imp_iff, implies_true, and_true, Region.bit,
    h1.sum, h1.stat, h1.res, h1.count, h1.run, hs] at h ⊢
  exact h

/-! ### Addresses of accumulators -/

theorem accRes_eq (a : Nat) : accRes a = if a = 64 then 0x1181C else 0x10100 + 4 * a := by
  unfold accRes
  split
  · rfl
  · simp only [regAt, Reg.AD_CH_RES]
    omega

/-- A result register is none of a block of an accumulator. -/
theorem accRes_ne_block {a b x : Nat} (ha : a ≤ 64) (hx : x ≤ 0x14) : accRes a ≠ accBase b + x := by
  rw [accRes_eq, accBase_eq]
  split <;> omega

theorem accRes_ne_accRes {a b : Nat} (ha : a ≤ 64) (hb : b ≤ 64) (h : a ≠ b) : accRes a ≠ accRes b := by
  rw [accRes_eq, accRes_eq]
  split <;> split <;> omega

/-- The registers of an accumulator are none that a sample changes at another one. -/
theorem accRegs_disjoint {a b o : Nat} (ha : a ≤ 64) (hb : b ≤ 64) (h : b ≠ a)
    (ho : o ∈ [accBase b, accStatAt b, accRes b, accBase b + 0x14]) : o ∉ accRegs a := by
  have hrb : ∀ x, x ≤ 0x14 → accRes a ≠ accBase b + x := fun x => accRes_ne_block ha
  have hra : ∀ x, x ≤ 0x14 → accRes b ≠ accBase a + x := fun x => accRes_ne_block hb
  have hrr := accRes_ne_accRes hb ha h
  have h0 := hrb 0 (by decide)
  have h8 := hrb 8 (by decide)
  have h14 := hrb 0x14 (by decide)
  have h8' := hra 8 (by decide)
  have h14' := hra 0x14 (by decide)
  simp only [accRegs, accStatAt, accBase_eq, List.mem_cons, List.not_mem_nil, or_false, not_or] at ho h0 h8 h14 h8' h14' ⊢
  rcases ho with rfl | rfl | rfl | rfl <;> omega

/-! ### One sample at an accumulator -/

variable {a : Nat}

theorem takes_iff (a groups : Nat) (R : Region) : (accTaking a R = true ∧ (a = 64 ∨ bitsOf (R.reg (accBase a)) 19 12 = 0
    ∨ bitsOf (R.reg (accBase a)) 19 12 &&& groups ≠ 0)) ↔ takes a groups R = true := by
  simp [takes, or_assoc]

theorem accSample_of_not_takes {groups : Nat} (h : takes a groups R = false) (st : Ticks) :
    accSample a code groups st m R = R :=
  if_neg (fun ht => by simp [(takes_iff a groups R).1 ht] at h)

theorem accSample_of_fills {groups : Nat} (h : takes a groups R = true) (hf : fills a R = true) (st : Ticks) :
    accSample a code groups st m R = accComplete a (accSum a R + code) st m (R.countWrap (accBase a + 0x14)) :=
  (if_pos ((takes_iff a groups R).2 h)).trans (if_pos (by simpa [fills] using hf))

theorem accSample_of_partial {groups : Nat} (h : takes a groups R = true) (hf : fills a R = false) (st : Ticks) :
    accSample a code groups st m R = ((R.countWrap (accBase a + 0x14)).putAdc (fun d =>
      { d with sum := mapSet (fun _ => 0) d.sum a (accSum a R + code) })).setField (accStatAt a) 7 0
        (bitsOf (R.reg (accStatAt a)) 7 0 + 1) :=
  (if_pos ((takes_iff a groups R).2 h)).trans (if_neg (by simpa [fills] using hf))

end Sys2Proof.Machine
end

section
/-!
PROOFS. What one sample does to an accumulator (O22).
-/

namespace Sys2Proof.Machine

variable {n m a : Nat} {code : Int} {R : Region}

@[simp] theorem Region.putAdc_adc (R : Region) (f : Adc → Adc) : (R.putAdc f).adc = f R.adc := rfl
@[simp] theorem Region.putAdc_ev (R : Region) (f : Adc → Adc) : (R.putAdc f).ev = R.ev := rfl
@[simp] theorem accClear_ev (a : Nat) (R : Region) : (accClear a R).ev = R.ev := rfl

theorem accStat_ne_res (ha : a ≤ 64) : accStatAt a ≠ accRes a := (accRes_ne_block (x := 8) ha (by decide)).symm

theorem accBase_ne_res (ha : a ≤ 64) : accBase a ≠ accRes a := (accRes_ne_block (x := 0) ha (by decide)).symm

/-- The result of accumulator `a` and its stamp are shown, and its sum restarts (R234, R235). -/
def accShown (a : Nat) (v : Int) (st : Ticks) (R : Region) : Region :=
  (accClear a ((R.setReg (accRes a) (accResult (R.reg (accBase a)) v)).putAdc (fun d =>
    { d with resStamp := mapSet (fun _ => 0) d.resStamp a st }))).setBit (accStatAt a) 17 true

/-- And a one-shot accumulator stops. -/
def accResulted (a : Nat) (v : Int) (st : Ticks) (R : Region) : Region :=
  if accMode a R = 1 then (accShown a v st R).setBit (accStatAt a) 16 false else accShown a v st R

theorem accShown_mode (ha : a ≤ 64) (v : Int) (st : Ticks) (R : Region) : accMode a (accShown a v st R) = accMode a R := by
  rw [accMode, Region.field, accShown, Region.reg_setBit_of_ne _ (accStat_ne_base a).symm, accClear_base, Region.putAdc_reg,
    Region.reg_setReg_of_ne _ (accBase_ne_res ha), accMode, Region.field]

/-- Who is told of a result: the capture unit and the event fabric, but for the diagnostic accumulator (R235, R303). -/
theorem accComplete_eq (ha : a ≤ 64) (v : Int) (st : Ticks) (m : Nat) (R : Region) : accComplete a v st m R =
    if a = 64 then accResulted a v st R
    else ((accResulted a v st R).putLp (fun l =>
      { l with rcReady := l.rcReady ++ [⟨aclkEdge m, a, st, accResult (R.reg (accBase a)) v⟩] })).raiseEdge (aclkEdge m) (0x030 + a) := by
  rw [accResulted, ← accShown_mode ha v st R]
  rfl

/-- A region without sums and stamps of results. -/
def Region.noResult (Q : Region) : Region := { Q with adc := { Q.adc with sum := [], resStamp := [] } }

theorem accShown_leaves (a : Nat) (v : Int) (st : Ticks) (R : Region) :
    Leaves Region.noResult [accStatAt a, accRes a] R (accShown a v st R) := by
  have hput : Leaves Region.noResult [accStatAt a, accRes a] R ((R.setReg (accRes a) (accResult (R.reg (accBase a)) v)).putAdc (fun d =>
      { d with resStamp := mapSet (fun _ => 0) d.resStamp a st })) :=
    ((Leaves.refl ..).setReg (by simp) _).trans (Leaves.of_regs rfl rfl)
  exact (hput.trans (((accClear_leaves a _).weaken fun _ => rfl).mono (by simp))).setBit (by simp) 17 true

theorem accResulted_leaves (a : Nat) (v : Int) (st : Ticks) (R : Region) :
    Leaves Region.noResult [accStatAt a, accRes a] R (accResulted a v st R) := by
  unfold accResulted
  split
  · exact (accShown_leaves ..).setBit (by simp) 16 false
  · exact accShown_leaves ..

theorem accShown_ev (a : Nat) (v : Int) (st : Ticks) (R : Region) : (accShown a v st R).ev = R.ev := by
  simp [accShown]

theorem accShown_stat (ha : a ≤ 64) (v : Int) (st : Ticks) (R : Region) :
    (accShown a v st R).reg (accStatAt a) = setBit (setBits (R.reg (accStatAt a)) 7 0 0) 17 true := by
  rw [accShown, Region.reg_setBit, accClear_stat, Region.putAdc_reg, Region.reg_setReg_of_ne _ (accStat_ne_res ha)]

theorem accShown_res (ha : a ≤ 64) (v : Int) (st : Ticks) (R : Region) :
    (accShown a v st R).reg (accRes a) = accResult (R.reg (accBase a)) v := by
  have hne := (accStat_ne_res ha).symm
  rw [accShown, Region.reg_setBit_of_ne _ hne, (accClear_leaves ..).regs _ (by simpa using hne), Region.putAdc_reg,
    Region.reg_setReg]

theorem accShown_sum (a : Nat) (v : Int) (st : Ticks) (R : Region) (j : Nat) :
    accSum j (accShown a v st R) = if j = a then 0 else accSum j R := by
  rw [accShown, accSum_setBit, accClear_sum]
  rfl

theorem accShown_stamp (a : Nat) (v : Int) (st : Ticks) (R : Region) (j : Nat) :
    accStamp j (accShown a v st R) = if j = a then st else accStamp j R := by
  have hput : (accShown a v st R).adc.resStamp = mapSet (fun _ => 0) R.adc.resStamp a st := rfl
  rw [accStamp, hput, mapGet_mapSet, accStamp]

theorem accResulted_sum (a : Nat) (v : Int) (st : Ticks) (R : Region) (j : Nat) :
    accSum j (accResulted a v st R) = if j = a then 0 else accSum j R := by
  rw [accResulted, apply_ite (accSum j), accSum_setBit, ite_self, accShown_sum]

theorem accResulted_stamp (a : Nat) (v : Int) (st : Ticks) (R : Region) (j : Nat) :
    accStamp j (accResulted a v st R) = if j = a then st else accStamp j R := by
  rw [accResulted, ← accShown_stamp a v]
  split
  · rw [accStamp, Region.setBit_adc, accStamp]
  · rfl

theorem accResulted_res (ha : a ≤ 64) (v : Int) (st : Ticks) (R : Region) :
    (accResulted a v st R).reg (accRes a) = accResult (R.reg (accBase a)) v := by
  rw [accResulted, ← accShown_res ha v st]
  split
  · exact Region.reg_setBit_of_ne _ (accStat_ne_res ha).symm ..
  · rfl

theorem accResulted_stat (ha : a ≤ 64) (v : Int) (st : Ticks) (R : Region) : (accResulted a v st R).reg (accStatAt a) =
    if accMode a R = 1 then setBit (setBit (setBits (R.reg (accStatAt a)) 7 0 0) 17 true) 16 false
    else setBit (setBits (R.reg (accStatAt a)) 7 0 0) 17 true := by
  rw [accResulted, ← accShown_stat ha v st]
  split
  · exact Region.reg_setBit ..
  · rfl

/-- What is seen of accumulator `a` after a result does not depend on who is told. -/
theorem accComplete_alike (ha : a ≤ 64) (v : Int) (st : Ticks) (m b : Nat) (R : Region) :
    AccAlike b (accResulted a v st R) (accComplete a v st m R) := by
  rw [accComplete_eq ha]
  split
  · exact AccAlike.of_eq rfl rfl
  · exact AccAlike.of_eq rfl rfl

theorem accComplete_leaves (ha : a ≤ 64) (v : Int) (st : Ticks) (m : Nat) (R : Region) :
    Leaves Region.noAcc [accStatAt a, accRes a] R (accComplete a v st m R) := by
  have hresult := (accResulted_leaves a v st R).weaken (but' := Region.noAcc) fun _ => rfl
  rw [accComplete_eq ha]
  split
  · exact hresult
  · exact hresult.trans (Leaves.of_regs rfl rfl)

theorem accComplete_sched (ha : a ≤ 64) (v : Int) (st : Ticks) (m : Nat) (R : Region) : (accComplete a v st m R).ev.sched
    = R.ev.sched ++ if a = 64 then [] else [(aclkEdge m, 0x030 + a)] := by
  have hev : (accResulted a v st R).ev = R.ev := by
    unfold accResulted
    split
    · rw [Region.setBit_ev, accShown_ev]
    · exact accShown_ev ..
  rw [accComplete_eq ha]
  split
  · rw [hev, List.append_nil]
  · exact (congrArg (fun e : Events => e.sched ++ [(aclkEdge m, 0x030 + a)]) hev :)

/-- Bits of the status once a result is shown. -/
theorem accStat_resulted (x : Word) (one : Bool) :
    bitsOf (if one then setBit (setBit (setBits x 7 0 0) 17 true) 16 false else setBit (setBits x 7 0 0) 17 true) 7 0 = 0
      ∧ (if one then setBit (setBit (setBits x 7 0 0) 17 true) 16 false else setBit (setBits x 7 0 0) 17 true).getLsbD 17 = true
      ∧ (if one then setBit (setBit (setBits x 7 0 0) 17 true) 16 false else setBit (setBits x 7 0 0) 17 true).getLsbD 16
        = (x.getLsbD 16 && !one) := by
  have hcount : bitsOf (setBit (setBits x 7 0 0) 17 true) 7 0 = 0 := by
    rw [bitsOf_setBit_of_lt _ (by decide) (by decide), bitsOf_setBits_zero _ (by decide)]
  have hvalid : (setBit (setBits x 7 0 0) 17 true).getLsbD 17 = true := by
    rw [getLsbD_setBit _ _ _ (by decide), if_pos rfl]
  have hrun : (setBit (setBits x 7 0 0) 17 true).getLsbD 16 = x.getLsbD 16 := by
    rw [getLsbD_setBit _ _ _ (by decide), if_neg (by decide), getLsbD_setBits _ _ _ _ (by decide), if_neg (by decide)]
  cases one with
  | false => exact ⟨hcount, hvalid, hrun.trans (Bool.and_true _).symm⟩
  | true =>
    refine ⟨(bitsOf_setBit_of_lt _ (by decide) (by decide) _).trans hcount, ?_, ?_⟩
    · exact (getLsbD_setBit _ _ _ (by decide)).trans ((if_neg (by decide)).trans hvalid)
    · exact (getLsbD_setBit _ _ _ (by decide)).trans ((if_pos rfl).trans (Bool.and_false _).symm)

theorem accScount_ne {a : Nat} (ha : a ≤ 64) : accBase a + 0x14 ≠ accBase a ∧ accBase a + 0x14 ≠ accStatAt a
    ∧ accBase a + 0x14 ≠ accRes a := by
  refine ⟨by omega, by unfold accStatAt; omega, (accRes_ne_block ha (by decide)).symm⟩

/-- What one sample does to accumulator `a` (R233 to R235, R238). -/
structure AccTook (a : Nat) (code : Int) (groups : Nat) (st : Ticks) (m : Nat) (R R' : Region) : Prop where
  leaves : Leaves Region.noAcc (accRegs a) R R'
  sums : ∀ j, j ≠ a → accSum j R' = accSum j R
  stamps : ∀ j, j ≠ a → accStamp j R' = accStamp j R
  accumulated : Accumulated a code groups st R R'
  sched : R'.ev.sched = R.ev.sched ++ if a ≠ 64 ∧ takes a groups R = true ∧ fills a R = true then [(aclkEdge m, 0x030 + a)] else []

/-- A sample that accumulator `a` does not take changes nothing. -/
theorem accTook_none {groups : Nat} (h : takes a groups R = false) (code : Int) (st : Ticks) (m : Nat) :
    AccTook a code groups st m R R := by
  refine ⟨Leaves.refl .., fun _ _ => rfl, fun _ _ => rfl, ?_, by simp [h]⟩
  rw [Accumulated, if_neg (by simp [h])]
  exact ⟨rfl, fun _ _ => rfl, rfl⟩

/-- A sample is counted, and its code added to the sum of accumulator `a`, which becomes `v`. -/
def accAdded (a : Nat) (v : Int) (R : Region) : Region :=
  (R.countWrap (accBase a + 0x14)).putAdc (fun d => { d with sum := mapSet (fun _ => 0) d.sum a v })

theorem accAdded_leaves (a : Nat) (v : Int) (R : Region) : Leaves Region.noResult [accBase a + 0x14] R (accAdded a v R) := by
  have hcount : Leaves Region.noResult [accBase a + 0x14] R (R.countWrap (accBase a + 0x14)) := (Leaves.refl ..).setReg (by simp) _
  have hput : Leaves Region.noResult [accBase a + 0x14] (R.countWrap (accBase a + 0x14)) (accAdded a v R) := by
    unfold accAdded
    generalize R.countWrap (accBase a + 0x14) = Q
    exact Leaves.of_regs rfl rfl
  exact hcount.trans hput

theorem accAdded_count (a : Nat) (v : Int) (R : Region) :
    (accAdded a v R).reg (accBase a + 0x14) = R.reg (accBase a + 0x14) + 1 := Region.reg_setReg ..

theorem accAdded_sum (a : Nat) (v : Int) (R : Region) (j : Nat) :
    accSum j (accAdded a v R) = if j = a then v else accSum j R := by
  rw [accSum, accAdded, Region.putAdc_adc, Region.countWrap_adc, mapGet_mapSet, accSum]

theorem accAdded_stamp (a : Nat) (v : Int) (R : Region) (j : Nat) : accStamp j (accAdded a v R) = accStamp j R := by
  rw [accStamp, accAdded, Region.putAdc_adc, Region.countWrap_adc, accStamp]

theorem accAdded_ev (a : Nat) (v : Int) (R : Region) : (accAdded a v R).ev = R.ev := by
  rw [accAdded, Region.putAdc_ev, Region.countWrap_ev]

/-- A sample within a sum is added and counted. -/
theorem accTook_partial (ha : a ≤ 64) {groups : Nat} (ht : takes a groups R = true) (hf : fills a R = false) (code : Int)
    (st : Ticks) (m : Nat) : AccTook a code groups st m R ((accAdded a (accSum a R + code) R).setField (accStatAt a) 7 0
      (bitsOf (R.reg (accStatAt a)) 7 0 + 1)) := by
  obtain ⟨-, hstat, hres⟩ := accScount_ne ha
  have hleaves := accAdded_leaves a (accSum a R + code) R
  have hcount := accAdded_count a (accSum a R + code) R
  have hsum := accAdded_sum a (accSum a R + code) R
  have hstamp := accAdded_stamp a (accSum a R + code) R
  have hev := accAdded_ev a (accSum a R + code) R
  generalize accAdded a (accSum a R + code) R = Q at *
  refine ⟨((hleaves.weaken fun _ => rfl).mono (by simp [accRegs])).setField (by simp [accRegs]) _ _ _, fun j hj => (hsum j).trans (if_neg hj),
    fun j _ => hstamp j, ?_, ?_⟩
  · rw [Accumulated, if_pos ht, if_neg (by simp [hf])]
    refine ⟨?_, (hsum a).trans (if_pos rfl), ?_, ?_, hstamp a⟩
    · rw [Region.reg_setField_of_ne _ hstat, hcount]
    · rw [Region.reg_setField_of_ne _ (accStat_ne_res ha).symm, hleaves.regs _ (by simpa using hres.symm)]
    · rw [Region.reg_setField, hleaves.regs _ (by simpa using hstat.symm)]
  · simp [hf, hev]

/-- The last sample of a sum gives the result. -/
theorem accTook_result (ha : a ≤ 64) {groups : Nat} (ht : takes a groups R = true) (hf : fills a R = true) (code : Int)
    (st : Ticks) (m : Nat) :
    AccTook a code groups st m R (accComplete a (accSum a R + code) st m (R.countWrap (accBase a + 0x14))) := by
  obtain ⟨hbase, hstat, hres⟩ := accScount_ne ha
  have hcount : (R.countWrap (accBase a + 0x14)).reg (accBase a + 0x14) = R.reg (accBase a + 0x14) + 1 := Region.reg_setReg ..
  have hother : ∀ o, o ≠ accBase a + 0x14 → (R.countWrap (accBase a + 0x14)).reg o = R.reg o := fun o ho =>
    Region.reg_setReg_of_ne _ ho _
  have hleaves : Leaves Region.noAcc (accRegs a) R (R.countWrap (accBase a + 0x14)) :=
    (Leaves.refl ..).setReg (by simp [accRegs]) _
  have hadc : (R.countWrap (accBase a + 0x14)).adc = R.adc := Region.countWrap_adc ..
  have hev : (R.countWrap (accBase a + 0x14)).ev = R.ev := Region.countWrap_ev ..
  generalize R.countWrap (accBase a + 0x14) = Q at *
  have halike := fun b => accComplete_alike ha (accSum a R + code) st m b Q
  have hdone := accComplete_leaves ha (accSum a R + code) st m Q
  have hsched := accComplete_sched ha (accSum a R + code) st m Q
  generalize accComplete a (accSum a R + code) st m Q = R' at *
  have hsum : ∀ j, accSum j R' = if j = a then 0 else accSum j R := fun j => by
    rw [(halike j).sum, accResulted_sum, accSum, accSum, hadc]
  have hstamp : ∀ j, accStamp j R' = if j = a then st else accStamp j R := fun j => by
    rw [(halike j).stamp, accResulted_stamp, accStamp, accStamp, hadc]
  obtain ⟨hcnt, hvalid, hrun⟩ := accStat_resulted (R.reg (accStatAt a)) (accMode a R == 1)
  have hst : R'.reg (accStatAt a) = if (accMode a R == 1) = true then
        setBit (setBit (setBits (R.reg (accStatAt a)) 7 0 0) 17 true) 16 false
      else setBit (setBits (R.reg (accStatAt a)) 7 0 0) 17 true := by
    rw [(halike a).stat, accResulted_stat ha, accMode, Region.field, hother _ hbase.symm, hother _ hstat.symm]
    simp only [accMode, Region.field, beq_iff_eq]
  refine ⟨hleaves.trans (hdone.mono (by simp [accRegs])), fun j hj => (hsum j).trans (if_neg hj),
    fun j hj => (hstamp j).trans (if_neg hj), ?_, ?_⟩
  · rw [Accumulated, if_pos ht, if_pos hf, accRun, Region.bit, Region.bit, hst]
    refine ⟨?_, (hsum a).trans (if_pos rfl), ?_, (hstamp a).trans (if_pos rfl), hcnt, hvalid, hrun⟩
    · rw [hdone.regs _ (by simp [hstat, hres]), hcount]
    · rw [(halike a).res, accResulted_res ha, hother _ hbase.symm]
  · rw [hsched, hev]
    by_cases h64 : a = 64 <;> simp [h64, ht, hf]

theorem accSample_took (ha : a ≤ 64) (code : Int) (groups : Nat) (st : Ticks) (m : Nat) (R : Region) :
    AccTook a code groups st m R (accSample a code groups st m R) := by
  cases ht : takes a groups R with
  | false =>
    rw [accSample_of_not_takes ht]
    exact accTook_none ht ..
  | true =>
    cases hf : fills a R with
    | false =>
      rw [accSample_of_partial ht hf]
      exact accTook_partial ha ht hf ..
    | true =>
      rw [accSample_of_fills ht hf]
      exact accTook_result ha ht hf ..

/-- The diagnostic accumulator tells nobody of a result (R246). -/
theorem accSample_diag_leaves (code : Int) (groups : Nat) (st : Ticks) (m : Nat) (R : Region) :
    Leaves Region.noResult (accRegs 64) R (accSample 64 code groups st m R) := by
  cases ht : takes 64 groups R with
  | false =>
    rw [accSample_of_not_takes ht]
    exact Leaves.refl ..
  | true =>
    cases hf : fills 64 R with
    | false =>
      rw [accSample_of_partial ht hf]
      exact ((accAdded_leaves 64 (accSum 64 R + code) R).mono (by simp [accRegs])).setField (by simp [accRegs]) _ _ _
    | true =>
      have hcount : Leaves Region.noResult (accRegs 64) R (R.countWrap (accBase 64 + 0x14)) :=
        (Leaves.refl ..).setReg (by simp [accRegs]) _
      rw [accSample_of_fills ht hf, accComplete_eq le_rfl, if_pos rfl]
      exact hcount.trans ((accResulted_leaves ..).mono (by simp [accRegs]))

end Sys2Proof.Machine
end

section
/-!
PROOFS. What one sample does to the accumulators of a channel (O22).
-/

namespace Sys2Proof.Machine

variable {n m a : Nat} {code : Int} {groups : Nat} {st : Ticks} {R R' : Region}

/-- A sample at one accumulator leaves every other one as it was. -/
theorem AccTook.alike {b : Nat} (h : AccTook a code groups st m R R') (ha : a ≤ 64) (hb : b ≤ 64) (hne : b ≠ a) :
    AccAlike b R R' :=
  ⟨h.sums b hne, h.stamps b hne, fun _ ho => h.leaves.regs _ (accRegs_disjoint ha hb hne ho)⟩

/-! ### One sample at the accumulators of a channel -/

/-- The first `k` accumulators of channel `n` take a sample. -/
def accSamples (n : Nat) (code : Int) (groups : Nat) (st : Ticks) (m k : Nat) (R : Region) : Region :=
  foldN k (fun k R => accSample (4 * n + k) code groups st m R) R

/-- Registers that a sample of channel `n` may change at its accumulators. -/
def accsRegs (n : Nat) : List Nat := (List.range 4).flatMap (fun k => accRegs (4 * n + k))

theorem accRegs_subset {k : Nat} (hk : k < 4) : accRegs (4 * n + k) ⊆ accsRegs n := fun _ ho =>
  List.mem_flatMap.2 ⟨k, List.mem_range.2 hk, ho⟩

/-- What a sample does to the first `k` accumulators of channel `n`. -/
structure AccsTook (n : Nat) (code : Int) (groups : Nat) (st : Ticks) (m k : Nat) (R R' : Region) : Prop where
  leaves : Leaves Region.noAcc (accsRegs n) R R'
  sums : ∀ j, (∀ i, i < k → j ≠ 4 * n + i) → accSum j R' = accSum j R
  alike : ∀ j, j ≤ 64 → (∀ i, i < k → j ≠ 4 * n + i) → AccAlike j R R'
  accumulated : ∀ i, i < k → Accumulated (4 * n + i) code groups st R R'
  sched : R'.ev.sched = R.ev.sched ++ ((List.range k).filter (fun i => takes (4 * n + i) groups R && fills (4 * n + i) R)).map
    (fun i => (aclkEdge m, 0x030 + (4 * n + i)))

theorem accSamples_took (hn : n < 16) (code : Int) (groups : Nat) (st : Ticks) (m : Nat) (R : Region) :
    ∀ k, k ≤ 4 → AccsTook n code groups st m k R (accSamples n code groups st m k R)
  | 0, _ => ⟨Leaves.refl .., fun _ _ => rfl, fun _ _ _ => ⟨rfl, rfl, fun _ _ => rfl⟩, fun _ hi => absurd hi (Nat.not_lt_zero _),
      (List.append_nil _).symm⟩
  | k + 1, hk => by
    have ih := accSamples_took hn code groups st m R k (by omega)
    have hstep : accSamples n code groups st m (k + 1) R = accSample (4 * n + k) code groups st m (accSamples n code groups st m k R) :=
      foldN_succ ..
    have hnext := accSample_took (a := 4 * n + k) (by omega) code groups st m (accSamples n code groups st m k R)
    rw [← hstep] at hnext
    have hown : AccAlike (4 * n + k) R (accSamples n code groups st m k R) := ih.alike _ (by omega) (by omega)
    refine ⟨ih.leaves.trans (hnext.leaves.mono (accRegs_subset (by omega))), fun j hj => ?_, fun j hj hne => ?_, fun i hi => ?_, ?_⟩
    · rw [hnext.sums j (hj k (by omega)), ih.sums j fun i hi => hj i (by omega)]
    · exact (ih.alike j hj fun i hi => hne i (by omega)).trans (hnext.alike (by omega) hj (hne k (by omega)))
    · rcases Nat.lt_succ_iff_lt_or_eq.1 hi with hlt | rfl
      · exact (ih.accumulated i hlt).after (hnext.alike (by omega) (by omega) (by omega))
      · exact hnext.accumulated.before hown
    · rw [hnext.sched, ih.sched, hown.takes, hown.fills, List.range_succ, List.filter_append, List.map_append, List.append_assoc]
      by_cases h : takes (4 * n + k) groups R = true ∧ fills (4 * n + k) R = true
      · simp [h, show 4 * n + k ≠ 64 by omega]
      · simp [h, show ¬ (takes (4 * n + k) groups R && fills (4 * n + k) R) = true by simpa using h]

end Sys2Proof.Machine
end

section
/-!
PROOFS. What one sample does to a tracker, and what the delivery of a sample is made of (O22).
-/

namespace Sys2Proof.Machine

variable {n m a t : Nat} {code : Int} {groups : Nat} {st : Ticks} {R R' R0 R1 : Region}

/-! ## Trackers (R233, R239, R240) -/

/-- A region without its trackers. -/
def Region.noTrk (Q : Region) : Region := { Q with adc := { Q.adc with trk := [] } }

/-- Tracker `t` and its settings stand as before. -/
structure TrkAlike (t : Nat) (R R' : Region) : Prop where
  tracker : R'.tracker t = R.tracker t
  regs : ∀ x ∈ [0, 0xC, 0x10, 0x14], R'.reg (trkBase t + x) = R.reg (trkBase t + x)

namespace TrkAlike

theorem base (h : TrkAlike t R R') : R'.reg (trkBase t) = R.reg (trkBase t) := h.regs 0 (by simp)

theorem mode (h : TrkAlike t R R') : trkMode t R' = trkMode t R := by
  rw [trkMode, Region.field, h.base, trkMode, Region.field]

theorem repeats (h : TrkAlike t R R') : trkRepeat t R' = trkRepeat t R := by
  rw [trkRepeat, Region.bit, h.base, trkRepeat, Region.bit]

theorem len (h : TrkAlike t R R') : trkLen t R' = trkLen t R := by
  rw [trkLen, h.regs 0xC (by simp), trkLen]

theorem opens (h : TrkAlike t R R') : trkOpen t R' = trkOpen t R :=
  pairVal_congr (h.regs 0x10 (by simp)) (h.regs 0x14 (by simp))

/-- What a sample does to a tracker is the same where the tracker stood alike before. -/
theorem took (h : TrkAlike t R0 R) (ht : TrackerTook t code st m groups R R') : TrackerTook t code st m groups R0 R' := by
  simp only [TrackerTook, Region.field, h.tracker, h.base, h.mode, h.repeats, h.len, h.opens] at ht ⊢
  exact ht

end TrkAlike

theorem trkTake_tick (h : trkMode t R = 1) (k : Tracker) (q : Taken) : trkTake t R k q =
    if q.stamp.toNat < (trkOpen t R).toNat then k
    else if q.stamp.toNat < (trkOpen t R).toNat + trkLen t R then { k with cur := windowAdd k.cur q }
    else if trkRepeat t R then { k with later := k.later ++ [q] } else k := by
  simp only [trkTake, h]

theorem trkTake_count (h : trkMode t R = 2) (k : Tracker) (q : Taken) : trkTake t R k q =
    if k.cur.cnt < max 2 (trkLen t R) then { k with cur := windowAdd k.cur q }
    else if trkRepeat t R then { k with later := k.later ++ [q] } else k := by
  simp only [trkTake, h, trkCount]
  rfl

theorem trkSample_leaves (t : Nat) (q : Taken) (groups : Nat) (R : Region) : Leaves Region.noTrk [] R (trkSample t q groups R) := by
  simp only [trkSample]
  split
  · exact Leaves.of_regs rfl rfl
  · exact Leaves.refl ..

theorem trkSample_other {j : Nat} (h : j ≠ t) (q : Taken) (groups : Nat) (R : Region) :
    (trkSample t q groups R).tracker j = R.tracker j := by
  simp only [trkSample]
  split
  · exact (Region.tracker_setTracker ..).trans (if_neg h)
  · rfl

theorem trkSample_took (t : Nat) (code : Int) (st : Ticks) (m groups : Nat) (R : Region) :
    TrackerTook t code st m groups R (trkSample t ⟨code, st, m⟩ groups R) := by
  unfold TrackerTook trkSample
  by_cases htakes : (R.tracker t).armed = true ∧ (R.field (trkBase t) 19 12 = 0 ∨ R.field (trkBase t) 19 12 &&& groups ≠ 0)
  · simp only [if_pos htakes, Region.tracker_setTracker, if_true]
    refine ⟨fun hmode hearly => ?early, fun hin => ?within, fun hout => ?beyond⟩
    case early => rw [trkTake_tick hmode, if_pos hearly]
    case within =>
      rcases hin with ⟨hmode, hopen, hclose⟩ | ⟨hmode, hcnt⟩
      · rw [trkTake_tick hmode, if_neg (Nat.not_lt.2 hopen), if_pos hclose]
        rfl
      · rw [trkTake_count hmode, if_pos hcnt]
        rfl
    case beyond =>
      rcases hout with ⟨hmode, hclose⟩ | ⟨hmode, hcnt⟩
      · rw [trkTake_tick hmode, if_neg (Nat.not_lt.2 (Nat.le_of_add_right_le hclose)), if_neg (Nat.not_lt.2 hclose)]
      · rw [trkTake_count hmode, if_neg (Nat.not_lt.2 hcnt)]
  · simp only [if_neg htakes]

/-! ## The delivery of a sample (R224, R229, R232, R248) -/

/-- A region after the delivery of code `code`, unclipped `w`, of a conversion of channel `n` (R232). -/
def sampleTaken (n : Nat) (w code : Int) (m : Nat) (groups : Nat) (st : Ticks) (l : List Conv) (R : Region) : Region :=
  let R := R.setConv n l
  let R := if code ≠ w then R.count (regAt Reg.AD_CH_CLIP n 0) else R
  let R := accSamples n code groups st m 4 (bandSample n code m R)
  foldN 2 (fun k R => trkSample (2 * n + k) ⟨code, st, m⟩ groups R) R

/-- The value of a conversion, before it is clipped (R224, R243, R244). -/
theorem deliverSample_eq {x : Ctx} {c : Conv} {l : List Conv} {v w : Int} (hconv : R.conv n = c :: l)
    (hst : c.stamp = some st) (hover : c.edge + 16 ≤ x.aclkNext) (hprobe : c.probe ≠ none → R.bit Reg.AD_CFG.base 0 = false)
    (hw : w = (if c.free then Config.freeSample x.free
      else (v + R.corr c.slice + (match c.probe with | some p => (p * 98304 + 50) / 100 | none => 0) + 32) / 64)) :
    deliverSample x n v R = sampleTaken n w (clipCode w) (c.edge + 17) c.groups st l R := by
  have hvalue : (if c.free then Config.freeSample x.free else roundCode (converted x c.slice c.probe v (R.setConv n l))) = w := by
    rw [hw]
    cases hp : c.probe with
    | none => rfl
    | some p =>
      have hvref : (R.setConv n l).bit Reg.AD_CFG.base 0 = false := hprobe (by simp [hp])
      simp only [converted, hvref, Bool.false_eq_true, if_false]
      rfl
  unfold deliverSample
  simp only [hconv, hst, if_neg (Nat.not_lt.2 hover), hvalue]
  rfl

end Sys2Proof.Machine
end

section
/-!
PROOFS. All that a sample of a channel does (O22).
-/

namespace Sys2Proof.Machine

variable {n m a t : Nat} {w code : Int} {groups : Nat} {st : Ticks} {l : List Conv} {z : Nat × Option Nat} {R R' R'' : Region}

/-! ## What a frame leaves of band units, accumulators and trackers -/

theorem AccAlike.of_leaves {but : Region → Region} {rs : List Nat} (h : Leaves but rs R R')
    (hb : ∀ Q, (but Q).adc.sum = Q.adc.sum ∧ (but Q).adc.resStamp = Q.adc.resStamp)
    (hd : ∀ o ∈ [accBase a, accStatAt a, accRes a, accBase a + 0x14], o ∉ rs) : AccAlike a R R' := by
  have hsum : R'.adc.sum = R.adc.sum :=
    ((hb _).1.symm.trans (congrArg (fun Q : Region => Q.adc.sum) h.rest)).trans (hb _).1
  have hstamp : R'.adc.resStamp = R.adc.resStamp :=
    ((hb _).2.symm.trans (congrArg (fun Q : Region => Q.adc.resStamp) h.rest)).trans (hb _).2
  exact ⟨by rw [accSum, accSum, hsum], by rw [accStamp, accStamp, hstamp], fun o ho => h.regs o (hd o ho)⟩

theorem TrkAlike.of_leaves {but : Region → Region} {rs : List Nat} (h : Leaves but rs R R')
    (hb : ∀ Q, (but Q).adc.trk = Q.adc.trk) (hd : ∀ x ∈ [0, 0xC, 0x10, 0x14], trkBase t + x ∉ rs) : TrkAlike t R R' := by
  have htrk : R'.adc.trk = R.adc.trk := ((hb _).symm.trans (congrArg (fun Q : Region => Q.adc.trk) h.rest)).trans (hb _)
  exact ⟨by rw [Region.tracker, Region.tracker, htrk], fun x hx => h.regs _ (hd x hx)⟩

theorem TrkAlike.trans (h : TrkAlike t R R') (h' : TrkAlike t R' R'') : TrkAlike t R R'' :=
  ⟨h'.tracker.trans h.tracker, fun x hx => (h'.regs x hx).trans (h.regs x hx)⟩

theorem bandJudged_congr (hcfg : R'.reg (regAt Reg.LP_BAND_CFG n 0) = R.reg (regAt Reg.LP_BAND_CFG n 0))
    (hlim : R'.reg (regAt Reg.LP_BAND_LIM n 0) = R.reg (regAt Reg.LP_BAND_LIM n 0))
    (hstat : R'.reg (regAt Reg.LP_BAND_STAT n 0) = R.reg (regAt Reg.LP_BAND_STAT n 0))
    (hvalue : R'.reg Reg.LP_INJ_VALUE.base = R.reg Reg.LP_INJ_VALUE.base)
    (hinj : R'.reg Reg.LP_INJ_CFG.base = R.reg Reg.LP_INJ_CFG.base) : bandJudged n code R' = bandJudged n code R := by
  have hcenter : bandCenter n R' = bandCenter n R := by
    unfold bandCenter Region.injected
    rw [hlim, hvalue, hinj]
  unfold bandJudged Region.field
  rw [hcenter, hcfg, hlim, hstat]

/-- What a sample does to a tracker is seen where the tracker stands alike after. -/
theorem TrackerTook.after (h : TrackerTook t code st m groups R R') (ht : R''.tracker t = R'.tracker t) :
    TrackerTook t code st m groups R R'' := by
  simp only [TrackerTook, ht] at h ⊢
  exact h

/-! ### Addresses -/

/-- Registers of channel `n` that a sample changes beside those of its accumulators. -/
def bandRegs (n : Nat) : List Nat := [regAt Reg.AD_CH_CLIP n 0, regAt Reg.LP_BAND_STAT n 0, regAt Reg.LP_BAND_XCNT n 0]

theorem mem_bandRegs {o : Nat} : o ∈ bandRegs n ↔ o = 0x10300 + 4 * n ∨ o = 0x30008 + 0x10 * n ∨ o = 0x3000C + 0x10 * n := by
  simp only [bandRegs, regAt, Reg.AD_CH_CLIP, Reg.LP_BAND_STAT, Reg.LP_BAND_XCNT, List.mem_cons, List.not_mem_nil, or_false]
  omega

theorem clip_not_band (n : Nat) : regAt Reg.AD_CH_CLIP n 0 ∉ [regAt Reg.LP_BAND_STAT n 0, regAt Reg.LP_BAND_XCNT n 0] := by
  simp only [regAt, Reg.AD_CH_CLIP, Reg.LP_BAND_STAT, Reg.LP_BAND_XCNT, List.mem_cons, List.not_mem_nil, or_false]
  omega

/-- A register of an accumulator: a result, or one of a block. -/
theorem accRegs_bounds {o : Nat} (ha : a ≤ 64) (ho : o ∈ [accBase a, accStatAt a, accRes a, accBase a + 0x14]) :
    (0x10100 ≤ o ∧ o < 0x10200) ∨ (0x11000 ≤ o ∧ o < 0x11820) := by
  have hres := accRes_eq a
  simp only [accStatAt, accBase_eq, List.mem_cons, List.not_mem_nil, or_false] at ho
  split at hres <;> omega

theorem accsRegs_bounds {o : Nat} (hn : n < 16) (ho : o ∈ accsRegs n) :
    (0x10100 ≤ o ∧ o < 0x10200) ∨ (0x11000 ≤ o ∧ o < 0x11820) := by
  obtain ⟨k, hk, ho⟩ := List.mem_flatMap.1 ho
  have hk := List.mem_range.1 hk
  refine accRegs_bounds (a := 4 * n + k) (by omega) ?_
  simp only [accRegs, List.mem_cons, List.not_mem_nil, or_false] at ho
  rcases ho with rfl | rfl | rfl <;> simp

theorem accRegs_not_band {o : Nat} (hn : n < 16) (ha : a ≤ 64) (ho : o ∈ [accBase a, accStatAt a, accRes a, accBase a + 0x14]) :
    o ∉ bandRegs n := by
  have hb := accRegs_bounds ha ho
  rw [mem_bandRegs]
  omega

theorem bandRegs_not_accs {o : Nat} (hn : n < 16) (ho : o ∈ bandRegs n) : o ∉ accsRegs n := fun h => by
  have hb := accsRegs_bounds hn h
  rw [mem_bandRegs] at ho
  omega

theorem trkRegs_not_taken {x : Nat} (hn : n < 16) (ht : t < 32) (hx : x ∈ [0, 0xC, 0x10, 0x14]) :
    trkBase t + x ∉ bandRegs n ∧ trkBase t + x ∉ accsRegs n := by
  simp only [List.mem_cons, List.not_mem_nil, or_false] at hx
  rw [trkBase_eq]
  refine ⟨fun h => ?_, fun h => ?_⟩
  · have hb := mem_bandRegs.1 h
    omega
  · have hb := accsRegs_bounds hn h
    omega

/-! ### The conversion is over, and a clipped sample is counted (R229, R232) -/

/-- A region without its conversions. -/
def Region.noConv (Q : Region) : Region := { Q with adc := { Q.adc with conv := [] } }

/-- The conversion is over, and a clipped sample is counted. -/
def sampleBegun (n : Nat) (w code : Int) (l : List Conv) (R : Region) : Region :=
  if code ≠ w then (R.setConv n l).count (regAt Reg.AD_CH_CLIP n 0) else R.setConv n l

theorem sampleBegun_leaves (n : Nat) (w code : Int) (l : List Conv) (R : Region) :
    Leaves Region.noConv [regAt Reg.AD_CH_CLIP n 0] R (sampleBegun n w code l R) := by
  have hconv : Leaves Region.noConv [regAt Reg.AD_CH_CLIP n 0] R (R.setConv n l) := Leaves.of_regs rfl rfl
  unfold sampleBegun
  split
  · exact hconv.setReg (by simp) _
  · exact hconv

theorem sampleBegun_clip (n : Nat) (w code : Int) (l : List Conv) (R : Region) :
    (sampleBegun n w code l R).reg (regAt Reg.AD_CH_CLIP n 0) = if code = w then R.reg (regAt Reg.AD_CH_CLIP n 0)
      else satAdd 0xFFFF (R.reg (regAt Reg.AD_CH_CLIP n 0)) 1 := by
  unfold sampleBegun
  by_cases h : code = w
  · rw [if_neg (not_not_intro h), if_pos h]
    rfl
  · rw [if_pos h, if_neg h]
    exact Region.reg_count ..

theorem sampleBegun_conv (n : Nat) (w code : Int) (l : List Conv) (R : Region) (ch : Nat) :
    (sampleBegun n w code l R).conv ch = if ch = n then l else R.conv ch := by
  have hconv : (R.setConv n l).conv ch = if ch = n then l else R.conv ch := mapGet_mapSet ..
  have hadc : (sampleBegun n w code l R).adc = (R.setConv n l).adc := by
    unfold sampleBegun
    split <;> rfl
  rw [← hconv, Region.conv, hadc, Region.conv]

/-! ### The trackers of a channel -/

/-- What a sample does to the two trackers of channel `n`. -/
structure TrksTook (n : Nat) (code : Int) (st : Ticks) (m groups : Nat) (R R' : Region) : Prop where
  leaves : Leaves Region.noTrk [] R R'
  took : ∀ k, k < 2 → TrackerTook (2 * n + k) code st m groups R R'
  other : ∀ k, k ≠ 2 * n → k ≠ 2 * n + 1 → R'.tracker k = R.tracker k

theorem trksSample_took (n : Nat) (code : Int) (st : Ticks) (m groups : Nat) (R : Region) :
    TrksTook n code st m groups R (foldN 2 (fun k R => trkSample (2 * n + k) ⟨code, st, m⟩ groups R) R) := by
  change TrksTook n code st m groups R (trkSample (2 * n + 1) ⟨code, st, m⟩ groups (trkSample (2 * n) ⟨code, st, m⟩ groups R))
  have hfirst := trkSample_took (2 * n) code st m groups R
  have hleaves := trkSample_leaves (2 * n) ⟨code, st, m⟩ groups R
  have hother : ∀ k, k ≠ 2 * n → (trkSample (2 * n) ⟨code, st, m⟩ groups R).tracker k = R.tracker k := fun k hk =>
    trkSample_other hk ..
  generalize trkSample (2 * n) ⟨code, st, m⟩ groups R = R1 at *
  have hown : TrkAlike (2 * n + 1) R R1 := ⟨hother _ (by omega), fun x _ => hleaves.regs _ List.not_mem_nil⟩
  refine ⟨hleaves.trans (trkSample_leaves ..), fun k hk => ?_, fun k h0 h1 => (trkSample_other h1 ..).trans (hother k h0)⟩
  match k, hk with
  | 0, _ => exact hfirst.after (trkSample_other (by omega) ..)
  | 1, _ => exact hown.took (trkSample_took ..)

/-! ### All that a sample does -/

/-- What a sample of code `code` of channel `n` does, to which a conversion of these groups and stamp `st` led. -/
structure SampleTook (n : Nat) (w code : Int) (m groups : Nat) (st : Ticks) (l : List Conv) (z : Nat × Option Nat)
    (R R' : Region) : Prop where
  leaves : Leaves Region.noSample (regAt Reg.AD_CH_CLIP n 0 :: regAt Reg.LP_BAND_STAT n 0 :: regAt Reg.LP_BAND_XCNT n 0 :: accsRegs n) R R'
  conv : ∀ ch, R'.conv ch = if ch = n then l else R.conv ch
  clip : R'.reg (regAt Reg.AD_CH_CLIP n 0) = if code = w then R.reg (regAt Reg.AD_CH_CLIP n 0)
    else satAdd 0xFFFF (R.reg (regAt Reg.AD_CH_CLIP n 0)) 1
  stat : R'.reg (regAt Reg.LP_BAND_STAT n 0) = if R.bit (regAt Reg.LP_BAND_CFG n 0) 31 then BitVec.ofNat 32 z.1
    else R.reg (regAt Reg.LP_BAND_STAT n 0)
  count : R'.reg (regAt Reg.LP_BAND_XCNT n 0) = match z.2 with
    | some 0 => setBits (R.reg (regAt Reg.LP_BAND_XCNT n 0)) 31 16 (R.field (regAt Reg.LP_BAND_XCNT n 0) 31 16 + 1)
    | some _ => setBits (R.reg (regAt Reg.LP_BAND_XCNT n 0)) 15 0 (R.field (regAt Reg.LP_BAND_XCNT n 0) 15 0 + 1)
    | none => R.reg (regAt Reg.LP_BAND_XCNT n 0)
  exits : R'.lp.exits = R.lp.exits ++ z.2.toList.map (fun d => (aclkEdge m, 2 * n + d))
  accumulated : ∀ k, k < 4 → Accumulated (4 * n + k) code groups st R R'
  sched : R'.ev.sched = R.ev.sched ++ z.2.toList.map (fun d => (aclkEdge m, 0x070 + 2 * n + d))
    ++ ((List.range 4).filter (fun k => takes (4 * n + k) groups R && fills (4 * n + k) R)).map
      (fun k => (aclkEdge m, 0x030 + (4 * n + k)))
  trackers : ∀ k, k < 2 → TrackerTook (2 * n + k) code st m groups R R'
  otherTrackers : ∀ k, k ≠ 2 * n → k ≠ 2 * n + 1 → R'.tracker k = R.tracker k
  otherSums : ∀ a, (∀ k, k < 4 → a ≠ 4 * n + k) → accSum a R' = accSum a R

theorem sampleTaken_took (hn : n < 16) (hz : bandJudged n code R = z) (w : Int) (m groups : Nat) (st : Ticks) (l : List Conv) :
    SampleTook n w code m groups st l z R (sampleTaken n w code m groups st l R) := by
  have hbegun := sampleBegun_leaves n w code l R
  have hclip := sampleBegun_clip n w code l R
  have hconv := sampleBegun_conv n w code l R
  have heq : sampleTaken n w code m groups st l R = foldN 2 (fun k R => trkSample (2 * n + k) ⟨code, st, m⟩ groups R)
      (accSamples n code groups st m 4 (bandSample n code m (sampleBegun n w code l R))) := rfl
  rw [heq]
  generalize sampleBegun n w code l R = R1 at *
  have hreg : ∀ o, 0x30000 ≤ o → R1.reg o = R.reg o := fun o ho => hbegun.regs o (by
    simp only [regAt, Reg.AD_CH_CLIP, List.mem_cons, List.not_mem_nil, or_false]
    omega)
  have hcfg : R1.reg (regAt Reg.LP_BAND_CFG n 0) = R.reg (regAt Reg.LP_BAND_CFG n 0) :=
    hreg _ (by simp only [regAt, Reg.LP_BAND_CFG]; omega)
  have hlim : R1.reg (regAt Reg.LP_BAND_LIM n 0) = R.reg (regAt Reg.LP_BAND_LIM n 0) :=
    hreg _ (by simp only [regAt, Reg.LP_BAND_LIM]; omega)
  have hstat : R1.reg (regAt Reg.LP_BAND_STAT n 0) = R.reg (regAt Reg.LP_BAND_STAT n 0) :=
    hreg _ (by simp only [regAt, Reg.LP_BAND_STAT]; omega)
  have hcount : R1.reg (regAt Reg.LP_BAND_XCNT n 0) = R.reg (regAt Reg.LP_BAND_XCNT n 0) :=
    hreg _ (by simp only [regAt, Reg.LP_BAND_XCNT]; omega)
  have hband := bandSample_took m ((bandJudged_congr hcfg hlim hstat (hreg _ (by decide)) (hreg _ (by decide))).trans hz)
  generalize bandSample n code m R1 = R2 at *
  have haccs := accSamples_took hn code groups st m R2 4 le_rfl
  generalize accSamples n code groups st m 4 R2 = R3 at *
  have htrks := trksSample_took n code st m groups R3
  generalize foldN 2 (fun k R => trkSample (2 * n + k) ⟨code, st, m⟩ groups R) R3 = R4 at *
  -- what stands before the accumulators and trackers take the sample
  have hbefore : Leaves Region.noSample (bandRegs n) R R2 :=
    ((hbegun.weaken fun _ => rfl).mono (by simp [bandRegs])).trans ((hband.leaves.weaken fun _ => rfl).mono (by simp [bandRegs]))
  have hacc : ∀ a, a ≤ 64 → AccAlike a R R2 := fun a ha =>
    (AccAlike.of_leaves hbegun (fun _ => ⟨rfl, rfl⟩) fun o ho h => accRegs_not_band hn ha ho (by simp_all [bandRegs])).trans
      (AccAlike.of_leaves hband.leaves (fun _ => ⟨rfl, rfl⟩) fun o ho h => accRegs_not_band hn ha ho (by simp_all [bandRegs]))
  have htrk : ∀ t, t < 32 → TrkAlike t R R3 := fun t ht =>
    ((TrkAlike.of_leaves hbegun (fun _ => rfl) fun x hx h => (trkRegs_not_taken hn ht hx).1 (by simp_all [bandRegs])).trans
      (TrkAlike.of_leaves hband.leaves (fun _ => rfl) fun x hx h => (trkRegs_not_taken hn ht hx).1 (by simp_all [bandRegs]))).trans
      (TrkAlike.of_leaves haccs.leaves (fun _ => rfl) fun x hx => (trkRegs_not_taken hn ht hx).2)
  -- what stands after the trackers as the accumulators left it
  have hafter : ∀ a, AccAlike a R3 R4 := fun a => AccAlike.of_leaves htrks.leaves (fun _ => ⟨rfl, rfl⟩) fun _ _ => List.not_mem_nil
  have hkept : ∀ o ∈ bandRegs n, R4.reg o = R2.reg o := fun o ho =>
    (htrks.leaves.regs o List.not_mem_nil).trans (haccs.leaves.regs o (bandRegs_not_accs hn ho))
  have hconvs : R4.adc.conv = R1.adc.conv :=
    (congrArg (fun Q : Region => Q.adc.conv) htrks.leaves.rest :).trans
      ((congrArg (fun Q : Region => Q.adc.conv) haccs.leaves.rest :).trans (congrArg (fun Q : Region => Q.adc.conv) hband.leaves.rest :))
  have hexits : R4.lp.exits = R2.lp.exits :=
    (congrArg (fun Q : Region => Q.lp.exits) htrks.leaves.rest :).trans (congrArg (fun Q : Region => Q.lp.exits) haccs.leaves.rest :)
  have hev : R4.ev.sched = R3.ev.sched := (congrArg (fun Q : Region => Q.ev.sched) htrks.leaves.rest :)
  have hev1 : R1.ev.sched = R.ev.sched := (congrArg (fun Q : Region => Q.ev.sched) hbegun.rest :)
  have hexits1 : R1.lp.exits = R.lp.exits := (congrArg (fun Q : Region => Q.lp.exits) hbegun.rest :)
  exact {
    leaves := ((hbefore.mono (by simp [bandRegs])).trans ((haccs.leaves.weaken fun _ => rfl).mono fun o ho => by simp [ho])).trans
      ((htrks.leaves.weaken fun _ => rfl).mono (List.nil_subset _))
    conv := fun ch => by rw [← hconv, Region.conv, hconvs, Region.conv]
    clip := by
      rw [hkept _ (by simp [bandRegs]), hband.leaves.regs _ (clip_not_band n), hclip]
    stat := by rw [hkept _ (by simp [bandRegs]), hband.stat, Region.bit, hcfg, hstat, Region.bit]
    count := by
      rw [hkept _ (by simp [bandRegs]), hband.count, hcount, Region.field, Region.field, hcount]
      rfl
    exits := by rw [hexits, hband.exits, hexits1]
    accumulated := fun k hk => ((haccs.accumulated k hk).before (hacc _ (by omega))).after (hafter _)
    sched := by
      have hfull : ∀ k ∈ List.range 4, (takes (4 * n + k) groups R2 && fills (4 * n + k) R2)
          = (takes (4 * n + k) groups R && fills (4 * n + k) R) := fun k hk => by
        have hk := List.mem_range.1 hk
        rw [(hacc (4 * n + k) (by omega)).takes, (hacc (4 * n + k) (by omega)).fills]
      rw [hev, haccs.sched, hband.sched, hev1, List.filter_congr hfull]
    trackers := fun k hk => (htrk _ (by omega)).took (htrks.took k hk)
    otherTrackers := fun k h0 h1 => by
      have htrk : R3.adc.trk = R.adc.trk :=
        (congrArg (fun Q : Region => Q.adc.trk) haccs.leaves.rest :).trans
          ((congrArg (fun Q : Region => Q.adc.trk) hband.leaves.rest :).trans (congrArg (fun Q : Region => Q.adc.trk) hbegun.rest :))
      rw [htrks.other k h0 h1, Region.tracker, htrk, Region.tracker]
    otherSums := fun a ha => by
      have hsum : R2.adc.sum = R.adc.sum :=
        (congrArg (fun Q : Region => Q.adc.sum) hband.leaves.rest :).trans (congrArg (fun Q : Region => Q.adc.sum) hbegun.rest :)
      rw [(hafter a).sum, haccs.sums a ha, accSum, hsum, accSum] }

end Sys2Proof.Machine
end

section
/-!
PROOFS. The diagnostic accumulator's sample, and the obligation on sample groups and samples (O22).
-/

namespace Sys2Proof.Machine

variable {v w code : Int}

/-! ## A conversion that is not over, and the diagnostic accumulator (R229, R246) -/

/-- A conversion that is not over, or none, delivers no sample. -/
theorem deliverSample_of_not_over {x : Ctx} {n : Nat} {R : Region}
    (h : ∀ c l, R.conv n = c :: l → c.stamp = none ∨ x.aclkNext < c.edge + 16) : deliverSample x n v R = R := by
  unfold deliverSample
  split
  · rfl
  next c l hconv =>
    split
    · rfl
    next st hst => exact if_pos ((h c l hconv).resolve_left (by simp [hst]))

/-- The parked spare converts for the diagnostic accumulator, at least 16 ACLK after the last time (R246). -/
def diagReady (m : Nat) (R : Region) : Bool :=
  R.field Reg.AD_PROBE.base 31 30 == 2 && sliceState (16 + R.field Reg.AD_PROBE.base 20 20) R == 4
    && R.adc.diagEdge.all (fun e => decide (e + 16 ≤ m))

theorem diagReady_iff (m : Nat) (R : Region) : (spareParked (probeSpare R) R ∧ probeTarget R = 2
    ∧ !(match R.adc.diagEdge with | some e => decide (m < e + 16) | none => false)) ↔ diagReady m R = true := by
  unfold diagReady spareParked probeSpare probeTarget
  cases R.adc.diagEdge with
  | none => simp [and_comm]
  | some e => simp [and_comm, and_left_comm]

/-- A region whose diagnostic accumulator takes a sample at ACLK edge `m`. -/
def diagBegun (m : Nat) (R : Region) : Region := R.putAdc (fun d => { d with diagEdge := some m })

theorem deliverDiag_of_ready {x : Ctx} {m : Nat} {st : Ticks} {R : Region} (hm : m = x.aclkNext) (hst : st = x.gtAclk (m - 13))
    (hvref : R.bit Reg.AD_CFG.base 0 = false) (hready : diagReady m R = true)
    (hw : w = (if sampleFree 16 (5 * (m - 13) / 2) st R then Config.freeSample x.free
      else (v + R.corr (16 + R.field Reg.AD_PROBE.base 20 20) + (probeCode R * 98304 + 50) / 100 + 32) / 64)) :
    deliverDiag x v R = accSample 64 (clipCode w) 0 st m (diagBegun m R) := by
  subst hm hst
  have hvalue : (if sampleFree 16 (5 * (x.aclkNext - 13) / 2) (x.gtAclk (x.aclkNext - 13)) (diagBegun x.aclkNext R) then
        Config.freeSample x.free
      else roundCode (converted x (16 + probeSpare (diagBegun x.aclkNext R)) (some (probeCode (diagBegun x.aclkNext R))) v
        (diagBegun x.aclkNext R))) = w := by
    have hbit : (diagBegun x.aclkNext R).bit Reg.AD_CFG.base 0 = false := hvref
    rw [hw]
    simp only [converted, hbit, Bool.false_eq_true, if_false]
    rfl
  rw [← hvalue]
  exact if_pos ((diagReady_iff ..).2 hready)

theorem deliverDiag_of_not_ready {x : Ctx} {R : Region} (hready : diagReady x.aclkNext R = false) : deliverDiag x v R = R :=
  if_neg fun h => by simp [(diagReady_iff ..).1 h] at hready

/-- What a sample does to the diagnostic accumulator. -/
theorem diagSample_took (code : Int) (groups : Nat) (st : Ticks) (m : Nat) {R R' : Region}
    (h' : R' = accSample 64 code groups st m (diagBegun m R)) : Leaves Region.noSample (accRegs 64) R R'
      ∧ Accumulated 64 code groups st R R' ∧ R'.ev = R.ev ∧ R'.lp = R.lp ∧ R'.adc.diagEdge = some m := by
  have hbegun : Leaves Region.noSample (accRegs 64) R (diagBegun m R) := Leaves.of_regs rfl rfl
  have halike : AccAlike 64 R (diagBegun m R) := ⟨rfl, rfl, fun _ _ => rfl⟩
  have hedge : (diagBegun m R).adc.diagEdge = some m := rfl
  have hev : (diagBegun m R).ev = R.ev := rfl
  have hlp : (diagBegun m R).lp = R.lp := rfl
  have hleaves := accSample_diag_leaves code groups st m (diagBegun m R)
  have htook := (accSample_took le_rfl code groups st m (diagBegun m R)).accumulated
  rw [← h'] at hleaves htook
  exact ⟨hbegun.trans (hleaves.weaken fun _ => rfl), htook.before halike,
    (congrArg (fun Q : Region => Q.ev) hleaves.rest :).trans hev, (congrArg (fun Q : Region => Q.lp) hleaves.rest :).trans hlp,
    (congrArg (fun Q : Region => Q.adc.diagEdge) hleaves.rest :).trans hedge⟩

/-! ## The command -/

variable {r : RegionId} {s : State}

theorem Leaves.onRegion_took {but : Region → Region} {rs : List Nat} {f : Ctx → Region → Region} {n : Nat}
    (h : Leaves but rs (s.region r) (f (s.ctx r) (s.region r))) :
    RegionBut but rs r { s with free := s.free + n } ((s.onRegion r f).took n) := by
  obtain ⟨honly, hrest, hregs⟩ := Leaves.onRegion h
  exact ⟨⟨rfl, honly.2⟩, hrest, hregs⟩

/-- A sample that makes region `R'` of region `r`, and takes one free value (log 33). -/
theorem sampleDelivered_completes (hl : Live r s) {n : Fin 17} {R R' : Region} (hR : R = s.region r)
    (h' : (if n.val < 16 then deliverSample (s.ctx r) n v R else deliverDiag (s.ctx r) v R) = R') {P : State → Prop}
    (hP : ∀ t, t.region r = R' → (∀ {but rs}, Leaves but rs R R' → RegionBut but rs r { s with free := s.free + 1 } t) → P t) :
    Completes (.sampleDelivered r n v) s P := by
  subst hR
  have hregion : (s.onRegion r (fun x R => if n.val < 16 then deliverSample x n v R else deliverDiag x v R)).region r = R' := by
    rw [State.region_onRegion]
    exact h'
  refine ⟨_, congrArg (fun t : State => Host.Outcome.next (t.took 1)) (regionEvent_live hl _), hP _ hregion fun h => ?_⟩
  exact Leaves.onRegion_took (h' ▸ h)

theorem sample_delivered (hl : Live r s) {n : Fin 17} {R : Region} (hR : R = s.region r) (hn : n.val < 16) {c : Conv}
    {l : List Conv} {st : Ticks} {m : Nat} {z : Nat × Option Nat} (hconv : R.conv n = c :: l) (hst : c.stamp = some st)
    (hover : c.edge + 16 ≤ (s.ctx r).aclkNext) (hm : m = c.edge + 17)
    (hprobe : c.probe ≠ none → R.bit Reg.AD_CFG.base 0 = false)
    (hw : w = (if c.free then Config.freeSample s.free
      else (v + R.corr c.slice + (match c.probe with | some p => (p * 98304 + 50) / 100 | none => 0) + 32) / 64))
    (hcode : code = clipCode w) (hz : z = bandJudged n code R) :
    Completes (.sampleDelivered r n v) s (fun t => SampleTook n w code m c.groups st l z R (t.region r)
      ∧ RegionBut Region.noSample (regAt Reg.AD_CH_CLIP n 0 :: regAt Reg.LP_BAND_STAT n 0 :: regAt Reg.LP_BAND_XCNT n 0 :: accsRegs n)
        r { s with free := s.free + 1 } t) := by
  subst hcode hm
  have htook := sampleTaken_took hn hz.symm w (c.edge + 17) c.groups st l
  refine sampleDelivered_completes hl hR ((if_pos hn).trans (deliverSample_eq (x := s.ctx r) hconv hst hover hprobe hw)) fun t ht hbut => ?_
  rw [ht]
  exact ⟨htook, hbut htook.leaves⟩

theorem diag_delivered (hl : Live r s) {R : Region} (hR : R = s.region r) {m : Nat} {st : Ticks} (hm : m = (s.ctx r).aclkNext)
    (hst : st = (s.ctx r).gtAclk (m - 13)) (hvref : R.bit Reg.AD_CFG.base 0 = false)
    (hw : w = (if sampleFree 16 (5 * (m - 13) / 2) st R then Config.freeSample s.free
      else (v + R.corr (16 + R.field Reg.AD_PROBE.base 20 20) + (probeCode R * 98304 + 50) / 100 + 32) / 64))
    (hcode : code = clipCode w) :
    Completes (.sampleDelivered r 16 v) s (fun t => RegionBut Region.noSample (accRegs 64) r { s with free := s.free + 1 } t
      ∧ if diagReady m R then Accumulated 64 code 0 st R (t.region r) ∧ (t.region r).ev = R.ev ∧ (t.region r).lp = R.lp
          ∧ (t.region r).adc.diagEdge = some m
        else RegionRegs [] r { s with free := s.free + 1 } t) := by
  subst hcode
  cases hready : diagReady m R with
  | true =>
    obtain ⟨hleaves, htook⟩ := diagSample_took (clipCode w) 0 st m (R := R) rfl
    refine sampleDelivered_completes (n := 16) hl hR
      ((if_neg (by decide)).trans (deliverDiag_of_ready (x := s.ctx r) hm hst hvref hready hw)) fun t ht hbut => ?_
    rw [if_pos rfl, ht]
    exact ⟨hbut hleaves, htook⟩
  | false =>
    refine sampleDelivered_completes (n := 16) hl hR
      ((if_neg (by decide)).trans (deliverDiag_of_not_ready (x := s.ctx r) (hm ▸ hready))) fun t ht hbut => ?_
    exact ⟨hbut (Leaves.refl ..), hbut (Leaves.refl ..)⟩

/-- Settles O22: what a write of a sample group's registers judges, what a timed start and its aperture do, and what a
sample that is delivered changes, each by the law of its own operation. -/
theorem sampling : Obligations.Sampling := by
  refine ⟨fun r g R s hl hR => ⟨fun j v R1 h1 => ?arm, fun hdue => ?notDue,
    fun m hdue => ⟨timedStart_refused hl hR hdue, timedStart_accepted hl hR hdue⟩, fun x m st R' => sgAperture_spec⟩,
    fun r v w code R s hl hR => ⟨fun n c l st m z hn hconv hst hover hm hprobe hw hcode hz => ?sample, fun n hn hnone => ?notOver,
      fun m st ready hm hst hvref hready hw hcode => ?diag⟩⟩
  case arm =>
    subst hR
    obtain ⟨hleaves, hspec⟩ := sampleGroupWrite_spec (s.ctx r) g j v h1 rfl
    refine ⟨_, exec_sampleGroupArm hl g j v, Leaves.onRegion hleaves, ?_⟩
    rw [State.region_onRegion]
    exact hspec
  case notDue =>
    subst hR
    refine ⟨_, exec_timedStart hl g, Leaves.onRegion ?_⟩
    rw [sgTimedStart_of_not_due hdue]
    exact Leaves.refl ..
  case sample =>
    obtain ⟨t, hexec, htook, hbut⟩ := sample_delivered hl hR hn hconv hst hover hm hprobe hw hcode hz
    exact ⟨t, hexec, hbut, htook.conv, htook.clip, htook.stat, htook.count, htook.exits, htook.accumulated, htook.sched,
      htook.trackers, htook.otherTrackers, htook.otherSums⟩
  case notOver =>
    exact sampleDelivered_completes hl hR ((if_pos hn).trans (deliverSample_of_not_over hnone)) fun t _ hbut => hbut (Leaves.refl ..)
  case diag =>
    subst hready
    exact diag_delivered hl hR hm hst hvref hw hcode

end Sys2Proof.Machine
end
